-- ==== Sys2Proof/Word.lean ====
section
/-!
DEFINITION. The word types of the Druolo (spec/00_scope.md R3, R4) and their plainest arithmetic.
-/

namespace Sys2Proof

/-- One byte. -/
abbrev Byte := BitVec 8
/-- A lane of a vector register, FMT, GSTAT (R70). -/
abbrev W32 := BitVec 32
/-- A scalar register (R70). -/
abbrev W64 := BitVec 64
/-- A virtual (code) address (R125). -/
abbrev Addr48 := BitVec 48

/-- Bits `lo` to `lo + n - 1` of a number: FIELD[hi:lo] of R4. -/
def bitsOf (x lo n : Nat) : Nat := x / 2 ^ lo % 2 ^ n

/-- Bit `k` of a number. -/
def bitOf (x k : Nat) : Bool := x / 2 ^ k % 2 == 1

/-- A number's value as a two's-complement word of `n` bits (R13: arithmetic is exact). -/
def signedOf (n x : Nat) : Int := if x % 2 ^ n < 2 ^ (n - 1) then (x % 2 ^ n : Nat) else (x % 2 ^ n : Nat) - (2 ^ n : Nat)

/-- An integer reduced to an `n`-bit word. -/
def wrapOf (n : Nat) (x : Int) : Nat := (x % (2 ^ n : Nat)).toNat

end Sys2Proof
end

