-- ==== Sys2Proof/Syntax.lean ====
section
/-!
DEFINITION. The instructions of the opcode map (spec/09_instruction_encoding_and_assembly.md R210) and the events of
the table of steps (spec/95_what_each_step_holds.md), one constructor for each row of spec/opcode_table.json.
Register numbers, MOD subfields and immediates are held as the instruction chapters name them.
-/

namespace Sys2Proof

/-- The fields every instruction word has (R198): post-issue delay D, end of run E, predicate PRED and PN. -/
structure Head where
  d : Nat
  e : Bool
  pred : Nat
  pn : Bool
deriving DecidableEq, Repr

/-- The second source of a scalar instruction: register, IMM32 or IMM64 (R228). -/
inductive Src where
  | reg (n : Nat)
  | imm32 (x : W32)
  | imm64 (x : W64)
deriving DecidableEq, Repr

/-- The second source of a vector instruction: register or IMM32 (R255). -/
inductive VSrc where
  | reg (n : Nat)
  | imm (x : W32)
deriving DecidableEq, Repr

/-- A code address: scalar, displacement or absolute address (R236). -/
inductive Target where
  | reg (sa : Nat)
  | rel (x : W32)
  | abs (a : Addr48)
deriving DecidableEq, Repr

/-- Scalar R, I32 and I64 forms (R228). -/
structure S2 where
  dst : Nat
  sa : Nat
  b : Src
deriving DecidableEq, Repr

/-- Scalar U form (R228). -/
structure S1 where
  dst : Nat
  sa : Nat
deriving DecidableEq, Repr

/-- Scalar S form (R228). -/
structure S3 where
  dst : Nat
  sa : Nat
  sb : Nat
  sc : Nat
deriving DecidableEq, Repr

/-- MOVI's and IMOVI's immediate (R233, R259). -/
inductive MovImm where
  | imm16 (x : BitVec 16)
  | imm32 (x : W32)
  | imm64 (x : W64)
deriving DecidableEq, Repr

/-- Vector integer operands with the packing PK (0 .w, 1 .h2, 2 .b4) and the unsigned flag U (R256). -/
structure V2 where
  pk : Nat
  u : Bool
  dst : Nat
  sa : Nat
  b : VSrc
deriving DecidableEq, Repr

/-- One vector source with its packing (R257). -/
structure V1 where
  pk : Nat
  dst : Nat
  sa : Nat
deriving DecidableEq, Repr

/-- Three vector sources with the packing (R257, IMAD). -/
structure V3 where
  pk : Nat
  dst : Nat
  sa : Nat
  sb : Nat
  sc : Nat
deriving DecidableEq, Repr

/-- IMAXB's decision register (R258): mask with the element, or scalar with the segment. -/
inductive Decision where
  | mask (m el : Nat)
  | scalar (s seg : Nat)
deriving DecidableEq, Repr

/-- Mask operands of MAND, MOR and MXOR with the negation NB (R257). -/
structure M2 where
  nb : Bool
  dst : Nat
  sa : Nat
  sb : Nat
deriving DecidableEq, Repr

/-- A source that is a vector or another register kind (IMOV's scalar, VOTE's mask). -/
inductive MixSrc where
  | vec (n : Nat)
  | other (n : Nat)
deriving DecidableEq, Repr

/-- Float operands with the rounding RM and .sat (R260). -/
structure F2 where
  rm : Nat
  sat : Bool
  dst : Nat
  sa : Nat
  b : VSrc
deriving DecidableEq, Repr

/-- Three float sources (FMA, FDOT2, FMA2). -/
structure F3 where
  rm : Nat
  sat : Bool
  dst : Nat
  sa : Nat
  sb : Nat
  sc : Nat
deriving DecidableEq, Repr

/-- One float source with rounding (SFU). -/
structure F1 where
  rm : Nat
  sat : Bool
  dst : Nat
  sa : Nat
deriving DecidableEq, Repr

/-- A conversion: format or integer type code `f` and element `j` (R265, R266). -/
structure Cvt where
  rm : Nat
  sat : Bool
  f : Nat
  j : Nat
  dst : Nat
  sa : Nat
deriving DecidableEq, Repr

/-- The address of a load, store or atomic (R278, R280). -/
structure MAddr where
  sz : Nat
  sh : Nat
  vs : Bool
  nov : Bool
  sa : Nat
  sb : Nat
  imm : Option W32
deriving DecidableEq, Repr

/-- An atomic: scope, NR, destination and data registers (R277). -/
structure Atom where
  a : MAddr
  scope : Nat
  nr : Bool
  dst : Nat
  sc : Nat
deriving DecidableEq, Repr

/-- A counter operation: scope, counter address, target or value (R277). -/
structure Cnt where
  scope : Nat
  sa : Nat
  b : Src
deriving DecidableEq, Repr

/-- DREC's record operation, length and operands (R296). -/
structure Drec where
  rop : Nat
  rlen : Nat
  sa : Nat
  sb : Nat
deriving DecidableEq, Repr

/-- The extension of an engine word: counter scalar, CSEL, start offset (R301). -/
structure Eng where
  cnt : Nat
  csel : Nat
  ofs : Nat
deriving DecidableEq, Repr

/-- MMA's operands (R311). -/
structure Mma where
  tile : Nat
  sa : Nat
  sb : Nat
  nm1 : Nat
  k0 : Nat
  z : Bool
  ofs : Nat
deriving DecidableEq, Repr

/-- ACCRD's and ACCWR's operands (R314). -/
structure Acc where
  tile : Nat
  row0 : Nat
  nrm1 : Nat
  rm : Nat
  sat : Bool
  fmt : Nat
  dk : Bool
  reg : Nat
  ofs : Nat
deriving DecidableEq, Repr

/-- TFILL's operands (R318). -/
structure Tfill where
  slot : Nat
  sa : Nat
  f : Nat
  ss : Nat
  nrm1 : Nat
  row0 : Nat
  ofs : Nat
deriving DecidableEq, Repr

/-- CPY's, CPYR's and CPYK's operands (R320, R323, R324). `x` is G2 or ROWS, `y` is the CRC scalar or PAD. -/
structure Copy where
  dst : Nat
  sa : Nat
  sb : Nat
  sk : Nat
  dk : Nat
  slot : Nat
  f : Nat
  ss : Nat
  cmp : Bool
  box : Nat
  x : Nat
  y : Nat
  esz : Nat
  eng : Eng
deriving DecidableEq, Repr

/-- ESP's operands (R326). -/
structure Esp where
  dst : Nat
  sa : Nat
  sb : Nat
  sk : Nat
  dk : Nat
  esz : Nat
  slot : Nat
  spl : Nat
  lw : Nat
  g : Nat
  eng : Eng
deriving DecidableEq, Repr

/-- LSEND's, LMCAST's and LRED's operands (R328); `sb` and `rop` are LRED's. -/
structure Send where
  port : Nat
  slot : Nat
  flow : Nat
  sa : Nat
  sb : Nat
  rop : Nat
  ofs : Nat
deriving DecidableEq, Repr

/-- LPUT's and LGET's operands (R330, R331). -/
structure Hall where
  lk : Bool
  ac : Nat
  aq : Bool
  sa : Nat
  sb : Nat
  lens : Nat
  cnt : Nat
  csel : Nat
deriving DecidableEq, Repr

/-- A loop record's content beside its OP (R174); `rsvd` says that a reserved field is non-zero. -/
structure LoopRec where
  len : Nat
  daddr : Nat
  tenant : Nat
  writer : Nat
  otag : Nat
  words : List W64
  rsvd : Bool
deriving DecidableEq, Repr

/-- A cell's header fields and payload (R182). -/
structure LinkCell where
  kind : Nat
  dest : Nat
  dcore : Nat
  spkg : Nat
  sslot : Nat
  flow : Nat
  rop : Nat
  payload : List Byte
deriving DecidableEq, Repr

/-- A hall frame's headers and payload (R192 to R195): `pod` and `pkg` name the other end; `up`, `spine` and `flow` are the path, in bytes 0,
1 and 3 of the forwarding header. -/
structure HallFrame where
  op : Nat
  plane : Nat
  pod : Nat
  pkg : Nat
  tag : Nat
  inc : Nat
  owner : Nat
  offset : Nat
  acode : Nat
  len : Nat
  payload : List Byte
  up : Nat := 0
  spine : Nat := 0
  flow : Nat := 0
deriving DecidableEq, Repr

/-- One row of spec/opcode_table.json each. -/
inductive Instr where
  -- class 0, scalar (R230)
  | add (h : Head) (o : S2)
  | sub (h : Head) (o : S2)
  | mul (h : Head) (o : S2)
  | mulh (h : Head) (o : S2)
  | mulhu (h : Head) (o : S2)
  | mad (h : Head) (o : S3)
  | and (h : Head) (o : S2)
  | or (h : Head) (o : S2)
  | xor (h : Head) (o : S2)
  | andn (h : Head) (o : S2)
  | shl (h : Head) (o : S2)
  | shr (h : Head) (o : S2)
  | sra (h : Head) (o : S2)
  | rol (h : Head) (o : S2)
  | min (h : Head) (o : S2)
  | max (h : Head) (o : S2)
  | minu (h : Head) (o : S2)
  | maxu (h : Head) (o : S2)
  | cmp (h : Head) (cc : Nat) (o : S2)
  | sel (h : Head) (cn : Nat) (neg : Bool) (o : S2)
  | mov (h : Head) (o : S1)
  | movi (h : Head) (dst : Nat) (x : MovImm)
  | clz (h : Head) (o : S1)
  | ctz (h : Head) (o : S1)
  | popc (h : Head) (o : S1)
  | brev (h : Head) (o : S1)
  | bfx (h : Head) (pos wm1 : Nat) (o : S1)
  | bfxu (h : Head) (pos wm1 : Nat) (o : S1)
  | bfi (h : Head) (pos wm1 : Nat) (o : S2)
  | lea (h : Head) (sh : Nat) (o : S2)
  | divu (h : Head) (o : S2)
  | remu (h : Head) (o : S2)
  -- class 1, vector integer and masks (R257)
  | iadd (h : Head) (o : V2)
  | isub (h : Head) (o : V2)
  | imul (h : Head) (o : V2)
  | imulh (h : Head) (o : V2)
  | imad (h : Head) (o : V3)
  | iabs (h : Head) (o : V1)
  | iabsd (h : Head) (o : V2)
  | imin (h : Head) (o : V2)
  | imax (h : Head) (o : V2)
  | iminu (h : Head) (o : V2)
  | imaxu (h : Head) (o : V2)
  | imaxb (h : Head) (dec : Decision) (o : V2)
  | iadds (h : Head) (o : V2)
  | isubs (h : Head) (o : V2)
  | iand (h : Head) (o : V2)
  | ior (h : Head) (o : V2)
  | ixor (h : Head) (o : V2)
  | inot (h : Head) (o : V1)
  | ishl (h : Head) (o : V2)
  | ishr (h : Head) (o : V2)
  | isra (h : Head) (o : V2)
  | icmp (h : Head) (cc el : Nat) (o : V2)
  | isel (h : Head) (sm : Nat) (sn : Bool) (o : V2)
  | imov (h : Head) (dst : Nat) (x : MixSrc)
  | imovi (h : Head) (dst : Nat) (x : MovImm)
  | ipopc (h : Head) (o : V1)
  | iclz (h : Head) (o : V1)
  | ibrev (h : Head) (o : V1)
  | ibfx (h : Head) (u : Bool) (pos wm1 : Nat) (o : V1)
  | ibfi (h : Head) (pos wm1 : Nat) (o : V2)
  | mand (h : Head) (o : M2)
  | mor (h : Head) (o : M2)
  | mxor (h : Head) (o : M2)
  | mpop (h : Head) (dst sa : Nat)
  -- class 2, float and quantisation (R261)
  | fadd (h : Head) (o : F2)
  | fsub (h : Head) (o : F2)
  | fmul (h : Head) (o : F2)
  | fma (h : Head) (o : F3)
  | fmin (h : Head) (o : F2)
  | fmax (h : Head) (o : F2)
  | fcmp (h : Head) (cc : Nat) (o : F2)
  | fabs (h : Head) (neg : Bool) (dst sa : Nat)
  | frnd (h : Head) (o : F1)
  | fcvt (h : Head) (o : Cvt)
  | fcvtToF32 (h : Head) (o : Cvt)
  | fcvti (h : Head) (o : Cvt)
  | icvtf (h : Head) (o : Cvt)
  | fclass (h : Head) (dst sa : Nat)
  | fscale (h : Head) (o : F2)
  | fdot2 (h : Head) (fp16 : Bool) (o : F3)
  | fadd2 (h : Head) (o : F2)
  | fmul2 (h : Head) (o : F2)
  | fma2 (h : Head) (o : F3)
  | qamax (h : Head) (sub8 : Bool) (dst sa : Nat)
  | qscale (h : Head) (dst sa sb : Nat)
  | qpack (h : Head) (part : Nat) (eot : Bool) (o : F2)
  | qunpack (h : Head) (qf part : Nat) (o : F2)
  -- class 3, cross-lane and special functions (R271, R275)
  | shfl (h : Head) (dst sa sb : Nat)
  | shflImm (h : Head) (dst sa : Nat) (imm : W32)
  | shflx (h : Head) (dst sa : Nat) (b : VSrc)
  | pushl (h : Head) (dst sa sb : Nat)
  | bcast (h : Head) (dst sa : Nat) (b : VSrc)
  | getln (h : Head) (dst sa : Nat) (b : VSrc)
  | setln (h : Head) (dst sa : Nat) (b : VSrc)
  | red (h : Head) (opk rm dst sa : Nat)
  | scan (h : Head) (opk rm : Nat) (exc : Bool) (dst sa : Nat)
  | vote (h : Head) (pk seg dst : Nat) (x : MixSrc)
  | frcp (h : Head) (o : F1)
  | frsq (h : Head) (o : F1)
  | fsqrt (h : Head) (o : F1)
  | fexp2 (h : Head) (o : F1)
  | flog2 (h : Head) (o : F1)
  | fsin (h : Head) (o : F1)
  | fcos (h : Head) (o : F1)
  | ftanh (h : Head) (o : F1)
  | fdiv (h : Head) (o : F2)
  -- class 4, memory and synchronisation (R277)
  | ldp (h : Head) (dst : Nat) (sx : Bool) (a : MAddr)
  | stp (h : Head) (dst : Nat) (a : MAddr)
  | ldg (h : Head) (dst : Nat) (sx : Bool) (a : MAddr)
  | stg (h : Head) (dst : Nat) (a : MAddr)
  | aadd (h : Head) (o : Atom)
  | aand (h : Head) (o : Atom)
  | aor (h : Head) (o : Atom)
  | axor (h : Head) (o : Atom)
  | amin (h : Head) (o : Atom)
  | amax (h : Head) (o : Atom)
  | aminu (h : Head) (o : Atom)
  | amaxu (h : Head) (o : Atom)
  | aexch (h : Head) (o : Atom)
  | acas (h : Head) (o : Atom)
  | afadd (h : Head) (o : Atom)
  | ainc (h : Head) (o : Atom)
  | fenceAcq (h : Head) (scope : Nat)
  | fenceRel (h : Head) (scope : Nat)
  | fenceAr (h : Head) (scope : Nat)
  | waitc (h : Head) (o : Cnt)
  | cntadd (h : Head) (o : Cnt)
  | yield (h : Head) (o : Cnt)
  | dld (h : Head) (dst sa : Nat) (imm : Option W32)
  | drec (h : Head) (o : Drec)
  | drecWait (h : Head) (dst : Nat) (o : Drec)
  | dwait (h : Head) (b : Src)
  -- class 5, control and time (R235)
  | bra (h : Head) (t : Target)
  | brc (h : Head) (cn : Nat) (neg : Bool) (t : Target)
  | brd (h : Head) (m : Nat) (neg : Bool) (tgt rcv : W32)
  | join (h : Head)
  | call (h : Head) (dst : Nat) (t : Target)
  | ret (h : Head) (sa : Nat)
  | loop (h : Head) (dst : Nat) (t : Target)
  | exit (h : Head)
  | nop (h : Head) (len : Nat)
  | bar (h : Head) (n : Nat)
  | trig (h : Head)
  | setfmt (h : Head) (fsel : Nat) (x : VSrc)
  | setfmtStatus (h : Head) (x : VSrc)
  | getfmt (h : Head) (dst : Nat)
  | tbase (h : Head) (sa : Nat) (imm : Option W32)
  | twait (h : Head) (o : Nat)
  | talign (h : Head) (dst sa sb : Nat)
  | trap (h : Head) (code : Nat)
  | brk (h : Head) (code : Nat)
  | tvec (h : Head) (x : VSrc)
  -- class 6, engine commands (R301)
  | mma (h : Head) (o : Mma)
  | mmas (h : Head) (o : Mma)
  | tclaim (h : Head) (dst mask : Nat)
  | trel (h : Head) (mask : Nat)
  | tfill (h : Head) (o : Tfill)
  | accz (h : Head) (tile ofs : Nat)
  | accrd (h : Head) (o : Acc)
  | accwr (h : Head) (o : Acc)
  | cpy (h : Head) (o : Copy)
  | cpyr (h : Head) (o : Copy)
  | cpyk (h : Head) (o : Copy)
  | cbatch (h : Head) (dst : Nat)
  | cwait (h : Head) (sa : Nat)
  | esp (h : Head) (o : Esp)
  | lsend (h : Head) (o : Send)
  | lrecv (h : Head) (spkg flow sa ofs : Nat)
  | lput (h : Head) (o : Hall)
  | lputAtomic (h : Head) (o : Hall)
  | lget (h : Head) (o : Hall)
  | lred (h : Head) (o : Send)
  | lmcast (h : Head) (o : Send)
  | lap (h : Head) (dst sa sb : Nat) (eng : Eng)
  | lapRel (h : Head) (dst sa : Nat)
  | lapq (h : Head) (dst sa : Nat)
  -- class 7, system (R382)
  | sysr (h : Head) (dst srn : Nat)
  | sysw (h : Head) (sa srn : Nat)
  | tret (h : Head)
  | trim (h : Head) (x : VSrc)
  | ctxsv (h : Head) (force : Bool) (dst sa sb sc : Nat)
  | ctxld (h : Head) (dst sa sb : Nat)
  | leaseGrant (h : Head) (dst sa : Nat)
  | leaseRelease (h : Head) (dst sa : Nat)
  | leaseRevoke (h : Head) (dst sa : Nat)
  | pown (h : Head) (dst sa sb : Nat)
  | wdog (h : Head) (sa sb : Nat)
  | haltWait (h : Head)
  | haltPkg (h : Head)
  -- events of the machine, `tr` a train; those without operands come last
  | lateEventClear (tr : Nat)
  | registerLanding (tr : Nat)
  | poolWriteLanding (tr : Nat)
  | sfuEntryStart (tr : Nat)
  | columnEntryStart (tr : Nat)
  | matrixKstep (tr : Nat)
  | engineOutputLanding (tr : Nat)
  | lredReceive (tr : Nat)
  | checkFaultTaken (slot : Nat)
  | alignmentRelease (tr : Nat)
  | quantumBoundary (tr : Nat)
  | errorConsumption (tr : Nat) (page : Option Nat)
  | pauseOverrun (tr : Nat)
  | governorCheck (power : Nat) (draws : List (Nat × Nat))
  | teamPlacement (tr : Nat)
  | yieldRestore (tr : Nat)
  | teamEnd (tr team : Nat)
  | watchdogExpiry (tr team : Nat)
  | drainDeadline (req : Nat)
  | contextRestore (req : Nat)
  | fansEnd (ix : Nat)
  | fansResume (ix : Nat)
  | loopTokenArrival (pos : Nat) (tokenBc : W64) (malformed : Bool)
  | recordWrite (r : LoopRec) (crcOk : Bool)
  | recordAdd (r : LoopRec) (crcOk : Bool)
  | recordSetz (r : LoopRec) (crcOk : Bool)
  | recordCas (r : LoopRec) (crcOk : Bool)
  | recordLaunch (r : LoopRec) (crcOk : Bool)
  | recordTmap (r : LoopRec) (crcOk : Bool)
  | recordRecov (r : LoopRec) (crcOk : Bool)
  | recordNote (op : Nat) (r : LoopRec) (crcOk : Bool)
  | rejoinRequest (member : Nat)
  | dialTransfer (m : W64) (dial : List (Nat × W64))
  | cellSend (port : Nat)
  | cellArrival (c : LinkCell) (crcOk : Bool)
  | leafManagementWrite (v : W64)
  | leafAckArrival (err : Bool)
  | hallFrameSend (plane : Nat)
  | hallReplyArrival (f : HallFrame) (err : Bool)
  | hallRequestArrival (f : HallFrame)
  | hallRetryTimeout (plane tag : Nat)
  | queueMap (slot qcb prio rclass owner : Nat)
  | queueRemap (slot : Nat)
  | queueLaunchEntry (slot : Nat)
  | queueWaitEntry (slot : Nat)
  | queueAddEntry (slot : Nat)
  | queueNopEntry (slot : Nat)
  | launchStart (launch : Nat)
  | launchEnd (tr : Nat)
  | leaseGrantComplete (desc : Nat)
  | revokeUnpin (desc : Nat)
  | hpolWrite (owner : Nat) (v : W64)
  | clusterRemovalComplete (owner : Nat)
  | lapDrain (lap : Nat)
  | scrubPass (corrected : List Nat) (poisoned : List Nat)
  | companionRead (owner addr len : Nat)
  | companionWrite (owner addr : Nat) (data : List Byte)
  | training (fail : Option (Nat × Nat))
  | sraddrRead (srn : Nat)
  | sraddrWrite (srn : Nat)
  | registerWrite (offset : Nat) (v : W64)
  | fuseProgramComplete (failed : Bool)
  | remoteLeaseRequest (page count owner kind cls : Nat) (holder : W64)
  | vcAdvance
  | tokenLoss
  | tokenRegenerate
  | bucketRefill
  | powerOn
  | powerRemove
  | bootctlGo
  | bootctlNonce
  | joinTokenTimeout
  | joinFailTimeout
  | fusecProgram
  | thermalPause
  | thermalResume
  | thermalTrip
  | powerTrip
deriving DecidableEq, Repr

end Sys2Proof
end

