-- ==== Sys2Proof/WellFormed.lean ====
section
/-!
DEFINITION. Which terms of `Instr` stand for an instruction word: every field within its encoding and legal by the checks
of R208 order 2 that read nothing but the word (R71, R72, R75, R201, R202, R301 and the instruction tables). The checks
that read the group's allotment, the run count or registers are made at issue. An event of the table has no word, and
every event is well formed.
-/

namespace Sys2Proof

def headOk (h : Head) : Bool := h.d < 16 && h.pred < 8

/-- A scalar source: s0–s127 or a special other than %lane (R75, R201, R254). -/
def scalarOk (n : Nat) : Bool := n < 128 || (129 ≤ n && n ≤ 156)

/-- A scalar destination, or a field that names s0–s127 only (R75, R301). -/
def sdstOk (n : Nat) : Bool := n < 128

def vecOk (n : Nat) : Bool := n < 256

/-- The even register of a pair (R71). -/
def pairOk (n : Nat) : Bool := n < 256 && n % 2 == 0

/-- A mask or condition source (R201). -/
def maskOk (n : Nat) : Bool := n < 8

/-- A mask or condition destination: not m0 or c0 (R72). -/
def mdstOk (n : Nat) : Bool := 0 < n && n < 8

/-- The first of `k` consecutive scalars (R82, R301). -/
def runOk (k n : Nat) : Bool := n + k ≤ 128

def Src.ok : Src → Bool
  | .reg n => scalarOk n
  | .imm32 _ => true
  | .imm64 _ => true

def VSrc.ok : VSrc → Bool
  | .reg n => vecOk n
  | .imm _ => true

def S2.ok (o : S2) : Bool := sdstOk o.dst && scalarOk o.sa && o.b.ok
def S1.ok (o : S1) : Bool := sdstOk o.dst && scalarOk o.sa
def S3.ok (o : S3) : Bool := sdstOk o.dst && scalarOk o.sa && scalarOk o.sb && scalarOk o.sc

def Target.ok : Target → Bool
  | .reg n => scalarOk n
  | .rel _ => true
  | .abs _ => true

/-- A target that must not be a scalar (BRC, LOOP, R235). -/
def Target.longOk : Target → Bool
  | .reg _ => false
  | .rel _ => true
  | .abs _ => true

/-- IMOVI has no 64-bit immediate (R259). -/
def MovImm.shortOk : MovImm → Bool
  | .imm16 _ => true
  | .imm32 _ => true
  | .imm64 _ => false

/-- Elements per lane of a packing (R251). -/
def elems (pk : Nat) : Nat := 2 ^ pk

def pkOk (pk : Nat) : Bool := pk < 3

def V2.core (o : V2) : Bool := pkOk o.pk && vecOk o.dst && vecOk o.sa && o.b.ok
/-- No U field. -/
def V2.ok (o : V2) : Bool := o.core && !o.u
/-- No packing. -/
def V2.ok32 (o : V2) : Bool := o.ok && o.pk == 0
def V1.ok (o : V1) : Bool := pkOk o.pk && vecOk o.dst && vecOk o.sa
def V1.ok32 (o : V1) : Bool := o.ok && o.pk == 0
def V3.ok (o : V3) : Bool := pkOk o.pk && vecOk o.dst && vecOk o.sa && vecOk o.sb && vecOk o.sc
def M2.ok (o : M2) : Bool := mdstOk o.dst && maskOk o.sa && maskOk o.sb

def Decision.ok (pk : Nat) : Decision → Bool
  | .mask m el => mdstOk m && el < elems pk
  | .scalar s seg => sdstOk s && seg < 4

/-- A comparison code of R231. -/
def ccOk (cc : Nat) : Bool := cc < 10

/-- A rounding field of R260. -/
def rmOk (rm : Nat) : Bool := rm < 6

def F2.ok (o : F2) : Bool := rmOk o.rm && vecOk o.dst && vecOk o.sa && o.b.ok
/-- No rounding field and no SAT. -/
def F2.exactOk (o : F2) : Bool := o.ok && o.rm == 0 && !o.sat
def VSrc.isReg : VSrc → Bool
  | .reg _ => true
  | .imm _ => false
def VSrc.pairOk : VSrc → Bool
  | .reg n => Sys2Proof.pairOk n
  | .imm _ => false
def F2.regOk (o : F2) : Bool := o.ok && o.b.isReg
def F2.pairOk (o : F2) : Bool := rmOk o.rm && Sys2Proof.pairOk o.dst && Sys2Proof.pairOk o.sa && o.b.pairOk
def F3.ok (o : F3) : Bool := rmOk o.rm && vecOk o.dst && vecOk o.sa && vecOk o.sb && vecOk o.sc
def F3.pairOk (o : F3) : Bool :=
  rmOk o.rm && Sys2Proof.pairOk o.dst && Sys2Proof.pairOk o.sa && Sys2Proof.pairOk o.sb && Sys2Proof.pairOk o.sc
def F1.ok (o : F1) : Bool := rmOk o.rm && vecOk o.dst && vecOk o.sa

/-- Positions per lane of a format code 0–6 in registers (R265). -/
def fmtPositions (f : Nat) : Nat := if f < 2 then 2 else if f < 6 then 4 else 8

/-- Elements per lane of an integer type 0–7 (R266). -/
def intPositions (it : Nat) : Nat := 2 ^ (it / 2)

def Cvt.core (o : Cvt) : Bool := rmOk o.rm && vecOk o.dst && vecOk o.sa
def Cvt.fmtOk (o : Cvt) : Bool := o.core && o.f < 7 && o.j < fmtPositions o.f
def Cvt.intOk (o : Cvt) : Bool := o.core && !o.sat && o.f < 8 && o.j < intPositions o.f

/-- The operation and rounding of RED and SCAN (R273). -/
def redOk (opk rm : Nat) : Bool := opk < 11 && rmOk rm && (rm == 0 || opk == 8)

/-- An address whose vector offset is present or left out (R278, R280). -/
def MAddr.ok (a : MAddr) : Bool :=
  a.sz < 4 && a.sh < 4 && scalarOk a.sa && (if a.nov then a.sb == 0 else vecOk a.sb)

/-- The data register of a load or store: a pair for .q (R278). -/
def dataOk (sz r : Nat) : Bool := if sz == 3 then pairOk r else vecOk r

def sxOk (sx : Bool) (sz : Nat) : Bool := !sx || sz == 1 || sz == 2

def Atom.core (o : Atom) : Bool :=
  o.a.ok && o.a.imm.isNone && (o.a.sz == 0 || o.a.sz == 3) && o.scope < 8 &&
  (if o.nr then o.dst == 0 else dataOk o.a.sz o.dst)
def Atom.ok (o : Atom) : Bool := o.core && dataOk o.a.sz o.sc
/-- ACAS: SC is even for .w and a multiple of 4 for .q (R278). -/
def Atom.casOk (o : Atom) : Bool := o.core && o.sc < 256 && o.sc % (if o.a.sz == 3 then 4 else 2) == 0
/-- AFADD has no .q form (R286). -/
def Atom.faddOk (o : Atom) : Bool := o.ok && o.a.sz == 0
/-- AINC has no data register (R277). -/
def Atom.incOk (o : Atom) : Bool := o.core && o.sc == 0

def Cnt.ok (o : Cnt) : Bool := o.scope < 8 && scalarOk o.sa && o.b.ok

/-- DREC by the word alone; R296 and R298 narrow ROP and RLEN by the processor at issue. -/
def Drec.ok (o : Drec) : Bool :=
  o.rop < 8 && o.rlen < 7 && scalarOk o.sa && o.sb < 128 && o.sb + o.rlen ≤ 128

/-- The offset of an immediate or untimed command (R59). -/
def untimed : Nat := 2 ^ 24 - 1

def ofsOk (x : Nat) : Bool := x < 2 ^ 24
def timedOk (x : Nat) : Bool := x < untimed

/-- A counter scalar is named only with a CSEL (R301). -/
def Eng.ok (g : Eng) : Bool := g.cnt < 128 && g.csel < 8 && ofsOk g.ofs && (g.csel != 0 || g.cnt == 0)
def Eng.nowOk (g : Eng) : Bool := g.ok && g.ofs == untimed

def Mma.ok (o : Mma) : Bool := o.tile < 16 && o.sa < 16 && o.sb < 16 && o.nm1 < 128 && o.k0 < 128 && ofsOk o.ofs

def Acc.core (o : Acc) : Bool := o.tile < 256 && o.row0 < 128 && o.nrm1 < 128 && ofsOk o.ofs

/-- ACCRD's output formats and what they forbid (R315). -/
def Acc.rdOk (o : Acc) : Bool :=
  o.core && rmOk o.rm && [0, 1, 2, 3, 7, 31].contains o.fmt &&
  (o.fmt < 4 || (o.rm == 0 && !o.sat)) && (if o.dk then vecOk o.reg else scalarOk o.reg)

/-- ACCWR's input formats (R316). -/
def Acc.wrOk (o : Acc) : Bool :=
  o.core && o.rm == 0 && !o.sat && !o.dk && [0, 1, 31].contains o.fmt && scalarOk o.reg

def Tfill.ok (o : Tfill) : Bool :=
  o.slot < 16 && runOk 3 o.sa && o.f < 32 && o.ss < 16 && o.nrm1 < 128 && o.row0 < 128 && ofsOk o.ofs

/-- What CPY, CPYR and CPYK share (R301, R320). -/
def Copy.core (o : Copy) : Bool :=
  sdstOk o.dst && runOk 3 o.sa && scalarOk o.sb && o.sk < 4 && o.dk < 4 && runOk 3 o.box && o.x < 128 && o.eng.ok &&
  o.slot < 16 && o.f < 32 && o.ss < 16 && (o.dk == 2 || (o.slot == 0 && o.f == 0 && o.ss == 0))

/-- The (SK, DK) pairs of R320. -/
def Copy.pairOk (o : Copy) : Bool := [(0, 1), (1, 0), (1, 2), (1, 1)].contains (o.sk, o.dk)

def Copy.cpyOk (o : Copy) : Bool := o.core && o.pairOk && !o.cmp && o.y == 0 && o.esz == 0
def Copy.cpykOk (o : Copy) : Bool := o.core && o.pairOk && o.esz == 0 && (if o.cmp then runOk 2 o.y else o.y < 128)
def Copy.cpyrOk (o : Copy) : Bool :=
  o.core && [(1, 0), (1, 2)].contains (o.sk, o.dk) && !o.cmp && o.y < 128 && o.esz < 3

/-- The pairs of R326; `g` is a 7-bit scalar field. -/
def Esp.ok (o : Esp) : Bool :=
  sdstOk o.dst && scalarOk o.sa && runOk 2 o.sb && o.esz < 4 && o.slot < 16 && o.spl < 128 && runOk 3 o.lw && o.g < 128 &&
  o.eng.ok && [(0, 0), (0, 1), (1, 0), (0, 2), (1, 2), (2, 0)].contains (o.sk, o.dk) &&
  (o.sk == 2 || o.dk == 2 || o.slot == 0)

def Send.core (o : Send) : Bool := o.port < 16 && o.slot < 64 && o.flow < 256 && scalarOk o.sa && timedOk o.ofs
def Send.ok (o : Send) : Bool := o.core && o.sb == 0 && o.rop == 0
def Send.redOk (o : Send) : Bool := o.core && scalarOk o.sb && o.rop < 16

def Hall.core (o : Hall) : Bool :=
  scalarOk o.sa && runOk 2 o.sb && o.lens < 128 && o.cnt < 128 && 0 < o.csel && o.csel < 8
/-- No atomic: AC and AQ are unused (R198). -/
def Hall.plainOk (o : Hall) : Bool := o.core && o.ac == 0 && !o.aq
/-- A hall atomic: AC 1–12, and AFADD has no 64-bit form (R331). -/
def Hall.atomicOk (o : Hall) : Bool := o.core && 0 < o.ac && o.ac < 13 && !(o.ac == 11 && o.aq)

/-- The system registers of R384. -/
def srnOk (n : Nat) : Bool :=
  n ≤ 0x15 || (0x18 ≤ n && n ≤ 0x27) || n == 0x30 || n == 0x31 || (0x100 ≤ n && n ≤ 0x4FF) ||
  (0x1000 ≤ n && n ≤ 0x2FFF) || (0x3000 ≤ n && n ≤ 0x37FF)

/-- A bit field of width WM1 + 1 at POS lies within `w` bits (R232, R259). -/
def fieldOk (w pos wm1 : Nat) : Bool := pos + wm1 < w

/-- The well-formed instructions. -/
def Instr.wf : Instr → Bool
  | .add h o | .sub h o | .mul h o | .mulh h o | .mulhu h o | .and h o | .or h o | .xor h o | .andn h o | .shl h o
  | .shr h o | .sra h o | .rol h o | .min h o | .max h o | .minu h o | .maxu h o | .divu h o | .remu h o => headOk h && o.ok
  | .mad h o => headOk h && o.ok
  | .cmp h cc o => headOk h && ccOk cc && mdstOk o.dst && scalarOk o.sa && o.b.ok
  | .sel h cn _ o => headOk h && maskOk cn && o.ok
  | .mov h o | .clz h o | .ctz h o | .popc h o | .brev h o => headOk h && o.ok
  | .movi h dst _ => headOk h && sdstOk dst
  | .bfx h pos wm1 o | .bfxu h pos wm1 o => headOk h && fieldOk 64 pos wm1 && o.ok
  | .bfi h pos wm1 o => headOk h && fieldOk 64 pos wm1 && o.ok
  | .lea h sh o => headOk h && sh < 8 && o.ok
  | .iadd h o | .isub h o | .imul h o | .imin h o | .imax h o | .iminu h o | .imaxu h o | .ishl h o | .ishr h o
  | .isra h o => headOk h && o.ok
  | .imulh h o | .iabsd h o | .iadds h o | .isubs h o => headOk h && o.core
  | .imad h o => headOk h && o.ok
  | .iabs h o | .ipopc h o | .iclz h o | .ibrev h o => headOk h && o.ok
  | .imaxb h dec o => headOk h && o.core && dec.ok o.pk
  | .iand h o | .ior h o | .ixor h o => headOk h && o.ok32
  | .inot h o => headOk h && o.ok32
  | .icmp h cc el o => headOk h && ccOk cc && pkOk o.pk && el < elems o.pk && !o.u && mdstOk o.dst && vecOk o.sa && o.b.ok
  | .isel h sm _ o => headOk h && maskOk sm && o.ok32
  | .imov h dst x => headOk h && vecOk dst && (match x with | .vec n => vecOk n | .other n => n == 128 || scalarOk n)
  | .imovi h dst x => headOk h && vecOk dst && x.shortOk
  | .ibfx h _ pos wm1 o => headOk h && fieldOk 32 pos wm1 && o.ok32
  | .ibfi h pos wm1 o => headOk h && fieldOk 32 pos wm1 && o.ok32
  | .mand h o | .mor h o | .mxor h o => headOk h && o.ok
  | .mpop h dst sa => headOk h && sdstOk dst && maskOk sa
  | .fadd h o | .fsub h o | .fmul h o | .fscale h o => headOk h && o.ok
  | .fma h o => headOk h && o.ok
  | .fmin h o | .fmax h o => headOk h && o.exactOk
  | .fcmp h cc o => headOk h && cc < 8 && mdstOk o.dst && vecOk o.sa && o.b.ok && o.rm == 0 && !o.sat
  | .fabs h _ dst sa => headOk h && vecOk dst && vecOk sa
  | .frnd h o => headOk h && o.ok && !o.sat
  | .fcvt h o => headOk h && o.fmtOk
  | .fcvtToF32 h o => headOk h && o.fmtOk && o.rm == 0 && !o.sat
  | .fcvti h o | .icvtf h o => headOk h && o.intOk
  | .fclass h dst sa => headOk h && vecOk dst && vecOk sa
  | .fdot2 h _ o => headOk h && o.ok
  | .fadd2 h o | .fmul2 h o => headOk h && o.pairOk
  | .fma2 h o => headOk h && o.pairOk
  | .qamax h _ dst sa => headOk h && vecOk dst && vecOk sa
  | .qscale h dst sa sb => headOk h && vecOk dst && vecOk sa && vecOk sb
  | .qpack h part _ o => headOk h && part < 16 && o.regOk
  | .qunpack h qf part o => headOk h && qf < 32 && part < 16 && o.regOk
  | .shfl h dst sa sb | .pushl h dst sa sb => headOk h && vecOk dst && vecOk sa && vecOk sb
  | .shflImm h dst sa _ => headOk h && vecOk dst && vecOk sa
  | .shflx h dst sa b => headOk h && vecOk dst && vecOk sa && b.ok
  | .bcast h dst sa b => headOk h && vecOk dst && vecOk sa && (match b with | .reg n => scalarOk n | .imm _ => true)
  | .getln h dst sa b => headOk h && sdstOk dst && vecOk sa && (match b with | .reg n => scalarOk n | .imm _ => true)
  | .setln h dst sa b => headOk h && vecOk dst && scalarOk sa && (match b with | .reg n => scalarOk n | .imm _ => true)
  | .red h opk rm dst sa => headOk h && redOk opk rm && sdstOk dst && vecOk sa
  | .scan h opk rm _ dst sa => headOk h && redOk opk rm && vecOk dst && vecOk sa
  | .vote h pk seg dst x =>
    headOk h && sdstOk dst && (match x with | .vec n => pkOk pk && seg < 4 && vecOk n | .other m => pk == 0 && seg == 0 && maskOk m)
  | .frcp h o | .frsq h o | .fsqrt h o | .fexp2 h o | .flog2 h o | .fsin h o | .fcos h o | .ftanh h o => headOk h && o.ok
  | .fdiv h o => headOk h && o.regOk
  | .ldp h dst sx a | .ldg h dst sx a => headOk h && a.ok && dataOk a.sz dst && sxOk sx a.sz
  | .stp h dst a | .stg h dst a => headOk h && a.ok && dataOk a.sz dst
  | .aadd h o | .aand h o | .aor h o | .axor h o | .amin h o | .amax h o | .aminu h o | .amaxu h o
  | .aexch h o => headOk h && o.ok
  | .acas h o => headOk h && o.casOk
  | .afadd h o => headOk h && o.faddOk
  | .ainc h o => headOk h && o.incOk
  | .fenceAcq h scope | .fenceRel h scope | .fenceAr h scope => headOk h && scope < 8
  | .waitc h o | .cntadd h o | .yield h o => headOk h && o.ok
  | .dld h dst sa _ => headOk h && sdstOk dst && scalarOk sa
  | .drec h o => headOk h && o.ok
  | .drecWait h dst o => headOk h && sdstOk dst && o.ok
  | .dwait h b => headOk h && b.ok
  | .bra h t => headOk h && t.ok
  | .brc h cn _ t => headOk h && maskOk cn && t.longOk
  | .brd h m _ _ _ => headOk h && maskOk m
  | .join h | .exit h | .trig h | .tret h | .haltWait h | .haltPkg h => headOk h
  | .call h dst t => headOk h && sdstOk dst && t.ok
  | .ret h sa => headOk h && scalarOk sa
  | .loop h dst t => headOk h && sdstOk dst && t.longOk
  | .nop h len => headOk h && len < 3
  | .bar h n => headOk h && n < 16
  | .setfmt h fsel x => headOk h && fsel < 256 && (match x with | .reg n => scalarOk n | .imm _ => true)
  | .setfmtStatus h x | .tvec h x | .trim h x => headOk h && (match x with | .reg n => scalarOk n | .imm _ => true)
  | .getfmt h dst => headOk h && sdstOk dst
  | .tbase h sa _ => headOk h && scalarOk sa
  | .twait h o => headOk h && ofsOk o
  | .talign h dst sa sb => headOk h && sdstOk dst && scalarOk sa && scalarOk sb
  | .trap h code | .brk h code => headOk h && code < 2 ^ 16
  | .mma h o | .mmas h o => headOk h && o.ok
  | .tclaim h dst mask => headOk h && sdstOk dst && mask < 2 ^ 16
  | .trel h mask => headOk h && mask < 2 ^ 16
  | .tfill h o => headOk h && o.ok
  | .accz h tile ofs => headOk h && tile < 256 && ofsOk ofs
  | .accrd h o => headOk h && o.rdOk
  | .accwr h o => headOk h && o.wrOk
  | .cpy h o => headOk h && o.cpyOk
  | .cpyr h o => headOk h && o.cpyrOk
  | .cpyk h o => headOk h && o.cpykOk
  | .cbatch h dst => headOk h && sdstOk dst
  | .cwait h sa => headOk h && scalarOk sa
  | .esp h o => headOk h && o.ok
  | .lsend h o | .lmcast h o => headOk h && o.ok
  | .lred h o => headOk h && o.redOk
  | .lrecv h spkg flow sa ofs => headOk h && spkg < 64 && flow < 256 && scalarOk sa && timedOk ofs
  | .lput h o | .lget h o => headOk h && o.plainOk
  | .lputAtomic h o => headOk h && o.atomicOk
  | .lap h dst sa sb eng => headOk h && sdstOk dst && scalarOk sa && scalarOk sb && eng.nowOk
  | .lapRel h dst sa | .lapq h dst sa => headOk h && sdstOk dst && scalarOk sa
  | .sysr h dst srn => headOk h && sdstOk dst && srnOk srn
  | .sysw h sa srn => headOk h && scalarOk sa && srnOk srn
  | .ctxsv h _ dst sa sb sc => headOk h && sdstOk dst && scalarOk sa && scalarOk sb && scalarOk sc
  | .ctxld h dst sa sb | .pown h dst sa sb => headOk h && sdstOk dst && scalarOk sa && scalarOk sb
  | .leaseGrant h dst sa | .leaseRelease h dst sa | .leaseRevoke h dst sa => headOk h && sdstOk dst && scalarOk sa
  | .wdog h sa sb => headOk h && scalarOk sa && scalarOk sb
  | .vcAdvance | .lateEventClear _ | .registerLanding _ | .poolWriteLanding _ | .sfuEntryStart _ | .columnEntryStart _
  | .matrixKstep _ | .engineOutputLanding _ | .lredReceive _ | .checkFaultTaken _ | .alignmentRelease _
  | .quantumBoundary _ | .pauseOverrun _ | .governorCheck _ _ | .teamPlacement _ | .yieldRestore _ | .teamEnd _ _
  | .watchdogExpiry _ _ | .drainDeadline _ | .contextRestore _ | .fansEnd _ | .fansResume _ | .loopTokenArrival _ _ _
  | .recordWrite _ _ | .recordAdd _ _ | .recordSetz _ _ | .recordCas _ _ | .recordLaunch _ _ | .recordTmap _ _
  | .recordRecov _ _ | .recordNote _ _ _ | .tokenLoss | .tokenRegenerate | .rejoinRequest _ | .dialTransfer _ _
  | .cellSend _ | .cellArrival _ _ | .leafManagementWrite _ | .leafAckArrival _ | .hallFrameSend _
  | .hallReplyArrival _ _ | .hallRequestArrival _ | .hallRetryTimeout _ _ | .queueMap _ _ _ _ _ | .queueRemap _
  | .queueLaunchEntry _ | .queueWaitEntry _ | .queueAddEntry _ | .queueNopEntry _ | .bucketRefill | .launchStart _
  | .launchEnd _ | .leaseGrantComplete _ | .revokeUnpin _ | .hpolWrite _ _ | .clusterRemovalComplete _ | .lapDrain _
  | .scrubPass _ _ | .errorConsumption _ _ | .companionRead _ _ _ | .companionWrite _ _ _ | .powerOn | .powerRemove
  | .bootctlGo | .bootctlNonce | .training _ | .joinTokenTimeout | .joinFailTimeout | .sraddrRead _ | .sraddrWrite _
  | .fusecProgram | .thermalPause | .thermalResume | .thermalTrip | .powerTrip | .registerWrite _ _
  | .fuseProgramComplete _ | .remoteLeaseRequest _ _ _ _ _ _ => true

end Sys2Proof
end

