-- ==== Sys2Proof/Decode.lean ====
section
/-!
DEFINITION. The decoder, total on any bytes, and after it the encoder, both from R198 to R202, R210 and the encoding tables of
the instruction chapters. Every rejection raises an illegal-instruction fault (R205, R208 check 2, R210).
-/

namespace Sys2Proof

/-- Why a word is no instruction. -/
inductive Reject where
  /-- Fewer bytes than the word's length. -/
  | tooShort
  /-- LEN = 11 (R205). -/
  | lenReserved
  /-- OP not listed for CLS (R210). -/
  | opNotListed
  /-- LEN not accepted by the instruction. -/
  | lenNotAccepted
  /-- A MOD or OPS value that the description does not list (R202, R301). -/
  | modifier
  /-- An unused or reserved field that is not 0 (R198, R199). -/
  | reserved
  /-- A register field that is not legal (R201, R301). -/
  | register
deriving DecidableEq, Repr

/-- The fields of a word (R198). `ext` is bits [95:64] or [127:64] (R199). -/
structure Raw where
  len : Nat
  e : Bool
  d : Nat
  cls : Nat
  op : Nat
  pred : Nat
  pn : Bool
  dst : Nat
  sa : Nat
  sb : Nat
  mod : Nat
  ext : Nat
deriving DecidableEq, Repr

/-- Bytes of a word by LEN (R198). -/
def lenBytes (len : Nat) : Nat := if len = 0 then 8 else if len = 1 then 12 else 16

/-- R198's fields of a word. -/
def Raw.ofNat (w : Nat) : Raw :=
  let len := bitsOf w 0 2
  { len := len, e := bitOf w 2, d := bitsOf w 3 4, cls := bitsOf w 7 3, op := bitsOf w 10 8, pred := bitsOf w 18 3,
    pn := bitOf w 21, dst := bitsOf w 22 8, sa := bitsOf w 30 8, sb := bitsOf w 38 8, mod := bitsOf w 46 18,
    ext := bitsOf w 64 (8 * lenBytes len - 64) }

/-- The word of R198's fields. -/
def Raw.toNat (r : Raw) : Nat :=
  r.len + 2 ^ 2 * r.e.toNat + 2 ^ 3 * r.d + 2 ^ 7 * r.cls + 2 ^ 10 * r.op + 2 ^ 18 * r.pred + 2 ^ 21 * r.pn.toNat +
  2 ^ 22 * r.dst + 2 ^ 30 * r.sa + 2 ^ 38 * r.sb + 2 ^ 46 * r.mod + 2 ^ 64 * r.ext

def Raw.head (r : Raw) : Head := { d := r.d, e := r.e, pred := r.pred, pn := r.pn }

/-- Go on only if a check holds. -/
def need (c : Bool) (why : Reject) : Except Reject Unit := if c then .ok () else .error why

/-- The instruction if its length, MOD, unused fields and registers pass. -/
def accept (len mod unused regs : Bool) (i : Instr) : Except Reject Instr :=
  if !len then .error .lenNotAccepted
  else if !mod then .error .modifier
  else if !unused then .error .reserved
  else if !regs then .error .register
  else .ok i

/-! ### Shared pieces: MOD packings, extensions and operand forms -/

/-- The subfields of MOD as the tables place them; a word's MOD must equal the packing of its subfields. -/
def modRS (rm : Nat) (sat : Bool) : Nat := rm + 8 * sat.toNat
def modPKU (pk : Nat) (u : Bool) : Nat := pk + 4 * u.toNat
def modField (pos wm1 : Nat) : Nat := pos + 64 * wm1
def modField32 (u : Bool) (pos wm1 : Nat) : Nat := 4 * u.toNat + 8 * pos + 256 * wm1
def modCvt (o : Cvt) (dir : Bool) : Nat := modRS o.rm o.sat + 16 * o.f + 512 * dir.toNat + 1024 * o.j
def modPack (o : F2) (f part : Nat) (eot : Bool) : Nat := modRS o.rm o.sat + 16 * f + 1024 * part + 16384 * eot.toNat
def modRed (opk rm : Nat) (exc : Bool) : Nat := opk + 16 * rm + 128 * exc.toNat
def modMem (a : MAddr) (sx : Bool) : Nat := a.sz + 4 * a.sh + 16 * a.vs.toNat + 32 * a.nov.toNat + 64 * sx.toNat
def modAtom (o : Atom) : Nat := modMem o.a false + 128 * o.scope + 4096 * o.nr.toNat
def modFence (scope fk : Nat) : Nat := 128 * scope + 1024 * fk
def modDrec (o : Drec) (wt : Bool) : Nat := o.rop + 16 * o.rlen + 128 * wt.toNat
def modMma (o : Mma) : Nat := o.nm1 + 128 * o.k0 + 16384 * o.z.toNat
def modAcc (o : Acc) : Nat := o.row0 + 128 * o.nrm1 + 16384 * o.rm + 131072 * o.sat.toNat
def modTfill (o : Tfill) : Nat := o.f + 32 * o.ss + 512 * o.nrm1
def modCopy (o : Copy) : Nat := o.sk + 4 * o.dk + 16 * o.slot + 256 * o.f + 8192 * o.ss + 131072 * o.cmp.toNat
def modEsp (o : Esp) : Nat := o.sk + 4 * o.dk + 16 * o.esz + 64 * o.slot
def modSend (o : Send) : Nat := o.port + 16 * o.slot + 1024 * o.flow
def modHall (o : Hall) : Nat := o.lk.toNat + 2 * o.ac + 32 * o.aq.toNat

def modDec (pk : Nat) (u : Bool) : Decision → Nat
  | .mask m el => modPKU pk u + 16 * m + 4096 * el
  | .scalar s seg => modPKU pk u + 8 + 16 * s + 4096 * seg

/-- The class 6 extension: OPS, CNT, CSEL and OFS (R199, R301). -/
def extEng (ops : Nat) (g : Eng) : Nat := g.ofs + 2 ^ 24 * g.csel + 2 ^ 28 * g.cnt + 2 ^ 35 * ops

def Raw.eng (r : Raw) : Eng := { cnt := bitsOf r.ext 28 7, csel := bitsOf r.ext 24 3, ofs := bitsOf r.ext 0 24 }
def Raw.ops (r : Raw) (lo n : Nat) : Nat := bitsOf r.ext (35 + lo) n
/-- The extension of a command without a counter. -/
def plainEng (ofs : Nat) : Eng := { cnt := 0, csel := 0, ofs := ofs }

/-- The second source: the register field, or the immediate of a longer word (R228). -/
def Raw.src (r : Raw) (field : Nat) : Src :=
  if r.len = 0 then .reg field else if r.len = 1 then .imm32 (BitVec.ofNat 32 r.ext) else .imm64 (BitVec.ofNat 64 r.ext)
def Raw.vsrc (r : Raw) (field : Nat) : VSrc := if r.len = 0 then .reg field else .imm (BitVec.ofNat 32 r.ext)
def Raw.target (r : Raw) : Target :=
  if r.len = 0 then .reg r.sa else if r.len = 1 then .rel (BitVec.ofNat 32 r.ext) else .abs (BitVec.ofNat 48 r.ext)
/-- The register field is 0 where the word carries an immediate. -/
def Raw.immClear (r : Raw) (field : Nat) : Bool := r.len = 0 || field = 0

def Raw.s2 (r : Raw) : S2 := { dst := r.dst, sa := r.sa, b := r.src r.sb }
def Raw.s1 (r : Raw) : S1 := { dst := r.dst, sa := r.sa }
def Raw.v2 (r : Raw) : V2 := { pk := bitsOf r.mod 0 2, u := bitOf r.mod 2, dst := r.dst, sa := r.sa, b := r.vsrc r.sb }
def Raw.v1 (r : Raw) : V1 := { pk := bitsOf r.mod 0 2, dst := r.dst, sa := r.sa }
def Raw.m2 (r : Raw) : M2 := { nb := bitOf r.mod 0, dst := r.dst, sa := r.sa, sb := r.sb }
def Raw.f2 (r : Raw) : F2 := { rm := bitsOf r.mod 0 3, sat := bitOf r.mod 3, dst := r.dst, sa := r.sa, b := r.vsrc r.sb }
def Raw.f3 (r : Raw) : F3 :=
  { rm := bitsOf r.mod 0 3, sat := bitOf r.mod 3, dst := r.dst, sa := r.sa, sb := r.sb, sc := r.ext }
def Raw.f1 (r : Raw) : F1 := { rm := bitsOf r.mod 0 3, sat := bitOf r.mod 3, dst := r.dst, sa := r.sa }
def Raw.cvt (r : Raw) : Cvt :=
  { rm := bitsOf r.mod 0 3, sat := bitOf r.mod 3, f := bitsOf r.mod 4 5, j := bitsOf r.mod 10 3, dst := r.dst, sa := r.sa }
def Raw.maddr (r : Raw) (imm : Bool) : MAddr :=
  { sz := bitsOf r.mod 0 2, sh := bitsOf r.mod 2 2, vs := bitOf r.mod 4, nov := bitOf r.mod 5, sa := r.sa, sb := r.sb,
    imm := if imm && r.len = 1 then some (BitVec.ofNat 32 r.ext) else none }
def Raw.atom (r : Raw) (sc : Bool) : Atom :=
  { a := r.maddr false, scope := bitsOf r.mod 7 3, nr := bitOf r.mod 12, dst := r.dst, sc := if sc then r.ext else 0 }
def Raw.cntop (r : Raw) : Cnt := { scope := bitsOf r.mod 7 3, sa := r.sa, b := r.src r.sb }
def Raw.drec (r : Raw) : Drec := { rop := bitsOf r.mod 0 4, rlen := bitsOf r.mod 4 3, sa := r.sa, sb := r.sb }

/-! ### The classes -/

/-- Scalar R, I32 and I64 forms with MOD 0 (R228). -/
def dS2 (r : Raw) (k : Head → S2 → Instr) : Except Reject Instr :=
  accept (r.len < 3) (r.mod = 0) (r.immClear r.sb) r.s2.ok (k r.head r.s2)
/-- Scalar U forms. -/
def dS1 (r : Raw) (mod : Nat) (k : Head → S1 → Instr) : Except Reject Instr :=
  accept (r.len = 0) (r.mod = mod) (r.sb = 0) r.s1.ok (k r.head r.s1)

/-- Class 0 (R228 to R234). -/
def decode0 (r : Raw) : Except Reject Instr :=
  match r.op with
  | 0x00 => dS2 r .add
  | 0x01 => dS2 r .sub
  | 0x02 => dS2 r .mul
  | 0x03 => dS2 r .mulh
  | 0x04 => dS2 r .mulhu
  | 0x05 =>
    let o : S3 := { dst := r.dst, sa := r.sa, sb := r.sb, sc := r.ext }
    accept (r.len = 1) (r.mod = 0) (r.ext < 256) o.ok (.mad r.head o)
  | 0x06 => dS2 r .and
  | 0x07 => dS2 r .or
  | 0x08 => dS2 r .xor
  | 0x09 => dS2 r .andn
  | 0x0A => dS2 r .shl
  | 0x0B => dS2 r .shr
  | 0x0C => dS2 r .sra
  | 0x0D => dS2 r .rol
  | 0x0E => dS2 r .min
  | 0x0F => dS2 r .max
  | 0x10 => dS2 r .minu
  | 0x11 => dS2 r .maxu
  | 0x12 =>
    accept (r.len < 3) (r.mod < 16 && ccOk r.mod) (r.immClear r.sb) (mdstOk r.dst && scalarOk r.sa && r.s2.b.ok)
      (.cmp r.head r.mod r.s2)
  | 0x13 =>
    accept (r.len < 3) (r.mod < 16) (r.immClear r.sb) r.s2.ok (.sel r.head (bitsOf r.mod 0 3) (bitOf r.mod 3) r.s2)
  | 0x14 => dS1 r 0 .mov
  | 0x15 =>
    if r.len = 0 then
      accept true (r.mod < 2 ^ 16) (r.sa = 0 && r.sb = 0) (sdstOk r.dst) (.movi r.head r.dst (.imm16 (BitVec.ofNat 16 r.mod)))
    else if r.len = 1 then
      accept true (r.mod = 0) (r.sa = 0 && r.sb = 0) (sdstOk r.dst) (.movi r.head r.dst (.imm32 (BitVec.ofNat 32 r.ext)))
    else
      accept (r.len = 2) (r.mod = 0) (r.sa = 0 && r.sb = 0) (sdstOk r.dst) (.movi r.head r.dst (.imm64 (BitVec.ofNat 64 r.ext)))
  | 0x16 => dS1 r 0 .clz
  | 0x17 => dS1 r 0 .ctz
  | 0x18 => dS1 r 0 .popc
  | 0x19 => dS1 r 0 .brev
  | 0x1A =>
    let p := bitsOf r.mod 0 6
    let w := bitsOf r.mod 6 6
    accept (r.len = 0) (r.mod = modField p w && fieldOk 64 p w) (r.sb = 0) r.s1.ok (.bfx r.head p w r.s1)
  | 0x1B =>
    let p := bitsOf r.mod 0 6
    let w := bitsOf r.mod 6 6
    accept (r.len = 0) (r.mod = modField p w && fieldOk 64 p w) (r.sb = 0) r.s1.ok (.bfxu r.head p w r.s1)
  | 0x1C =>
    let p := bitsOf r.mod 0 6
    let w := bitsOf r.mod 6 6
    accept (r.len < 3) (r.mod = modField p w && fieldOk 64 p w) (r.immClear r.sb) r.s2.ok (.bfi r.head p w r.s2)
  | 0x1D => accept (r.len < 3) (r.mod < 8) (r.immClear r.sb) r.s2.ok (.lea r.head r.mod r.s2)
  | 0x1E => dS2 r .divu
  | 0x1F => dS2 r .remu
  | _ => .error .opNotListed

/-- Vector integer with PK only. -/
def dV2 (r : Raw) (k : Head → V2 → Instr) : Except Reject Instr :=
  accept (r.len < 2) (r.mod < 3) (r.immClear r.sb) (vecOk r.dst && vecOk r.sa && r.v2.b.ok) (k r.head r.v2)
/-- Vector integer with PK and U. -/
def dV2u (r : Raw) (k : Head → V2 → Instr) : Except Reject Instr :=
  accept (r.len < 2) (r.mod = modPKU r.v2.pk r.v2.u && pkOk r.v2.pk) (r.immClear r.sb) r.v2.core (k r.head r.v2)
/-- Vector integer with MOD as given and no packing. -/
def dV2m (r : Raw) (mod : Bool) (i : Instr) : Except Reject Instr :=
  accept (r.len < 2) mod (r.immClear r.sb) (vecOk r.dst && vecOk r.sa && r.v2.b.ok) i
def dV1 (r : Raw) (k : Head → V1 → Instr) : Except Reject Instr :=
  accept (r.len = 0) (r.mod < 3) (r.sb = 0) r.v1.ok (k r.head r.v1)
def dM2 (r : Raw) (k : Head → M2 → Instr) : Except Reject Instr :=
  accept (r.len = 0) (r.mod < 2) true r.m2.ok (k r.head r.m2)
/-- A vector integer operand without packing and U. -/
def Raw.v2w (r : Raw) : V2 := { pk := 0, u := false, dst := r.dst, sa := r.sa, b := r.vsrc r.sb }
def Raw.v1w (r : Raw) : V1 := { pk := 0, dst := r.dst, sa := r.sa }

/-- Class 1 (R256 to R259). -/
def decode1 (r : Raw) : Except Reject Instr :=
  match r.op with
  | 0x00 => dV2 r .iadd
  | 0x01 => dV2 r .isub
  | 0x02 => dV2 r .imul
  | 0x03 => dV2u r .imulh
  | 0x04 =>
    let o : V3 := { pk := bitsOf r.mod 0 2, dst := r.dst, sa := r.sa, sb := r.sb, sc := r.ext }
    accept (r.len = 1) (r.mod < 3) (r.ext < 256) o.ok (.imad r.head o)
  | 0x05 => dV1 r .iabs
  | 0x06 => dV2u r .iabsd
  | 0x07 => dV2 r .imin
  | 0x08 => dV2 r .imax
  | 0x09 => dV2 r .iminu
  | 0x0A => dV2 r .imaxu
  | 0x0B =>
    let dr := bitsOf r.mod 4 8
    let seg := bitsOf r.mod 12 2
    let dec : Decision := if bitOf r.mod 3 then .scalar dr seg else .mask dr seg
    accept (r.len < 2) (r.mod = modDec r.v2.pk r.v2.u dec && pkOk r.v2.pk) (r.immClear r.sb) (r.v2.core && dec.ok r.v2.pk)
      (.imaxb r.head dec r.v2)
  | 0x0C => dV2u r .iadds
  | 0x0D => dV2u r .isubs
  | 0x0E => dV2m r (r.mod = 0) (.iand r.head r.v2w)
  | 0x0F => dV2m r (r.mod = 0) (.ior r.head r.v2w)
  | 0x10 => dV2m r (r.mod = 0) (.ixor r.head r.v2w)
  | 0x11 => accept (r.len = 0) (r.mod = 0) (r.sb = 0) r.v1w.ok (.inot r.head r.v1w)
  | 0x12 => dV2 r .ishl
  | 0x13 => dV2 r .ishr
  | 0x14 => dV2 r .isra
  | 0x15 =>
    let pk := bitsOf r.mod 0 2
    let cc := bitsOf r.mod 2 4
    let el := bitsOf r.mod 6 2
    let o : V2 := { pk := pk, u := false, dst := r.dst, sa := r.sa, b := r.vsrc r.sb }
    accept (r.len < 2) (r.mod = pk + 4 * cc + 64 * el && pkOk pk && ccOk cc && el < elems pk) (r.immClear r.sb)
      (mdstOk r.dst && vecOk r.sa && o.b.ok) (.icmp r.head cc el o)
  | 0x16 =>
    let sm := bitsOf r.mod 2 3
    let sn := bitOf r.mod 5
    dV2m r (r.mod = 4 * sm + 32 * sn.toNat) (.isel r.head sm sn r.v2w)
  | 0x17 =>
    if bitOf r.mod 2 then
      accept (r.len = 0) (r.mod = 4) (r.sb = 0) (vecOk r.dst && (r.sa == 128 || scalarOk r.sa)) (.imov r.head r.dst (.other r.sa))
    else accept (r.len = 0) (r.mod = 0) (r.sb = 0) (vecOk r.dst && vecOk r.sa) (.imov r.head r.dst (.vec r.sa))
  | 0x18 =>
    if r.len = 0 then
      accept true (r.mod < 2 ^ 16) (r.sa = 0 && r.sb = 0) (vecOk r.dst) (.imovi r.head r.dst (.imm16 (BitVec.ofNat 16 r.mod)))
    else
      accept (r.len = 1) (r.mod = 0) (r.sa = 0 && r.sb = 0) (vecOk r.dst) (.imovi r.head r.dst (.imm32 (BitVec.ofNat 32 r.ext)))
  | 0x19 => dV1 r .ipopc
  | 0x1A => dV1 r .iclz
  | 0x1B => dV1 r .ibrev
  | 0x1C =>
    let u := bitOf r.mod 2
    let p := bitsOf r.mod 3 5
    let w := bitsOf r.mod 8 5
    accept (r.len = 0) (r.mod = modField32 u p w && fieldOk 32 p w) (r.sb = 0) r.v1w.ok (.ibfx r.head u p w r.v1w)
  | 0x1D =>
    let p := bitsOf r.mod 3 5
    let w := bitsOf r.mod 8 5
    dV2m r (r.mod = modField32 false p w && fieldOk 32 p w) (.ibfi r.head p w r.v2w)
  | 0x1E => dM2 r .mand
  | 0x1F => dM2 r .mor
  | 0x20 => dM2 r .mxor
  | 0x21 => accept (r.len = 0) (r.mod = 0) (r.sb = 0) (sdstOk r.dst && maskOk r.sa) (.mpop r.head r.dst r.sa)
  | _ => .error .opNotListed

/-- Float with RM and SAT. -/
def dF2 (r : Raw) (k : Head → F2 → Instr) : Except Reject Instr :=
  accept (r.len < 2) (r.mod < 16 && rmOk r.f2.rm) (r.immClear r.sb) r.f2.ok (k r.head r.f2)
def dF3 (r : Raw) (regs : Bool) (k : Head → F3 → Instr) : Except Reject Instr :=
  accept (r.len = 1) (r.mod < 16 && rmOk r.f3.rm) (r.ext < 256) regs (k r.head r.f3)
def dCvt (r : Raw) (dir : Bool) (mod : Bool) (i : Instr) : Except Reject Instr :=
  accept (r.len = 0) (r.mod = modCvt r.cvt dir && mod) (r.sb = 0) r.cvt.core i

/-- Class 2 (R260 to R270). -/
def decode2 (r : Raw) : Except Reject Instr :=
  match r.op with
  | 0x00 => dF2 r .fadd
  | 0x01 => dF2 r .fsub
  | 0x02 => dF2 r .fmul
  | 0x03 => dF3 r r.f3.ok .fma
  | 0x04 => accept (r.len < 2) (r.mod = 0) (r.immClear r.sb) r.f2.ok (.fmin r.head r.f2)
  | 0x05 => accept (r.len < 2) (r.mod = 0) (r.immClear r.sb) r.f2.ok (.fmax r.head r.f2)
  | 0x06 =>
    let cc := bitsOf r.mod 4 4
    let o : F2 := { rm := 0, sat := false, dst := r.dst, sa := r.sa, b := r.vsrc r.sb }
    accept (r.len < 2) (r.mod = 16 * cc && cc < 8) (r.immClear r.sb) (mdstOk r.dst && vecOk r.sa && o.b.ok) (.fcmp r.head cc o)
  | 0x07 => accept (r.len = 0) (r.mod = 0 || r.mod = 16) (r.sb = 0) (vecOk r.dst && vecOk r.sa) (.fabs r.head (bitOf r.mod 4) r.dst r.sa)
  | 0x08 => accept (r.len = 0) (r.mod < 6) (r.sb = 0) r.f1.ok (.frnd r.head r.f1)
  | 0x09 =>
    let fits := r.cvt.f < 7 && r.cvt.j < fmtPositions r.cvt.f
    if bitOf r.mod 9 then dCvt r true (fits && r.cvt.rm == 0 && !r.cvt.sat) (.fcvtToF32 r.head r.cvt)
    else dCvt r false (fits && rmOk r.cvt.rm) (.fcvt r.head r.cvt)
  | 0x0A => dCvt r false (!r.cvt.sat && r.cvt.f < 8 && r.cvt.j < intPositions r.cvt.f && rmOk r.cvt.rm) (.fcvti r.head r.cvt)
  | 0x0B => dCvt r false (!r.cvt.sat && r.cvt.f < 8 && r.cvt.j < intPositions r.cvt.f && rmOk r.cvt.rm) (.icvtf r.head r.cvt)
  | 0x0C => accept (r.len = 0) (r.mod = 0) (r.sb = 0) (vecOk r.dst && vecOk r.sa) (.fclass r.head r.dst r.sa)
  | 0x0D => dF2 r .fscale
  | 0x0E =>
    accept (r.len = 1) (r.mod < 32 && rmOk r.f3.rm) (r.ext < 256) r.f3.ok (.fdot2 r.head (bitOf r.mod 4) r.f3)
  | 0x0F => accept (r.len = 0) (r.mod < 16 && rmOk r.f2.rm) true r.f2.pairOk (.fadd2 r.head r.f2)
  | 0x10 => accept (r.len = 0) (r.mod < 16 && rmOk r.f2.rm) true r.f2.pairOk (.fmul2 r.head r.f2)
  | 0x11 => dF3 r r.f3.pairOk .fma2
  | 0x12 => accept (r.len = 0) (r.mod < 2) (r.sb = 0) (vecOk r.dst && vecOk r.sa) (.qamax r.head (bitOf r.mod 0) r.dst r.sa)
  | 0x13 => accept (r.len = 0) (r.mod = 0) true (vecOk r.dst && vecOk r.sa && vecOk r.sb) (.qscale r.head r.dst r.sa r.sb)
  | 0x14 =>
    let part := bitsOf r.mod 10 4
    let eot := bitOf r.mod 14
    accept (r.len = 0) (r.mod = modPack r.f2 0 part eot && rmOk r.f2.rm) true r.f2.ok (.qpack r.head part eot r.f2)
  | 0x15 =>
    let qf := bitsOf r.mod 4 5
    let part := bitsOf r.mod 10 4
    accept (r.len = 0) (r.mod = modPack r.f2 qf part false && rmOk r.f2.rm) true r.f2.ok (.qunpack r.head qf part r.f2)
  | _ => .error .opNotListed

/-- A lane index: a scalar or IMM32 (R271). -/
def lsrcOk : VSrc → Bool
  | .reg n => scalarOk n
  | .imm _ => true

def dSfu (r : Raw) (k : Head → F1 → Instr) : Except Reject Instr :=
  accept (r.len = 0) (r.mod < 16 && rmOk r.f1.rm) (r.sb = 0) r.f1.ok (k r.head r.f1)

/-- Class 3 (R271 to R275). -/
def decode3 (r : Raw) : Except Reject Instr :=
  match r.op with
  | 0x00 =>
    if r.len = 0 then accept true (r.mod = 0) true (vecOk r.dst && vecOk r.sa && vecOk r.sb) (.shfl r.head r.dst r.sa r.sb)
    else accept (r.len = 1) (r.mod = 0) (r.sb = 0) (vecOk r.dst && vecOk r.sa) (.shflImm r.head r.dst r.sa (BitVec.ofNat 32 r.ext))
  | 0x01 =>
    accept (r.len < 2) (r.mod = 0) (r.immClear r.sb) (vecOk r.dst && vecOk r.sa && (r.vsrc r.sb).ok)
      (.shflx r.head r.dst r.sa (r.vsrc r.sb))
  | 0x02 => accept (r.len = 0) (r.mod = 0) true (vecOk r.dst && vecOk r.sa && vecOk r.sb) (.pushl r.head r.dst r.sa r.sb)
  | 0x03 =>
    accept (r.len < 2) (r.mod = 0) (r.immClear r.sb) (vecOk r.dst && vecOk r.sa && lsrcOk (r.vsrc r.sb))
      (.bcast r.head r.dst r.sa (r.vsrc r.sb))
  | 0x04 =>
    accept (r.len < 2) (r.mod = 0) (r.immClear r.sb) (sdstOk r.dst && vecOk r.sa && lsrcOk (r.vsrc r.sb))
      (.getln r.head r.dst r.sa (r.vsrc r.sb))
  | 0x05 =>
    accept (r.len < 2) (r.mod = 0) (r.immClear r.sb) (vecOk r.dst && scalarOk r.sa && lsrcOk (r.vsrc r.sb))
      (.setln r.head r.dst r.sa (r.vsrc r.sb))
  | 0x06 =>
    let opk := bitsOf r.mod 0 4
    let rm := bitsOf r.mod 4 3
    accept (r.len = 0) (r.mod = modRed opk rm false && redOk opk rm) (r.sb = 0) (sdstOk r.dst && vecOk r.sa)
      (.red r.head opk rm r.dst r.sa)
  | 0x07 =>
    let opk := bitsOf r.mod 0 4
    let rm := bitsOf r.mod 4 3
    let exc := bitOf r.mod 7
    accept (r.len = 0) (r.mod = modRed opk rm exc && redOk opk rm) (r.sb = 0) (vecOk r.dst && vecOk r.sa)
      (.scan r.head opk rm exc r.dst r.sa)
  | 0x08 =>
    if bitOf r.mod 4 then
      accept (r.len = 0) (r.mod = 16) (r.sb = 0) (sdstOk r.dst && maskOk r.sa) (.vote r.head 0 0 r.dst (.other r.sa))
    else
      let pk := bitsOf r.mod 0 2
      let seg := bitsOf r.mod 2 2
      accept (r.len = 0) (r.mod = pk + 4 * seg && pkOk pk) (r.sb = 0) (sdstOk r.dst && vecOk r.sa) (.vote r.head pk seg r.dst (.vec r.sa))
  | 0x09 => dSfu r .frcp
  | 0x0A => dSfu r .frsq
  | 0x0B => dSfu r .fsqrt
  | 0x0C => dSfu r .fexp2
  | 0x0D => dSfu r .flog2
  | 0x0E => dSfu r .fsin
  | 0x0F => dSfu r .fcos
  | 0x10 => dSfu r .ftanh
  | 0x11 => accept (r.len = 0) (r.mod < 16 && rmOk r.f2.rm) true r.f2.ok (.fdiv r.head r.f2)
  | _ => .error .opNotListed

/-- A load or store (R277, R278). -/
def dMem (r : Raw) (sx : Bool) (regs : Bool) (i : Instr) : Except Reject Instr :=
  accept (r.len < 2) (r.mod = modMem (r.maddr true) sx && sxOk sx (bitsOf r.mod 0 2)) true ((r.maddr true).ok && regs) i
/-- An atomic with a data register (R277, R278). -/
def dAtom (r : Raw) (k : Head → Atom → Instr) : Except Reject Instr :=
  let o := r.atom true
  accept (r.len = 1) (r.mod = modAtom o && (o.a.sz == 0 || o.a.sz == 3)) (r.ext < 256) o.ok (k r.head o)
def dCnt (r : Raw) (k : Head → Cnt → Instr) : Except Reject Instr :=
  accept (r.len < 3) (r.mod = 128 * r.cntop.scope) (r.dst = 0 && r.immClear r.sb) r.cntop.ok (k r.head r.cntop)

/-- Class 4 (R277, R278). -/
def decode4 (r : Raw) : Except Reject Instr :=
  match r.op with
  | 0x00 =>
    let sx := bitOf r.mod 6
    dMem r sx (dataOk (bitsOf r.mod 0 2) r.dst) (.ldp r.head r.dst sx (r.maddr true))
  | 0x01 => dMem r false (dataOk (bitsOf r.mod 0 2) r.dst) (.stp r.head r.dst (r.maddr true))
  | 0x02 =>
    let sx := bitOf r.mod 6
    dMem r sx (dataOk (bitsOf r.mod 0 2) r.dst) (.ldg r.head r.dst sx (r.maddr true))
  | 0x03 => dMem r false (dataOk (bitsOf r.mod 0 2) r.dst) (.stg r.head r.dst (r.maddr true))
  | 0x04 => dAtom r .aadd
  | 0x05 => dAtom r .aand
  | 0x06 => dAtom r .aor
  | 0x07 => dAtom r .axor
  | 0x08 => dAtom r .amin
  | 0x09 => dAtom r .amax
  | 0x0A => dAtom r .aminu
  | 0x0B => dAtom r .amaxu
  | 0x0C => dAtom r .aexch
  | 0x0D =>
    let o := r.atom true
    accept (r.len = 1) (r.mod = modAtom o && (o.a.sz == 0 || o.a.sz == 3)) (r.ext < 256) o.casOk (.acas r.head o)
  | 0x0E =>
    let o := r.atom true
    accept (r.len = 1) (r.mod = modAtom o && o.a.sz == 0) (r.ext < 256) o.faddOk (.afadd r.head o)
  | 0x0F =>
    let o := r.atom false
    accept (r.len = 0) (r.mod = modAtom o && (o.a.sz == 0 || o.a.sz == 3)) true o.incOk (.ainc r.head o)
  | 0x10 =>
    let scope := bitsOf r.mod 7 3
    let fk := bitsOf r.mod 10 2
    let unused := r.dst = 0 && r.sa = 0 && r.sb = 0
    match fk with
    | 1 => accept (r.len = 0) (r.mod = modFence scope 1) unused true (.fenceAcq r.head scope)
    | 2 => accept (r.len = 0) (r.mod = modFence scope 2) unused true (.fenceRel r.head scope)
    | 3 => accept (r.len = 0) (r.mod = modFence scope 3) unused true (.fenceAr r.head scope)
    | _ => .error .modifier
  | 0x11 => dCnt r .waitc
  | 0x12 => dCnt r .cntadd
  | 0x13 => dCnt r .yield
  | 0x14 =>
    accept (r.len < 2) (r.mod = 0) (r.sb = 0) (sdstOk r.dst && scalarOk r.sa)
      (.dld r.head r.dst r.sa (if r.len = 1 then some (BitVec.ofNat 32 r.ext) else none))
  | 0x15 =>
    if bitOf r.mod 7 then
      accept (r.len = 0) (r.mod = modDrec r.drec true && r.drec.rop < 8 && r.drec.rlen < 7) true (sdstOk r.dst && r.drec.ok)
        (.drecWait r.head r.dst r.drec)
    else
      accept (r.len = 0) (r.mod = modDrec r.drec false && r.drec.rop < 8 && r.drec.rlen < 7) (r.dst = 0) r.drec.ok
        (.drec r.head r.drec)
  | 0x16 =>
    accept (r.len < 3) (r.mod = 0) (r.dst = 0 && r.sb = 0 && r.immClear r.sa) (r.src r.sa).ok (.dwait r.head (r.src r.sa))
  | _ => .error .opNotListed

/-- An instruction of class 5 or 7 that uses no register field. -/
def dBare (r : Raw) (mod : Bool) (i : Instr) : Except Reject Instr :=
  accept (r.len = 0) mod (r.dst = 0 && r.sa = 0 && r.sb = 0) true i

/-- Class 5 (R235). -/
def decode5 (r : Raw) : Except Reject Instr :=
  let absOk := r.len != 2 || r.ext < 2 ^ 48
  match r.op with
  | 0x00 => accept (r.len < 3) (r.mod = 0) (r.dst = 0 && r.sb = 0 && r.immClear r.sa && absOk) r.target.ok (.bra r.head r.target)
  | 0x01 =>
    accept (r.len = 1 || r.len = 2) (r.mod < 2) (r.dst = 0 && r.sb = 0 && absOk) (maskOk r.sa)
      (.brc r.head r.sa (bitOf r.mod 0) r.target)
  | 0x02 =>
    accept (r.len = 2) (r.mod < 2) (r.dst = 0 && r.sb = 0) (maskOk r.sa)
      (.brd r.head r.sa (bitOf r.mod 0) (BitVec.ofNat 32 (bitsOf r.ext 0 32)) (BitVec.ofNat 32 (bitsOf r.ext 32 32)))
  | 0x03 => dBare r (r.mod = 0) (.join r.head)
  | 0x04 =>
    accept (r.len < 3) (r.mod = 0) (r.sb = 0 && r.immClear r.sa && absOk) (sdstOk r.dst && r.target.ok)
      (.call r.head r.dst r.target)
  | 0x05 => accept (r.len = 0) (r.mod = 0) (r.dst = 0 && r.sb = 0) (scalarOk r.sa) (.ret r.head r.sa)
  | 0x06 =>
    accept (r.len = 1 || r.len = 2) (r.mod = 0) (r.sa = 0 && r.sb = 0 && absOk) (sdstOk r.dst) (.loop r.head r.dst r.target)
  | 0x07 => dBare r (r.mod = 0) (.exit r.head)
  | 0x08 =>
    accept (r.len < 3) (r.mod = 0) (r.dst = 0 && r.sa = 0 && r.sb = 0 && r.ext = 0) true (.nop r.head r.len)
  | 0x09 => dBare r (r.mod < 16) (.bar r.head r.mod)
  | 0x0A => dBare r (r.mod = 0) (.trig r.head)
  | 0x0B =>
    let fsel := bitsOf r.mod 1 8
    let x := r.vsrc r.sa
    if bitOf r.mod 0 then
      accept (r.len < 2) (r.mod = 1) (r.dst = 0 && r.sb = 0 && r.immClear r.sa) (lsrcOk x) (.setfmtStatus r.head x)
    else accept (r.len < 2) (r.mod = 2 * fsel) (r.dst = 0 && r.sb = 0 && r.immClear r.sa) (lsrcOk x) (.setfmt r.head fsel x)
  | 0x0C => accept (r.len = 0) (r.mod = 0) (r.sa = 0 && r.sb = 0) (sdstOk r.dst) (.getfmt r.head r.dst)
  | 0x0D =>
    accept (r.len < 2) (r.mod = 0) (r.dst = 0 && r.sb = 0) (scalarOk r.sa)
      (.tbase r.head r.sa (if r.len = 1 then some (BitVec.ofNat 32 r.ext) else none))
  | 0x0E =>
    accept (r.len = 1) (r.mod = 0) (r.dst = 0 && r.sa = 0 && r.sb = 0 && r.ext < 2 ^ 24) true (.twait r.head r.ext)
  | 0x0F =>
    accept (r.len = 0) (r.mod = 0) true (sdstOk r.dst && scalarOk r.sa && scalarOk r.sb) (.talign r.head r.dst r.sa r.sb)
  | 0x10 => dBare r (r.mod < 2 ^ 16) (.trap r.head r.mod)
  | 0x11 => dBare r (r.mod < 2 ^ 16) (.brk r.head r.mod)
  | 0x12 =>
    accept (r.len < 2) (r.mod = 0) (r.dst = 0 && r.sb = 0 && r.immClear r.sa) (lsrcOk (r.vsrc r.sa)) (.tvec r.head (r.vsrc r.sa))
  | _ => .error .opNotListed

/-- A class 6 word: 128 bits, its MOD and OPS exactly the named fields, CNT, CSEL and OFS as the command allows (R301). -/
def dEng (r : Raw) (mod ops : Nat) (g : Eng) (modOk unused regs : Bool) (i : Instr) : Except Reject Instr :=
  accept (r.len = 2) (r.mod = mod && r.ext = extEng ops g && modOk) unused regs i

/-- Class 6 (R301 to R332). -/
def decode6 (r : Raw) : Except Reject Instr :=
  let g := r.eng
  let h := r.head
  let mma : Mma := { tile := r.dst, sa := r.sa, sb := r.sb, nm1 := bitsOf r.mod 0 7, k0 := bitsOf r.mod 7 7, z := bitOf r.mod 14, ofs := g.ofs }
  let acc : Acc :=
    { tile := r.sb, row0 := bitsOf r.mod 0 7, nrm1 := bitsOf r.mod 7 7, rm := bitsOf r.mod 14 3, sat := bitOf r.mod 17,
      fmt := r.ops 0 5, dk := bitsOf r.ext 40 1 == 1, reg := if bitsOf r.ext 40 1 == 1 then r.dst else r.sa, ofs := g.ofs }
  let cpy : Copy :=
    { dst := r.dst, sa := r.sa, sb := r.sb, sk := bitsOf r.mod 0 2, dk := bitsOf r.mod 2 2, slot := bitsOf r.mod 4 4,
      f := bitsOf r.mod 8 5, ss := bitsOf r.mod 13 4, cmp := bitOf r.mod 17, box := r.ops 0 7, x := r.ops 7 7, y := r.ops 14 7,
      esz := r.ops 21 2, eng := g }
  let cops := cpy.box + 2 ^ 7 * cpy.x + 2 ^ 14 * cpy.y + 2 ^ 21 * cpy.esz
  let esp : Esp :=
    { dst := r.dst, sa := r.sa, sb := r.sb, sk := bitsOf r.mod 0 2, dk := bitsOf r.mod 2 2, esz := bitsOf r.mod 4 2,
      slot := bitsOf r.mod 6 4, spl := r.ops 0 7, lw := r.ops 7 7, g := r.ops 14 7, eng := g }
  let send : Send :=
    { port := bitsOf r.mod 0 4, slot := bitsOf r.mod 4 6, flow := bitsOf r.mod 10 8, sa := r.sa, sb := r.sb, rop := r.ops 0 4, ofs := g.ofs }
  let hall : Hall :=
    { lk := bitOf r.mod 0, ac := bitsOf r.mod 1 4, aq := bitOf r.mod 5, sa := r.sa, sb := r.sb, lens := r.ops 0 7, cnt := g.cnt, csel := g.csel }
  match r.op with
  | 0x00 => dEng r (modMma mma) 0 (plainEng g.ofs) true true mma.ok (.mma h mma)
  | 0x01 => dEng r (modMma mma) 0 (plainEng g.ofs) true true mma.ok (.mmas h mma)
  | 0x02 =>
    dEng r (bitsOf r.mod 0 16) 0 (plainEng untimed) true (r.sa = 0 && r.sb = 0) (sdstOk r.dst) (.tclaim h r.dst (bitsOf r.mod 0 16))
  | 0x03 =>
    dEng r (bitsOf r.mod 0 16) 0 (plainEng untimed) true (r.dst = 0 && r.sa = 0 && r.sb = 0) true (.trel h (bitsOf r.mod 0 16))
  | 0x04 =>
    let o : Tfill :=
      { slot := r.dst, sa := r.sa, f := bitsOf r.mod 0 5, ss := bitsOf r.mod 5 4, nrm1 := bitsOf r.mod 9 7, row0 := r.ops 0 7, ofs := g.ofs }
    dEng r (modTfill o) o.row0 (plainEng g.ofs) true (r.sb = 0) o.ok (.tfill h o)
  | 0x05 => dEng r 0 0 (plainEng g.ofs) true (r.sa = 0 && r.sb = 0) (r.dst < 256) (.accz h r.dst g.ofs)
  | 0x06 =>
    dEng r (modAcc acc) (acc.fmt + 32 * acc.dk.toNat) (plainEng g.ofs)
      (rmOk acc.rm && [0, 1, 2, 3, 7, 31].contains acc.fmt && (acc.fmt < 4 || (acc.rm == 0 && !acc.sat)))
      (if acc.dk then r.sa = 0 else r.dst = 0) acc.rdOk (.accrd h acc)
  | 0x07 =>
    let o : Acc := { acc with rm := 0, sat := false, dk := false, reg := r.sa }
    dEng r (modAcc o) o.fmt (plainEng g.ofs) ([0, 1, 31].contains o.fmt) (r.dst = 0) o.wrOk (.accwr h o)
  | 0x08 =>
    dEng r (modCopy cpy) cops g (cpy.pairOk && !cpy.cmp && cpy.y == 0 && cpy.esz == 0) true cpy.cpyOk (.cpy h cpy)
  | 0x09 => dEng r (modCopy cpy) cops g (!cpy.cmp && cpy.esz < 3) true cpy.cpyrOk (.cpyr h cpy)
  | 0x0A => dEng r (modCopy cpy) cops g (cpy.pairOk && cpy.esz == 0) true cpy.cpykOk (.cpyk h cpy)
  | 0x0B => dEng r 0 0 (plainEng untimed) true (r.sa = 0 && r.sb = 0) (sdstOk r.dst) (.cbatch h r.dst)
  | 0x0C => dEng r 0 0 (plainEng untimed) true (r.dst = 0 && r.sb = 0) (scalarOk r.sa) (.cwait h r.sa)
  | 0x0D => dEng r (modEsp esp) (esp.spl + 2 ^ 7 * esp.lw + 2 ^ 14 * esp.g) g true true esp.ok (.esp h esp)
  | 0x0E => dEng r (modSend send) 0 (plainEng g.ofs) true (r.dst = 0 && r.sb = 0) send.ok (.lsend h send)
  | 0x0F =>
    dEng r (bitsOf r.mod 0 6 + 64 * bitsOf r.mod 6 8) 0 (plainEng g.ofs) (timedOk g.ofs) (r.dst = 0 && r.sb = 0) (scalarOk r.sa)
      (.lrecv h (bitsOf r.mod 0 6) (bitsOf r.mod 6 8) r.sa g.ofs)
  | 0x10 =>
    if hall.ac = 0 then
      dEng r (modHall hall) hall.lens { g with ofs := untimed } (0 < hall.csel && !hall.aq) (r.dst = 0) hall.plainOk (.lput h hall)
    else dEng r (modHall hall) hall.lens { g with ofs := untimed } (0 < hall.csel) (r.dst = 0) hall.atomicOk (.lputAtomic h hall)
  | 0x11 => dEng r (modHall hall) hall.lens { g with ofs := untimed } (0 < hall.csel && hall.ac == 0 && !hall.aq) (r.dst = 0) hall.plainOk (.lget h hall)
  | 0x12 => dEng r (modSend send) send.rop (plainEng g.ofs) true (r.dst = 0) send.redOk (.lred h send)
  | 0x13 => dEng r (modSend send) 0 (plainEng g.ofs) true (r.dst = 0 && r.sb = 0) send.ok (.lmcast h send)
  | 0x14 =>
    if bitOf r.mod 0 then
      dEng r 1 0 (plainEng untimed) true (r.sb = 0) (sdstOk r.dst && scalarOk r.sa) (.lapRel h r.dst r.sa)
    else
      dEng r 0 0 { g with ofs := untimed } g.ok true (sdstOk r.dst && scalarOk r.sa && scalarOk r.sb)
        (.lap h r.dst r.sa r.sb { g with ofs := untimed })
  | 0x15 => dEng r 0 0 (plainEng untimed) true (r.sb = 0) (sdstOk r.dst && scalarOk r.sa) (.lapq h r.dst r.sa)
  | _ => .error .opNotListed

/-- Class 7 (R382, R384). -/
def decode7 (r : Raw) : Except Reject Instr :=
  match r.op with
  | 0x00 => accept (r.len = 0) (srnOk r.mod) (r.sa = 0 && r.sb = 0) (sdstOk r.dst) (.sysr r.head r.dst r.mod)
  | 0x01 => accept (r.len = 0) (srnOk r.mod) (r.dst = 0 && r.sb = 0) (scalarOk r.sa) (.sysw r.head r.sa r.mod)
  | 0x02 => dBare r (r.mod = 0) (.tret r.head)
  | 0x03 =>
    accept (r.len < 2) (r.mod = 0) (r.dst = 0 && r.sb = 0 && r.immClear r.sa) (lsrcOk (r.vsrc r.sa)) (.trim r.head (r.vsrc r.sa))
  | 0x04 =>
    accept (r.len = 1) (r.mod < 2) (r.ext < 256) (sdstOk r.dst && scalarOk r.sa && scalarOk r.sb && scalarOk r.ext)
      (.ctxsv r.head (bitOf r.mod 0) r.dst r.sa r.sb r.ext)
  | 0x05 => accept (r.len = 0) (r.mod = 0) true (sdstOk r.dst && scalarOk r.sa && scalarOk r.sb) (.ctxld r.head r.dst r.sa r.sb)
  | 0x06 =>
    match r.mod with
    | 0 => accept (r.len = 0) true (r.sb = 0) (sdstOk r.dst && scalarOk r.sa) (.leaseGrant r.head r.dst r.sa)
    | 1 => accept (r.len = 0) true (r.sb = 0) (sdstOk r.dst && scalarOk r.sa) (.leaseRelease r.head r.dst r.sa)
    | 2 => accept (r.len = 0) true (r.sb = 0) (sdstOk r.dst && scalarOk r.sa) (.leaseRevoke r.head r.dst r.sa)
    | _ => .error .modifier
  | 0x07 => accept (r.len = 0) (r.mod = 0) true (sdstOk r.dst && scalarOk r.sa && scalarOk r.sb) (.pown r.head r.dst r.sa r.sb)
  | 0x08 => accept (r.len = 0) (r.mod = 0) (r.dst = 0) (scalarOk r.sa && scalarOk r.sb) (.wdog r.head r.sa r.sb)
  | 0x09 =>
    match r.mod with
    | 0 => dBare r true (.haltWait r.head)
    | 1 => dBare r true (.haltPkg r.head)
    | _ => .error .modifier
  | _ => .error .opNotListed

/-- The instruction of a word's fields (R210). -/
def decodeRaw (r : Raw) : Except Reject Instr :=
  if r.len = 3 then .error .lenReserved
  else
    match r.cls with
    | 0 => decode0 r
    | 1 => decode1 r
    | 2 => decode2 r
    | 3 => decode3 r
    | 4 => decode4 r
    | 5 => decode5 r
    | 6 => decode6 r
    | _ => decode7 r

/-- The instruction of a word, by the fields of R198 and R210. The words that R258 and R337 print for IMAXB do not fit those (DEDUCED,
notes/assumptions/8.md). -/
def decodeWord (w : Nat) : Except Reject Instr := decodeRaw (Raw.ofNat w)

/-- A little-endian number (R1, R198). -/
def leNat : List Byte → Nat
  | [] => 0
  | b :: bs => b.toNat + 256 * leNat bs

/-- The first instruction of a list of bytes and the bytes after it. -/
def decode (bs : List Byte) : Except Reject (Instr × List Byte) :=
  match bs with
  | [] => .error .tooShort
  | b :: _ =>
    let n := lenBytes (b.toNat % 4)
    if b.toNat % 4 = 3 then .error .lenReserved
    else if bs.length < n then .error .tooShort
    else
      match decodeWord (leNat (bs.take n)) with
      | .ok i => .ok (i, bs.drop n)
      | .error e => .error e

/-! ### The encoder -/

def mk (cls op len : Nat) (h : Head) (dst sa sb mod ext : Nat) : Raw :=
  { len := len, e := h.e, d := h.d, cls := cls, op := op, pred := h.pred, pn := h.pn, dst := dst, sa := sa, sb := sb,
    mod := mod, ext := ext }

def Src.len : Src → Nat
  | .reg _ => 0
  | .imm32 _ => 1
  | .imm64 _ => 2
def Src.field : Src → Nat
  | .reg n => n
  | .imm32 _ => 0
  | .imm64 _ => 0
def Src.ext : Src → Nat
  | .reg _ => 0
  | .imm32 x => x.toNat
  | .imm64 x => x.toNat
def VSrc.len : VSrc → Nat
  | .reg _ => 0
  | .imm _ => 1
def VSrc.field : VSrc → Nat
  | .reg n => n
  | .imm _ => 0
def VSrc.ext : VSrc → Nat
  | .reg _ => 0
  | .imm x => x.toNat
def Target.len : Target → Nat
  | .reg _ => 0
  | .rel _ => 1
  | .abs _ => 2
def Target.field : Target → Nat
  | .reg n => n
  | .rel _ => 0
  | .abs _ => 0
def Target.ext : Target → Nat
  | .reg _ => 0
  | .rel x => x.toNat
  | .abs a => a.toNat
def optLen (x : Option W32) : Nat := if x.isSome then 1 else 0
def optExt : Option W32 → Nat
  | none => 0
  | some x => x.toNat
def MovImm.len : MovImm → Nat
  | .imm16 _ => 0
  | .imm32 _ => 1
  | .imm64 _ => 2
def MovImm.mod : MovImm → Nat
  | .imm16 x => x.toNat
  | .imm32 _ => 0
  | .imm64 _ => 0
def MovImm.ext : MovImm → Nat
  | .imm16 _ => 0
  | .imm32 x => x.toNat
  | .imm64 x => x.toNat

def eS2 (op mod : Nat) (h : Head) (o : S2) : Raw := mk 0 op o.b.len h o.dst o.sa o.b.field mod o.b.ext
def eS1 (op mod : Nat) (h : Head) (o : S1) : Raw := mk 0 op 0 h o.dst o.sa 0 mod 0
def eV2 (op mod : Nat) (h : Head) (o : V2) : Raw := mk 1 op o.b.len h o.dst o.sa o.b.field mod o.b.ext
def eV1 (op mod : Nat) (h : Head) (o : V1) : Raw := mk 1 op 0 h o.dst o.sa 0 mod 0
def eM2 (op : Nat) (h : Head) (o : M2) : Raw := mk 1 op 0 h o.dst o.sa o.sb o.nb.toNat 0
def eF2 (op mod : Nat) (h : Head) (o : F2) : Raw := mk 2 op o.b.len h o.dst o.sa o.b.field mod o.b.ext
def eF3 (op mod : Nat) (h : Head) (o : F3) : Raw := mk 2 op 1 h o.dst o.sa o.sb mod o.sc
def eSfu (op : Nat) (h : Head) (o : F1) : Raw := mk 3 op 0 h o.dst o.sa 0 (modRS o.rm o.sat) 0
def eMem (op : Nat) (h : Head) (dst : Nat) (sx : Bool) (a : MAddr) : Raw :=
  mk 4 op (optLen a.imm) h dst a.sa a.sb (modMem a sx) (optExt a.imm)
def eAtom (op : Nat) (h : Head) (o : Atom) : Raw := mk 4 op 1 h o.dst o.a.sa o.a.sb (modAtom o) o.sc
def eCnt (op : Nat) (h : Head) (o : Cnt) : Raw := mk 4 op o.b.len h 0 o.sa o.b.field (128 * o.scope) o.b.ext
def eBare (cls op mod : Nat) (h : Head) : Raw := mk cls op 0 h 0 0 0 mod 0
def eEng (op : Nat) (h : Head) (dst sa sb mod ops : Nat) (g : Eng) : Raw := mk 6 op 2 h dst sa sb mod (extEng ops g)
def Copy.ops (o : Copy) : Nat := o.box + 2 ^ 7 * o.x + 2 ^ 14 * o.y + 2 ^ 21 * o.esz
def eCopy (op : Nat) (h : Head) (o : Copy) : Raw := eEng op h o.dst o.sa o.sb (modCopy o) o.ops o.eng
def eSend (op : Nat) (h : Head) (o : Send) : Raw := eEng op h 0 o.sa o.sb (modSend o) o.rop (plainEng o.ofs)
def eHall (op : Nat) (h : Head) (o : Hall) : Raw :=
  eEng op h 0 o.sa o.sb (modHall o) o.lens { cnt := o.cnt, csel := o.csel, ofs := untimed }

/-- The fields of an instruction's word; an event has none. -/
def encodeRaw : Instr → Option Raw
  | .add h o => some (eS2 0x00 0 h o)
  | .sub h o => some (eS2 0x01 0 h o)
  | .mul h o => some (eS2 0x02 0 h o)
  | .mulh h o => some (eS2 0x03 0 h o)
  | .mulhu h o => some (eS2 0x04 0 h o)
  | .mad h o => some (mk 0 0x05 1 h o.dst o.sa o.sb 0 o.sc)
  | .and h o => some (eS2 0x06 0 h o)
  | .or h o => some (eS2 0x07 0 h o)
  | .xor h o => some (eS2 0x08 0 h o)
  | .andn h o => some (eS2 0x09 0 h o)
  | .shl h o => some (eS2 0x0A 0 h o)
  | .shr h o => some (eS2 0x0B 0 h o)
  | .sra h o => some (eS2 0x0C 0 h o)
  | .rol h o => some (eS2 0x0D 0 h o)
  | .min h o => some (eS2 0x0E 0 h o)
  | .max h o => some (eS2 0x0F 0 h o)
  | .minu h o => some (eS2 0x10 0 h o)
  | .maxu h o => some (eS2 0x11 0 h o)
  | .cmp h cc o => some (eS2 0x12 cc h o)
  | .sel h cn neg o => some (eS2 0x13 (cn + 8 * neg.toNat) h o)
  | .mov h o => some (eS1 0x14 0 h o)
  | .movi h dst x => some (mk 0 0x15 x.len h dst 0 0 x.mod x.ext)
  | .clz h o => some (eS1 0x16 0 h o)
  | .ctz h o => some (eS1 0x17 0 h o)
  | .popc h o => some (eS1 0x18 0 h o)
  | .brev h o => some (eS1 0x19 0 h o)
  | .bfx h pos wm1 o => some (eS1 0x1A (modField pos wm1) h o)
  | .bfxu h pos wm1 o => some (eS1 0x1B (modField pos wm1) h o)
  | .bfi h pos wm1 o => some (eS2 0x1C (modField pos wm1) h o)
  | .lea h sh o => some (eS2 0x1D sh h o)
  | .divu h o => some (eS2 0x1E 0 h o)
  | .remu h o => some (eS2 0x1F 0 h o)
  | .iadd h o => some (eV2 0x00 o.pk h o)
  | .isub h o => some (eV2 0x01 o.pk h o)
  | .imul h o => some (eV2 0x02 o.pk h o)
  | .imulh h o => some (eV2 0x03 (modPKU o.pk o.u) h o)
  | .imad h o => some (mk 1 0x04 1 h o.dst o.sa o.sb o.pk o.sc)
  | .iabs h o => some (eV1 0x05 o.pk h o)
  | .iabsd h o => some (eV2 0x06 (modPKU o.pk o.u) h o)
  | .imin h o => some (eV2 0x07 o.pk h o)
  | .imax h o => some (eV2 0x08 o.pk h o)
  | .iminu h o => some (eV2 0x09 o.pk h o)
  | .imaxu h o => some (eV2 0x0A o.pk h o)
  | .imaxb h dec o => some (eV2 0x0B (modDec o.pk o.u dec) h o)
  | .iadds h o => some (eV2 0x0C (modPKU o.pk o.u) h o)
  | .isubs h o => some (eV2 0x0D (modPKU o.pk o.u) h o)
  | .iand h o => some (eV2 0x0E 0 h o)
  | .ior h o => some (eV2 0x0F 0 h o)
  | .ixor h o => some (eV2 0x10 0 h o)
  | .inot h o => some (eV1 0x11 0 h o)
  | .ishl h o => some (eV2 0x12 o.pk h o)
  | .ishr h o => some (eV2 0x13 o.pk h o)
  | .isra h o => some (eV2 0x14 o.pk h o)
  | .icmp h cc el o => some (eV2 0x15 (o.pk + 4 * cc + 64 * el) h o)
  | .isel h sm sn o => some (eV2 0x16 (4 * sm + 32 * sn.toNat) h o)
  | .imov h dst x => some (match x with | .vec n => mk 1 0x17 0 h dst n 0 0 0 | .other n => mk 1 0x17 0 h dst n 0 4 0)
  | .imovi h dst x => some (mk 1 0x18 x.len h dst 0 0 x.mod x.ext)
  | .ipopc h o => some (eV1 0x19 o.pk h o)
  | .iclz h o => some (eV1 0x1A o.pk h o)
  | .ibrev h o => some (eV1 0x1B o.pk h o)
  | .ibfx h u pos wm1 o => some (eV1 0x1C (modField32 u pos wm1) h o)
  | .ibfi h pos wm1 o => some (eV2 0x1D (modField32 false pos wm1) h o)
  | .mand h o => some (eM2 0x1E h o)
  | .mor h o => some (eM2 0x1F h o)
  | .mxor h o => some (eM2 0x20 h o)
  | .mpop h dst sa => some (mk 1 0x21 0 h dst sa 0 0 0)
  | .fadd h o => some (eF2 0x00 (modRS o.rm o.sat) h o)
  | .fsub h o => some (eF2 0x01 (modRS o.rm o.sat) h o)
  | .fmul h o => some (eF2 0x02 (modRS o.rm o.sat) h o)
  | .fma h o => some (eF3 0x03 (modRS o.rm o.sat) h o)
  | .fmin h o => some (eF2 0x04 0 h o)
  | .fmax h o => some (eF2 0x05 0 h o)
  | .fcmp h cc o => some (eF2 0x06 (16 * cc) h o)
  | .fabs h neg dst sa => some (mk 2 0x07 0 h dst sa 0 (16 * neg.toNat) 0)
  | .frnd h o => some (mk 2 0x08 0 h o.dst o.sa 0 o.rm 0)
  | .fcvt h o => some (mk 2 0x09 0 h o.dst o.sa 0 (modCvt o false) 0)
  | .fcvtToF32 h o => some (mk 2 0x09 0 h o.dst o.sa 0 (modCvt o true) 0)
  | .fcvti h o => some (mk 2 0x0A 0 h o.dst o.sa 0 (modCvt o false) 0)
  | .icvtf h o => some (mk 2 0x0B 0 h o.dst o.sa 0 (modCvt o false) 0)
  | .fclass h dst sa => some (mk 2 0x0C 0 h dst sa 0 0 0)
  | .fscale h o => some (eF2 0x0D (modRS o.rm o.sat) h o)
  | .fdot2 h fp16 o => some (eF3 0x0E (modRS o.rm o.sat + 16 * fp16.toNat) h o)
  | .fadd2 h o => some (eF2 0x0F (modRS o.rm o.sat) h o)
  | .fmul2 h o => some (eF2 0x10 (modRS o.rm o.sat) h o)
  | .fma2 h o => some (eF3 0x11 (modRS o.rm o.sat) h o)
  | .qamax h sub8 dst sa => some (mk 2 0x12 0 h dst sa 0 sub8.toNat 0)
  | .qscale h dst sa sb => some (mk 2 0x13 0 h dst sa sb 0 0)
  | .qpack h part eot o => some (eF2 0x14 (modPack o 0 part eot) h o)
  | .qunpack h qf part o => some (eF2 0x15 (modPack o qf part false) h o)
  | .shfl h dst sa sb => some (mk 3 0x00 0 h dst sa sb 0 0)
  | .shflImm h dst sa imm => some (mk 3 0x00 1 h dst sa 0 0 imm.toNat)
  | .shflx h dst sa b => some (mk 3 0x01 b.len h dst sa b.field 0 b.ext)
  | .pushl h dst sa sb => some (mk 3 0x02 0 h dst sa sb 0 0)
  | .bcast h dst sa b => some (mk 3 0x03 b.len h dst sa b.field 0 b.ext)
  | .getln h dst sa b => some (mk 3 0x04 b.len h dst sa b.field 0 b.ext)
  | .setln h dst sa b => some (mk 3 0x05 b.len h dst sa b.field 0 b.ext)
  | .red h opk rm dst sa => some (mk 3 0x06 0 h dst sa 0 (modRed opk rm false) 0)
  | .scan h opk rm exc dst sa => some (mk 3 0x07 0 h dst sa 0 (modRed opk rm exc) 0)
  | .vote h pk seg dst x =>
    some (match x with | .vec n => mk 3 0x08 0 h dst n 0 (pk + 4 * seg) 0 | .other m => mk 3 0x08 0 h dst m 0 16 0)
  | .frcp h o => some (eSfu 0x09 h o)
  | .frsq h o => some (eSfu 0x0A h o)
  | .fsqrt h o => some (eSfu 0x0B h o)
  | .fexp2 h o => some (eSfu 0x0C h o)
  | .flog2 h o => some (eSfu 0x0D h o)
  | .fsin h o => some (eSfu 0x0E h o)
  | .fcos h o => some (eSfu 0x0F h o)
  | .ftanh h o => some (eSfu 0x10 h o)
  | .fdiv h o => some (mk 3 0x11 o.b.len h o.dst o.sa o.b.field (modRS o.rm o.sat) o.b.ext)
  | .ldp h dst sx a => some (eMem 0x00 h dst sx a)
  | .stp h dst a => some (eMem 0x01 h dst false a)
  | .ldg h dst sx a => some (eMem 0x02 h dst sx a)
  | .stg h dst a => some (eMem 0x03 h dst false a)
  | .aadd h o => some (eAtom 0x04 h o)
  | .aand h o => some (eAtom 0x05 h o)
  | .aor h o => some (eAtom 0x06 h o)
  | .axor h o => some (eAtom 0x07 h o)
  | .amin h o => some (eAtom 0x08 h o)
  | .amax h o => some (eAtom 0x09 h o)
  | .aminu h o => some (eAtom 0x0A h o)
  | .amaxu h o => some (eAtom 0x0B h o)
  | .aexch h o => some (eAtom 0x0C h o)
  | .acas h o => some (eAtom 0x0D h o)
  | .afadd h o => some (eAtom 0x0E h o)
  | .ainc h o => some (mk 4 0x0F 0 h o.dst o.a.sa o.a.sb (modAtom o) 0)
  | .fenceAcq h scope => some (eBare 4 0x10 (modFence scope 1) h)
  | .fenceRel h scope => some (eBare 4 0x10 (modFence scope 2) h)
  | .fenceAr h scope => some (eBare 4 0x10 (modFence scope 3) h)
  | .waitc h o => some (eCnt 0x11 h o)
  | .cntadd h o => some (eCnt 0x12 h o)
  | .yield h o => some (eCnt 0x13 h o)
  | .dld h dst sa imm => some (mk 4 0x14 (optLen imm) h dst sa 0 0 (optExt imm))
  | .drec h o => some (mk 4 0x15 0 h 0 o.sa o.sb (modDrec o false) 0)
  | .drecWait h dst o => some (mk 4 0x15 0 h dst o.sa o.sb (modDrec o true) 0)
  | .dwait h b => some (mk 4 0x16 b.len h 0 b.field 0 0 b.ext)
  | .bra h t => some (mk 5 0x00 t.len h 0 t.field 0 0 t.ext)
  | .brc h cn neg t => some (mk 5 0x01 t.len h 0 cn 0 neg.toNat t.ext)
  | .brd h m neg tgt rcv => some (mk 5 0x02 2 h 0 m 0 neg.toNat (tgt.toNat + 2 ^ 32 * rcv.toNat))
  | .join h => some (eBare 5 0x03 0 h)
  | .call h dst t => some (mk 5 0x04 t.len h dst t.field 0 0 t.ext)
  | .ret h sa => some (mk 5 0x05 0 h 0 sa 0 0 0)
  | .loop h dst t => some (mk 5 0x06 t.len h dst 0 0 0 t.ext)
  | .exit h => some (eBare 5 0x07 0 h)
  | .nop h len => some (mk 5 0x08 len h 0 0 0 0 0)
  | .bar h n => some (eBare 5 0x09 n h)
  | .trig h => some (eBare 5 0x0A 0 h)
  | .setfmt h fsel x => some (mk 5 0x0B x.len h 0 x.field 0 (2 * fsel) x.ext)
  | .setfmtStatus h x => some (mk 5 0x0B x.len h 0 x.field 0 1 x.ext)
  | .getfmt h dst => some (mk 5 0x0C 0 h dst 0 0 0 0)
  | .tbase h sa imm => some (mk 5 0x0D (optLen imm) h 0 sa 0 0 (optExt imm))
  | .twait h o => some (mk 5 0x0E 1 h 0 0 0 0 o)
  | .talign h dst sa sb => some (mk 5 0x0F 0 h dst sa sb 0 0)
  | .trap h code => some (eBare 5 0x10 code h)
  | .brk h code => some (eBare 5 0x11 code h)
  | .tvec h x => some (mk 5 0x12 x.len h 0 x.field 0 0 x.ext)
  | .mma h o => some (eEng 0x00 h o.tile o.sa o.sb (modMma o) 0 (plainEng o.ofs))
  | .mmas h o => some (eEng 0x01 h o.tile o.sa o.sb (modMma o) 0 (plainEng o.ofs))
  | .tclaim h dst mask => some (eEng 0x02 h dst 0 0 mask 0 (plainEng untimed))
  | .trel h mask => some (eEng 0x03 h 0 0 0 mask 0 (plainEng untimed))
  | .tfill h o => some (eEng 0x04 h o.slot o.sa 0 (modTfill o) o.row0 (plainEng o.ofs))
  | .accz h tile ofs => some (eEng 0x05 h tile 0 0 0 0 (plainEng ofs))
  | .accrd h o =>
    some (eEng 0x06 h (if o.dk then o.reg else 0) (if o.dk then 0 else o.reg) o.tile (modAcc o) (o.fmt + 32 * o.dk.toNat)
      (plainEng o.ofs))
  | .accwr h o => some (eEng 0x07 h 0 o.reg o.tile (modAcc o) o.fmt (plainEng o.ofs))
  | .cpy h o => some (eCopy 0x08 h o)
  | .cpyr h o => some (eCopy 0x09 h o)
  | .cpyk h o => some (eCopy 0x0A h o)
  | .cbatch h dst => some (eEng 0x0B h dst 0 0 0 0 (plainEng untimed))
  | .cwait h sa => some (eEng 0x0C h 0 sa 0 0 0 (plainEng untimed))
  | .esp h o => some (eEng 0x0D h o.dst o.sa o.sb (modEsp o) (o.spl + 2 ^ 7 * o.lw + 2 ^ 14 * o.g) o.eng)
  | .lsend h o => some (eSend 0x0E h o)
  | .lrecv h spkg flow sa ofs => some (eEng 0x0F h 0 sa 0 (spkg + 64 * flow) 0 (plainEng ofs))
  | .lput h o => some (eHall 0x10 h o)
  | .lputAtomic h o => some (eHall 0x10 h o)
  | .lget h o => some (eHall 0x11 h o)
  | .lred h o => some (eSend 0x12 h o)
  | .lmcast h o => some (eSend 0x13 h o)
  | .lap h dst sa sb eng => some (eEng 0x14 h dst sa sb 0 0 eng)
  | .lapRel h dst sa => some (eEng 0x14 h dst sa 0 1 0 (plainEng untimed))
  | .lapq h dst sa => some (eEng 0x15 h dst sa 0 0 0 (plainEng untimed))
  | .sysr h dst srn => some (mk 7 0x00 0 h dst 0 0 srn 0)
  | .sysw h sa srn => some (mk 7 0x01 0 h 0 sa 0 srn 0)
  | .tret h => some (eBare 7 0x02 0 h)
  | .trim h x => some (mk 7 0x03 x.len h 0 x.field 0 0 x.ext)
  | .ctxsv h force dst sa sb sc => some (mk 7 0x04 1 h dst sa sb force.toNat sc)
  | .ctxld h dst sa sb => some (mk 7 0x05 0 h dst sa sb 0 0)
  | .leaseGrant h dst sa => some (mk 7 0x06 0 h dst sa 0 0 0)
  | .leaseRelease h dst sa => some (mk 7 0x06 0 h dst sa 0 1 0)
  | .leaseRevoke h dst sa => some (mk 7 0x06 0 h dst sa 0 2 0)
  | .pown h dst sa sb => some (mk 7 0x07 0 h dst sa sb 0 0)
  | .wdog h sa sb => some (mk 7 0x08 0 h 0 sa sb 0 0)
  | .haltWait h => some (eBare 7 0x09 0 h)
  | .haltPkg h => some (eBare 7 0x09 1 h)
  | .vcAdvance | .lateEventClear _ | .registerLanding _ | .poolWriteLanding _ | .sfuEntryStart _ | .columnEntryStart _
  | .matrixKstep _ | .engineOutputLanding _ | .lredReceive _ | .checkFaultTaken _ | .alignmentRelease _
  | .quantumBoundary _ | .pauseOverrun _ | .governorCheck _ _ | .teamPlacement _ | .yieldRestore _ | .teamEnd _ _
  | .watchdogExpiry _ _ | .drainDeadline _ | .contextRestore _ | .fansEnd _ | .fansResume _ | .loopTokenArrival _ _ _
  | .recordWrite _ _ | .recordAdd _ _ | .recordSetz _ _ | .recordCas _ _ | .recordLaunch _ _ | .recordTmap _ _
  | .recordRecov _ _ | .recordNote _ _ _ | .tokenLoss | .tokenRegenerate | .rejoinRequest _ | .dialTransfer _ _
  | .cellSend _ | .cellArrival _ _ | .leafManagementWrite _ | .leafAckArrival _ | .hallFrameSend _
  | .hallReplyArrival _ _ | .hallRequestArrival _ | .hallRetryTimeout _ _ | .queueMap _ _ _ _ _ | .queueRemap _
  | .queueLaunchEntry _ | .queueWaitEntry _ | .queueAddEntry _ | .queueNopEntry _ | .bucketRefill | .launchStart _
  | .launchEnd _ | .leaseGrantComplete _ | .revokeUnpin _ | .hpolWrite _ _ | .clusterRemovalComplete _ | .lapDrain _
  | .scrubPass _ _ | .errorConsumption _ _ | .companionRead _ _ _ | .companionWrite _ _ _ | .powerOn | .powerRemove
  | .bootctlGo | .bootctlNonce | .training _ | .joinTokenTimeout | .joinFailTimeout | .sraddrRead _ | .sraddrWrite _
  | .fusecProgram | .thermalPause | .thermalResume | .thermalTrip | .powerTrip | .registerWrite _ _
  | .fuseProgramComplete _ | .remoteLeaseRequest _ _ _ _ _ _ => none

/-- The word of an instruction, as the number of its little-endian bytes; an event has none. -/
def encode (i : Instr) : Option Nat := (encodeRaw i).map Raw.toNat

/-- `n` little-endian bytes of a number. -/
def leBytes : Nat → Nat → List Byte
  | 0, _ => []
  | n + 1, w => BitVec.ofNat 8 (w % 256) :: leBytes n (w / 256)

/-- The bytes of an instruction in memory order. -/
def encodeBytes (i : Instr) : Option (List Byte) := (encodeRaw i).map fun r => leBytes (lenBytes r.len) r.toNat

/-- The instruction the decoder reads from the bytes of a word of the opcode table; bits above `nbits` are 0. -/
def decodeTableWord (nbits w : Nat) : Option Instr :=
  match decode (leBytes 16 (w % 2 ^ nbits)) with
  | .ok (i, _) => some i
  | .error _ => none

end Sys2Proof
end

