-- ==== Sys2Proof/Machine/State.lean ====
section
/-!
DEFINITION. The state of one package (spec/01_package_and_figures.md R19, R20), as plain data in five parts: the compute
grid, memory, the pod side (loop, Dial, fabric, hall), the firmware-visible structures, and bring-up and system registers.
Every map is a list of (key, value) pairs in canonical form: keys strictly rising, no value equal to the map's default.
-/

namespace Sys2Proof.Machine

/-- Byte memory: (address, byte) pairs in canonical form; an unlisted address reads 0. -/
abbrev Memory := List Host.Cell

/-! ### Groups (R37, R70, R379) -/

/-- A program-counter slot: PC, lane mask, reconvergence address (none at group start), FMT, JFMT and whether it waits
at JOIN (R37, R85, R239). -/
structure PcSlot where
  pc : Addr48 := 0
  mask : W64 := 0
  rcv : Option Addr48 := none
  fmt : W32 := 0
  jfmt : W32 := 0
  waiting : Bool := false
deriving DecidableEq, Repr

/-- An entry of the divergence stack: held in the group's share, or spilled to the team area, where its 32 bytes lie in
memory (R40, R85). -/
inductive StackEntry where
  | share (s : PcSlot)
  | spilled
deriving DecidableEq, Repr

/-- What blocks a group (R47, R379). BAR holds its number, its address and the slot that issued it (R371). Counter waits hold
scope, virtual counter address, intermediate address tagged with its caching level, and target. A destination is a scalar
number, or 128 + the number of a trap-bank register (R76). -/
inductive Block where
  | none
  | bar (n : Nat) (addr : Addr48) (alt : Bool)
  | waitc (scope va ia target : Nat)
  | yield (scope va ia target : Nat)
  | cwait (n : Nat)
  | dwait (n : Nat)
  | drecw (otag dst : Nat) (seq : Option W64)
  | twait (clk : Nat)
  | talign (t v : W64) (dst : Nat)
deriving DecidableEq, Repr

/-- A group of lanes, of a team on a compute core or of a command core (R34, R70, R363). `vreg` is keyed by
64·register + lane, `treg` by 16·level + register on a command core and by register on a compute core. -/
structure Group where
  resident : Bool := false
  ended : Bool := false
  halted : Bool := false
  train : Nat := 0
  team : Nat := 0
  idx : Nat := 0
  core : Nat := 0
  quad : Nat := 0
  pos : Nat := 0
  width : Nat := 0
  allot : Nat := 0
  conductor : Bool := false
  vreg : List (Nat × W32) := []
  sreg : List (Nat × W64) := []
  treg : List (Nat × W64) := []
  mreg : List (Nat × W64) := []
  creg : List (Nat × Bool) := []
  pri : PcSlot := {}
  alt : PcSlot := {}
  stack : List StackEntry := []
  gstat : W32 := 0
  tvec : Addr48 := 0
  handler : Option Bool := none
  block : Block := .none
  wake : Option Nat := none
  hold : Nat := 0
  served : Bool := false
  altNext : Bool := false
  trig : W64 := 0
  gone : W64 := 0
  checks : List (Nat × Addr48) := []
deriving DecidableEq, Repr

/-! ### Issue, pending writes, engine work -/

/-- An issue slot of a quadrant (R46, R47): the group whose run it issues, the vc of the next issue, the instructions
issued so far, the program-counter slot, and the vc from which it is free. -/
structure IssueSlot where
  busy : Bool := false
  key : Nat := 0
  next : Nat := 0
  count : Nat := 0
  alt : Bool := false
  free : Nat := 0
deriving DecidableEq, Repr

/-- What a pending write puts where when it lands (R49, R50, R83, R84). `none` values are writes of an instruction that
does not execute: nothing lands (R73). A claim of
slots is made where it lands, and writes its success into a register (R309). -/
inductive Landing where
  | vec (r : Nat) (v : List (Nat × W32))
  | scal (r : Nat) (x : Option W64)
  | trapr (r : Nat) (x : Option W64)
  | mask (r : Nat) (sel val : W64)
  | cond (r : Nat) (x : Option Bool)
  | gstatClear (x : W32)
  | gstatSet (x : W32)
  | ph (alt : Bool)
  | fmt (alt : Bool) (sel val : W32)
  | tvec (a : Addr48)
  | tb (x : W64)
  | claim (mask kind reg : Nat)
  | unclaim (mask : Nat)
  | kp (core tile : Nat) (x : W64)
deriving DecidableEq, Repr

/-- A landing due at vc `due` of its train for the group `key`. -/
structure Pend where
  train : Nat
  due : Nat
  key : Nat
  what : Landing
deriving DecidableEq, Repr

/-- A register with a pending write whose landing vc is not yet fixed (atomics, DREC .w, TALIGN, engine status):
kind 0 vector, 1 scalar, 2 trap bank (R50). -/
structure Owed where
  key : Nat
  kind : Nat
  reg : Nat
deriving DecidableEq, Repr

/-- STP bytes on their way into the pool (R134, R283). -/
structure PoolWrite where
  train : Nat
  due : Nat
  team : Nat
  group : Nat
  lane : Nat
  core : Nat
  addr : Nat
  data : List Byte
deriving DecidableEq, Repr

/-- A command of class 6 from its issue to its completion (R304, R313, R325, R381): the instruction and its address, the slot that issued
it, FMT and the scalar values read at issue, start, occupancy and landing vc, its batch; for a matrix command the k-steps applied and passes
of the next one (R123), the copies of its slots and whether a sum wrapped; whether it waits for a boundary, whether it failed, and the pages
that its pieces pin, whether its scalar operands 112 to 127 named the trap bank at issue (R76), and the status with which a hall command
ends that sends nothing, as its start found it (R194). -/
structure Cmd where
  id : Nat
  train : Nat
  team : Nat
  key : Nat
  group : Nat
  core : Nat
  col : Nat
  untimed : Bool
  start : Nat
  occ : Nat
  land : Nat
  batch : Nat
  op : Instr
  addr : Addr48
  alt : Bool
  fmt : W32
  vals : List W64
  started : Bool := false
  waits : Bool := false
  failed : Bool := false
  steps : Nat := 0
  pass : Nat := 0
  slotA : Memory := []
  slotB : Memory := []
  scaleA : Memory := []
  scaleB : Memory := []
  iov : Bool := false
  pages : List Nat := []
  bank : Bool := false
  ends : Option W64 := none
deriving DecidableEq, Repr

/-- Where an engine output goes (R62, R134, R156, R308). A global write names its caching level (3 companion memory). -/
inductive OutWhat where
  | pool (core addr : Nat) (data : List Byte)
  | slot (core slot off : Nat) (data : List Byte)
  | tile (core tile first : Nat) (data : List W32)
  | tileZero (core tile : Nat)
  | global (level ia : Nat) (data : List Byte)
  | finish (cmd : Nat)
deriving DecidableEq, Repr

/-- An engine output due at a vc, with its start vc, column and core for the order of R308, and for a global write the poisoned page
that its bytes come from (R432). -/
structure EngOut where
  train : Nat
  due : Nat
  start : Nat
  col : Nat
  core : Nat
  team : Nat
  key : Nat
  what : OutWhat
  bad : Option Nat := none
deriving DecidableEq, Repr

/-- A result of the SFU waiting to start in column S (R276). A restored entry takes its start vc `only`: its landings are pending already
(R380). -/
structure SfuEntry where
  train : Nat
  core : Nat
  start : Nat
  key : Nat
  dst : Nat
  lanes : List (Nat × W32)
  flags : W32
  only : Bool := false
deriving DecidableEq, Repr

/-- A buffered store of one lane, or an engine write that landed in the quantum: its key (team, group, position), its
issue order and vc, and the caching level it commits at, 3 for companion memory (R55, R56, R134, R145, R156); for an engine write the
poisoned page that its bytes come from (R432). -/
structure BufStore where
  train : Nat
  team : Nat
  group : Nat
  pos : Nat
  ord : Nat
  clk : Nat
  level : Nat
  ia : Nat
  data : List Byte
  bad : Option Nat := none
deriving DecidableEq, Repr

/-- What a synchronising instruction does at its quantum's boundary (R147). An atomic's lanes hold lane, address
tagged with its caching level from bit 56 on, and operands. A lap's target is tagged too, 3 for companion memory, and its
result goes to a register by kind. A sent cell does nothing more; its payload counts in the signature
of twins (R442). -/
inductive ActWhat where
  | atomic (op : Nat) (q : Bool) (scope : Nat) (lanes : List (Nat × Nat × Nat × Nat)) (dst : Option Nat) (lat : Nat)
  | fence (rel acq : Bool) (scope : Nat)
  | count (scope ia : Nat) (amount : Nat) (err : Option W64)
  | drec (op len daddr otag : Nat) (words : List W64)
  | lapOpen (target deadline cmd kind reg csel ia : Nat)
  | lapRel (lap kind reg : Nat)
  | cell (data : List Byte)
deriving DecidableEq, Repr

/-- A synchronising action waiting for its boundary. `at` is 0 for the next boundary, or the first vc whose boundary may
perform it. -/
structure Act where
  train : Nat
  team : Nat
  key : Nat
  group : Nat
  core : Nat
  ord : Nat
  due : Nat
  what : ActWhat
deriving DecidableEq, Repr

/-- An acquire of a group that completes at a vc: the core takes the cluster view (R143, R151). -/
structure Acquire where
  train : Nat
  key : Nat
  due : Nat
  core : Nat
deriving DecidableEq, Repr

/-! ### Launches, trains, teams -/

/-- A footprint (R138, R417). -/
structure Footprint where
  vbase : Nat := 0
  size : Nat := 0
  kind : Nat := 0
  cls : Nat := 0
  stride : Nat := 0
deriving DecidableEq, Repr

/-- A slot record of a launch (R225, R417). -/
structure SlotRec where
  port : Nat := 0
  slot : Nat := 0
  kind : Nat := 0
  dest : Nat := 0
  dcore : Nat := 0
  score : Nat := 0
deriving DecidableEq, Repr

/-- A launch descriptor (R417). `windows` holds bits [63:0] and [127:64] of each entry (R128). -/
structure Desc where
  grid : Nat := 1
  width : Nat := 64
  det : Bool := true
  twin : Bool := false
  pair : Bool := false
  eruns : Nat := 0
  code : Addr48 := 0
  nc : Nat := 0
  nw : Nat := 0
  centry : Addr48 := 0
  callot : Nat := 0
  wentry : Addr48 := 0
  wallot : Nat := 0
  part : W32 := 0
  prod : Option (Nat × Nat) := none
  sregs : List W64 := []
  windows : List (W64 × W64) := []
  foots : List Footprint := []
  slots : List SlotRec := []
deriving DecidableEq, Repr

/-- Why a train holds its vc (R53): data physically late, from a package where one is awaited (R426); the governor; an S-level answer; a
full fault ring or offer queue (the offers' count once the train's own have places); a replay. -/
inductive Hold where
  | physical (pkg : Option Nat)
  | governor
  | answer (ix : Nat)
  | ringFull
  | offerFull (n : Nat)
  | replay
deriving DecidableEq, Repr

/-- A fault raised in the current vc and not yet settled (R366, R369, R371); `align` marks one of the TALIGNs that fault
together (R58). -/
structure FaultRec where
  team : Nat
  group : Nat
  key : Nat
  code : Nat
  lane : Nat
  tcode : Nat
  resume : Addr48
  alt : Bool
  t2 : W64
  p : Nat
  pvc : W64
  align : Bool := false
deriving DecidableEq, Repr

/-- A compute core's engines and arbiters: %kp (R75), last winners per quadrant (R47), the vc from which columns M, C, E and
L are free (R304), and the vc at which an entry of column S last started (R276). -/
structure Core where
  kp : List (Nat × W64) := []
  lastWin : List (Nat × Nat) := []
  colFree : List (Nat × Nat) := []
  rx : List LinkCell := []
  lastSfu : Option Nat := none
deriving DecidableEq, Repr

/-- What the cores of a train that is saved whole held, by core as in the grid: bytes of the pool and the slots, words of the tiles, the
engines and arbiters, and the issue slots that are not free yet. A team placed later finds it there (R78, R310). -/
structure Leftover where
  pool : Memory := []
  slots : Memory := []
  tiles : List (Nat × W32) := []
  cores : List (Nat × Core) := []
  issue : List (Nat × IssueSlot) := []
deriving DecidableEq, Repr

/-- A train (R52): its launch, its internal clock, the visible vc, completed boundaries, the quantum's first clock, the Dial and sequence
number as of the last boundary (R127), a pending alignment, the groups at TALIGN with its address and, from bit 48, its slot, the held
gates, the pause monitor, the vc at which data of a poisoned page is consumed with its page and the group whose data it is (R432), the twin
clusters of its clusters (R440), and its tenant's laps as of the last boundary, with whether they are drained (R334), whether the whole
train is saved and the cores it had (R375), the teams that start again from their entries (R374), the vc at which TALIGNs last faulted
together (R58), whether the launch has issued a timed link command (R68), the tenant's last lap number as the train started (R435), the
cores that removals took from it and that no others have replaced (R377), whether any of its teams, ended ones too, has committed (R374),
what its cores held when it was saved whole, the clusters that were scrubbed since it last took their views (R144, R405), and the teams
whose TRIG has still to be released (R66). -/
structure Train where
  live : Bool := false
  launch : Nat := 0
  owner : Nat := 0
  desc : Desc := {}
  cores : List Nat := []
  clk : Nat := 0
  vc : W64 := 0
  qt : W64 := 0
  qstart : Nat := 0
  seq : W64 := 0
  dial : List (Nat × W64) := []
  pod : Bool := false
  align : Option (Nat × W64 × W64) := none
  alignWho : List (Nat × Nat) := []
  boundary : Bool := false
  surveyed : Bool := false
  holds : List (Nat × Hold) := []
  pause : Nat := 0
  overrun : Bool := false
  nextTeam : Nat := 0
  faults : List FaultRec := []
  finished : Bool := false
  endAll : Bool := false
  failing : Bool := false
  revoked : List (Nat × Nat) := []
  level : Int := 0
  bad : List (Nat × Nat × Nat) := []
  mates : List (Nat × Nat) := []
  laps : List (Nat × Bool) := []
  parked : Bool := false
  places : List Nat := []
  requeue : List Nat := []
  alignBad : Option Nat := none
  linked : Bool := false
  lapLast : Nat := 0
  lost : Nat := 0
  committed : Bool := false
  left : Leftover := {}
  stale : List Nat := []
  trigs : List Nat := []
deriving DecidableEq, Repr

/-- A team (R35): where it stands, its timetable base, the lines of its store buffer, batches, slot claims, carves, watchdog limit and the
vc from which it counts, and pre-emption marks; whether it is saved with its whole train, its commands, acquires and unstarted SFU entries
while it is saved (R375), and the vc from which its immediate commands are complete (R302). While it is saved alone it keeps its faults
that are still to come (`traps`), its groups at TALIGN as the train would (`aligns`), and the lateness of an alignment that has passed
meanwhile (`late`). -/
structure Team where
  live : Bool := false
  train : Nat := 0
  idx : Nat := 0
  twin : Bool := false
  ended : Bool := false
  endedAt : Nat := 0
  saved : Bool := false
  yielded : Bool := false
  core : Nat := 0
  pair : Bool := false
  groups : Nat := 0
  conductors : Nat := 0
  tb : W64 := 0
  lines : List Nat := []
  closed : Nat := 0
  claims : List (Nat × Nat) := []
  carve : List (Nat × Nat × Nat) := []
  wdLimit : Nat := 0
  wdBase : Nat := 0
  retired : Nat := 0
  committed : Bool := false
  fault : Nat := 0
  halting : Bool := false
  ready : Option Nat := none
  image : Nat := 0
  parked : Bool := false
  kept : List Cmd := []
  acqs : List Acquire := []
  sfus : List SfuEntry := []
  busyUntil : Nat := 0
  traps : List FaultRec := []
  aligns : List (Nat × Nat) := []
  late : Option W64 := none
deriving DecidableEq, Repr

/-- The compute grid. `cores` is keyed by core; pool, slots and tiles by core·2^32 plus the place within the core (tile
words 16,384·tile + 128·row + column, slot bytes 32,768·slot + offset). `resume` holds restored runs that wait for an issue slot
(R379), by group; `idleVc` the counter of the train of a partition's idle cores (R52), by owner. -/
structure Grid where
  trains : List (Nat × Train) := []
  teams : List (Nat × Team) := []
  groups : List (Nat × Group) := []
  cores : List (Nat × Core) := []
  issue : List (Nat × IssueSlot) := []
  pool : Memory := []
  slots : Memory := []
  tiles : List (Nat × W32) := []
  pend : List Pend := []
  owed : List Owed := []
  stps : List PoolWrite := []
  cmds : List Cmd := []
  outs : List EngOut := []
  sfu : List SfuEntry := []
  stores : List BufStore := []
  acts : List Act := []
  acquires : List Acquire := []
  ord : Nat := 0
  nextTrain : Nat := 0
  resume : List (Nat × IssueSlot) := []
  idleVc : List (Nat × W64) := []
deriving DecidableEq, Repr

/-! ### Memory -/

/-- A lease (R399). States: 0 pending, 1 granted, 2 refused, 3 ended, 4 to be removed at
its holder's next boundary, 5 removed and to be unpinned. -/
structure Lease where
  desc : Nat := 0
  page : Nat := 0
  count : Nat := 0
  owner : Nat := 0
  kind : Nat := 0
  cls : Nat := 0
  holder : W64 := 0
  counter : Nat := 0
  target : W64 := 0
  state : Nat := 0
  remote : Bool := false
deriving DecidableEq, Repr

/-- A lap (R333, R434): number 0 is a launch lap. `held` lists the pages set aside with whether they were poisoned,
`aside` is their content, `cover` the page ranges (first page, count) that the lap covers, and `bad` the pages of a snapshot
lap that were poisoned when it opened (R439). A lap that a train has released is `gone` by it until the train's attempt can no longer be
replayed (R435). -/
structure Lap where
  number : Nat := 0
  launch : Nat := 0
  owner : Nat := 0
  gen : Nat := 0
  held : List (Nat × Bool) := []
  aside : Memory := []
  target : Nat := 0
  targetComp : Bool := false
  due : Nat := 0
  train : Nat := 0
  counted : Bool := false
  written : Bool := false
  vcAt : W64 := 0
  bcAt : W64 := 0
  limit : Nat := 0
  cover : List (Nat × Nat) := []
  bad : List Nat := []
  gone : Option Nat := none
deriving DecidableEq, Repr

/-- Memory as homes and views (R141). Views are keyed by 2^56·cluster + address and 2^56·core + address; `own` marks own
bytes with the last committing team's key + 1; `pages` and `pins` are keyed by the intermediate page (R126, R393, R402);
`lapLast` holds the last lap number of each tenant (R333), and `retired` the frames that are not used again (R435), by tier: 0 the capacity
tier, else one more than the die of a bonded one. `starved` is set where a write needs a frame for a copy and finds none (R434): the write
then waits, so it reads false between steps. -/
structure Mem where
  home : Memory := []
  comp : Memory := []
  priv : Memory := []
  cview : Memory := []
  own : List (Nat × Nat) := []
  pview : Memory := []
  pages : List (Nat × W64) := []
  pins : List (Nat × Nat) := []
  leases : List Lease := []
  laps : List Lap := []
  lapGen : Nat := 0
  lapLast : List (Nat × Nat) := []
  retired : List (Nat × Nat) := []
  starved : Bool := false
  snoop : List (Nat × Bool) := []
deriving DecidableEq, Repr

/-! ### Pod side -/

/-- A cell that waits to leave its port: ready from a bc (R186), and the train that sends it, none for leaf management. -/
structure OutCell where
  port : Nat
  slot : Nat
  ready : Nat
  cell : LinkCell
  train : Option Nat := none
deriving DecidableEq, Repr

/-- A record offered or in flight: OP and content (R174, R176). -/
structure Offer where
  op : Nat
  rcd : LoopRec
deriving DecidableEq, Repr

/-- A live hall tag: the frame, attempts so far, the time at which the last one left, the operation it belongs to (R196), and whether a
further attempt waits for its port (R457). -/
structure HallTag where
  frame : HallFrame
  attempts : Nat
  sent : Nat
  opId : Nat
  first : Nat
  waiting : Bool := false
deriving DecidableEq, Repr

/-- An LPUT or LGET in progress (R330): its frames still to answer, its local side, its counter and the first failure. -/
structure HallOp where
  id : Nat
  train : Nat
  team : Nat
  key : Nat
  group : Nat
  core : Nat
  scope : Nat
  counterIa : Nat
  left : Nat
  status : W64
  get : Bool
  localGlobal : Bool
  localAddr : Nat
  old : Option (List Byte)
  data : List (Nat × List Byte)
  after : Nat
deriving DecidableEq, Repr

/-- The last hall request of a source and tag, and its reply with whether it is an error (R197). -/
structure HallSeen where
  request : HallFrame
  reply : HallFrame
  err : Bool
deriving DecidableEq, Repr

/-- The loop, the Dial, the fabric and the hall tier (R167 to R197). `heard` gives for a ring position one more than the time of its last
token, `listen` one more than the time of the first token since the package began to listen, `loaded` whether the count has been loaded
since it left the pod, `first` the lowest ring position heard since then with the count that its first token gave and that token's time
(R180), `chosen` the ring position that the companion chose as sponsor (R429), `tokenOut` the token that last left the tap (R168),
`wire` the records sent, in bytes, `transfers` the Dials sent to members with the sequence numbers through which they are applied, `asks`
the rejoin requests sent, each with the sponsor's ring position and the member (R427), and `stopBc` the bc from which stopped ports
transmit nothing (R459). `incs` gives each hall tag's next INC, `answers` the replies that wait for their ports and `frames` the
frames sent, in bytes, each with whether it is an error reply (R195). `seq` is the last number stamped, `top` the last
one applied (R75, R173). -/
structure Pod where
  inPod : Bool := false
  heard : List (Nat × Nat) := []
  listen : Nat := 0
  loaded : Bool := false
  first : Option (Nat × W64 × Nat) := none
  chosen : Option Nat := none
  tokenOut : Option (Nat × W64) := none
  wire : List (List Byte) := []
  trm : Int := 0
  ofs : Int := 0
  out : Bool := false
  seq : W64 := 0
  top : W64 := 0
  dial : List (Nat × W64) := []
  offers : List Offer := []
  flight : List Offer := []
  applied : List (Nat × W64) := []
  nextTag : Nat := 0
  rejoining : Bool := false
  kept : List Offer := []
  lastToken : Nat := 0
  lossRaised : Bool := false
  regen : Option (Nat × Nat) := none
  recovering : List (Nat × Bool) := []
  transfers : List (Nat × W64 × List (Nat × W64)) := []
  asks : List (Option Nat × Nat) := []
  notes : List (W64 × LoopRec) := []
  slottab : List (Nat × W64) := []
  hpath : List (Nat × W64) := []
  lmgd : W64 := 0
  lmgt : W64 := 0
  cells : List OutCell := []
  lastSent : List (Nat × Nat) := []
  sent : List LinkCell := []
  tags : List (Nat × HallTag) := []
  hallQ : List (Nat × HallTag) := []
  hallLast : List (Nat × Nat) := []
  hallOps : List HallOp := []
  replies : List (Nat × HallSeen) := []
  answers : List (HallFrame × Bool) := []
  incs : List (Nat × Nat) := []
  frames : List (List Byte × Bool) := []
  stopped : Bool := false
  stopBc : Nat := 0
deriving DecidableEq, Repr

/-! ### Firmware-visible structures -/

/-- A command core beside its group record (R363, R364): level (2 M, 1 S, 0 U), vectors, PMP regions, HALT .wait, and
whether it runs. -/
structure CmdCore where
  on : Bool := false
  level : Nat := 0
  svec : W64 := 0
  mvec : W64 := 0
  pmpA : List (Nat × W64) := []
  pmpB : List (Nat × W64) := []
  waiting : Bool := false
deriving DecidableEq, Repr

/-- A queue slot (R414): the queue-table entry with its shadow, and what the engine cached at map. -/
structure QSlot where
  mapped : Bool := false
  listed : Bool := false
  qcb : Nat := 0
  prio : Nat := 0
  rclass : Nat := 0
  owner : Nat := 0
  base : Nat := 0
  log : Nat := 0
  last : Nat := 0
  dry : Bool := false
deriving DecidableEq, Repr

/-- An admitted launch (R418, R419, R420). STATE as R418; `prod` is the launch that its producer field named at its admission (R219),
`attempts` counts the attempts that have consumed an error (R436), `away` is the package whose queue slot `queue` is, where another one
offered the launch (R419), `qcb` the QCB that the slot held here, and `mask` the packages that run a pod launch. -/
structure Launch where
  id : Nat := 0
  queue : Nat := 0
  entry : Nat := 0
  status : Nat := 0
  owner : Nat := 0
  rclass : Nat := 0
  state : Nat := 0
  admission : Nat := 0
  pod : Bool := false
  recSeq : W64 := 0
  edges : List Nat := []
  desc : Desc := {}
  train : Nat := 0
  attempts : Nat := 0
  fcode : Nat := 0
  fteam : Nat := 0
  w5 : Nat := 0
  w6 : W64 := 0
  z : Nat := 0
  endVc : W64 := 0
  startBc : W64 := 0
  endBc : W64 := 0
  cores : List Nat := []
  prod : Option Nat := none
  away : Option Nat := none
  qcb : Nat := 0
  mask : W64 := 0
deriving DecidableEq, Repr

/-- A pending ADD entry of a queue, which its control block's address names, with the queue's owner: the launches for which it waits, and
the pod launches whose records have yet to return, by the slot and the entry that their records bear (R413). -/
structure QueueAdd where
  qcb : Nat
  owner : Nat
  counter : Nat
  amount : W64
  waitFor : List Nat
  entries : List (Nat × Nat) := []
deriving DecidableEq, Repr

/-- A pre-emption request (R374, R387). Decision: 0 DRAIN, 1 DISCARD, 2 SAVE. -/
structure PreReq where
  id : Nat
  train : Nat
  team : Option Nat
  handle : W64
  deadline : Nat
  image : Nat
  decision : Nat
  done : Bool
  restore : Option Nat
  ring : Bool
deriving DecidableEq, Repr

/-- An event reported to S-level, to the firmware or to the companion, in order. -/
inductive Event where
  | faultPosted (ix : Nat)
  | pauseOverrun (tr : Nat)
  | tokenLoss
  | tokenRegenerated
  | hostEvent (queue code : Nat)
  | rejoinNote (seq : W64)
deriving DecidableEq, Repr

/-- The policy record of an owner (R421). Buckets are keyed 0 to 3; depth, threshold and level count core-vc. `there` tells a record,
one of zeros too, from none; an owner without a record is not limited. `dried` lists the buckets that have run dry and have not reached
their threshold since (R422). -/
structure Policy where
  there : Bool := false
  rate : List (Nat × Nat) := []
  depth : List (Nat × Nat) := []
  thresh : List (Nat × Nat) := []
  level : List (Nat × Int) := []
  pthr : Nat := 0
  dl : Nat := 0
  dried : List Nat := []
deriving DecidableEq, Repr

/-- What a fault-ring record asks S-level (R367): its record index, the train held, the group, its slot, whether RESUME is
allowed, the fault code and the point p. A watchdog record (R425) names no group. -/
structure Ask where
  ix : Nat := 0
  train : Nat := 0
  key : Option Nat := none
  alt : Bool := false
  resumable : Bool := false
  code : Nat := 0
  p : Nat := 0
deriving DecidableEq, Repr

/-- A record that waits for a free place in the fault ring (R370): words w0 to w5, the train it holds, and what it asks. -/
structure Post where
  words : List W64
  train : Option Nat
  ask : Option Ask
deriving DecidableEq, Repr

/-- A pod launch whose LAUNCH record has not returned (R419): queue slot, entry index, the queue's control block and rate class, and words
w3, w5 and w6 of the entry. -/
structure PodEntry where
  queue : Nat := 0
  entry : Nat := 0
  qcb : Nat := 0
  rclass : Nat := 0
  status : Nat := 0
  w5 : Nat := 0
  w6 : W64 := 0
deriving DecidableEq, Repr

/-- Firmware-visible structures: command cores, queues, launches, fault ring, policies, pre-emption. `taken` counts the queue entries
admitted so far, for the order of R419, and `refillBc` the bc since the buckets last gained (R422). -/
structure Fw where
  cmds : List (Nat × CmdCore) := []
  queues : List (Nat × QSlot) := []
  launches : List (Nat × Launch) := []
  admitted : Nat := 0
  adds : List QueueAdd := []
  fring : W64 := 0
  ringIx : Nat := 0
  asked : List Ask := []
  posts : List Post := []
  policy : List (Nat × Policy) := []
  pre : List PreReq := []
  nextPre : Nat := 0
  events : List Event := []
  removals : List (Nat × W64) := []
  podEntries : List PodEntry := []
  refillBc : Nat := 0
  taken : Nat := 0
deriving DecidableEq, Repr

/-! ### Bring-up and system registers -/

/-- Bring-up, the aperture, the fuses and the tenants' registers (R403, R407, R447 to R456). `boot` is BOOTST.STATE; `attesting` is the body
of a report that is not complete (R450), and `released` says whether bring-up has reached RELEASE (R453). -/
structure Sys where
  boot : Nat := 0
  cause : Nat := 0
  die : Nat := 0
  podcfg : W64 := 0
  modew : W64 := 0
  evring : W64 := 0
  loopc : W64 := 0
  sraddr : W64 := 0
  srdata : W64 := 0
  meas : List Byte := []
  tapdly : List (Nat × W64) := []
  nonce : List (Nat × Byte) := []
  report : Memory := []
  fuses : List (Nat × W64) := []
  fusea : W64 := 0
  fused : W64 := 0
  fuseBusy : Bool := false
  fuseErr : Bool := false
  imgSvn : W32 := 0
  joinEntry : Nat := 0
  joinStep : Nat := 0
  thermal : Bool := false
  hpol : List (Nat × W64) := []
  counters : List (Nat × W64) := []
  banks : List (Nat × Nat) := []
  response : List Byte := []
  attesting : List Byte := []
  released : Bool := false
deriving DecidableEq, Repr

/-! ### The whole state -/

/-- What comes from outside (R1). -/
inductive Input where
  /-- An event of the table. -/
  | op (i : Instr)
  /-- Data of a train is physically late, from a package where one is awaited (R53, R426). -/
  | late (tr : Nat) (pkg : Option Nat)
  /-- One instruction of a command core. -/
  | command (k : Nat)
  /-- A write of another package for a tenant, at its home here (R191, R394). -/
  | remote (owner addr : Nat) (data : List Byte)
  /-- A home elsewhere grants the pages of a launch's footprint that it holds (R400). -/
  | remoteGrant (queue page count cls entry : Nat)
  /-- The policy record of an owner, which S-level writes (R421). -/
  | policy (owner : Nat) (words : List W64)
  /-- A write by the companion to its own memory. -/
  | companion (addr : Nat) (data : List Byte)
  /-- The companion chooses the sponsor by its ring position, or none (R429). -/
  | sponsor (pos : Option Nat)
  /-- A loop record's 64 bytes reach the tap (R174). -/
  | record (bytes : List Byte)
  /-- A cell's 136 bytes reach a link column (R182). -/
  | cell (bytes : List Byte)
  /-- The leaf reduces its members' cells for a core here (R188). -/
  | reduced (dcore : Nat) (members : List LinkCell)
  /-- The payload of the oldest cell that waits for a slot is ready `n` bc later (R186). -/
  | payloadLate (port slot n : Nat)
  /-- A hall frame's bytes reach a port, with whether it is an error reply (R192, R195). -/
  | frame (bytes : List Byte) (err : Bool)
  /-- A corrected error: 0 in a register, 1 in a pool, operand slot or cache of a core, 2 in a SerDes, 3 in the Dial or shared state
  (R408, R431). -/
  | corrected (kind core : Nat)
  /-- An uncorrectable error in a Dial word (R432). -/
  | dialError
  /-- An uncorrectable error in a page that a lap has set aside (R439). -/
  | asideError (gen page : Nat)
deriving DecidableEq, Repr

/-- The issuer of the instruction that executes: its group key, whether it is a command core, its place, the
instruction's address, the next address, its word and the slot it issues from. -/
structure Cur where
  key : Nat := 0
  cmd : Bool := false
  train : Nat := 0
  team : Nat := 0
  slot : Nat := 0
  alt : Bool := false
  addr : Addr48 := 0
  next : Addr48 := 0
  word : W64 := 0
  taken : Bool := false
  failed : Bool := false
deriving DecidableEq, Repr

/-- The machine's state. `time`, `inputs`, `fresh` and `cur` are the model's own. -/
structure State where
  time : Nat
  inputs : List (Nat × Input)
  fresh : Nat
  bc : W64
  bcHold : Nat
  cur : Cur
  grid : Grid
  mem : Mem
  pod : Pod
  fw : Fw
  sys : Sys
deriving DecidableEq, Repr

/-- Where the machine stops. -/
inductive Fault where
  /-- Raised by `step` when an input names a command core above 15. Safe: the package has sixteen (R19). -/
  | noCommandCore (k : Nat)
deriving DecidableEq, Repr

/-- Why an instruction has no meaning. -/
inductive Refusal where
  /-- Raised by `exec` for an instruction whose meaning is not written yet. Safe. -/
  | notModelled (mnemonic : String)
deriving DecidableEq, Repr

/-- The package without power (R447, STATE 0 DARK): it holds nothing. -/
def State.reset : State :=
  { time := 0, inputs := [], fresh := 0, bc := 0, bcHold := 0, cur := {}, grid := {}, mem := {}, pod := {}, fw := {}, sys := {} }

end Sys2Proof.Machine
end

