-- ==== Sys2Proof/Machine/Maps.lean ====
section
/-!
DEFINITION. Sparse maps in canonical form (keys strictly rising, no value equal to the default): reading, writing, and byte
order (spec/00_scope.md R3: little-endian).
-/

namespace Sys2Proof.Machine

/-- The value at a key; `d` where the map lists none. -/
def Sp.get {α : Type} (d : α) : List (Nat × α) → Nat → α
  | [], _ => d
  | (k, x) :: m, a => if k = a then x else Sp.get d m a

/-- The entries of consecutive values from `base` that differ from the default. -/
def Sp.entries {α : Type} [DecidableEq α] (d : α) : Nat → List α → List (Nat × α)
  | _, [] => []
  | base, x :: xs => if x = d then Sp.entries d (base + 1) xs else (base, x) :: Sp.entries d (base + 1) xs

/-- Write consecutive values from `base`. -/
def Sp.put {α : Type} [DecidableEq α] (d : α) (m : List (Nat × α)) (base : Nat) (xs : List α) : List (Nat × α) :=
  m.filter (fun p => p.1 < base) ++ Sp.entries d base xs ++ m.filter (fun p => base + xs.length ≤ p.1)

/-- Write one value. -/
def Sp.set {α : Type} [DecidableEq α] (d : α) (m : List (Nat × α)) (k : Nat) (x : α) : List (Nat × α) :=
  Sp.put d m k [x]

/-- Change one value. -/
def Sp.mod {α : Type} [DecidableEq α] (d : α) (m : List (Nat × α)) (k : Nat) (f : α → α) : List (Nat × α) :=
  Sp.set d m k (f (Sp.get d m k))

/-- The entries with keys from `base` below `base + n`. -/
def Sp.window {α : Type} (m : List (Nat × α)) (base n : Nat) : List (Nat × α) :=
  m.filter fun p => base ≤ p.1 && p.1 < base + n

/-- `n` consecutive values from `base`. -/
def Sp.range {α : Type} (d : α) (m : List (Nat × α)) (base n : Nat) : List α :=
  let w := Sp.window m base n
  (List.range n).map fun i => Sp.get d w (base + i)

/-- Write listed values one after another. -/
def Sp.puts {α : Type} [DecidableEq α] (d : α) (m : List (Nat × α)) (ps : List (Nat × α)) : List (Nat × α) :=
  ps.foldl (fun m p => Sp.set d m p.1 p.2) m

/-- Every value back to the default within a range. -/
def Sp.clear {α : Type} (m : List (Nat × α)) (base n : Nat) : List (Nat × α) :=
  m.filter fun p => p.1 < base || base + n ≤ p.1

/-- A range replaced by other entries. -/
def Sp.graft {α : Type} (m w : List (Nat × α)) (base n : Nat) : List (Nat × α) :=
  m.filter (fun p => p.1 < base) ++ w ++ m.filter (fun p => base + n ≤ p.1)

/-- Keys moved from `base` to `dest`. -/
def Sp.rekey {α : Type} (w : List (Nat × α)) (base dest : Nat) : List (Nat × α) := w.map fun p => (p.1 - base + dest, p.2)

/-- Two maps with no common key as one, by fuel. -/
def Sp.merge {α : Type} : Nat → List (Nat × α) → List (Nat × α) → List (Nat × α)
  | 0, xs, ys => xs ++ ys
  | _ + 1, [], ys => ys
  | _ + 1, x :: xs, [] => x :: xs
  | n + 1, x :: xs, y :: ys => if x.1 < y.1 then x :: Sp.merge n xs (y :: ys) else y :: Sp.merge n (x :: xs) ys

/-- The canonical form. -/
abbrev Sp.Wf {α : Type} (d : α) (m : List (Nat × α)) : Prop := m.Pairwise (fun p q => p.1 < q.1) ∧ ∀ p ∈ m, p.2 ≠ d

/-- The canonical form of a byte memory. -/
abbrev Memory.wf (m : Memory) : Prop := Sp.Wf (0 : Byte) m

def Memory.byte (m : Memory) (a : Nat) : Byte := Sp.get 0 m a
def Memory.bytes (m : Memory) (a n : Nat) : List Byte := Sp.range 0 m a n
def Memory.put (m : Memory) (a : Nat) (bs : List Byte) : Memory := Sp.put 0 m a bs

/-- A number read from `n` little-endian bytes. -/
def Memory.nat (m : Memory) (a n : Nat) : Nat := leNat (Memory.bytes m a n)

/-- A 64-bit word at `a`. -/
def Memory.word (m : Memory) (a : Nat) : W64 := BitVec.ofNat 64 (Memory.nat m a 8)

/-- An element of a list, or the default. -/
def nth {α : Type} (d : α) : List α → Nat → α
  | [], _ => d
  | x :: _, 0 => x
  | _ :: xs, n + 1 => nth d xs n

/-- Consecutive bytes joined into runs that stay within a 64 KiB page. -/
def runs (xs : List (Nat × Byte)) : List (Nat × List Byte) :=
  xs.foldr (fun p acc =>
    match acc with
    | (a, bs) :: rest => if a = p.1 + 1 && a % 65536 != 0 then (p.1, p.2 :: bs) :: rest else (p.1, [p.2]) :: acc
    | [] => [(p.1, [p.2])]) []

/-- A byte range cut at 64 KiB pages: (address, length) pieces, by fuel. -/
def pagePieces : Nat → Nat → Nat → List (Nat × Nat)
  | 0, _, _ => []
  | fuel + 1, a, n =>
    if n = 0 then []
    else
      let k := min n (65536 - a % 65536)
      (a, k) :: pagePieces fuel (a + k) (n - k)
def pieces (a n : Nat) : List (Nat × Nat) := pagePieces (n / 65536 + 2) a n

/-- Bits of a 64-bit word as a number. -/
def fieldOf (x : W64) (lo n : Nat) : Nat := bitsOf x.toNat lo n

/-- A number with `n` bits at `lo` replaced. -/
def putBits (x lo n v : Nat) : Nat := x - bitsOf x lo n * 2 ^ lo + v % 2 ^ n * 2 ^ lo

/-- Insertion into a list sorted by a key; equal keys keep their order. -/
def insertBy {α : Type} (le : α → α → Bool) (x : α) : List α → List α
  | [] => [x]
  | y :: ys => if le y x then y :: insertBy le x ys else x :: y :: ys

/-- A stable insertion sort. -/
def sortBy {α : Type} (le : α → α → Bool) (xs : List α) : List α := xs.foldl (fun acc x => insertBy le x acc) []

/-- Lexicographic order of keys. -/
def lexLe : List Nat → List Nat → Bool
  | [], _ => true
  | _ :: _, [] => false
  | a :: as, b :: bs => if a = b then lexLe as bs else a < b

/-- The ceiling of a quotient. -/
def ceilDiv (a b : Nat) : Nat := (a + b - 1) / b

end Sys2Proof.Machine
end

