-- ==== Sys2Proof/Machine/Float.lean ====
section
/-!
DEFINITION. Floating formats to the bit, exact values, and the one rounding of a result
(spec/04_number_formats.md R87 to R92, spec/05_arithmetic.md R107 to R117).
-/

namespace Sys2Proof.Machine

/-- A floating format (R87): width, exponent and fraction bits, bias, whether it has infinity and NaN, and its canonical
NaN (R89). -/
structure Fmt where
  w : Nat
  e : Nat
  f : Nat
  bias : Nat
  inf : Bool
  nan : Bool
  canon : Nat
deriving DecidableEq, Repr

def fp32 : Fmt := { w := 32, e := 8, f := 23, bias := 127, inf := true, nan := true, canon := 0x7FC00000 }
def fp16 : Fmt := { w := 16, e := 5, f := 10, bias := 15, inf := true, nan := true, canon := 0x7E00 }
def bf16 : Fmt := { w := 16, e := 8, f := 7, bias := 127, inf := true, nan := true, canon := 0x7FC0 }
def e4m3 : Fmt := { w := 8, e := 4, f := 3, bias := 7, inf := false, nan := true, canon := 0x7F }
def e5m2 : Fmt := { w := 8, e := 5, f := 2, bias := 15, inf := true, nan := true, canon := 0x7E }
def e3m2 : Fmt := { w := 6, e := 3, f := 2, bias := 3, inf := false, nan := false, canon := 0 }
def e2m3 : Fmt := { w := 6, e := 2, f := 3, bias := 1, inf := false, nan := false, canon := 0 }
def e2m1 : Fmt := { w := 4, e := 2, f := 1, bias := 1, inf := false, nan := false, canon := 0 }

/-- The float formats of codes 0 to 6 (R104). -/
def fmtOf (code : Nat) : Fmt := nth e2m1 [bf16, fp16, e4m3, e5m2, e3m2, e2m3, e2m1] code

/-- An exact value: (-1)^neg × m × 2^e, an infinity or a NaN. A zero keeps its sign. -/
inductive Val where
  | nan
  | inf (neg : Bool)
  | fin (neg : Bool) (m : Nat) (e : Int)
deriving DecidableEq, Repr

/-- The value of an encoding (R87, R90, R91). -/
def Fmt.value (t : Fmt) (x : Nat) : Val :=
  let s := bitOf x (t.w - 1)
  let xe := bitsOf x t.f t.e
  let fr := bitsOf x 0 t.f
  if xe = 2 ^ t.e - 1 && t.inf then (if fr = 0 then .inf s else .nan)
  else if xe = 2 ^ t.e - 1 && t.nan && fr = 2 ^ t.f - 1 then .nan
  else if xe = 0 then .fin s fr (1 - (t.bias : Int) - t.f)
  else .fin s (2 ^ t.f + fr) ((xe : Int) - t.bias - t.f)

def Val.isNan : Val → Bool
  | .nan => true
  | .inf _ => false
  | .fin _ _ _ => false
def Val.isInf : Val → Bool
  | .nan => false
  | .inf _ => true
  | .fin _ _ _ => false
def Val.isZero : Val → Bool
  | .nan => false
  | .inf _ => false
  | .fin _ m _ => m == 0
def Val.neg : Val → Val
  | .nan => .nan
  | .inf s => .inf !s
  | .fin s m e => .fin (!s) m e
def Val.sign : Val → Bool
  | .nan => false
  | .inf s => s
  | .fin s _ _ => s
/-- The value times 2^k, exactly. -/
def Val.scale (k : Int) : Val → Val
  | .nan => .nan
  | .inf s => .inf s
  | .fin s m e => .fin s m (e + k)
def Val.ofInt (x : Int) : Val := .fin (x < 0) x.natAbs 0

/-! ### GSTAT flags (R84) -/

def flagNV : Nat := 1
def flagOF : Nat := 2
def flagUF : Nat := 4
def flagNX : Nat := 8
def flagSCU : Nat := 16
def flagIOV : Nat := 32

/-- The union of flags. -/
def orFlags (a b : Nat) : Nat := a ||| b

/-- How a result is rounded: the mode of R108 (4 is dither), the dither pattern D of R112, .sat and FMT.E4N. -/
structure Rounding where
  mode : Nat
  d : Nat
  sat : Bool
  e4n : Bool
deriving DecidableEq, Repr

def rne : Rounding := { mode := 0, d := 0, sat := false, e4n := false }

/-- bitreverse5 of R112. -/
def bitrev5 (x : Nat) : Nat :=
  bitsOf x 4 1 + 2 * bitsOf x 3 1 + 4 * bitsOf x 2 1 + 8 * bitsOf x 1 1 + 16 * bitsOf x 0 1

/-- D of R112 for the place `p` and the phase. -/
def ditherD (p phase : Nat) : Nat := bitrev5 ((p + phase) % 32)

/-- m / 2^k rounded to an integer by the mode, and whether it was inexact (R108, R112). A discarded part far below the kept
bit acts as any non-zero part below 2^-8. -/
def roundShift (r : Rounding) (neg : Bool) (m k : Nat) : Nat × Bool :=
  let far := k > Nat.log2 m + 8
  let m' := if far then min m 1 else m
  let k' := if far then 8 else k
  let q := m' / 2 ^ k'
  let rem := m' % 2 ^ k'
  let f := rem * 32 / 2 ^ k'
  let below := rem * 32 % 2 ^ k' != 0
  let up :=
    match r.mode with
    | 0 => 2 * rem > 2 ^ k' || (2 * rem == 2 ^ k' && q % 2 == 1)
    | 1 => false
    | 2 => !neg
    | 3 => neg
    | _ => f > r.d || (f == r.d && below)
  if rem = 0 then (q, false) else (if up then q + 1 else q, true)

/-- m × 2^e rounded to a multiple of 2^q: the multiple and whether it was inexact. -/
def roundAt (r : Rounding) (neg : Bool) (m : Nat) (e q : Int) : Nat × Bool :=
  if q ≤ e then (m * 2 ^ (e - q).toNat, false) else roundShift r neg m (q - e).toNat

/-- The largest finite magnitude's encoding (R88). -/
def Fmt.maxMag (t : Fmt) : Nat :=
  if t.inf then (2 ^ t.e - 1) * 2 ^ t.f - 1 else if t.nan then 2 ^ (t.w - 1) - 2 else 2 ^ (t.w - 1) - 1

def Fmt.signBit (t : Fmt) (neg : Bool) : Nat := if neg then 2 ^ (t.w - 1) else 0
def Fmt.infinity (t : Fmt) (neg : Bool) : Nat := t.signBit neg + (2 ^ t.e - 1) * 2 ^ t.f

/-- The value of an overflowed result (R109, R110). -/
def Fmt.overflow (t : Fmt) (r : Rounding) (neg : Bool) : Nat :=
  let top := t.signBit neg + t.maxMag
  if !t.nan || r.sat then top
  else if !t.inf then (if r.e4n then t.canon else top)
  else if r.mode = 1 || (r.mode = 2 && neg) || (r.mode = 3 && !neg) then top
  else t.infinity neg

/-- One rounding of an exact value into a format: the encoding and the flags (R89, R91, R107 to R112). -/
def Fmt.round (t : Fmt) (r : Rounding) (v : Val) : Nat × Nat :=
  match v with
  | .nan => if t.nan then (t.canon, 0) else (t.maxMag, flagNV)
  | .inf s =>
    if t.inf then (t.infinity s, 0)
    else if t.nan && r.e4n && !r.sat then (t.canon, flagNV)
    else (t.signBit s + t.maxMag, flagNV)
  | .fin s m e =>
    if m = 0 then (t.signBit s, 0)
    else
      let lead : Int := (Nat.log2 m : Int) + e
      let emin : Int := 1 - (t.bias : Int)
      let q : Int := max lead emin - t.f
      let k := roundAt r s m e q
      let mag := ((q + t.f + t.bias) * 2 ^ t.f + k.1 - 2 ^ t.f).toNat
      if mag > t.maxMag then (t.overflow r s, orFlags flagOF flagNX)
      else (t.signBit s + mag, if k.2 then (if lead < emin then orFlags flagUF flagNX else flagNX) else 0)

/-! ### Exact operations (R114, R115) -/

/-- The exact product and NV for 0 × ∞. -/
def mulVal (a b : Val) : Val × Nat :=
  match a, b with
  | .nan, _ => (.nan, 0)
  | _, .nan => (.nan, 0)
  | .inf s, .inf t => (.inf (s != t), 0)
  | .inf s, .fin t m _ => if m = 0 then (.nan, flagNV) else (.inf (s != t), 0)
  | .fin s m _, .inf t => if m = 0 then (.nan, flagNV) else (.inf (s != t), 0)
  | .fin s m e, .fin t n f => (.fin (s != t) (m * n) (e + f), 0)

/-- The least exponent of finite terms. -/
def minExp : List Val → Int → Int
  | [], e => e
  | .fin _ _ f :: ts, e => minExp ts (min e f)
  | .nan :: ts, e => minExp ts e
  | .inf _ :: ts, e => minExp ts e

/-- A finite term as an integer multiple of 2^e. -/
def Val.atExp (e : Int) : Val → Int
  | .nan => 0
  | .inf _ => 0
  | .fin s m f => if s then -((m * 2 ^ (f - e).toNat : Nat) : Int) else (m * 2 ^ (f - e).toNat : Nat)

def anyExp : List Val → Int
  | [] => 0
  | .fin _ _ f :: _ => f
  | .nan :: ts => anyExp ts
  | .inf _ :: ts => anyExp ts

/-- The exact sum of terms, its zero sign by R114 (`down` says the mode is RDN), and NV for infinities of both signs. -/
def sumVals (down : Bool) (ts : List Val) : Val × Nat :=
  let pinf := ts.any fun t => t.isInf && !t.sign
  let ninf := ts.any fun t => t.isInf && t.sign
  if pinf && ninf then (.nan, flagNV)
  else if ts.any Val.isNan then (.nan, 0)
  else if pinf then (.inf false, 0)
  else if ninf then (.inf true, 0)
  else
    let e := minExp ts (anyExp ts)
    let s : Int := ts.foldl (fun acc t => acc + t.atExp e) 0
    if s = 0 then
      if ts.all Val.sign then (.fin true 0 e, 0)
      else if ts.all fun t => !t.sign then (.fin false 0 e, 0)
      else (.fin down 0 e, 0)
    else (.fin (s < 0) s.natAbs e, 0)

/-- a × b + c, formed exactly (R115: 0 × ∞ is invalid even with a NaN addend). -/
def fmaVal (down : Bool) (a b c : Val) : Val × Nat :=
  let p := mulVal a b
  if p.2 != 0 then (.nan, flagNV)
  else sumVals down [p.1, c]

/-- The order of two values that are no NaN; zeros are equal (R264). -/
def cmpVal (a b : Val) : Ordering :=
  match a, b with
  | .inf s, .inf t => if s = t then .eq else if s then .lt else .gt
  | .inf s, _ => if s then .lt else .gt
  | _, .inf t => if t then .gt else .lt
  | a, b => let e := minExp [a, b] (anyExp [a, b]); compare (a.atExp e) (b.atExp e)

/-- FMIN and FMAX on binary32 encodings (R116). -/
def minMax (wantMax : Bool) (a b : Nat) : Nat :=
  let x := fp32.value a
  let y := fp32.value b
  if x.isNan && y.isNan then fp32.canon
  else if x.isNan then b
  else if y.isNan then a
  else
    let aLess :=
      match cmpVal x y with
      | .lt => true
      | .gt => false
      | .eq => x.sign && !y.sign
    if aLess == wantMax then b else a

/-- A float-to-integer conversion: the integer and the flags (R117). -/
def toInt (r : Rounding) (lo hi : Int) (v : Val) : Int × Nat :=
  match v with
  | .nan => (0, flagNV)
  | .inf s => (if s then lo else hi, flagNV)
  | .fin s m e =>
    let big := 0 < m && (Nat.log2 m : Int) + e > 70
    let k := if big then (2 ^ 71, false) else roundAt r s m e 0
    let x : Int := if s then -(k.1 : Int) else k.1
    if x < lo then (lo, flagNV) else if x > hi then (hi, flagNV) else (x, if k.2 then flagNX else 0)

/-- A binary32 rounded to an integral value (FRND, R261). -/
def rndIntegral (r : Rounding) (x : Nat) : Nat × Nat :=
  match fp32.value x with
  | .nan => (fp32.canon, 0)
  | .inf s => (fp32.infinity s, 0)
  | .fin s m e =>
    let k := roundAt r s m e 0
    ((fp32.round rne (.fin s k.1 0)).1, if k.2 then flagNX else 0)

/-- FCLASS's one-hot class (R264). -/
def classOf (x : Nat) : Nat :=
  match fp32.value x with
  | .nan => 2 ^ 8
  | .inf s => if s then 2 ^ 0 else 2 ^ 7
  | .fin s m _ =>
    if m = 0 then (if s then 2 ^ 3 else 2 ^ 4)
    else if bitsOf x 23 8 = 0 then (if s then 2 ^ 2 else 2 ^ 5)
    else (if s then 2 ^ 1 else 2 ^ 6)

/-- floor(log2) of a positive finite value; 0 otherwise. -/
def Val.log2 : Val → Int
  | .fin _ m e => (Nat.log2 m : Int) + e
  | .nan => 0
  | .inf _ => 0

end Sys2Proof.Machine
end

