-- ==== Sys2Proof/Machine/Formats.lean ====
section
/-!
DEFINITION. Element and block formats: operand codes, slot rows, slot fills, scales and the element rules of QPACK and QUNPACK
(spec/04_number_formats.md R86, R92 to R106, spec/05_arithmetic.md R118 to R120, spec/13_engine_instructions.md R317,
spec/01_package_and_figures.md R25).
-/

namespace Sys2Proof.Machine

/-! ### Operand codes (R104) -/

/-- Bits of one slot element (R99, R102). -/
def slotBits (code : Nat) : Nat :=
  if [0, 1, 21].contains code then 16
  else if [6, 9, 10, 15, 19, 23].contains code then 4
  else if code = 20 then 32
  else 8

/-- Bits of the element's field within its slot position (R99). -/
def fieldBits (code : Nat) : Nat :=
  if [4, 5, 13, 14].contains code then 6 else if code = 18 then 5 else if code = 19 then 3 else slotBits code

/-- K of R25. -/
def depthOf (code : Nat) : Nat :=
  if [0, 1, 20].contains code then 1
  else if [6, 9, 10, 15, 19, 22].contains code then 4
  else if code = 23 then 8
  else 2

/-- Dense positions of a slot row (R99, R102). -/
def rowLen (code : Nat) : Nat :=
  if code = 21 then 128 else if code = 22 then 256 else if code = 23 then 512 else 2048 / slotBits code

/-- The float format of an element's field. -/
def elemFmt (code : Nat) : Fmt :=
  if code < 7 then fmtOf code
  else nth e2m1 [e4m3, e5m2, e3m2, e2m3, e2m1, e2m1, e2m1, e2m1, e2m1, fp32, bf16, e4m3, e2m1] (code - 11)

def isInt (code : Nat) : Bool := 7 ≤ code && code ≤ 10
def isMx (code : Nat) : Bool := 11 ≤ code && code ≤ 16
def isXb (code : Nat) : Bool := 17 ≤ code && code ≤ 19
def isSparse (code : Nat) : Bool := 21 ≤ code && code ≤ 23

/-- M of an XB format (R96). -/
def xbM (code : Nat) : Nat := if code = 17 then 7 else if code = 18 then 4 else 2

/-- emax of R118. -/
def emaxOf (code : Nat) : Int := nth 0 [8, 15, 4, 2, 2, 0] (code - 11)

/-- The operand pairs of R105 and whether the accumulator is INT32; none for a rejected pair. -/
def pairKind (sparse : Bool) (a b : Nat) : Option Bool :=
  let f (c : Nat) : Bool := c < 7 || (11 ≤ c && c ≤ 19)
  if sparse then
    if (a = 21 && b = 0) || (a = 22 && (b = 2 || b = 3)) || (a = 23 && b = 15) then some false else none
  else if f a && f b then some false
  else if isInt a && isInt b then some true
  else if a = 20 && b = 20 then some false
  else none

/-- The depth of a command's k-steps (R25). -/
def pairDepth (sparse : Bool) (a b : Nat) : Nat := if sparse then depthOf a else min (depthOf a) (depthOf b)

/-! ### Element values -/

/-- MX: scale × v; NaN under the scale 0xFF (R93, R94). -/
def mxValue (code fld c : Nat) : Val :=
  if c = 255 then .nan
  else if code = 16 then (Val.ofInt (signedOf 8 fld)).scale ((c : Int) - 133)
  else ((elemFmt code).value fld).scale ((c : Int) - 127)

/-- XB: c × 2^(E - 127 - σ - M + 1) (R96). -/
def xbValue (code fld e s : Nat) : Val :=
  let m := xbM code
  if e = 255 then .nan else (Val.ofInt (signedOf (m + 1) fld)).scale ((e : Int) - 127 - s - m + 1)

/-- The integer value of a field (R92). -/
def intValue (code fld : Nat) : Int :=
  if code = 7 then signedOf 8 fld else if code = 9 then signedOf 4 fld else fld

/-- The σ of element i of a block from the σ byte (R97). -/
def sigmaOf (sb i : Nat) : Nat := bitsOf sb (2 * (i / 8)) 2

/-- Element k of a slot row as a value; none where a sparse row keeps no value (R99, R100, R102, R123). Rows are the
numbers of their little-endian bytes. -/
def rowValue (code row scales k : Nat) : Option Val :=
  if isSparse code then
    let w := slotBits code
    let g := k / 4
    let i0 := bitsOf row (1024 + 4 * g) 2
    let i1 := bitsOf row (1024 + 4 * g + 2) 2
    let pick (j : Nat) : Val :=
      let fld := bitsOf row (w * j) w
      if code = 23 then mxValue 15 fld (bitsOf scales (8 * (k / 32)) 8) else (elemFmt code).value fld
    if i1 = k % 4 then some (pick (2 * g + 1)) else if i0 = k % 4 then some (pick (2 * g)) else none
  else
    let fld := bitsOf row (slotBits code * k) (fieldBits code)
    if isMx code then some (mxValue code fld (bitsOf scales (8 * (k / 32)) 8))
    else if isXb code then
      let j := k / 32
      some (xbValue code fld (bitsOf scales (16 * j) 8) (sigmaOf (bitsOf scales (16 * j + 8) 8) (k % 32)))
    else if isInt code then some (Val.ofInt (intValue code fld))
    else some ((elemFmt code).value fld)

/-- Whether group g of a sparse row has indices that do not ascend (R103). -/
def badGroup (row g : Nat) : Bool := bitsOf row (1024 + 4 * g + 2) 2 ≤ bitsOf row (1024 + 4 * g) 2

/-! ### Slot fills (R317) -/

/-- Fill formats that R317 lists; 24 to 30 raise a format fault. -/
def fillOk (f : Nat) : Bool := f < 24 || f = 31

/-- MB: memory bytes per slot row. -/
def fillBytes (f : Nat) : Nat :=
  if [4, 5, 13, 14].contains f then 192
  else if f = 17 then 272 else if f = 18 then 176 else if f = 19 then 224 else 256

/-- Elements of `w` bits of a number, `n` of them from bit `lo`. -/
def elemsAt (x lo w n : Nat) : List Nat := (List.range n).map fun i => bitsOf x (lo + w * i) w

/-- Elements packed at `w` bits each (R86). -/
def packElems (w : Nat) : List Nat → Nat
  | [] => 0
  | x :: xs => x + 2 ^ w * packElems w xs

/-- The slot row of one row's memory bytes, and its XB scale bytes. The bytes 192 to 255 of a sparse row, which R102 calls ignored and gives
no content, are filled with 0 (DESIGN CHOICE, notes/assumptions/129.md). -/
def fillRow (f : Nat) (raw : List Byte) : List Byte × List Byte :=
  let x := leNat raw
  if isXb f then
    let w := xbM f + 1
    let blk := 8 * (2 + 4 * w)
    let n := if f = 19 then 16 else 8
    let blocks := List.range n
    let fields := (blocks.map fun j => elemsAt x (blk * j + 16) w 32).flatten
    (leBytes 256 (packElems (slotBits f) fields), (blocks.map fun j => leBytes 2 (bitsOf x (blk * j) 16)).flatten)
  else if isSparse f then
    let w := slotBits f
    let v := if f = 21 then 48 else if f = 22 then 96 else 128
    let cap := 1024 / w
    let vals := (elemsAt x 256 w v ++ elemsAt x 1280 w v).take cap
    let idx := (elemsAt x 0 2 v ++ elemsAt x 1024 2 v).take cap
    (leBytes 128 (packElems w vals) ++ leBytes 64 (packElems 2 idx) ++ leBytes 64 0, [])
  else if fillBytes f = 192 then (leBytes 256 (packElems 8 (elemsAt x 0 6 256)), [])
  else (leBytes 256 x, [])

/-! ### Scales (R118, R120, R267, R268) -/

/-- An amax record read by QSCALE: NaN, an infinite input, and amax as an encoding (R268). -/
def readRec (x : Nat) : Bool × Bool × Nat :=
  let m := x % 2 ^ 31
  (m > 0x7F800000, bitOf x 31 || m = 0x7F800000, if m = 0x7F800000 then 0 else m)

/-- The MX scale code and flags (R118). -/
def mxScale (code x : Nat) : Nat × Nat :=
  let r := readRec x
  if r.1 then (255, 0)
  else if r.2.1 && code != 12 then (255, flagNV)
  else if r.2.2 = 0 then (0, 0)
  else
    let e := (fp32.value r.2.2).log2 - emaxOf code
    if e < -127 then (0, flagSCU) else ((min e 127 + 127).toNat, 0)

/-- The XB exponent, σ byte and flags (R120); `mx` holds the largest magnitude of each sub-block as an encoding. -/
def xbScale (code x : Nat) (mx : List Nat) : Nat × Nat × Nat :=
  let m := xbM code
  let r := readRec x
  if r.1 || r.2.1 then (255, 0, if r.2.1 then flagNV else 0)
  else if r.2.2 = 0 then (0, 255, 0)
  else
    let k := (fp32.value r.2.2).log2
    let e : Int := if k + 127 < 0 then 0 else k + 127
    let fits (q s : Nat) : Bool :=
      let v := fp32.value (nth 0 mx q % 2 ^ 31)
      !v.isNan && cmpVal v (.fin false (2 ^ m - 1) (e - 127 - m + 1 - s)) != .gt
    let sg (q : Nat) : Nat := if fits q 3 then 3 else if fits q 2 then 2 else if fits q 1 then 1 else 0
    (e.toNat, sg 0 + 4 * sg 1 + 16 * sg 2 + 64 * sg 3, if k + 127 < 0 then flagSCU else 0)

/-! ### QPACK and QUNPACK (R106, R119, R120, R269, R270) -/

/-- The codes of R106. -/
def quantOk (code : Nat) : Bool := code ≤ 8 || (11 ≤ code && code ≤ 19) || code = 24

/-- Elements per lane (R269). -/
def quantElems (code : Nat) : Nat :=
  if code < 2 then 2 else if [6, 15, 19].contains code then 8 else if code = 24 then 16 else 4

/-- A signed quotient rounded and clamped to lo .. hi; a clamp raises `clampFlags` (R119, R120). -/
def intField (r : Rounding) (lo hi : Int) (clampFlags : Nat) (v : Val) : Int × Nat :=
  match v with
  | .nan => (0, flagNV)
  | .inf s => (if s then lo else hi, flagNV)
  | .fin s m e =>
    let x := toInt r (-(2 ^ 80)) (2 ^ 80) (.fin s m e)
    if x.1 < lo then (lo, clampFlags) else if x.1 > hi then (hi, clampFlags) else x

/-- One element in its slot form; `scale` is c or E, `sg` the sub-block shift. -/
def quantise (code : Nat) (r : Rounding) (x scale sg : Nat) : Nat × Nat :=
  let v := fp32.value x
  if code < 7 then (fmtOf code).round r v
  else if code = 7 then let y := toInt r (-128) 127 v; (wrapOf 8 y.1, y.2)
  else if code = 8 then let y := toInt r 0 255 v; (wrapOf 8 y.1, y.2)
  else if code = 24 then let y := toInt r (-2) 1 v; (wrapOf 2 y.1, y.2)
  else if isMx code then
    if scale = 255 then (if code = 11 then 0x7F else if code = 12 then 0x7E else 0, 0)
    else if code = 16 then
      let y := intField r (-128) 127 (orFlags flagOF flagNX) (v.scale (133 - (scale : Int)))
      (wrapOf 8 y.1, y.2)
    else (elemFmt code).round r (v.scale (127 - (scale : Int)))
  else
    let m := xbM code
    if scale = 255 then (0, 0)
    else
      let y := intField r (-(2 ^ m)) (2 ^ m - 1) flagNX (v.scale (127 + sg + m - 1 - (scale : Int)))
      (wrapOf (m + 1) y.1, y.2)

/-- One element as binary32. -/
def dequantise (code : Nat) (r : Rounding) (fld scale sg : Nat) : Nat × Nat :=
  let v :=
    if code < 7 then (fmtOf code).value (fld % 2 ^ (fmtOf code).w)
    else if code = 7 then Val.ofInt (signedOf 8 fld)
    else if code = 8 then Val.ofInt (fld % 256 : Nat)
    else if code = 24 then Val.ofInt (signedOf 2 fld)
    else if isMx code then mxValue code (fld % 2 ^ fieldBits code) scale
    else xbValue code (fld % 2 ^ fieldBits code) scale sg
  fp32.round r v

end Sys2Proof.Machine
end

