-- ==== Sys2Proof/Machine/Matrix.lean ====
section
/-!
DEFINITION. The matrix array's k-steps and the word conversions of ACCRD and ACCWR (spec/05_arithmetic.md R121 to R124,
spec/04_number_formats.md R98, R103, spec/13_engine_instructions.md R313 to R316).
-/

namespace Sys2Proof.Machine

/-- The 128 rows of a slot as numbers of their little-endian bytes. -/
def slotRows (m : Memory) : List Nat := (List.range 128).map fun r => Memory.nat m (256 * r) 256

/-- floor(|t| / 2^q), signed: R121's truncation. -/
def truncTerm (q : Int) : Val → Int
  | .nan => 0
  | .inf _ => 0
  | .fin s m e =>
    let k : Nat := if q ≤ e then m * 2 ^ (e - q).toNat else m / 2 ^ (q - e).toNat
    if s then -(k : Int) else k

/-- R121 and R122: one summation of terms into a binary32 accumulator. -/
def sumTerms (terms : List Val) : Nat :=
  let pinf := terms.any fun t => t.isInf && !t.sign
  let ninf := terms.any fun t => t.isInf && t.sign
  if terms.any Val.isNan || (pinf && ninf) then fp32.canon
  else if pinf then fp32.infinity false
  else if ninf then fp32.infinity true
  else
    let nz := terms.filter fun t => !t.isZero
    match nz with
    | [] => if terms.all Val.sign then fp32.signBit true else 0
    | t :: ts =>
      let g := ts.foldl (fun g u => max g u.log2) t.log2
      let q := g - 28
      let s : Int := nz.foldl (fun acc u => acc + truncTerm q u) 0
      if s = 0 then 0 else (fp32.round rne (.fin (s < 0) s.natAbs q)).1

/-- The products of a k-step's operand pairs; a pruned position gives no term (R123). `later` is a pass after the first of
FP32X3, where a product with an infinite factor forms no term (R98). -/
def products (later : Bool) : List (Option Val) → List (Option Val) → List Val
  | some a :: as, some b :: bs =>
    if later && (a.isInf || b.isInf) then products later as bs else (mulVal a b).1 :: products later as bs
  | _ :: as, _ :: bs => products later as bs
  | _, _ => []

/-- One float k-step of one accumulator element. -/
def floatStep (later : Bool) (acc : Nat) (a b : List (Option Val)) : Nat :=
  sumTerms (fp32.value acc :: products later a b)

/-- A finite integer value. -/
def Val.toInt : Val → Int
  | .fin s m _ => if s then -(m : Int) else m
  | .nan => 0
  | .inf _ => 0

/-- One integer k-step of one element: the word and whether it wrapped (R124). -/
def intStep (acc : Nat) (a b : List (Option Val)) : Nat × Bool :=
  let s : Int := (products false a b).foldl (fun x t => x + t.toInt) (signedOf 32 acc)
  (wrapOf 32 s, s < -(2 ^ 31) || s ≥ 2 ^ 31)

/-- The leading 8 significant bits of a magnitude (R98). -/
def top8 (m : Nat) : Nat := let k := Nat.log2 m - 7; m / 2 ^ k * 2 ^ k

/-- Part `i` of the FP32X3 split (R98). A part that is 0 after the first is +0, which decides the sign of an element whose every term is
zero (R121): R98 gives it none (DESIGN CHOICE, notes/assumptions/72.md). -/
def partOf (i : Nat) (v : Val) : Val :=
  match v with
  | .nan => if i = 0 then .nan else .fin false 0 0
  | .inf s => if i = 0 then .inf s else .fin false 0 0
  | .fin s m e =>
    let h0 := top8 m
    let h1 := top8 (m - h0)
    let h := nth 0 [h0, h1, m - h0 - h1] i
    .fin (s && (i = 0 || h != 0)) h e

/-- The part pairs of a pass (R98). -/
def passParts (p : Nat) : List (Nat × Nat) := nth [] [[(0, 0)], [(0, 1), (1, 0)], [(0, 2), (1, 1), (2, 0)]] p

/-- A part of an infinite element forms no term after the first pass, so it stands as that infinity (R98). -/
def passTerm (p i : Nat) (v : Val) : Val := if p > 0 && v.isInf then v else partOf i v

/-- The operands of one k-step: `depth` dense positions from `depth × k` of a row. -/
def stepOperands (code depth k row scales : Nat) : List (Option Val) :=
  (List.range depth).map fun i => rowValue code row scales (depth * k + i)

/-- Every element of a tile, row by row, through a function of the row's and the column's operands. -/
def overTile {α β : Type} (f : Nat → α → α → β) (words : List Nat) (as bs : List α) : List β :=
  (as.zip (List.range 128)).flatMap fun (a, r) =>
    ((words.drop (128 * r)).take 128).zip bs |>.map fun (w, b) => f w a b

/-- k-step `k` (pass `p` for FP32X3) of a command with formats `fa`, `fb` on the words of a tile: the new words and IOV. -/
def kstep (fa fb depth k p : Nat) (words aRows bRows aScales bScales : List Nat) : List Nat × Bool :=
  let ops (code : Nat) (rows scales : List Nat) : List (List (Option Val)) :=
    (rows.zip scales).map fun (r, s) => stepOperands code depth k r s
  let as := ops fa aRows aScales
  let bs := ops fb bRows bScales
  if isInt fa then
    let out := overTile intStep words as bs
    (out.map (·.1), out.any (·.2))
  else if fa = 20 then
    let expand (left : Bool) (xs : List (Option Val)) : List (Option Val) :=
      (passParts p).map fun (i, j) => ((xs.head?.getD none).map fun v => passTerm p (if left then i else j) v)
    (overTile (floatStep (p > 0)) words (as.map (expand true)) (bs.map (expand false)), false)
  else (overTile (floatStep false) words as bs, false)

/-- Whether k-step `k` of a command that starts at `k0` consumes a group whose indices do not ascend (R103). -/
def indexFault (depth k0 k : Nat) (aRows : List Nat) : Bool :=
  let g0 := depth * k / 4
  let g1 := (depth * k + depth - 1) / 4
  (List.range (g1 - g0 + 1)).any fun i =>
    let g := g0 + i
    max k0 (4 * g / depth) == k && aRows.any fun row => badGroup row g

/-! ### ACCRD and ACCWR (R315, R316) -/

/-- Bytes of one output or input element. -/
def accWidth (fmt : Nat) : Nat := if fmt < 2 then 2 else if fmt = 31 then 4 else 1

/-- One word converted for output, and its flags; `col` is the word's column. -/
def accOut (fmt : Nat) (mode phase : Nat) (sat e4n : Bool) (col w : Nat) : List Byte × Nat :=
  if fmt = 31 then (leBytes 4 w, 0)
  else if fmt = 7 then
    let v := signedOf 32 w
    let c := max (-128) (min 127 v)
    (leBytes 1 (wrapOf 8 c), if c = v then 0 else flagNV)
  else
    let r := (fmtOf fmt).round { mode := mode, d := ditherD (col % 32) phase, sat := sat, e4n := e4n } (fp32.value w)
    (leBytes (accWidth fmt) r.1, r.2)

/-- One element read for input (R316). -/
def accIn (fmt x : Nat) : Nat :=
  if fmt = 31 then x else (fp32.round rne ((fmtOf fmt).value x)).1

end Sys2Proof.Machine
end

