-- ==== Sys2Proof/Machine/Ops.lean ====
section
/-!
DEFINITION. The named operations on groups, registers and pending writes; landing; raising faults, taking an exception on a
command core and entering a user handler (spec/02_execution_model.md R46 to R51, spec/03_programmer_state.md R70 to R76, R83,
R84, spec/17_privilege_traps_preemption.md R363, R366 to R373).
-/

namespace Sys2Proof.Machine

/-! ### Parts of the state by key -/

/-- A team's key (a twin's index has bit 21 set, R440). -/
def teamKey (tr tm : Nat) : Nat := tr * 2 ^ 22 + tm
/-- A compute group's key; keys below 16 are the command cores. -/
def groupKey (tr tm g : Nat) : Nat := 16 + (teamKey tr tm * 64 + g)

def State.group (s : State) (k : Nat) : Group := Sp.get {} s.grid.groups k
def State.train (s : State) (tr : Nat) : Train := Sp.get {} s.grid.trains tr
def State.team (s : State) (k : Nat) : Team := Sp.get {} s.grid.teams k
def State.core (s : State) (c : Nat) : Core := Sp.get {} s.grid.cores c
def State.cmdCore (s : State) (k : Nat) : CmdCore := Sp.get {} s.fw.cmds k
def State.launch (s : State) (l : Nat) : Launch := Sp.get {} s.fw.launches l

def Grid.setGroup (g : Grid) (k : Nat) (x : Group) : Grid := { g with groups := Sp.set {} g.groups k x }
def Grid.setTrain (g : Grid) (tr : Nat) (x : Train) : Grid := { g with trains := Sp.set {} g.trains tr x }
def Grid.setTeam (g : Grid) (k : Nat) (x : Team) : Grid := { g with teams := Sp.set {} g.teams k x }
def Grid.setCore (g : Grid) (c : Nat) (x : Core) : Grid := { g with cores := Sp.set {} g.cores c x }

def State.setGroup (s : State) (k : Nat) (x : Group) : State := { s with grid := s.grid.setGroup k x }
def State.setTrain (s : State) (tr : Nat) (x : Train) : State := { s with grid := s.grid.setTrain tr x }
def State.setTeam (s : State) (k : Nat) (x : Team) : State := { s with grid := s.grid.setTeam k x }
def State.setCore (s : State) (c : Nat) (x : Core) : State := { s with grid := s.grid.setCore c x }
def State.setCmdCore (s : State) (k : Nat) (x : CmdCore) : State := { s with fw := { s.fw with cmds := Sp.set {} s.fw.cmds k x } }
def State.setLaunch (s : State) (l : Nat) (x : Launch) : State :=
  { s with fw := { s.fw with launches := Sp.set {} s.fw.launches l x } }

def State.modGroup (s : State) (k : Nat) (f : Group → Group) : State := s.setGroup k (f (s.group k))
def State.modTrain (s : State) (tr : Nat) (f : Train → Train) : State := s.setTrain tr (f (s.train tr))
def State.modTeam (s : State) (k : Nat) (f : Team → Team) : State := s.setTeam k (f (s.team k))
def State.modCore (s : State) (c : Nat) (f : Core → Core) : State := s.setCore c (f (s.core c))
def State.modCmdCore (s : State) (k : Nat) (f : CmdCore → CmdCore) : State := s.setCmdCore k (f (s.cmdCore k))
def State.modLaunch (s : State) (l : Nat) (f : Launch → Launch) : State := s.setLaunch l (f (s.launch l))

/-- The issuing group, its train and its team. -/
def State.me (s : State) : Group := s.group s.cur.key
def State.myTrain (s : State) : Train := s.train s.cur.train
def State.myTeamKey (s : State) : Nat := teamKey s.cur.train s.cur.team
def State.myTeam (s : State) : Team := s.team s.myTeamKey
/-- The issuing train's internal clock. -/
def State.now (s : State) : Nat := s.myTrain.clk
/-- A free value's counter advanced. -/
def State.spend (s : State) : State := { s with fresh := s.fresh + 1 }

/-- PODCFG's fields (R453). -/
def State.pkg (s : State) : Nat := fieldOf s.sys.podcfg 0 6
def State.rpos (s : State) : Nat := fieldOf s.sys.podcfg 8 6
def State.psize (s : State) : Nat := fieldOf s.sys.podcfg 16 7
def State.form (s : State) : Bool := fieldOf s.sys.podcfg 24 1 == 1

/-! ### Groups: slots, widths, masks (R37, R72) -/

def Group.slot (g : Group) (alt : Bool) : PcSlot := if alt then g.alt else g.pri
def Group.setSlot (g : Group) (alt : Bool) (p : PcSlot) : Group := if alt then { g with alt := p } else { g with pri := p }
/-- Bits of every lane of a width. -/
def laneMask (w : Nat) : W64 := BitVec.ofNat 64 (2 ^ w - 1)
def Group.lanes (g : Group) : W64 := laneMask g.width
def PcSlot.live (p : PcSlot) : Bool := p.mask != 0
/-- Issuable (R41). -/
def PcSlot.issuable (p : PcSlot) : Bool := p.live && !p.waiting

def bitAt (x : W64) (l : Nat) : Bool := bitOf x.toNat l
/-- The lanes below `w` whose bit is set, ascending. -/
def lanesOf (w : Nat) (x : W64) : List Nat := (List.range w).filter fun l => bitAt x l

/-- m0 reads as every lane, another mask as its bits below the width (R72). -/
def Group.readMask (g : Group) (m : Nat) : W64 := if m = 0 then g.lanes else Sp.get 0 g.mreg m &&& g.lanes
/-- c0 reads 1 (R72). -/
def Group.readCond (g : Group) (c : Nat) : Bool := if c = 0 then true else Sp.get false g.creg c

def Group.readVec (g : Group) (r l : Nat) : W32 := Sp.get 0 g.vreg (64 * r + l)
/-- Every lane of a vector register. -/
def Group.vec (g : Group) (r : Nat) : List W32 := Sp.range 0 g.vreg (64 * r) g.width

/-! ### FMT and GSTAT fields (R83, R84) -/

def fmtA (f : W32) : Nat := bitsOf f.toNat 0 5
def fmtB (f : W32) : Nat := bitsOf f.toNat 5 5
def fmtQ (f : W32) : Nat := bitsOf f.toNat 10 5
def fmtRnd (f : W32) : Nat := bitsOf f.toNat 15 3
def fmtE4n (f : W32) : Bool := bitOf f.toNat 18
def fmtPh (f : W32) : Nat := bitsOf f.toNat 19 5
def fmtAs (f : W32) : Nat := bitsOf f.toNat 24 4
def fmtBs (f : W32) : Nat := bitsOf f.toNat 28 4

/-- PH advanced by 1 modulo 32 (R113). -/
def advancePh (f : W32) : W32 := BitVec.ofNat 32 (putBits f.toNat 19 5 (fmtPh f + 1))
/-- The selected bits replaced. -/
def blend32 (old sel new : W32) : W32 := (old &&& ~~~sel) ||| (new &&& sel)
def blend64 (old sel new : W64) : W64 := (old &&& ~~~sel) ||| (new &&& sel)

/-! ### Landing (R49, R83, R84) -/

/-- A register bank's key of a trap-bank register: 16 per level on a command core (R363). -/
def trapKey (level r : Nat) : Nat := 16 * level + r

/-- What a landing does to its group's registers. FMT and PH writes go to the slot position that issued them, also where
that slot has since been merged, popped or pushed: the spec says nothing of it (DESIGN CHOICE, notes/assumptions/46.md). -/
def Group.land (g : Group) : Landing → Group
  | .vec r v => { g with vreg := Sp.puts 0 g.vreg (v.map fun p => (64 * r + p.1, p.2)) }
  | .scal r x => match x with
    | some v => { g with sreg := Sp.set 0 g.sreg r v }
    | none => g
  | .trapr r x => match x with
    | some v => { g with treg := Sp.set 0 g.treg r v }
    | none => g
  | .mask r sel val => { g with mreg := Sp.set 0 g.mreg r (blend64 (Sp.get 0 g.mreg r) (sel &&& g.lanes) val) }
  | .cond r x => match x with
    | some v => { g with creg := Sp.set false g.creg r v }
    | none => g
  | .gstatClear x => { g with gstat := g.gstat &&& ~~~x }
  | .gstatSet x => { g with gstat := g.gstat ||| x }
  | .ph alt => g.setSlot alt { g.slot alt with fmt := advancePh (g.slot alt).fmt }
  | .fmt alt sel val => g.setSlot alt { g.slot alt with fmt := blend32 (g.slot alt).fmt sel val }
  | .tvec a => { g with tvec := a }
  | .tb _ => g
  | .claim _ _ _ => g
  | .unclaim _ => g
  | .kp _ _ _ => g

/-- Slots claimed by the team on a core (R309). -/
def Team.claimed (t : Team) (core : Nat) : Nat := Sp.get 0 t.claims core
def Team.setClaims (t : Team) (core mask : Nat) : Team := { t with claims := Sp.set 0 t.claims core mask }

/-- A landing of group `key`. -/
def State.land (s : State) (key : Nat) (w : Landing) : State :=
  let g := s.group key
  let tk := teamKey g.train g.team
  match w with
  | .tb x => s.modTeam tk fun t => { t with tb := x }
  | .claim m k r =>
    let taken := s.grid.teams.any fun p =>
      p.1 != tk && p.2.live && !p.2.ended && !p.2.saved && p.2.train == g.train && p.2.claimed g.core &&& m != 0
    let x : W64 := if taken then 0 else 1
    let s := s.setGroup key (g.land (if k = 2 then .trapr r (some x) else .scal r (some x)))
    if taken then s else s.modTeam tk fun t => t.setClaims g.core (t.claimed g.core ||| m)
  | .unclaim m => s.modTeam tk fun t => t.setClaims g.core (t.claimed g.core - (t.claimed g.core &&& m))
  | .kp c tile x => s.modCore c fun k => { k with kp := Sp.set 0 k.kp tile x }
  | w => s.setGroup key (g.land w)

/-- A write of the issuing group that lands `lat` vc after issue; a command core's registers are interlocked, so there it
lands at once (R363). -/
def State.later (s : State) (lat : Nat) (w : Landing) : State :=
  if s.cur.cmd then s.land s.cur.key w
  else
    let p : Pend := { train := s.cur.train, due := s.now + lat, key := s.cur.key, what := w }
    { s with grid := { s.grid with pend := s.grid.pend ++ [p] } }

/-! ### Scalars, specials and the trap bank (R75, R76, R363) -/

/-- The trap bank that operands 112 to 127 name: the current level's on a command core, the group's in a handler. -/
def State.bank (s : State) : Option Nat :=
  if s.cur.cmd then some (s.cmdCore s.cur.key).level else if s.me.handler.isSome then some 0 else none

/-- ACCG / 4: the tiles of a partition word (R77, R78). -/
def tilesOf (part : W32) : Nat := bitsOf part.toNat 8 8 / 4

/-- The core of a group as its programs and its memory see it: a twin's is its primary's, for its reads are served by the primary's views
(R441), and what it computes equals what its primary computes (R442). -/
def State.readCore (s : State) (g : Group) : Nat :=
  let tk := teamKey g.train g.team
  if (s.team tk).twin then (s.team (teamKey g.train (g.team % 2 ^ 21))).core + (g.core - (s.team tk).core) else g.core

/-- The read-only specials (R75), a twin's those of its primary; on a command core %core is its index, %bc and %seq are the package's (R298,
R363), and those that only groups of trains have read 0 (DESIGN CHOICE, notes/assumptions/92.md). -/
def State.special (s : State) (n : Nat) : W64 :=
  let g := s.me
  let core := if s.cur.cmd then s.cur.key else s.readCore g
  if s.cur.cmd then
    if n = 131 then BitVec.ofNat 64 core
    else if n = 134 then BitVec.ofNat 64 s.pkg
    else if n = 136 then s.bc
    else if n = 139 then s.pod.top
    else if n = 156 then BitVec.ofNat 64 g.gstat.toNat
    else 0
  else
    if n = 129 then BitVec.ofNat 64 g.idx
    else if n = 130 then BitVec.ofNat 64 s.myTeam.idx
    else if n = 131 then BitVec.ofNat 64 core
    else if n = 132 then BitVec.ofNat 64 (core / 8)
    else if n = 133 then BitVec.ofNat 64 (core / 64)
    else if n = 134 then BitVec.ofNat 64 s.pkg
    else if n = 135 then s.myTrain.vc
    else if n = 136 then s.bc
    else if n = 137 then s.myTeam.tb
    else if n = 138 then s.myTrain.qt
    else if n = 139 then s.myTrain.seq
    else if 140 ≤ n && n ≤ 155 then
      if n - 140 < tilesOf s.myTrain.desc.part then Sp.get 0 (s.core g.core).kp (n - 140) else 0
    else if n = 156 then BitVec.ofNat 64 g.gstat.toNat
    else 0

/-- A scalar operand. -/
def State.scalar (s : State) (n : Nat) : W64 :=
  if 128 ≤ n then s.special n
  else if 112 ≤ n then
    match s.bank with
    | some l => Sp.get 0 s.me.treg (trapKey l (n - 112))
    | none => Sp.get 0 s.me.sreg n
  else Sp.get 0 s.me.sreg n

/-- The landing that writes scalar destination `n`. -/
def State.scalarDst (s : State) (n : Nat) (x : Option W64) : Landing :=
  if 112 ≤ n then
    match s.bank with
    | some l => .trapr (trapKey l (n - 112)) x
    | none => .scal n x
  else .scal n x

/-- The destination of a wait, fixed at issue: a scalar number, or 128 + the number of a trap-bank register in a handler (R76). -/
def State.boundDst (s : State) (n : Nat) : Nat := if !s.cur.cmd && 112 ≤ n && s.me.handler.isSome then n + 16 else n
/-- The bank (1 scalar, 2 trap) and register of such a destination. -/
def boundReg (n : Nat) : Nat × Nat := if 128 ≤ n then (2, n - 128) else (1, n)

/-! ### Pending writes (R50) -/

/-- A destination register. -/
inductive Dst where
  | vec (r : Nat)
  | scal (r : Nat)
  | mask (r : Nat)
  | cond (r : Nat)
deriving DecidableEq, Repr

/-- Whether a landing writes a register: kind 0 vector, 1 scalar, 2 trap bank, 3 mask, 4 condition. -/
def Landing.register : Landing → Option (Nat × Nat)
  | .vec r _ => some (0, r)
  | .scal r _ => some (1, r)
  | .trapr r _ => some (2, r)
  | .mask r _ _ => some (3, r)
  | .cond r _ => some (4, r)
  | .gstatClear _ => none
  | .gstatSet _ => none
  | .ph _ => none
  | .fmt _ _ _ => none
  | .tvec _ => none
  | .tb _ => none
  | .claim _ k r => some (k, r)
  | .unclaim _ => none
  | .kp _ _ _ => none

def State.dstReg (s : State) : Dst → Nat × Nat
  | .vec r => (0, r)
  | .scal r => ((s.scalarDst r none).register).getD (1, r)
  | .mask r => (3, r)
  | .cond r => (4, r)

/-- Whether a register of the issuing group has a pending write. -/
def State.isPending (s : State) (d : Dst) : Bool :=
  let r := s.dstReg d
  s.grid.pend.any (fun p => p.key == s.cur.key && p.what.register == some r) ||
  s.grid.owed.any fun o => o.key == s.cur.key && (o.kind, o.reg) == r

/-- Note a write whose landing vc is not fixed yet. -/
def State.owe (s : State) (d : Dst) : State :=
  let r := s.dstReg d
  { s with grid := { s.grid with owed := s.grid.owed ++ [{ key := s.cur.key, kind := r.1, reg := r.2 }] } }

def eraseFirst {α : Type} (p : α → Bool) : List α → List α
  | [] => []
  | x :: xs => if p x then xs else x :: eraseFirst p xs

/-- The first element that a test holds of, changed. -/
def modFirst {α : Type} (p : α → Bool) (f : α → α) : List α → List α
  | [] => []
  | x :: xs => if p x then f x :: xs else x :: modFirst p f xs

/-- A noted write lands or becomes due. -/
def State.settleOwed (s : State) (key : Nat) (r : Nat × Nat) : State :=
  { s with grid := { s.grid with owed := eraseFirst (fun o => o.key == key && (o.kind, o.reg) == r) s.grid.owed } }

/-! ### Faults (R366, R371) -/

/-- A fault's code, lowest failing lane (255 for none), the code of TRAP or BRK, t2, and whether it is one of the TALIGNs that
fault together (R58). -/
structure Flt where
  code : Nat
  lane : Nat := 255
  tcode : Nat := 0
  t2 : W64 := 0
  align : Bool := false
deriving DecidableEq, Repr

def fltIllegal (s : State) : Flt := { code := 1, t2 := s.cur.word }

/-- t0 of R371. -/
def trapWord0 (code lane tcode level : Nat) : W64 := BitVec.ofNat 64 (code + 256 * lane + 65536 * tcode + 2 ^ 62 * level)
/-- t1 of R371. -/
def trapWord1 (resume : Addr48) (alt : Bool) : W64 := BitVec.ofNat 64 (resume.toNat + 2 ^ 48 * alt.toNat)

/-- Write t0 to t3 of a bank; t4 to t15 keep their values (R371). -/
def Group.writeBank (g : Group) (level : Nat) (t0 t1 t2 t3 : W64) : Group :=
  { g with treg := Sp.set 0 (Sp.set 0 (Sp.set 0 (Sp.set 0 g.treg (trapKey level 0) t0) (trapKey level 1) t1)
      (trapKey level 2) t2) (trapKey level 3) t3 }

/-- bc of a cell frame, which starts at a multiple of it (R181). -/
def cellFrame : Nat := 64

/-- HALT with .pkg (R392, R459): every train ends at its next boundary, the tap stops, the ports stop at the next frame, every core stops,
and BOOTST reads HALTED; `cause` is written where the halt has one (R363, R458). -/
def State.haltPackage (s : State) (cause : Option Nat) : State :=
  { s with
    grid := { s.grid with trains := s.grid.trains.map fun p => (p.1, { p.2 with endAll := true }) }
    pod := { s.pod with stopped := true, stopBc := (s.bc.toNat / cellFrame + 1) * cellFrame }
    fw := { s.fw with cmds := s.fw.cmds.map fun p => (p.1, { p.2 with on := false }) }
    sys := { s.sys with boot := 15, cause := cause.getD s.sys.cause } }

/-- Taking an exception on a command core (R363, R371): a trap or fault at level L enters L + 1 at its vector, with L + 1's
bank written; at M-level, or where the vector is 0, the package halts with cause 8. -/
def State.enterLevel (s : State) (k : Nat) (resume : Addr48) (alt : Bool) (f : Flt) : State :=
  let c := s.cmdCore k
  let vec := if c.level = 0 then c.svec else c.mvec
  if 2 ≤ c.level || vec = 0 then s.haltPackage (some 8)
  else
    let up := c.level + 1
    let g := s.group k
    let g := g.writeBank up (trapWord0 f.code f.lane f.tcode c.level) (trapWord1 resume alt) f.t2 0
    let g := g.setSlot false { g.pri with pc := BitVec.ofNat 48 vec.toNat }
    (s.setGroup k g).modCmdCore k fun c => { c with level := up }

/-- A fault of the issuing instruction: it does not issue. On a compute core the record waits for the end of the vc
(R367, R369); on a command core the next level is entered. -/
def State.raiseAt (s : State) (p : Nat) (pvc : W64) (resume : Addr48) (f : Flt) : State :=
  if s.cur.cmd then { s with cur := { s.cur with failed := true } }.enterLevel s.cur.key resume s.cur.alt f
  else
    let r : FaultRec :=
      { team := s.cur.team, group := s.me.idx, key := s.cur.key, code := f.code, lane := f.lane, tcode := f.tcode,
        resume := resume, alt := s.cur.alt, t2 := f.t2, p := p, pvc := pvc, align := f.align }
    { (s.modTrain s.cur.train fun t => { t with faults := t.faults ++ [r] }) with cur := { s.cur with failed := true } }

/-- A fault of the instruction at issue. -/
def State.raise (s : State) (f : Flt) : State := (s.raiseAt s.now s.myTrain.vc s.cur.addr f).spend

/-- The first failing check raises its fault and the instruction has no effect; otherwise it has its effect (R208). -/
def attempt (s : State) (checks : List (Option Flt)) (effect : State → State) : Host.Outcome State Fault Refusal :=
  .next (match checks.findSome? id with
    | some f => s.raise f
    | none => effect s)

/-- A check that fails with `f` unless `c` holds. -/
def check (c : Bool) (f : Flt) : Option Flt := if c then none else some f

/-- Entry of a user handler at point `p` (R371, R372). -/
def State.enterHandler (s : State) (r : FaultRec) (clk : Nat) : State :=
  let g := s.group r.key
  let g := g.writeBank 0 (trapWord0 r.code r.lane r.tcode 0) (trapWord1 r.resume r.alt) r.t2 r.pvc
  let g := g.setSlot r.alt { g.slot r.alt with pc := g.tvec }
  s.setGroup r.key { g with handler := some r.alt, hold := max g.hold (clk + 8), halted := false }

/-! ### Checks 2 to 4 of R208 that read the state -/

/-- Vector registers within the issuing role's allotment (R71) and not the 25th instruction of a run (R45). -/
def chkRegs (s : State) (vs : List Nat) : Option Flt :=
  let full := !s.cur.cmd && (Sp.get {} s.grid.issue s.cur.slot).count ≥ 24
  check (vs.all (fun v => v < s.me.allot) && !full) (fltIllegal s)

/-- An instruction that names state only trains have (R363). -/
def chkTrain (s : State) : Option Flt := check (!s.cur.cmd) (fltIllegal s)

/-- Class 6 and TBASE need a conductor group (R43). -/
def chkRole (s : State) : Option Flt := check s.me.conductor { code := 4 }

/-- A class 7 instruction of a level on a command core; a privilege fault below it and on compute cores (R365, R382). -/
def chkLevel (s : State) (level : Nat) : Option Flt :=
  check (s.cur.cmd && level ≤ (s.cmdCore s.cur.key).level) { code := 5 }

/-- No destination has a pending write (R50); a command core is interlocked (R363). -/
def chkPend (s : State) (ds : List Dst) : Option Flt :=
  check (s.cur.cmd || ds.all fun d => !s.isPending d) { code := 10 }

/-! ### Executing (R73, R200) -/

/-- The active lanes of a lane instruction. -/
def State.active (s : State) (h : Head) : W64 :=
  let g := s.me
  let m := g.readMask h.pred
  (g.slot s.cur.alt).mask &&& (if h.pn then ~~~m else m) &&& g.lanes

/-- Whether an instruction predicated by a condition executes. -/
def State.holds (s : State) (h : Head) : Bool := s.me.readCond h.pred != h.pn

/-- The issuing slot's FMT. -/
def State.fmt (s : State) : W32 := (s.me.slot s.cur.alt).fmt

/-- The issuing slot's PC set by a taken transfer, which ends the run (R45, R237). -/
def State.jump (s : State) (a : Addr48) : State :=
  let s := s.modGroup s.cur.key fun g => g.setSlot s.cur.alt { g.slot s.cur.alt with pc := a }
  { s with cur := { s.cur with taken := true } }

/-- The event log. -/
def State.note (s : State) (e : Event) : State := { s with fw := { s.fw with events := s.fw.events ++ [e] } }

/-- An error counter incremented, saturating (R407). -/
def State.bump (s : State) (bank c : Nat) : State :=
  let k := 32 * bank + c
  let v := (Sp.get 0 s.sys.counters k).toNat
  { s with sys := { s.sys with counters := Sp.set 0 s.sys.counters k (BitVec.ofNat 64 (if v + 1 < 2 ^ 64 then v + 1 else v)) } }

/-- The bank of an owner id; bank 0 where it has none (R407). -/
def State.bankOf (s : State) (owner : Nat) : Nat :=
  ((s.sys.banks.find? fun p => p.2 == owner && owner != 0).map (·.1)).getD 0

/-- An event of a structure that belongs to an owner id: counter `c` of its bank. Where the id has no bank, an error (counters 0 to 4)
is one of a system-owned page or shared structure, counter 10 of bank 0 (R408, R409). -/
def State.bumpOwner (s : State) (owner c : Nat) : State :=
  if s.bankOf owner != 0 then s.bump (s.bankOf owner) c else if c ≤ 4 then s.bump 0 10 else s

end Sys2Proof.Machine
end

