-- ==== Sys2Proof/Machine/Operands.lean ====
section
/-!
DEFINITION. Operand forms: scalar and vector sources, immediates, code targets, per-lane addresses, and the landing of a lane
instruction's result (spec/09_instruction_encoding_and_assembly.md R199, R201, R204, spec/10_scalar_and_control_instructions.md
R228, R236, spec/11_vector_instructions.md R251 to R255, spec/12_memory_and_synchronisation_instructions.md R280).
-/

namespace Sys2Proof.Machine

/-! ### Scalar sources (R199, R228, R277) -/

end Sys2Proof.Machine

namespace Sys2Proof
open Machine

/-- The second source of a scalar instruction: IMM32 is sign-extended (R228). -/
def Src.val (s : State) : Src → W64
  | .reg n => s.scalar n
  | .imm32 x => x.signExtend 64
  | .imm64 x => x

/-- The same with IMM32 zero-extended: WAITC, CNTADD, YIELD and DWAIT (R277). -/
def Src.uval (s : State) : Src → W64
  | .reg n => s.scalar n
  | .imm32 x => x.zeroExtend 64
  | .imm64 x => x

/-- A 32-bit operand that is a scalar's low half or IMM32 (SETFMT, BCAST, GETLN and SETLN). -/
def VSrc.low (s : State) : VSrc → W32
  | .reg n => (s.scalar n).truncate 32
  | .imm x => x

/-- A signed operand that is a scalar or IMM32 (TRIM). -/
def VSrc.signed (s : State) : VSrc → Int
  | .reg n => (s.scalar n).toInt
  | .imm x => x.toInt

/-- MOVI's value (R233). -/
def MovImm.val : MovImm → W64
  | .imm16 x => x.signExtend 64
  | .imm32 x => x.signExtend 64
  | .imm64 x => x

end Sys2Proof

namespace Sys2Proof.Machine

/-! ### Code addresses (R204, R236) -/

/-- An address and a sign-extended displacement, modulo 2^48. -/
def plusDisp (a : Addr48) (x : W32) : Addr48 := a + x.signExtend 48

/-- The next address of an instruction of `n` bytes at `x`: block offset 28 is skipped. -/
def nextAddr (x : Addr48) (n : Nat) : Addr48 :=
  let y := x + BitVec.ofNat 48 n
  if y.toNat % 32 = 28 then y + 4 else y

/-- An address that no transfer may name (R205). -/
def badTarget (a : Addr48) : Bool := a.toNat % 4 != 0 || a.toNat % 32 == 28

end Sys2Proof.Machine

namespace Sys2Proof
open Machine

/-- The target of a control transfer. -/
def Target.addr (s : State) : Target → Addr48
  | .reg n => (s.scalar n).truncate 48
  | .rel x => plusDisp s.cur.addr x
  | .abs a => a

end Sys2Proof

namespace Sys2Proof.Machine

/-! ### Vector sources (R251, R255) -/

end Sys2Proof.Machine

namespace Sys2Proof
open Machine

/-- Every lane of the second source of a vector instruction. -/
def VSrc.vec (s : State) : VSrc → List W32
  | .reg n => s.me.vec n
  | .imm x => List.replicate s.me.width x

/-- The vector registers a source names. -/
def VSrc.vregs : VSrc → List Nat
  | .reg n => [n]
  | .imm _ => []

end Sys2Proof

namespace Sys2Proof.Machine

/-- Every lane of a 64-bit pair. -/
def State.pair (s : State) (n : Nat) : List W64 :=
  (s.me.vec n).zipWith (fun lo hi => hi.append lo) (s.me.vec (n + 1))

/-! ### Landing of lane results (R252) -/

/-- The values of the lanes in `m`, each with its lane. -/
def pick {α : Type} (w : Nat) (m : W64) (xs : List α) : List (Nat × α) :=
  ((List.range w).zip xs).filter fun p => bitAt m p.1

/-- A vector result: the active lanes receive it, the others keep their values. -/
def State.landVec (s : State) (h : Head) (lat dst : Nat) (xs : List W32) : State :=
  s.later lat (.vec dst (pick s.me.width (s.active h) xs))

/-- A pair result. -/
def State.landPair (s : State) (h : Head) (lat dst : Nat) (xs : List W64) : State :=
  (s.landVec h lat dst (xs.map fun x : W64 => x.truncate 32)).landVec h lat (dst + 1) (xs.map fun x : W64 => (x >>> 32).truncate 32)

/-- A list of bits as a 64-bit word, bit 0 first. -/
def ballot (bs : List Bool) : W64 :=
  BitVec.ofNat 64 (bs.foldr (fun b acc => 2 * acc + b.toNat) 0)

/-- A mask result: bit l of each active lane. -/
def State.landMask (s : State) (h : Head) (lat dst : Nat) (bs : List Bool) : State :=
  s.later lat (.mask dst (s.active h) (ballot bs))

/-- Whether a lane instruction executes: some lane is active (R209). -/
def State.execs (s : State) (h : Head) : Bool := s.active h != 0

/-- A scalar result of a lane instruction: written only when some lane is active. -/
def State.landLaneScalar (s : State) (h : Head) (lat dst : Nat) (x : W64) : State :=
  s.later lat (s.scalarDst dst (if s.execs h then some x else none))

/-- A scalar result of an instruction predicated by a condition (R73). -/
def State.landScalar (s : State) (h : Head) (lat dst : Nat) (x : W64) : State :=
  s.later lat (s.scalarDst dst (if s.holds h then some x else none))

/-! ### Lane addresses (R280) -/

/-- SZ's bytes. -/
def sizeOf (sz : Nat) : Nat := nth 8 [4, 2, 1] sz

end Sys2Proof.Machine

namespace Sys2Proof
open Machine

/-- The vector register of an address. -/
def MAddr.vregs (a : MAddr) : List Nat := if a.nov then [] else [a.sb]

/-- ea(l) of every lane, modulo 2^64. -/
def MAddr.ea (a : MAddr) (s : State) : List Nat :=
  let base : Int := (s.scalar a.sa).toNat
  let imm : Int := (a.imm.map BitVec.toInt).getD 0
  let offs : List Int :=
    if a.nov then List.replicate s.me.width 0
    else (s.me.vec a.sb).map fun x => if a.vs then x.toInt else x.toNat
  offs.map fun o => wrapOf 64 (base + o * (2 ^ a.sh : Nat) + imm)

/-- The addresses of the active lanes. -/
def MAddr.lanes (a : MAddr) (s : State) (h : Head) : List (Nat × Nat) := pick s.me.width (s.active h) (a.ea s)

end Sys2Proof

namespace Sys2Proof.Machine

/-- The registers of a load's or atomic's result: a pair for .q. -/
def dataRegs (sz r : Nat) : List Nat := if sz = 3 then [r, r + 1] else [r]

/-- The data of a store or atomic per lane. -/
def State.dataOf (s : State) (sz r : Nat) : List Nat :=
  if sz = 3 then (s.pair r).map BitVec.toNat else (s.me.vec r).map BitVec.toNat

/-- A loaded number as the destination's lane value (R282). -/
def loaded (sz : Nat) (sx : Bool) (x : Nat) : Nat :=
  if sx then wrapOf 32 (signedOf (8 * sizeOf sz) x) else x

/-! ### Bit functions of scalars and elements (R230, R257) -/

/-- The number of 1 bits below `w`. -/
def popCount (w x : Nat) : Nat := ((List.range w).filter (bitOf x)).length
/-- Trailing zeros below `w`; `w` for 0. -/
def trailingZeros (w x : Nat) : Nat := ((List.range w).find? (bitOf x)).getD w
/-- Leading zeros of a `w`-bit number; `w` for 0. -/
def leadingZeros (w x : Nat) : Nat := if x = 0 then w else w - 1 - Nat.log2 x
/-- Bit i moved to bit w - 1 - i. -/
def reverseBits (w x : Nat) : Nat := (List.range w).foldl (fun acc i => 2 * acc + (bitOf x i).toNat) 0

/-- Element width of a packing (R251). -/
def elemWidth (pk : Nat) : Nat := 32 / elems pk
/-- The elements of a lane, element 0 first. -/
def laneElems (pk : Nat) (x : W32) : List Nat :=
  (List.range (elems pk)).map fun j => bitsOf x.toNat (elemWidth pk * j) (elemWidth pk)
/-- A lane from its elements. -/
def joinElems (w : Nat) (xs : List Nat) : W32 := BitVec.ofNat 32 (xs.foldr (fun x acc => x % 2 ^ w + 2 ^ w * acc) 0)
/-- Element j of a lane replaced. -/
def putElem (w j : Nat) (x : W32) (v : Nat) : W32 := BitVec.ofNat 32 (putBits x.toNat (w * j) w v)

/-- The relations of R231 on `n`-bit words. -/
def related (n cc x y : Nat) : Bool :=
  let a := signedOf n x
  let b := signedOf n y
  match cc with
  | 0 => x == y
  | 1 => x != y
  | 2 => a < b
  | 3 => a ≤ b
  | 4 => a > b
  | 5 => a ≥ b
  | 6 => x < y
  | 7 => x ≤ y
  | 8 => x > y
  | _ => x ≥ y

end Sys2Proof.Machine
end

