-- ==== Sys2Proof/Machine/Sfu.lean ====
section
/-!
DEFINITION. The functions of the special-function unit (spec/11_vector_instructions.md R275): the exact mathematical value,
given as a fixed-point number of 400 fraction bits with one sticky bit below, which the one rounding of `Fmt.round` then fits.
Every series below is summed until its terms vanish at 2^-400; notes/assumptions/12.md (DEDUCED)
says why that decides every rounding.
-/

namespace Sys2Proof.Machine

/-- Fraction bits of the fixed-point numbers of this file. -/
def sfuBits : Nat := 400

/-- π/2 × 2^560, rounded down. -/
def halfPi560 : Nat :=
  0x1921fb54442d18469898cc51701b839a252049c1114cf98e804177d4c76273644a29410f31c6809bbdf2a33679a748636605614dbe4be286e9fc26adadaa3848bc90b6aecc4bc

/-- ln 2 × 2^400, rounded down. -/
def ln2Fix : Nat :=
  0xb17217f7d1cf79abc9e3b39803f2f6af40f343267298b62d8a0d175b8baafa2be7b876206debac98559552fb4afa1b10ed2e

/-- An inexact fixed-point magnitude with `p` fraction bits as a value: a sticky 1 follows its last bit. -/
def sticky (neg : Bool) (x p : Nat) : Val := .fin neg (2 * x + 1) (-(p : Int) - 1)

/-- A value a hair below m × 2^e in magnitude. -/
def justBelow (neg : Bool) (m : Nat) (e : Int) : Val := .fin neg (m * 2 ^ 64 - 1) (e - 64)

/-- floor(√n) for n below 4^k, one bit at a time. -/
def isqrtAux (n : Nat) : Nat → Nat → Nat
  | 0, r => r
  | k + 1, r => let t := r + 2 ^ k; if t * t ≤ n then isqrtAux n k t else isqrtAux n k r
def isqrt (k n : Nat) : Nat := isqrtAux n k 0

/-- m × 2^e divided by n × 2^f, with a sticky bit where the quotient is inexact. -/
def divMag (neg : Bool) (m : Nat) (e : Int) (n : Nat) (f : Int) : Val :=
  let q := m * 2 ^ 300 / n
  let r := m * 2 ^ 300 % n
  .fin neg (2 * q + (if r = 0 then 0 else 1)) (e - f - 301)

/-- Σ term, with term(k+1) = term(k) × x / ((a + b k) × 2^400): the series of exp, sin and cos. `alt` alternates signs;
`den k` is the divisor of step k. -/
def series (x : Nat) (den : Nat → Nat) (alt : Bool) : Nat → Nat → Nat → Bool → Int → Int
  | 0, _, _, _, acc => acc
  | fuel + 1, k, term, neg, acc =>
    let t := term * x / (2 ^ sfuBits * den k)
    let neg' := alt && !neg
    series x den alt fuel (k + 1) t neg' (if neg' then acc - t else acc + t)

/-- e^x for 0 ≤ x < 1. -/
def expFix (x : Nat) : Nat := (series x (fun k => k + 1) false 100 0 (2 ^ sfuBits) false (2 ^ sfuBits : Nat)).toNat

/-- sin r and cos r for 0 ≤ r ≤ π/2. -/
def sinFix (r : Nat) : Nat :=
  (series (r * r / 2 ^ sfuBits) (fun k => (2 * k + 2) * (2 * k + 3)) true 60 0 r false r).toNat
def cosFix (r : Nat) : Nat :=
  (series (r * r / 2 ^ sfuBits) (fun k => (2 * k + 1) * (2 * k + 2)) true 60 0 (2 ^ sfuBits) false (2 ^ sfuBits : Nat)).toNat

/-- Σ z^(2k+1) / (2k+1): atanh z for 0 ≤ z ≤ 1/3. -/
def atanhAux (z2 : Nat) : Nat → Nat → Nat → Nat → Nat
  | 0, _, _, acc => acc
  | fuel + 1, k, p, acc => let p' := p * z2 / 2 ^ sfuBits; atanhAux z2 fuel (k + 1) p' (acc + p' / (2 * k + 3))
def atanhFix (z : Nat) : Nat := atanhAux (z * z / 2 ^ sfuBits) 130 0 z z

/-- m × 2^e as a fixed-point number, rounded down. -/
def toFix (m : Nat) (e : Int) : Nat :=
  let s := e + sfuBits
  if 0 ≤ s then m * 2 ^ s.toNat else m / 2 ^ (-s).toNat

/-- 2^(±m × 2^e): the integer part of the argument is the exponent, and a fraction of 0 is exact. -/
def exp2Val (neg : Bool) (m : Nat) (e : Int) : Val :=
  let n : Int := if 0 ≤ e then (m * 2 ^ e.toNat : Nat) else (m / 2 ^ (-e).toNat : Nat)
  let fr := if 0 ≤ e then 0 else m % 2 ^ (-e).toNat
  if fr = 0 then .fin false 1 (if neg then -n else n)
  else
    let f := toFix fr e
    let n' : Int := if neg then -n - 1 else n
    let f' := if neg then 2 ^ sfuBits - f else f
    (sticky false (expFix (f' * ln2Fix / 2 ^ sfuBits)) sfuBits).scale n'

/-- log2 of a positive m × 2^e. -/
def log2Val (m : Nat) (e : Int) : Val :=
  let l := Nat.log2 m
  let n : Int := e + l
  if m = 2 ^ l then Val.ofInt n
  else
    let y := m * 2 ^ sfuBits / 2 ^ l
    let z := (y - 2 ^ sfuBits) * 2 ^ sfuBits / (y + 2 ^ sfuBits)
    let fr := 2 * atanhFix z * 2 ^ sfuBits / ln2Fix
    let s : Int := n * (2 ^ sfuBits : Nat) + fr
    sticky (s < 0) (if s < 0 then s.natAbs - 1 else s.natAbs) sfuBits

/-- Whether a magnitude lies below 2^-20, where sin, cos and tanh differ from their limits by less than the smallest
discarded bits that any rounding reads. -/
def tiny (m : Nat) (e : Int) : Bool := (Nat.log2 m : Int) + e < -20

/-- The quadrant and remainder of an angle. -/
def reduce (m : Nat) (e : Int) : Nat × Nat :=
  let x := toFix m e * 2 ^ 160
  (x / halfPi560, x % halfPi560 / 2 ^ 160)

/-- sin and cos of ±m × 2^e. -/
def sinVal (neg : Bool) (m : Nat) (e : Int) : Val :=
  if tiny m e then justBelow neg m e
  else
    let q := reduce m e
    let x := if q.1 % 2 = 0 then sinFix q.2 else cosFix q.2
    sticky (neg != (q.1 % 4 ≥ 2)) x sfuBits
def cosVal (m : Nat) (e : Int) : Val :=
  if tiny m e then justBelow false 1 0
  else
    let q := reduce m e
    let x := if q.1 % 2 = 0 then cosFix q.2 else sinFix q.2
    sticky (q.1 % 4 = 1 || q.1 % 4 = 2) x sfuBits

/-- tanh of ±m × 2^e: (1 - u) / (1 + u) with u = e^(-2|x|). -/
def tanhVal (neg : Bool) (m : Nat) (e : Int) : Val :=
  if tiny m e then justBelow neg m e
  else if (Nat.log2 m : Int) + e ≥ 5 then justBelow neg 1 0
  else
    let t := 2 * toFix m e * 2 ^ sfuBits / ln2Fix
    let n := t / 2 ^ sfuBits
    let g := 2 ^ sfuBits - t % 2 ^ sfuBits
    let u := expFix (g * ln2Fix / 2 ^ sfuBits) / 2 ^ (n + 1)
    sticky neg ((2 ^ sfuBits - u) * 2 ^ sfuBits / (2 ^ sfuBits + u)) sfuBits

/-- The functions of R275. -/
inductive SfuOp where
  | rcp
  | rsq
  | sqrt
  | exp2
  | log2
  | sin
  | cos
  | tanh
deriving DecidableEq, Repr

/-- √(m × 2^e), with a sticky bit where it is inexact. -/
def sqrtVal (m : Nat) (e : Int) : Val :=
  let odd := e % 2 = 1
  let n := (if odd then 2 * m else m) * 4 ^ 150
  let h : Int := (if odd then e - 1 else e) / 2
  let r := isqrt 170 n
  .fin false (2 * r + (if r * r = n then 0 else 1)) (h - 151)

/-- 1/√(m × 2^e), with a sticky bit where it is inexact. -/
def rsqVal (m : Nat) (e : Int) : Val :=
  let odd := e % 2 = 1
  let n := if odd then 2 * m else m
  let h : Int := (if odd then e - 1 else e) / 2
  let r := isqrt 170 (4 ^ 160 / n)
  .fin false (2 * r + (if r * r * n = 4 ^ 160 then 0 else 1)) (-h - 161)

/-- The exact value and the invalid flag (R115, R275). -/
def SfuOp.value (op : SfuOp) (x : Val) : Val × Nat :=
  match op, x with
  | _, .nan => (.nan, 0)
  | .rcp, .inf s => (.fin s 0 0, 0)
  | .rcp, .fin s m e => if m = 0 then (.inf s, 0) else (divMag s 1 0 m e, 0)
  | .rsq, .inf s => if s then (.nan, flagNV) else (.fin false 0 0, 0)
  | .rsq, .fin s m e => if m = 0 then (.inf s, 0) else if s then (.nan, flagNV) else (rsqVal m e, 0)
  | .sqrt, .inf s => if s then (.nan, flagNV) else (.inf false, 0)
  | .sqrt, .fin s m e => if m = 0 then (.fin s 0 e, 0) else if s then (.nan, flagNV) else (sqrtVal m e, 0)
  | .exp2, .inf s => if s then (.fin false 0 0, 0) else (.inf false, 0)
  | .exp2, .fin s m e => (exp2Val s m e, 0)
  | .log2, .inf s => if s then (.nan, flagNV) else (.inf false, 0)
  | .log2, .fin s m e => if m = 0 then (.inf true, 0) else if s then (.nan, flagNV) else (log2Val m e, 0)
  | .sin, .inf _ => (.nan, flagNV)
  | .sin, .fin s m e => if m = 0 then (.fin s 0 e, 0) else (sinVal s m e, 0)
  | .cos, .inf _ => (.nan, flagNV)
  | .cos, .fin _ m e => if m = 0 then (.fin false 1 0, 0) else (cosVal m e, 0)
  | .tanh, .inf s => (.fin s 1 0, 0)
  | .tanh, .fin s m e => if m = 0 then (.fin s 0 e, 0) else (tanhVal s m e, 0)

/-- The exact quotient and the invalid flag (R115, R275). -/
def divVal (a b : Val) : Val × Nat :=
  match a, b with
  | .nan, _ => (.nan, 0)
  | _, .nan => (.nan, 0)
  | .inf _, .inf _ => (.nan, flagNV)
  | .inf s, .fin t _ _ => (.inf (s != t), 0)
  | .fin s _ _, .inf t => (.fin (s != t) 0 0, 0)
  | .fin s m e, .fin t n f =>
    if n = 0 then (if m = 0 then (.nan, flagNV) else (.inf (s != t), 0))
    else if m = 0 then (.fin (s != t) 0 0, 0)
    else (divMag (s != t) m e n f, 0)

end Sys2Proof.Machine
end

