-- ==== Sys2Proof/Machine/Flags.lean ====
section
/-!
DEFINITION. The rounding in force, dither places and the landing of GSTAT flags (spec/05_arithmetic.md R107, R112,
spec/11_vector_instructions.md R253, R260, R261, spec/03_programmer_state.md R84).
-/

namespace Sys2Proof.Machine

/-- The mode in force: RM 0 is FMT.RND, 1 to 5 are modes 0 to 4 (R260). -/
def modeOf (fmt : W32) (rm : Nat) : Nat := if rm = 0 then fmtRnd fmt else rm - 1

/-- The rounding of an element at dither place `p`. -/
def roundingOf (fmt : W32) (rm : Nat) (sat : Bool) (p : Nat) : Rounding :=
  { mode := modeOf fmt rm, d := ditherD p (fmtPh fmt), sat := sat, e4n := fmtE4n fmt }

/-- The union of the flags of the active lanes. -/
def flagsOf (w : Nat) (m : W64) (fs : List Nat) : Nat := (pick w m fs).foldl (fun acc p => orFlags acc p.2) 0

/-- Flags land with the result that raises them (R84). -/
def State.landFlags (s : State) (lat f : Nat) : State :=
  if f = 0 then s else s.later lat (.gstatSet (BitVec.ofNat 32 f))

/-- A vector result with flags. -/
def State.landFloat (s : State) (h : Head) (lat dst : Nat) (rs : List (Nat × Nat)) : State :=
  (s.landVec h lat dst (rs.map fun r => BitVec.ofNat 32 r.1)).landFlags lat
    (flagsOf s.me.width (s.active h) (rs.map (·.2)))

/-- A value with the flags that its operation raised, rounded to binary32. -/
def round32 (r : Rounding) (v : Val × Nat) : Nat × Nat :=
  let k := fp32.round r v.1
  (k.1, orFlags v.2 k.2)

/-- Whether the mode rounds exact zero sums down (R114). -/
def Rounding.down (r : Rounding) : Bool := r.mode == 3

/-- The binary32 value of a lane. -/
def val32 (x : W32) : Val := fp32.value x.toNat

end Sys2Proof.Machine
end

