-- ==== Sys2Proof/Config.lean ====
section
/-!
DEFINITION. What an implementation fixes and the spec leaves open. Every constant here is a free value: it has no body, so no
proof and no test can see what it is (DESIGN CHOICE, notes/assumptions/3.md, 6.md, 7.md and 94.md).
-/

namespace Sys2Proof.Config

/-- A byte of the package's boot ROM and of the fixed monitor (21 R447 gives no content). -/
opaque romByte : Nat → Byte

/-- The physical frame number that a home controller chooses (18 R400), by the counter `State.fresh`. -/
opaque frame : Nat → BitVec 25

/-- Every other value the spec leaves open, by the counter. -/
opaque value : Nat → W64

/-- The index of the package's pod among the pods, which no register of the spec holds (08 R192). -/
opaque podIndex : BitVec 7

/-- An element of a reduced cell under an operation that 08 R188 reserves: ROP, accumulated element, next member's element (log 94). -/
opaque reservedReduction : Nat → Nat → Nat → W32

/-- Whether an RSA-3072 PSS signature verifies: key hash, message, signature (21 R449). -/
opaque rsaOk : List Byte → List Byte → List Byte → Bool

/-- Whether an SLH-DSA signature verifies: key hash, message, signature (21 R449). -/
opaque slhOk : List Byte → List Byte → List Byte → Bool

/-- The package's signature over a report: message and die (21 R456). -/
opaque sign : List Byte → List Byte

/-- A byte of the device's identity public keys at its aperture offset (21 R453). -/
opaque idByte : Nat → Byte

end Sys2Proof.Config
end

