-- ==== Sys2Proof/Machine/Cipher.lean ====
section
/-!
DEFINITION. The cipher of data at rest: XTS-AES-256 with a data unit of 64 bytes, numbered by intermediate address bits [55:6]
(spec/18_translation_leases_partitions.md R397, which names IEEE 1619 and so the AES of FIPS 197).
-/

namespace Sys2Proof.Machine

/-! ### AES-256 on lists of 16 bytes -/

/-- The S-box of FIPS 197, 32 entries in each number, the first in its low byte. -/
def aesSub : List Nat :=
  [0xc072a49cafa2d4adf04759fa7dc982ca76abd7fe2b670130c56f6bf27b777c63,
   0x75b227ebe28012079a059618c323c7041531d871f1e5a534ccf73f362693fdb7,
   0xcf584c4a39becb6a5bb1fc20ed00d153842fe329b3d63b52a05a6e1b1a2c8309,
   0xd2f3ff1021dab6bcf5389d928f40a351a89f3c507f02f94585334d43fbaaefd0,
   0xdb0b5ede14b8ee4688902a22dc4f816073195d643d7ea7c41744975fec130ccd,
   0x08ae7a65eaf4566ca94ed58d6d37c8e779e4959162acd3c25c2406490a3a32e0,
   0x9e1dc186b95735610ef6034866b53e708a8bbd4b1f74dde8c6b4a61c2e2578ba,
   0x16bb54b00f2d99416842e6bf0d89a18cdf2855cee9871e9b948ed9691198f8e1]

/-- The inverse S-box, 32 entries in each number, the first in its low byte. -/
def aesInvSub : List Nat :=
  [0xcbe9dec444438e3487ff2f9b8239e37cfbd7f3819ea340bf38a53630d56a0952,
   0x25d18b6d49a25b76b224d92866a12e084ec3fa420b954cee3d23c2a632947b54,
   0x849d8da75746155edab9edfd5048706c92b6655dcc5ca4d41698688664f6f872,
   0x6b8a130103bdafc1020f3fca8f1e2cd00645b3b80558e4f70ad3bc8c00abd890,
   0x6edf751ce837f9e28535ade72274ac9673e6b4f0cecff297eadc674f4111913a,
   0xf45acd78fec0db9a2079d2c64b3e56fc1bbe18aa0e62b76f89c5291d711af147,
   0xef9cc9939f7ae52d0d4ab519a97f51605fec8027591012b131c7078833a8dd1f,
   0x7d0c2155631469e126d677ba7e042b17619953833cbbebc8b0f52aae4d3be0a0]

def aesLook (t : List Nat) (x : Nat) : Nat := bitsOf (nth 0 t (x / 32)) (8 * (x % 32)) 8

/-- Multiplication by x, and by a small polynomial, in the field of FIPS 197. -/
def aesTwice (x : Nat) : Nat := if x < 128 then 2 * x else (2 * x % 256) ^^^ 0x1B
def aesTimes (k x : Nat) : Nat :=
  let x2 := aesTwice x
  let x4 := aesTwice x2
  let x8 := aesTwice x4
  (if bitOf k 0 then x else 0) ^^^ (if bitOf k 1 then x2 else 0) ^^^ (if bitOf k 2 then x4 else 0) ^^^ (if bitOf k 3 then x8 else 0)

def xorBytes (a b : List Nat) : List Nat := (a.zip b).map fun p => p.1 ^^^ p.2

/-- Each column times a matrix whose first row is given and whose other rows rotate it. -/
def aesMix (row : List Nat) (s : List Nat) : List Nat :=
  (List.range 16).map fun i =>
    ((List.range 4).map fun j => aesTimes (nth 0 row ((4 + j - i % 4) % 4)) (nth 0 s (4 * (i / 4) + j))).foldl (· ^^^ ·) 0

/-- Row `r` turns by `r` columns, to the left by `step` = 5 and back by `step` = 13. -/
def aesShift (step : Nat) (s : List Nat) : List Nat :=
  (List.range 16).map fun i => nth 0 s ((4 * (i / 4) + step * (i % 4)) % 16)

/-- The 60 words of the key schedule, as 4 bytes each, the latest first, by fuel. -/
def aesExpand : Nat → List (List Nat) → List (List Nat)
  | 0, ws => ws
  | n + 1, ws =>
    let i := ws.length
    let last := nth [] ws 0
    let sub (w : List Nat) : List Nat := w.map (aesLook aesSub)
    let t :=
      if i % 8 = 0 then xorBytes (sub (last.drop 1 ++ last.take 1)) [2 ^ (i / 8 - 1), 0, 0, 0]
      else if i % 8 = 4 then sub last
      else last
    aesExpand n (xorBytes (nth [] ws 7) t :: ws)

/-- The 15 round keys of a 32-byte key. -/
def aesKeys (key : List Nat) : List (List Nat) :=
  let ws := (aesExpand 52 ((List.range 8).map fun i => (key.drop (4 * (7 - i))).take 4)).reverse
  (List.range 15).map fun r => (ws.drop (4 * r)).take 4 |>.flatten

def aesEncrypt (ks : List (List Nat)) (block : List Nat) : List Nat :=
  let s := (List.range 13).foldl (fun s r =>
    xorBytes (aesMix [2, 3, 1, 1] (aesShift 5 (s.map (aesLook aesSub)))) (nth [] ks (r + 1))) (xorBytes block (nth [] ks 0))
  xorBytes (aesShift 5 (s.map (aesLook aesSub))) (nth [] ks 14)

def aesDecrypt (ks : List (List Nat)) (block : List Nat) : List Nat :=
  let s := (List.range 13).foldl (fun s r =>
    aesMix [14, 11, 13, 9] (xorBytes ((aesShift 13 s).map (aesLook aesInvSub)) (nth [] ks (13 - r)))) (xorBytes block (nth [] ks 14))
  xorBytes ((aesShift 13 s).map (aesLook aesInvSub)) (nth [] ks 0)

/-! ### XTS on a data unit of 64 bytes -/

/-- The next block's tweak: times x in the field of 128 bits, byte 0 the least significant. -/
def xtsNext (t : Nat) : Nat := if t < 2 ^ 127 then 2 * t else (2 * t % 2 ^ 128) ^^^ 0x87

def natBytes (n x : Nat) : List Nat := (leBytes n x).map BitVec.toNat
def bytesNat (bs : List Nat) : Nat := leNat (bs.map fun b => BitVec.ofNat 8 b)

/-- The data key and the tweak key of a slot. -/
structure KeyPair where
  data : List Byte
  tweak : List Byte
deriving DecidableEq, Repr

/-- The blocks of a unit, each between two exclusive ors with its tweak, by fuel. -/
def xtsBlocks (f : List Nat → List Nat) : Nat → Nat → List Nat → List Nat
  | 0, _, _ => []
  | n + 1, t, bs => xorBytes (f (xorBytes (bs.take 16) (natBytes 16 t))) (natBytes 16 t) ++ xtsBlocks f n (xtsNext t) (bs.drop 16)

/-- A unit at an intermediate address, encrypted or decrypted. -/
def xtsUnit (encrypt : Bool) (k : KeyPair) (ia : Nat) (unit : List Byte) : List Byte :=
  let ks := aesKeys (k.data.map BitVec.toNat)
  let t := bytesNat (aesEncrypt (aesKeys (k.tweak.map BitVec.toNat)) (natBytes 16 (ia / 64 % 2 ^ 50)))
  let out := xtsBlocks (if encrypt then aesEncrypt ks else aesDecrypt ks) 4 t (unit.map BitVec.toNat)
  (List.range 64).map fun i => BitVec.ofNat 8 (nth 0 out i)

/-- What a unit reads as once its page's keys change: the stored bytes stay, and the new keys decrypt them. Slot 0 has no keys. -/
def rekeyUnit (old new : Option KeyPair) (ia : Nat) (unit : List Byte) : List Byte :=
  let stored := match old with
    | none => unit
    | some k => xtsUnit true k ia unit
  match new with
  | none => stored
  | some k => xtsUnit false k ia stored

end Sys2Proof.Machine
end

