-- ==== Sys2Proof/Machine/Translate.lean ====
section
/-!
DEFINITION. From virtual to intermediate addresses: windows, caching levels, lease checks, team areas and the fixed latencies
of scopes (spec/06_address_spaces_and_memories.md R128 to R132, R137 to R140, spec/07_memory_model.md R148, R149,
spec/18_translation_leases_partitions.md R393, R394, R397).
-/

namespace Sys2Proof.Machine

/-! ### Intermediate addresses and page entries (R126, R393) -/

def pkgOf (ia : Nat) : Nat := bitsOf ia 50 6
def dieOf (ia : Nat) : Nat := bitsOf ia 48 2
/-- The page number an entry is keyed by: bits [55:16]. -/
def pageOf (ia : Nat) : Nat := ia / 65536
def State.page (s : State) (p : Nat) : W64 := Sp.get 0 s.mem.pages p
def peOwner (e : W64) : Nat := fieldOf e 52 12
def peKey (e : W64) : Nat := fieldOf e 47 5
/-- CACHE; 3 is treated as 0. -/
def peCache (e : W64) : Nat := fieldOf e 45 2 % 3
def peCp (e : W64) : Bool := fieldOf e 44 1 == 1
def pePsn (e : W64) : Bool := fieldOf e 43 1 == 1
/-- LOC; 3 is treated as 0. -/
def peLoc (e : W64) : Nat := fieldOf e 41 2 % 3
def peLgen (e : W64) : Nat := fieldOf e 0 16
/-- Whether PAGE has an entry (R393). -/
def hasEntry (p : Nat) : Bool := p % 2 ^ 32 < 2 ^ 23

def State.setPage (s : State) (p : Nat) (e : W64) : State := { s with mem := { s.mem with pages := Sp.set 0 s.mem.pages p e } }
/-- A field of a page entry replaced. -/
def setPe (e : W64) (lo n v : Nat) : W64 := BitVec.ofNat 64 (putBits e.toNat lo n v)

/-- The private space of the command cores as this model keys it: offset from 2^63 (R446). -/
def keySlotBase : Nat := 2 ^ 32
def State.keyOwner (s : State) (die slot : Nat) : Nat := Memory.nat s.mem.priv (keySlotBase + 128 * (32 * die + slot) + 64) 2 % 4096
/-- The key slot is 0 or bound to the page's owner (R397); the slots of another package are its own affair. -/
def State.keyOk (s : State) (p : Nat) : Bool :=
  let e := s.page p
  peKey e == 0 || pkgOf (p * 65536) != s.pkg || s.keyOwner (dieOf (p * 65536)) (peKey e) == peOwner e
/-- A tenant's request reaches the page: owner, frame and key (R394, R397). -/
def State.pageOk (s : State) (owner p : Nat) : Bool :=
  let e := s.page p
  hasEntry p && peOwner e == owner && peLoc e != 0 && s.keyOk p

/-! ### Windows (R128, R130) -/

def winVpage (w : W64 × W64) : Nat := fieldOf w.1 0 32
def winSize (w : W64 × W64) : Nat := fieldOf w.1 32 32
def winIpage (w : W64 × W64) : Nat := fieldOf w.2 0 40
def winComp (w : W64 × W64) : Bool := fieldOf w.2 40 1 == 1
def winPerm (w : W64 × W64) (b : Nat) : Bool := fieldOf w.2 (41 + b) 1 == 1
def winLevel (w : W64 × W64) : Nat := fieldOf w.2 46 2

/-- Permission bits of R128. -/
def permR : Nat := 0
def permW : Nat := 1
def permX : Nat := 2
def permA : Nat := 3
def permE : Nat := 4

/-- A translated access: address in its space, the window's LEVEL, and whether it is companion memory. -/
structure Xlat where
  ia : Nat
  level : Nat
  comp : Bool
deriving DecidableEq, Repr

/-- R130 for `n` bytes; `perms` are the permissions the access needs and `copy` marks a streamer copy operand. -/
def translate (d : Desc) (perms : List Nat) (copy : Bool) (va n : Nat) : Option Xlat :=
  let vp := va / 65536
  match d.windows.find? fun w => winVpage w ≤ vp && vp < winVpage w + winSize w with
  | none => none
  | some w =>
    if (va + n - 1) / 65536 ≥ winVpage w + winSize w then none
    else if !(perms.all (winPerm w)) then none
    else if winComp w && !copy then none
    else some { ia := (winIpage w + vp - winVpage w) * 65536 + va % 65536, level := winLevel w, comp := winComp w }

/-- The effective caching level (R137). -/
def State.level (s : State) (x : Xlat) : Nat := min x.level (peCache (s.page (pageOf x.ia)))

/-! ### Leases (R138, R139) -/

/-- What an access does to a footprint. -/
inductive Use where
  | load
  | store
  | atomic
  | counterAdd
  | counterWait
  | engineRead
  | engineWrite
deriving DecidableEq, Repr

/-- KIND 1 R, 2 W, 3 RW; CLASS 0 PLAIN, 1 ENGINE. An atomic also reads, and R288 refuses only R and ENGINE footprints. -/
def Use.fits (u : Use) (f : Footprint) : Bool :=
  match u with
  | .load | .counterWait => (f.kind == 1 || f.kind == 3) && f.cls == 0
  | .store | .atomic => (f.kind == 2 || f.kind == 3) && f.cls == 0
  | .counterAdd => f.kind == 3 && f.cls == 0
  | .engineRead => f.kind == 1 || f.kind == 3
  | .engineWrite => f.kind == 2 || f.kind == 3

/-- The first byte of team `t`'s range. -/
def Footprint.base (f : Footprint) (t : Nat) : Nat := f.vbase + (if f.stride = 0 then 0 else t * f.stride)
/-- Whether a virtual page lies in team `t`'s range, widened to whole pages (R138). -/
def Footprint.holds (f : Footprint) (t vp : Nat) : Bool :=
  f.base t / 65536 ≤ vp && vp < ceilDiv (f.base t + f.size) 65536

/-- Whether a virtual page lies in the range of a team other than `t` of a per-team footprint. Teams `lo` to `hi` are those whose range
holds it. -/
def Footprint.others (f : Footprint) (grid t vp : Nat) : Bool :=
  let first := vp * 65536
  let lo := if first < f.vbase + f.size then 0 else (first - f.vbase - f.size) / f.stride + 1
  let hi := min grid (ceilDiv (first + 65536 - f.vbase) f.stride)
  f.stride != 0 && lo < hi && !(lo == t && hi == t + 1)

/-- The lease check of R139 for `n` bytes at `va`, which translate to `ia`: each page is leased to the team, every footprint that holds it
allows the access, and no other team's range holds it (DEDUCED, notes/assumptions/14.md). -/
def leaseOk (tr : Train) (t : Nat) (u : Use) (va n ia : Nat) : Bool :=
  (List.range ((va + n - 1) / 65536 - va / 65536 + 1)).all fun i =>
    let vp := va / 65536 + i
    let p := ia / 65536 + i
    let fs := tr.desc.foots.filter fun f => f.holds t vp
    !fs.isEmpty && fs.all u.fits && !(tr.desc.foots.any fun f => f.others tr.desc.grid t vp) &&
      !(tr.revoked.any fun r => r.1 ≤ p && p < r.1 + r.2)

/-- From here on a page number names a page of companion memory. -/
def companionPages : Nat := 2 ^ 48

/-- The lease check of an engine's operand, in companion memory too, whose pages no revoked lease names (R139, R321). -/
def engineLeased (tr : Train) (t : Nat) (write : Bool) (va n : Nat) (x : Xlat) : Bool :=
  leaseOk tr t (if write then .engineWrite else .engineRead) va n (if x.comp then companionPages * 65536 + x.ia else x.ia)

/-! ### The team area (R140) -/

/-- The footprint of the team area. -/
def Desc.areaFoot (d : Desc) : Option Footprint := d.foots.find? fun f => f.stride != 0 && f.kind == 3 && f.cls == 0

/-- Groups of the team that lie on core `c` of it (0 even, 1 odd). -/
def Desc.groupsOn (d : Desc) (c : Nat) : List Nat :=
  (List.range (d.nc + d.nw)).filter fun g => !d.pair || g / 32 == c
/-- The allotment of group g. -/
def Desc.allot (d : Desc) (g : Nat) : Nat := if g < d.nc then d.callot else d.wallot
/-- The cores of a team. -/
def Desc.coreCount (d : Desc) : Nat := if d.pair then 2 else 1

def partRegg (p : W32) : Nat := bitsOf p.toNat 0 8
def partAccg (p : W32) : Nat := bitsOf p.toNat 8 8
def partDivg (p : W32) : Nat := bitsOf p.toNat 16 8
/-- Scratchpad granules and bytes (R77, R78). -/
def partScratch (p : W32) : Nat := 144 - partRegg p - partAccg p - partDivg p
def scratchBytes (p : W32) : Nat := 16384 * partScratch p

/-- Registers of the groups on a core of the team, and the team's carve there in granules (R79). -/
def Desc.allotOn (d : Desc) (c : Nat) : Nat := ((d.groupsOn c).map d.allot).foldl (· + ·) 0
def Desc.need (d : Desc) (c : Nat) : Nat := ceilDiv (d.allotOn c * d.width * 4) 16384

/-- The save size Z (R140). -/
def Desc.saveSize (d : Desc) : Nat :=
  let perCore (c : Nat) : Nat :=
    let gc := (d.groupsOn c).length
    let pool := 16384 * d.need c + 16384 * (partScratch d.part + partAccg d.part) + 256 * partDivg d.part * gc + 16 * 32768
    let pending := 280 * d.allotOn c + 17504 * gc + 512 + 40960 + 128
    pool + 4 * 32768 + pending + 5 * 64 * 128
  let total := 256 + 1408 * (d.nc + d.nw) + ((List.range d.coreCount).map perCore).foldl (· + ·) 0
  ceilDiv total 4096 * 4096

/-- A of R140 for team `t`. -/
def areaPad (base : Nat) : Nat := (4096 - base % 4096) % 4096
/-- The virtual address of team t's save area, where the team area is long enough to hold it. -/
def Desc.saveArea (d : Desc) (t : Nat) : Option Nat :=
  match d.areaFoot with
  | none => none
  | some f => if f.size < areaPad (f.base t) + d.saveSize then none else some (f.base t + areaPad (f.base t))

/-- The virtual address and bytes of group g's part of the stack spill area. -/
def Desc.spillPart (d : Desc) (t g : Nat) : Nat × Nat :=
  match d.areaFoot with
  | none => (0, 0)
  | some f =>
    let skip := areaPad (f.base t) + d.saveSize
    let p := if f.size ≤ skip then 0 else (f.size - skip) / (32 * (d.nc + d.nw)) * 32
    (f.base t + skip + g * p, p)

/-! ### Scopes (R132, R148, R149) -/

/-- The latency of a scope. Scope 7, which an atomic without an active lane may name (R209, R289), takes the widest one's (DESIGN CHOICE,
notes/assumptions/114.md). -/
def scopeLat (scope : Nat) : Nat := if scope < 4 then 96 else nth 4096 [320, 640] (scope - 4)

def State.hpol (s : State) (owner : Nat) : W64 := Sp.get 0 s.sys.hpol owner
/-- HPOL.POD (R403); a change takes effect for a train at its next boundary (R404). -/
def State.podAllowed (s : State) : Bool := s.cur.cmd || s.myTrain.pod

/-- The scope checks that depend on no address. -/
def chkScope (s : State) (runs : Bool) (scope : Nat) : Option Flt :=
  check (!runs || (scope < 7 && (scope != 6 || s.podAllowed))) { code := 7 }

/-- An address on another package at die or device scope. -/
def scopeFar (s : State) (scope ia : Nat) : Bool := (scope == 4 || scope == 5) && pkgOf ia != s.pkg

/-- The scope an operation on `ia` acts with: die scope on another die is device scope. -/
def scopeAt (s : State) (scope ia : Nat) : Nat := if scope = 4 && dieOf ia != s.readCore s.me / 64 then 5 else scope

/-- The latency of an operation at a scope on an address of a level (R131, R137). -/
def opLat (scope level : Nat) : Nat := if scope < 4 && level = 0 then 320 else scopeLat scope

/-- The first active lane whose address fails a test raises the fault for the whole instruction (R281). -/
def chkLanes (code : Nat) (lanes : List (Nat × Nat)) (ok : Nat → Bool) : Option Flt :=
  (lanes.find? fun p => !ok p.2).map fun p => { code := code, lane := p.1, t2 := BitVec.ofNat 64 p.2 }

end Sys2Proof.Machine
end

