-- ==== Sys2Proof/Machine/Views.lean ====
section
/-!
DEFINITION. Homes, cluster views and core views: reads, commits, pushes, refreshes, home writes and laps' set-aside copies
(spec/07_memory_model.md R141 to R146, R150, R151, R153, R155, spec/13_engine_instructions.md R333,
spec/20_reliability_laps_replay.md R433, R434).
-/

namespace Sys2Proof.Machine

/-- The span of one view in the keys of the view maps. -/
def viewSpan : Nat := 2 ^ 56
def viewKey (unit ia : Nat) : Nat := unit * viewSpan + ia

/-! ### Homes -/

/-- Whether a lap covers a page: a launch lap the pages of its W and RW footprints, a snapshot lap every page that its tenant had on
this package when it opened (R333, R434). -/
def Lap.covers (l : Lap) (p : Nat) : Bool := l.cover.any fun r => r.1 ≤ p && p < r.1 + r.2
/-- Whether a write to a page takes a copy of it for the lap. -/
def Lap.takes (l : Lap) (p : Nat) : Bool := l.gone.isNone && l.covers p && !(l.held.any fun h => h.1 == p)

/-! ### Frames (R26, R393, R400, R402, R434) -/

/-- Frames of bonded DRAM per die that pages may use: 64 GiB less the page table of R393. -/
def bondedFrames : Nat := 2 ^ 20 - 1024
/-- Frames of the capacity tier: 1.5 TiB per package. -/
def capacityFrames : Nat := 3 * 2 ^ 23

/-- HDIE and PKG of a page number. -/
def pageDie (p : Nat) : Nat := p / 2 ^ 32

/-- A place for frames: the bonded DRAM of a die, or the capacity tier. -/
def inTier (bonded : Bool) (die : Nat) (p : Nat) : Bool := !bonded || pageDie p == die

/-- The key of a tier's count of frames that are not used again. -/
def tierKey (bonded : Bool) (die : Nat) : Nat := if bonded then die + 1 else 0

/-- The copies of a page that launch laps hold. They stay in the page's own tier (R434): where the home controller moves the page they move
with it (DESIGN CHOICE, notes/assumptions/76.md). -/
def State.ownCopies (s : State) (p : Nat) : Nat :=
  (s.mem.laps.filter fun l => l.number == 0 && l.held.any fun h => h.1 == p).length

/-- The frames in use of a tier of this package: of its pages, of the copies set aside there, a launch lap's in the page's own tier and a
snapshot lap's in bonded DRAM (R333, R434), and those that are not used again (R435). A release frees a lap's frames (R334); where its
attempt is undone they count again (DESIGN CHOICE, notes/assumptions/100.md). -/
def State.framesUsed (s : State) (bonded : Bool) (die : Nat) : Nat :=
  let loc := if bonded then 1 else 2
  let there (p : Nat) : Bool := inTier bonded die p && pkgOf (p * 65536) == s.pkg
  let copies (l : Lap) : Nat :=
    (l.held.filter fun h => there h.1 && (if l.number = 0 then peLoc (s.page h.1) == loc else bonded)).length
  (s.mem.pages.filter fun q => peLoc q.2 == loc && there q.1).length +
    ((s.mem.laps.filter fun l => l.gone.isNone).map copies).foldl (· + ·) 0 + Sp.get 0 s.mem.retired (tierKey bonded die)
def State.framesLeft (s : State) (bonded : Bool) (die : Nat) : Nat :=
  (if bonded then bondedFrames else capacityFrames) - s.framesUsed bonded die

/-- The pages of a tier that the home controller may move to the other tier: unpinned, of no request in `ps` (R402), and without copies
that would move with them (DESIGN CHOICE, notes/assumptions/76.md). -/
def State.victims (s : State) (bonded : Bool) (die : Nat) (ps : Nat → Bool) : List Nat :=
  (s.mem.pages.filter fun q => peLoc q.2 == (if bonded then 1 else 2) && inTier bonded die q.1 && pkgOf (q.1 * 65536) == s.pkg &&
    Sp.get 0 s.mem.pins q.1 == 0 && !ps q.1 && s.ownCopies q.1 == 0).map (·.1)

/-- A page placed in a tier's frame: LOC and the frame number, which is the home controller's own (Config.frame). -/
def State.placePage (s : State) (loc p : Nat) : State :=
  (s.spend).setPage p (setPe (setPe (s.page p) 41 2 loc) 16 25 (Config.frame s.fresh).toNat)

/-- The victims of a tier that can move, with `gained` places that the other tier gains: a page of the capacity tier moves to a free
frame of its own die, where `kept` of one die's are spoken for. -/
def State.movable (s : State) (bonded : Bool) (die gained : Nat) (ps : Nat → Bool) (kept : Nat × Nat := (0, 0)) : List Nat :=
  let vs := s.victims bonded die ps
  if bonded then vs.take (s.framesLeft false die + gained)
  else (vs.map pageDie).eraseDups.flatMap fun d =>
    (vs.filter fun p => pageDie p == d).take (s.framesLeft true d + gained - if d = kept.1 then kept.2 else 0)

/-- Eviction and migration: victims move to the other tier until `n` frames are free. The lowest page goes first (DESIGN CHOICE,
notes/assumptions/76.md). -/
def State.makeRoom (s : State) (bonded : Bool) (die n gained : Nat) (ps : Nat → Bool) (kept : Nat × Nat := (0, 0)) : State :=
  ((sortBy (fun a b => a ≤ b) (s.movable bonded die gained ps kept)).take (n - s.framesLeft bonded die)).foldl
    (fun s p => s.placePage (if bonded then 2 else 1) p) s

/-! ### Copies set aside (R333, R434) -/

/-- The frames that a write to a page needs for its copies: of the capacity tier, and of the bonded DRAM of the page's die. Another
package keeps its own pages' copies. -/
def State.copyFrames (s : State) (p : Nat) : Nat × Nat :=
  let taking := s.mem.laps.filter fun l => l.takes p
  let own := (taking.filter fun l => l.number == 0 && peLoc (s.page p) == 2).length
  if pkgOf (p * 65536) = s.pkg then (own, taking.length - own) else (0, 0)

/-- The first write to a covered page copies it aside, for each lap that has no copy of it; LGEN records the newest
generation (R434). A page that leaves a full die for its copy finds its place in the capacity tier, which may first move pages to other
dies. A write whose copies find no frames leaves its mark in `starved`, and no step performs it: it waits until a frame frees, a train's as
a late event (R434), another's likewise (DESIGN CHOICE, notes/assumptions/100.md). -/
def State.setAside (s : State) (p : Nat) : State :=
  if !(s.mem.laps.any fun l => l.takes p) then s
  else
    let die := pageDie p
    let n := s.copyFrames p
    let s := s.makeRoom false die (n.1 + (n.2 - s.framesLeft true die)) 0 (fun q => q == p) (die, n.2)
    let s := s.makeRoom true die n.2 0 fun q => q == p
    let short := decide (s.framesLeft false die < n.1) || decide (s.framesLeft true die < n.2)
    let gen := (s.mem.laps.filter fun l => l.takes p).foldl (fun g l => max g l.gen) (peLgen (s.page p))
    let keep (l : Lap) : Lap :=
      if l.takes p then
        { l with held := l.held ++ [(p, pePsn (s.page p))]
                 aside := Sp.graft l.aside (Sp.window s.mem.home (p * 65536) 65536) (p * 65536) 65536 }
      else l
    { s with mem := { s.mem with laps := s.mem.laps.map keep, starved := s.mem.starved || short } }.setPage p
      (setPe (s.page p) 0 16 gen)

/-- A write to a range sets aside each of its pages. -/
def State.setAsideRange (s : State) (ia n : Nat) : State := (pieces ia n).foldl (fun s q => s.setAside (pageOf q.1)) s

/-! ### Home reads and writes -/

/-- Bytes as a tenant reads them at the home: a failing page gives zeros (R394). -/
def State.homeBytes (s : State) (owner ia n : Nat) : List Byte :=
  (pieces ia n).flatMap fun q => if s.pageOk owner (pageOf q.1) then Memory.bytes s.mem.home q.1 q.2 else List.replicate q.2 0

/-- The companion's copies of the lines of a range are invalidated (R444). Lines are keyed by their first address. -/
def Mem.invalidate (m : Mem) (ia n : Nat) : Mem :=
  { m with snoop := Sp.clear m.snoop (ia / 64 * 64) ((ia + n + 63) / 64 * 64 - ia / 64 * 64) }

/-- Bytes written at the home without a check. -/
def State.homePut (s : State) (ia : Nat) (bs : List Byte) : State :=
  let s := s.setAsideRange ia bs.length
  { s with mem := { s.mem.invalidate ia bs.length with home := Memory.put s.mem.home ia bs } }

/-- The bits of a byte that a tenant may write: of a queue control block in use, those of w1, of BASE and of w3's fields (R410). -/
def State.tenantBits (s : State) (a : Nat) : Byte :=
  match s.fw.queues.find? fun q => q.2.listed && q.2.qcb ≤ a && a < q.2.qcb + 64 with
  | none => 0xFF
  | some q =>
    let o := a - q.2.qcb
    if (8 ≤ o && o < 23) || o = 24 || o = 25 then 0xFF else if o = 26 then 0x3F else 0

/-- The bytes that a tenant's write leaves at an address. -/
def State.tenantBytes (s : State) (ia : Nat) (bs : List Byte) : List Byte :=
  if s.fw.queues.isEmpty then bs
  else ((List.range bs.length).zip bs).map fun p =>
    let m := s.tenantBits (ia + p.1)
    (p.2 &&& m) ||| (Memory.byte s.mem.home (ia + p.1) &&& ~~~m)

/-- A tenant's home write, page by page; a page that fails its checks keeps its bytes and counts (R394). -/
def State.homeWrite (s : State) (owner ia : Nat) (bs : List Byte) : State :=
  (pieces ia bs.length).foldl (fun s q =>
    if s.pageOk owner (pageOf q.1) then s.homePut q.1 (s.tenantBytes q.1 ((bs.drop (q.1 - ia)).take q.2)) else s.bump 0 9) s

/-- The requests for some pages that fail their checks count as owner mismatches (R394). -/
def State.countMisses (s : State) (owner : Nat) (ps : List Nat) : State :=
  (ps.filter fun p => !s.pageOk owner p).foldl (fun s _ => s.bump 0 9) s

/-! ### Views -/

/-- The bytes that a core's view of a level presents (R142). -/
def State.viewBytes (s : State) (owner core level ia n : Nat) : List Byte :=
  if level = 0 then s.homeBytes owner ia n
  else if level = 1 then Memory.bytes s.mem.cview (viewKey (core / 8) ia) n
  else Memory.bytes s.mem.pview (viewKey core ia) n

/-- The bytes that the cluster's view presents: what an engine reads (R155). -/
def State.clusterBytes (s : State) (owner cluster level ia n : Nat) : List Byte :=
  if level = 0 then s.homeBytes owner ia n else Memory.bytes s.mem.cview (viewKey cluster ia) n

/-- Write bytes into the views of some cores. -/
def State.putCores (s : State) (cores : List Nat) (ia : Nat) (bs : List Byte) : State :=
  { s with mem := { s.mem with pview := cores.foldl (fun m c => Memory.put m (viewKey c ia) bs) s.mem.pview } }

/-- Bytes become own in a cluster view, last committed by team `tk`, and enter the team's core views (R145, R153). A commit is
a write for the laps: it sets the pages' home values aside (R434). -/
def State.makeOwn (s : State) (tk cluster : Nat) (cores : List Nat) (ia : Nat) (bs : List Byte) : State :=
  let s := s.setAsideRange ia bs.length
  let m := s.mem
  { s with mem := { m with
      cview := Memory.put m.cview (viewKey cluster ia) bs
      own := Sp.put 0 m.own (viewKey cluster ia) (bs.map fun _ => tk + 1) } }.putCores cores ia bs

/-- A commit of bytes at a level (R145). -/
def State.commit (s : State) (owner tk cluster : Nat) (cores : List Nat) (level ia : Nat) (bs : List Byte) : State :=
  if level = 0 then s.homeWrite owner ia bs else s.makeOwn tk cluster cores ia bs

/-- Home values of a range enter a cluster view, except in own bytes and in pages that fail their checks (R143). -/
def State.refreshRange (s : State) (owner cluster base n : Nat) : State :=
  let k := viewKey cluster base
  let owned (a : Nat) : Bool := Sp.get 0 s.mem.own a != 0
  let fresh := (Sp.rekey (Sp.window s.mem.home base n) base k).filter fun p =>
    !owned p.1 && s.pageOk owner (pageOf (p.1 - k + base))
  let kept := (Sp.window s.mem.cview k n).filter fun p => owned p.1
  { s with mem := { s.mem with
      cview := Sp.graft s.mem.cview (Sp.merge (fresh.length + kept.length) fresh kept) k n } }

/-- A core view takes its cluster's view of a range. -/
def State.refreshCoreRange (s : State) (core base n : Nat) : State :=
  let from_ := viewKey (core / 8) base
  let w := Sp.rekey (Sp.window s.mem.cview from_ n) from_ (viewKey core base)
  { s with mem := { s.mem with pview := Sp.graft s.mem.pview w (viewKey core base) n } }

/-- A core view takes its cluster's view (R143). -/
def State.refreshCore (s : State) (core : Nat) : State := s.refreshCoreRange core 0 viewSpan

/-- The ranges of a launch's footprints that lie in companion windows, or in the others, of team `t` where they are per team (R143):
(address, bytes), one for each window that translates pages of it. -/
def Desc.rangesIn (d : Desc) (comp : Bool) (teams : List Nat) : List (Nat × Nat) :=
  d.foots.flatMap fun f =>
    (if f.stride = 0 then [0] else teams).flatMap fun t =>
      let lo := f.base t / 65536
      let hi := ceilDiv (f.base t + f.size) 65536
      d.windows.filterMap fun w =>
        let a := max lo (winVpage w)
        let b := min hi (winVpage w + winSize w)
        if a < b && winComp w == comp then some ((winIpage w + a - winVpage w) * 65536, (b - a) * 65536) else none

/-- The intermediate ranges. -/
def Desc.ranges (d : Desc) (teams : List Nat) : List (Nat × Nat) := d.rangesIn false teams

/-- A cluster view takes the home values of a launch's footprints (R143). -/
def State.refreshCluster (s : State) (tr : Train) (cluster : Nat) : State :=
  (tr.desc.ranges (List.range tr.desc.grid)).foldl (fun s r => s.refreshRange tr.owner cluster r.1 r.2) s

/-- The team that last committed a byte of a cluster view; none where it is not own. -/
def State.ownerOf (s : State) (cluster ia : Nat) : Option Nat :=
  match Sp.get 0 s.mem.own (viewKey cluster ia) with
  | 0 => none
  | k + 1 => some k

/-- A push of a team's own bytes at addresses that `reach` admits (R150). -/
def State.push (s : State) (owner tk cluster : Nat) (reach : Nat → Bool) : State :=
  let k := viewKey cluster 0
  let mine := (Sp.window s.mem.own k viewSpan).filter fun p => p.2 == tk + 1 && reach (p.1 - k)
  let bytes := mine.map fun p => (p.1 - k, Memory.byte s.mem.cview p.1)
  let s := (runs bytes).foldl (fun s r => s.homeWrite owner r.1 r.2) s
  let gone (a : Nat) : Bool := mine.any fun p => p.1 == a
  { s with mem := { s.mem with own := s.mem.own.filter fun p => !gone p.1 } }

/-- A release of a team at a scope (R150). -/
def State.release (s : State) (tk : Nat) (scope : Nat) : State :=
  let t := s.team tk
  let tr := s.train t.train
  if scope < 4 then s
  else s.push tr.owner tk (t.core / 8) fun ia => scope == 6 || pkgOf ia == s.pkg

/-- A push of a team's own bytes wherever they lie, the team itself may have ended. -/
def State.pushTeam (s : State) (owner tk : Nat) (reach : Nat → Bool) : State :=
  (((s.mem.own.filter fun p => p.2 == tk + 1).map fun p => p.1 / viewSpan).eraseDups).foldl (fun s k => s.push owner tk k reach) s

/-- The cores a team is resident on. -/
def Team.cores (t : Team) : List Nat := if t.pair then [t.core, t.core + 1] else [t.core]

/-! ### A load (R134, R146) -/

/-- Whether a buffered store of the team, issued before the load, covers a byte. -/
def BufStore.covers (b : BufStore) (ia : Nat) : Bool := b.ia ≤ ia && ia < b.ia + b.data.length

/-- Commit order of R56: key, then issue. -/
def BufStore.key (b : BufStore) : List Nat := [b.team % 2 ^ 21, b.group, b.pos, b.ord]

/-- The store whose byte the commit would leave. -/
def lastStore (ia : Nat) : Option BufStore → List BufStore → Option BufStore
  | best, [] => best
  | best, b :: bs =>
    let better := b.covers ia && (match best with | none => true | some c => lexLe c.key b.key)
    lastStore ia (if better then some b else best) bs

/-- `n` bytes at `ia` as a load of the issuing group samples them. -/
def State.sample (s : State) (level ia n : Nat) : List Byte :=
  let g := s.me
  let own := s.grid.stores.filter fun b =>
    b.train == s.cur.train && b.team == s.cur.team && b.clk < s.now && b.pos < 64 && b.ia < ia + n && ia < b.ia + b.data.length
  ((List.range n).zip (s.viewBytes s.myTrain.owner (s.readCore g) level ia n)).map fun p =>
    match lastStore (ia + p.1) none own with
    | some b => nth 0 b.data (ia + p.1 - b.ia)
    | none => p.2

/-- A line of the team's store buffer (R55): a 64-byte line not yet held adds one. -/
def State.touchLine (s : State) (ia n : Nat) : State :=
  let touched := (List.range ((ia + n - 1) / 64 - ia / 64 + 1)).map (· + ia / 64)
  s.modTeam s.myTeamKey fun t =>
    { t with lines := touched.foldl (fun ls x => if ls.contains x then ls else ls ++ [x]) t.lines }

/-- A buffered store of one lane (R285). -/
def State.bufferStore (s : State) (pos level ia : Nat) (bs : List Byte) : State :=
  let e : BufStore :=
    { train := s.cur.train, team := s.cur.team, group := s.me.idx, pos := pos, ord := s.grid.ord, clk := s.now, level := level,
      ia := ia, data := bs }
  let s := s.touchLine ia bs.length
  { s with grid := { s.grid with stores := s.grid.stores ++ [e], ord := s.grid.ord + 1 } }

end Sys2Proof.Machine
end

