-- ==== Sys2Proof/Machine/FaultOps.lean ====
section
/-!
DEFINITION. Firmware structures in memory, the fault ring, the host event ring, queue halts, status records, and ending a team by
a fault (spec/17_privilege_traps_preemption.md R366 to R371, R388, spec/19_queues_firmware_scheduler.md R416, R418, R423, R424).
-/

namespace Sys2Proof.Machine

/-! ### Memory by 64-bit command-core address (R446) -/

/-- Bytes at a command-core address, without a permission check. -/
def State.sysBytes (s : State) (a n : Nat) : List Byte :=
  if 2 ^ 63 ≤ a then Memory.bytes s.mem.priv (a - 2 ^ 63) n else Memory.bytes s.mem.home a n
def State.sysPut (s : State) (a : Nat) (bs : List Byte) : State :=
  if 2 ^ 63 ≤ a then { s with mem := { s.mem with priv := Memory.put s.mem.priv (a - 2 ^ 63) bs } } else s.homePut a bs
def State.sysWord (s : State) (a : Nat) : W64 := BitVec.ofNat 64 (leNat (s.sysBytes a 8))
def State.sysPutWord (s : State) (a : Nat) (x : W64) : State := s.sysPut a (leBytes 8 x.toNat)
def wordBytes (ws : List W64) : List Byte := ws.flatMap fun w => leBytes 8 w.toNat

/-! ### Handles and events (R388, R392) -/

/-- The handle of team `tm` of a launch in queue slot `q`. -/
def handleOf (q tm : Nat) : W64 := BitVec.ofNat 64 (tm % 2 ^ 21 + 2 ^ 32 * q)
/-- The handle of a whole train. -/
def trainHandle (q : Nat) : W64 := BitVec.ofNat 64 (2 ^ 63 + 2 ^ 32 * q)
def State.trainLaunch (s : State) (tr : Nat) : Launch := s.launch (s.train tr).launch

/-- An event at a level ends HALT .wait on the cores at that level or below (R392). -/
def State.wakeLevel (s : State) (level : Nat) : State :=
  { s with fw := { s.fw with cmds := s.fw.cmds.map fun p =>
      (p.1, if p.2.level ≤ level then { p.2 with waiting := false } else p.2) } }

/-! ### The fault ring (R370) -/

def ringSize (fring : W64) : Nat := 16 * 2 ^ fieldOf fring 0 4
def ringAt (fring : W64) (i : Nat) : Nat := fieldOf fring 12 52 * 4096 + 64 * (i % ringSize fring)
/-- Whether the next place is free: its V bit is clear. -/
def State.ringFree (s : State) : Bool := fieldOf (s.sysWord (ringAt s.fw.fring s.fw.ringIx + 56)) 63 1 == 0

/-- A record written into the ring, with the S-level event; its question waits for FANS and holds the train. -/
def State.postNow (s : State) (p : Post) : State :=
  let i := s.fw.ringIx
  let s := s.sysPut (ringAt s.fw.fring i) (wordBytes (p.words ++ [s.bc, BitVec.ofNat 64 (2 ^ 63 + i % 2 ^ 16)]))
  let asked := match p.ask with | none => s.fw.asked | some a => s.fw.asked ++ [{ a with ix := i }]
  let s := { s with fw := { s.fw with ringIx := i + 1, asked := asked } }
  let s := match p.ask with
    | none => s
    | some a => s.modTrain a.train fun t => { t with holds := t.holds ++ [(a.p, Hold.answer i)] }
  (s.note (.faultPosted i)).wakeLevel 1

/-- Write the waiting records while places are free; a train whose record still waits holds its vc (R370). A record whose page finds no
frame for a copy set aside waits too (DESIGN CHOICE, notes/assumptions/100.md). -/
def State.flushPosts : Nat → State → State
  | 0, s => s
  | n + 1, s =>
    match s.fw.posts with
    | [] => s
    | p :: ps =>
      if s.ringFree then
        let t : State := { s with fw := { s.fw with posts := ps } }
        let t := match p.train with
          | none => t
          | some tr => t.modTrain tr fun x => { x with holds := eraseFirst (fun h => h.2 == Hold.ringFull) x.holds }
        let t := t.postNow p
        if t.mem.starved && !s.mem.starved then s else State.flushPosts n t
      else s

/-- Post a record; where the ring is full it waits, and its train holds. -/
def State.post (s : State) (p : Post) : State :=
  let s := match p.train with
    | none => s
    | some tr => s.modTrain tr fun t => { t with holds := t.holds ++ [(t.clk, Hold.ringFull)] }
  let s := { s with fw := { s.fw with posts := s.fw.posts ++ [p] } }
  s.flushPosts s.fw.posts.length

/-- w5 of a record. -/
def ringWord5 (core group owner : Nat) : W64 := BitVec.ofNat 64 (core % 256 + 256 * (group % 256) + 65536 * (owner % 4096))

/-- A record about a group's fault (R370, R371). -/
def State.faultPost (s : State) (tr : Nat) (r : FaultRec) (ask : Option Ask) : Post :=
  let g := s.group r.key
  { words := [trapWord0 r.code r.lane r.tcode 0, trapWord1 r.resume r.alt, r.t2, r.pvc,
      handleOf (s.trainLaunch tr).queue g.team, ringWord5 g.core g.idx (s.train tr).owner]
    train := some tr
    ask := ask }

/-- w5 of a record that concerns no group: the core and group are open. -/
def openWord5 (x : W64) (owner : Nat) : W64 := (x &&& 0xFFFF) ||| ringWord5 0 0 owner

/-- A record about no instruction: codes 16 to 19. The spec gives t1, the core and the group no value there. -/
def State.plainPost (s : State) (code : Nat) (t2 t3 handle : W64) (owner : Nat) (tr : Option Nat) (ask : Option Ask) : State :=
  let words := [trapWord0 code 255 0 0, Config.value s.fresh, t2, t3, handle, openWord5 (Config.value (s.fresh + 1)) owner]
  (s.spend.spend).post { words := words, train := tr, ask := ask }

/-- A record that reports a finished request: codes 16 to 18. -/
def State.reportPost (s : State) (code : Nat) (t2 t3 handle : W64) (owner : Nat) : State :=
  s.plainPost code t2 t3 handle owner none none

/-! ### Queues' sticky status and the host event ring (R416, R423, R424) -/

def State.queue (s : State) (q : Nat) : QSlot := Sp.get {} s.fw.queues q
def State.setQueue (s : State) (q : Nat) (x : QSlot) : State := { s with fw := { s.fw with queues := Sp.set {} s.fw.queues q x } }
/-- Word `i` of a QCB, at its home. -/
def State.qcbWord (s : State) (qcb i : Nat) : W64 := s.sysWord (qcb + 8 * i)

/-- The sticky status word, where it is clear, and the halt: a halted queue admits nothing until it is remapped, which the refill of its
bucket does not do (DEDUCED, notes/assumptions/111.md). -/
def State.haltQueue (s : State) (q ecode entry : Nat) : State :=
  let x := s.queue q
  let s :=
    if s.qcbWord x.qcb 4 = 0 then
      s.homePut (x.qcb + 32) (leBytes 8 (ecode + 256 + 2 ^ 16 * (entry % 2 ^ 48)))
    else s
  s.setQueue q { x with mapped := false, dry := false }

/-- The slots in which S-level lists a queue, which the address of its control block names. -/
def State.slotsOf (s : State) (qcb : Nat) : List Nat := (s.fw.queues.filter fun p => p.2.listed && p.2.qcb == qcb).map (·.1)

/-- The bits of a byte of companion memory that the device alone writes once the header's address is latched: of the event ring's header,
PIDX, OVF and reserved ones (R10, R423, R447). -/
def State.ringOnly (s : State) (a : Nat) : Byte :=
  let hd := s.sys.evring.toNat
  let o := a - hd
  if !s.sys.released || a < hd || 64 ≤ o || o < 8 || (24 ≤ o && o < 32) then 0 else if o = 8 then 0xE0 else 0xFF

/-- Bytes written to companion memory, by the companion or for a program. -/
def State.compPut (s : State) (a : Nat) (bs : List Byte) : State :=
  let kept := ((List.range bs.length).zip bs).map fun p =>
    let m := s.ringOnly (a + p.1)
    (p.2 &&& ~~~m) ||| (Memory.byte s.mem.comp (a + p.1) &&& m)
  { s with mem := { s.mem with comp := Memory.put s.mem.comp a kept } }

/-- A record of the host event ring; where the ring is full, R424. `code` is an ECODE or 0x80 + a fault code, and `halts` the slots of
the queue, which a full ring halts; none where it is not a queue of this package. -/
def State.hostEvent (s : State) (q code owner entry : Nat) (halts : List Nat) : State :=
  let hd := s.sys.evring.toNat
  let word (i : Nat) : Nat := Memory.nat s.mem.comp (hd + 8 * i) 8
  let put (s : State) (a x : Nat) : State := { s with mem := { s.mem with comp := Memory.put s.mem.comp a (leBytes 8 x) } }
  let size := 2 ^ (word 1 % 32)
  let s := s.note (.hostEvent q code)
  if word 2 - word 3 ≥ size then
    let s := put s (hd + 32) (word 4 + 1)
    halts.foldl (fun s x => s.haltQueue x code entry) s
  else
    let a := word 0 + 32 * (word 2 % size)
    let s := put s a (q % 2 ^ 16 + 2 ^ 16 * code + 2 ^ 24 * (owner % 4096))
    let s := put s (a + 8) entry
    let s := put s (a + 16) s.bc.toNat
    let s := put s (a + 24) 0
    put s (hd + 16) (word 2 + 1)

/-- A queue error: status word, halt, report (R416). -/
def State.queueError (s : State) (q ecode entry : Nat) : State :=
  (s.haltQueue q ecode entry).hostEvent q ecode (s.queue q).owner entry [q]

/-! ### Status records (R418) -/

/-- The eight words of the status record. -/
def Launch.statusWords (l : Launch) : List W64 :=
  [BitVec.ofNat 64 (l.state + 256 * l.fcode + 2 ^ 32 * l.fteam), BitVec.ofNat 64 l.z, l.endVc, l.startBc, l.endBc, 0, 0, 0]

/-- A change of STATE, with the status record written at its home: by the package that offered the launch, which has its address. -/
def State.launchState (s : State) (l st : Nat) : State :=
  let s := s.modLaunch l fun x => { x with state := st }
  let x := s.launch l
  if x.away.isSome then s else s.homeWrite x.owner x.status (wordBytes x.statusWords)

/-! ### Groups and teams that end -/

/-- A team's index in keys. -/
def Team.keyIdx (t : Team) : Nat := t.idx + (if t.twin then 2 ^ 21 else 0)

/-- Keys of a team's groups. -/
def State.teamGroups (s : State) (tk : Nat) : List Nat :=
  let t := s.team tk
  (List.range t.groups).map fun g => groupKey t.train t.keyIdx g

/-- A group with no lane left: it has ended. -/
def Group.stopped (g : Group) : Group :=
  { g with ended := true, block := .none, wake := none, handler := none, stack := [], gone := g.lanes
           pri := { g.pri with mask := 0, waiting := false }, alt := { g.alt with mask := 0, waiting := false } }

/-- A team ended by a fault (R368): nothing issues, column entries that have not started are removed, and it takes part in no
alignment. -/
def State.stopTeam (s : State) (tk code : Nat) : State :=
  let keys := s.teamGroups tk
  let clk := (s.train (s.team tk).train).clk
  let s := keys.foldl (fun s k => s.modGroup k Group.stopped) s
  let free (x : IssueSlot) : IssueSlot := if x.busy && keys.contains x.key then { x with busy := false, free := clk } else x
  let g := s.grid
  let s := { s with grid := { g with
      issue := g.issue.map (fun p : Nat × IssueSlot => (p.1, free p.2))
      cmds := g.cmds.filter fun c => c.started || !keys.contains c.key
      sfu := g.sfu.filter fun e => !keys.contains e.key
      resume := g.resume.filter fun p => !keys.contains p.1 } }
  let s := s.modTrain (s.team tk).train fun t => { t with alignWho := t.alignWho.filter fun w => !keys.contains w.1 }
  s.modTeam tk fun t =>
    { t with halting := true, fault := if t.fault = 0 then code else t.fault, kept := t.kept.filter fun c => c.started }

/-- A team-ending fault of a launch that runs on: its status names the first (R418), and the owner's bank counts it
(R408). -/
def State.teamFault (s : State) (tk code : Nat) : State :=
  let t := s.team tk
  let tr := s.train t.train
  let s := (s.stopTeam tk code).bumpOwner tr.owner (if code = 9 then 8 else 9)
  s.modLaunch tr.launch fun l => if l.fcode = 0 then { l with fcode := code, fteam := t.idx } else l

/-- The keys of a train's live teams. -/
def State.liveTeams (s : State) (tr : Nat) : List Nat :=
  (s.grid.teams.filter fun p => p.2.live && p.2.train == tr && !p.2.ended).map (·.1)

/-- END (R367): every team of the train is ended, the saved ones and those that were to start again among them, and the launch
will complete with STATE 4. -/
def State.endTrain (s : State) (tr code team : Nat) : State :=
  let s := (s.liveTeams tr).foldl (fun s tk => s.stopTeam tk code) s
  let s := s.modTrain tr fun t => { t with failing := true, nextTeam := t.desc.grid, requeue := [], align := none, alignWho := [] }
  s.modLaunch (s.train tr).launch fun l => { l with fcode := code, fteam := team % 2 ^ 21 }

end Sys2Proof.Machine
end

