-- ==== Sys2Proof/Machine/Partition.lean ====
section
/-!
DEFINITION. Pins, leases, page owners, page keys, TMAP, Dial regions and counter banks (spec/18_translation_leases_partitions.md R393 to
R396, R399 to R407, spec/17_privilege_traps_preemption.md R389, R390).
-/

namespace Sys2Proof.Machine

/-! ### Pins (R402)

The hardware's count has 16 bits; a grant that would pass 65,535 waits (notes/assumptions/77.md). -/

def State.pins (s : State) (p : Nat) : Nat := Sp.get 0 s.mem.pins p
def State.pin (s : State) (ps : List Nat) : State :=
  { s with mem := { s.mem with pins := ps.foldl (fun m p => Sp.mod 0 m p (· + 1)) s.mem.pins } }
def State.unpin (s : State) (ps : List Nat) : State :=
  { s with mem := { s.mem with pins := ps.foldl (fun m p => Sp.mod 0 m p (· - 1)) s.mem.pins } }

/-! ### Leases (R399 to R401) -/

def Lease.pages (l : Lease) : List Nat := (List.range l.count).map (· + l.page)
def Lease.holds (l : Lease) (p : Nat) : Bool := l.page ≤ p && p < l.page + l.count
/-- The lease that a descriptor names: of several grants on it, the last. -/
def State.granted (s : State) (a : Nat) : Option Lease := (s.mem.leases.filter fun l => l.desc == a && l.state == 1).getLast?
/-- A lease changes: one of them, where grants on an unchanged descriptor made several alike. -/
def State.swapLease (s : State) (old new : Lease) : State :=
  { s with mem := { s.mem with leases := modFirst (fun x => x == old) (fun _ => new) s.mem.leases } }
/-- The pending request of a descriptor changes. -/
def State.answerLease (s : State) (l : Lease) : State :=
  { s with mem := { s.mem with leases := s.mem.leases.map fun x => if x.desc = l.desc && x.state == 0 then l else x } }

/-- A lease descriptor as its memory holds it. -/
def State.readLease (s : State) (a : Nat) : Lease :=
  let w (i : Nat) : W64 := s.sysWord (a + 8 * i)
  { desc := a, page := fieldOf (w 0) 0 40, count := fieldOf (w 1) 0 32, owner := fieldOf (w 2) 0 12,
    kind := fieldOf (w 2) 12 2, cls := fieldOf (w 2) 14 1, holder := w 3, counter := (w 4).toNat, target := w 5,
    state := 0, remote := false }

/-- A reserved bit or a value outside its range (cause 5). -/
def State.leaseReserved (s : State) (a : Nat) : Bool :=
  let w (i : Nat) : W64 := s.sysWord (a + 8 * i)
  fieldOf (w 0) 40 24 != 0 || fieldOf (w 1) 32 32 != 0 || fieldOf (w 2) 15 49 != 0 || fieldOf (w 2) 12 2 == 0 ||
  fieldOf (w 1) 0 32 == 0 || fieldOf (w 1) 0 32 > 2 ^ 23

/-- The refusal cause of a lease request; 0 for none (R399). -/
def State.leaseCause (s : State) (l : Lease) : Nat :=
  if !l.remote && s.leaseReserved l.desc then 5
  else if l.page / 2 ^ 32 != (l.page + l.count - 1) / 2 ^ 32 || pkgOf (l.page * 65536) != s.pkg then 4
  else if !(l.pages.all hasEntry) then 2
  else if !(l.pages.all fun p => peOwner (s.page p) == l.owner) then 1
  else if l.cls = 0 && bondedFrames < l.count then 3
  else 0

/-- A page made resident for a class (R400): PLAIN in bonded DRAM, ENGINE where it is; a new frame is zeroed. A pinned page keeps its tier
(R402). -/
def State.makeResident (s : State) (cls p : Nat) : State :=
  let loc := peLoc (s.page p)
  if loc = 1 || (loc = 2 && (cls = 1 || s.pins p != 0)) then s
  else
    let s := if loc = 0 then { s with mem := { s.mem with home := Sp.clear s.mem.home (p * 65536) 65536 } } else s
    s.placePage (if cls = 0 then 1 else 2) p

/-- How many frames of their tier a lease's pages need, those for the launch laps' copies that move with them included. -/
def State.framesNeeded (s : State) (l : Lease) : Nat :=
  ((l.pages.filter fun p => peLoc (s.page p) != 1 && (l.cls == 0 || peLoc (s.page p) == 0)).map fun p => 1 + s.ownCopies p).foldl (· + ·) 0

/-- How many frames of the other tier a request's own pages leave free. -/
def State.framesGained (s : State) (l : Lease) : Nat :=
  if l.cls = 0 then ((l.pages.filter fun p => peLoc (s.page p) == 2).map fun p => 1 + s.ownCopies p).foldl (· + ·) 0 else 0

/-- Whether every page of a request can have a frame and a pin: frames are free, or unpinned pages can leave for the other tier, which
gains the places of the request's own pages; and the pages that must themselves leave the capacity tier are unpinned (R402). -/
def State.framesFree (s : State) (l : Lease) : Bool :=
  let bonded := l.cls == 0
  let die := pageDie l.page
  let gained := s.framesGained l
  s.framesNeeded l ≤
    s.framesLeft bonded die + (s.movable bonded die gained l.holds).length &&
  l.pages.all fun p => s.pins p < 65535 && !(bonded && peLoc (s.page p) == 2 && s.pins p != 0)

/-- From here on a lease's `desc` is a name of the model's for another package's request, which has no descriptor here. -/
def remoteDesc : Nat := 2 ^ 64

/-- w7 of a descriptor. -/
def State.leaseStatus (s : State) (a st cause : Nat) (done : Bool) : State :=
  if remoteDesc ≤ a then s else s.sysPutWord (a + 56) (BitVec.ofNat 64 (st + 256 * cause + 2 ^ 63 * done.toNat))

/-- The report of a finished lease request: code 18 (R399). -/
def State.leaseReport (s : State) (l : Lease) : State :=
  if l.remote then s else s.spend.reportPost 18 0 (Config.value s.fresh) l.holder l.owner

/-- The completion of a grant (R399, R400): refused with its cause, or granted once every page is resident and pinned. A
grant that needs a frame while none is free stays pending (R402). -/
def State.completeGrant (s : State) (l : Lease) : State :=
  let cause := s.leaseCause l
  if cause != 0 then ((s.answerLease { l with state := 2 }).leaseStatus l.desc 2 cause true).leaseReport l
  else if !s.framesFree l then s
  else
    let s := s.makeRoom (l.cls == 0) (pageDie l.page) (s.framesNeeded l) (s.framesGained l) l.holds
    let s := (l.pages.foldl (fun s p => s.makeResident l.cls p) s).pin l.pages
    let s := s.answerLease { l with state := 1 }
    if l.remote then s
    else
      let s := (s.sysPutWord (l.desc + 48) (Config.value s.fresh)).spend
      (s.leaseStatus l.desc 1 0 true).leaseReport l

/-- Whether LEASE accepts a request on the descriptor: its status is done and no request on it is pending (R399). -/
def State.leaseAccepts (s : State) (a : Nat) : Bool :=
  fieldOf (s.sysWord (a + 56)) 63 1 == 1 && !(s.mem.leases.any fun l => l.desc == a && (l.state == 0 || l.state ≥ 4))

/-- Op 0: the request becomes pending. -/
def State.requestGrant (s : State) (a : Nat) : State :=
  let l := s.readLease a
  { s with mem := { s.mem with leases := s.mem.leases ++ [l] } }.leaseStatus a 0 0 false

/-- The end of a lease: its pages are unpinned and its descriptor reads 3 (R401). -/
def State.endLease (s : State) (l : Lease) : State :=
  (((s.unpin l.pages).swapLease l { l with state := 3 }).leaseStatus l.desc 3 0 true).leaseReport l

/-- The train that a handle's queue slot names, where it runs. Of several running launches of one slot, which R388 does not tell apart, it is
the train that started first (DESIGN CHOICE, notes/assumptions/131.md). -/
def State.trainOfHandle (s : State) (h : W64) : Option Nat :=
  (s.grid.trains.find? fun p => p.2.live && (s.launch p.2.launch).queue == fieldOf h 32 16).map (·.1)

/-- Op 2: a held lease is removed at the next boundary of its holder's train, any other at once (R401). -/
def State.requestRevoke (s : State) (l : Lease) : State :=
  let st := if l.holder = -1 || (s.trainOfHandle l.holder).isNone then 5 else 4
  (s.swapLease l { l with state := st }).leaseStatus l.desc 1 0 false

/-- A request of another package's scheduler for pages of this one (R400). -/
def State.requestRemote (s : State) (page count owner kind cls : Nat) (holder : W64) : State :=
  let l : Lease :=
    { desc := remoteDesc + s.fresh, page := page, count := count, owner := owner, kind := kind, cls := cls, holder := holder, remote := true }
  ({ s with mem := { s.mem with leases := s.mem.leases ++ [l] } }).spend

/-- At a boundary of a train: its revoked leases are removed from its lease check (R401). -/
def State.removeRevoked (s : State) (tr : Nat) : State :=
  let hit (l : Lease) : Bool := l.state == 4 && s.trainOfHandle l.holder == some tr
  let gone := (s.mem.leases.filter hit).map fun l => (l.page, l.count)
  let s := { s with mem := { s.mem with leases := s.mem.leases.map fun l => if hit l then { l with state := 5 } else l } }
  if gone.isEmpty then s else s.modTrain tr fun t => { t with revoked := t.revoked ++ gone }

/-- Whether a copy or network piece is in flight on a page of the lease. -/
def State.inFlight (s : State) (l : Lease) : Bool := s.grid.cmds.any fun c => c.pages.any l.holds

/-- The unpinning of a revoked lease: its counter has reached the target and no piece is in flight (R401). -/
def State.completeRevoke (s : State) (l : Lease) : State :=
  let ready := l.counter = 0 || (s.sysWord l.counter).toNat ≥ l.target.toNat
  if l.state = 5 && ready && !s.inFlight l then s.endLease l else s

/-- Whether a tenant's structure lies in pages that it owns and holds under a granted lease (R416), or under a standing one (R410). -/
def State.ownedLeased (s : State) (standing : Bool) (owner a n : Nat) : Bool :=
  (pieces a n).all fun q =>
    let p := pageOf q.1
    peOwner (s.page p) == owner &&
    s.mem.leases.any fun l => l.state == 1 && l.owner == owner && l.holds p && (!standing || l.holder == -1)

/-! ### Owners and attributes (R390, R395, R396) -/

/-- The tenant of a cluster. -/
def State.tenantOf (s : State) (cluster : Nat) : Nat := ((s.sys.hpol.find? fun p => bitAt p.2 cluster).map (·.1)).getD 0

/-- A page's lines in a cluster cache and its L1s are invalidated: no byte of the page is own, and the views present what the home
gives the cluster's tenant (R136, R143). -/
def State.dropClusterLines (s : State) (p cluster : Nat) : State :=
  let base := p * 65536
  let k := viewKey cluster base
  let cores := (List.range 8).map (· + 8 * cluster)
  if (Sp.window s.mem.own k 65536).isEmpty && (Sp.window s.mem.cview k 65536).isEmpty &&
      cores.all (fun c => (Sp.window s.mem.pview (viewKey c base) 65536).isEmpty) then s
  else
    let s := { s with mem := { s.mem with own := Sp.clear s.mem.own k 65536 } }.refreshRange (s.tenantOf cluster) cluster base 65536
    cores.foldl (fun s c => s.refreshCoreRange c base 65536) s

/-- The lines of a page are invalidated in every cluster cache and at the companion (R390, R395, R444). -/
def State.dropLines (s : State) (p : Nat) : State :=
  (List.range 32).foldl (fun s k => s.dropClusterLines p k)
    { s with mem := { s.mem with snoop := s.mem.snoop.filter fun q => q.1 / 65536 != p } }

/-- The two keys of a page of this package (R397, R446); none for slot 0. -/
def State.pageKeys (s : State) (p : Nat) : Option KeyPair :=
  let k := peKey (s.page p)
  let a := keySlotBase + 128 * (32 * dieOf (p * 65536) + k)
  if k = 0 || pkgOf (p * 65536) != s.pkg then none
  else some { data := Memory.bytes s.mem.priv a 32, tweak := Memory.bytes s.mem.priv (a + 32) 32 }

/-- The keys of a resident page change: its stored bytes stay, and it reads as the new keys decrypt them (DEDUCED,
notes/assumptions/71.md). -/
def State.rekeyPage (s : State) (old new : Option KeyPair) (p : Nat) : State :=
  if old = new || peLoc (s.page p) = 0 then s
  else
    let unit (i : Nat) : List Byte := rekeyUnit old new (p * 65536 + 64 * i) (Memory.bytes s.mem.home (p * 65536 + 64 * i) 64)
    { s with mem := { s.mem with home := Memory.put s.mem.home (p * 65536) ((List.range 1024).flatMap unit) } }

/-- Key slots written since `before`: every page of this package whose keys changed (R397). -/
def State.rekey (s before : State) : State :=
  (s.mem.pages.map (·.1)).foldl (fun t p => t.rekeyPage (before.pageKeys p) (s.pageKeys p) p) s

/-- POWN: the change and the value of DST. -/
def State.setOwner (s : State) (p owner : Nat) : State × W64 :=
  let old := peOwner (s.page p)
  if s.pins p != 0 || pkgOf (p * 65536) != s.pkg || !hasEntry p then (s, BitVec.ofNat 64 (old + 2 ^ 63))
  else
    ((s.setPage p (setPe (s.page p) 52 12 owner)).dropLines p, BitVec.ofNat 64 old)

/-- The fields that TMAP may change, without and with a pin (R395, R396). -/
def tmapMask (pinned : Bool) : W64 :=
  if pinned then BitVec.ofNat 64 (2 ^ 43) else BitVec.ofNat 64 ((2 ^ 12 - 1) * 2 ^ 52 + 31 * 2 ^ 47 + 3 * 2 ^ 45 + 2 ^ 44 + 2 ^ 43)

/-- One page of a TMAP record. A pinned page takes PSN only, and its lines stay: no attribute changes under a running launch (R396). -/
def State.tmapPage (s : State) (v m : W64) (p : Nat) : State :=
  let pinned := s.pins p != 0
  let m' := m &&& tmapMask pinned
  let s := if pinned && (m &&& tmapMask false &&& ~~~tmapMask true) != 0 then s.bump 0 8 else s
  let t := s.setPage p (blend64 (s.page p) m' v)
  let t := t.rekeyPage (s.pageKeys p) (t.pageKeys p) p
  let s := if pinned then t else t.dropLines p
  if m' &&& v &&& tmapMask true = 0 then s else s.bumpOwner (peOwner (s.page p)) 4

/-- A TMAP record (R395): only the package that PKG names acts on it. -/
def State.applyTmap (s : State) (ws : List W64) : State :=
  let p := fieldOf (nth 0 ws 0) 0 40
  let n := fieldOf (nth 0 ws 0) 40 24 + 1
  if ws.length < 3 || p / 2 ^ 32 != (p + n - 1) / 2 ^ 32 || pkgOf (p * 65536) != s.pkg then s
  else ((List.range n).filter fun i => hasEntry (p + i)).foldl (fun s i => s.tmapPage (nth 0 ws 1) (nth 0 ws 2) (p + i)) s

/-- A page poisoned by the error machinery (R433). -/
def State.poison (s : State) (p : Nat) : State :=
  (s.setPage p (setPe (s.page p) 43 1 1)).bumpOwner (peOwner (s.page p)) 4

/-! ### Dial regions (R406) -/

/-- BASE and SIZE of a tenant's region by a Dial's region table. -/
def dialRegion (dial : List (Nat × W64)) (owner : Nat) : Nat × Nat :=
  if owner = 0 then (0, 1048576)
  else
    let w := Sp.get 0 dial owner
    let b := fieldOf w 0 20
    let n := fieldOf w 20 21
    if b < 4160 || b + n > 1048576 then (b, 0) else (b, n)

/-! ### Counter banks (R407) -/

/-- The bank of an owner id assigned when its CL first becomes non-zero, freed when it returns to 0. -/
def State.assignBank (s : State) (owner : Nat) (used : Bool) : State :=
  let has := s.sys.banks.any fun b => b.2 == owner
  if used && !has then
    match (List.range 127).find? fun i => !(s.sys.banks.any fun b => b.1 == i + 1) with
    | none => s
    | some i =>
      { s with sys := { s.sys with
          banks := s.sys.banks ++ [(i + 1, owner)]
          counters := Sp.set 0 (Sp.clear s.sys.counters (32 * (i + 1)) 32) (32 * (i + 1) + 31) (BitVec.ofNat 64 owner) } }
  else if !used && has then
    { s with sys := { s.sys with
        banks := s.sys.banks.filter fun b => b.2 != owner
        counters := (s.sys.banks.filter fun b => b.2 == owner).foldl
          (fun m b => Sp.set 0 m (32 * b.1 + 31) 0) s.sys.counters } }
  else s

end Sys2Proof.Machine
end

