-- ==== Sys2Proof/Machine/CmdMem.lean ====
section
/-!
DEFINITION. What a command core reaches: intermediate addresses, ROM, SRAM, the aperture and the key slots, with the PMP regions
that bind U-level (spec/17_privilege_traps_preemption.md R364, spec/21_host_link_and_bringup.md R446, R448, R453 to R456); and the
operations of the twelve atomics (spec/12_memory_and_synchronisation_instructions.md R286).
-/

namespace Sys2Proof.Machine

/-! ### The aperture as it reads (R448, R453 to R456) -/

/-- BOOTST. -/
def State.bootst (s : State) : Nat := s.sys.boot + 2 ^ 16 * s.sys.cause + 2 ^ 24 * s.sys.die

/-- BOOTST's STATE codes. -/
def bootLoader : Nat := 1
def bootDownload : Nat := 2
def bootReady : Nat := 8

/-- The last 4 KiB of SRAM: the host mailbox. -/
def mboxBase : Nat := 0x11FFF000

/-- The fuse interface (R455). -/
def State.fuseByte (s : State) (o : Nat) : Byte :=
  let w : Nat :=
    if o < 8 then s.sys.fusea.toNat
    else if o < 16 then s.sys.fused.toNat
    else if o < 24 then 2 * s.sys.fuseBusy.toNat + 4 * s.sys.fuseErr.toNat
    else if o < 32 then (Sp.get 0 s.sys.fuses (fieldOf s.sys.fusea 0 6)).toNat
    else 0
  BitVec.ofNat 8 (w / 2 ^ (8 * (o % 8)))

/-- From RELEASE until HALTED the ports work (R454), also in FAIL where RELEASE came first. -/
def State.portsOpen (s : State) : Bool :=
  (5 ≤ s.sys.boot && s.sys.boot ≤ bootReady) || (s.sys.boot == 14 && s.sys.cause != 1)

/-- A byte of the aperture; `fuse` says that the companion reads: it alone reaches the fuse interface (R451), and it
reaches the mailbox through its port (R454). -/
def State.aperByte (s : State) (fuse : Bool) (o : Nat) : Byte :=
  let part (w : Nat) : Byte := BitVec.ofNat 8 (w / 2 ^ (8 * (o % 8)))
  if o < 0x08 then part s.bootst
  else if o < 0x10 then 0
  else if o < 0x18 then part s.sys.podcfg.toNat
  else if o < 0x20 then part s.sys.modew.toNat
  else if o < 0x28 then part s.sys.evring.toNat
  else if o < 0x30 then part s.sys.loopc.toNat
  else if o < 0x38 then part s.sys.sraddr.toNat
  else if o < 0x40 then part s.sys.srdata.toNat
  else if o < 0x70 then nth 0 s.sys.meas (o - 0x40)
  else if o < 0x80 then 0
  else if o < 0x100 then part (Sp.get 0 s.sys.tapdly ((o - 0x80) / 8)).toNat
  else if o < 0x200 then 0
  else if o < 0x43A0 then Memory.byte s.sys.report (o - 0x200)
  else if 0x4400 ≤ o && o < 0x45B0 then (if s.sys.boot = 0 then 0 else Config.idByte o)
  else if 0x8000 ≤ o && o < 0x9000 then if fuse && !s.portsOpen then 0 else Memory.byte s.mem.priv (mboxBase + o - 0x8000)
  else if fuse && 0xF000 ≤ o && o < 0xF020 then s.fuseByte (o - 0xF000)
  else 0

/-! ### The private space (R446) -/

/-- The regions of the private space, by offset from 2^63. -/
inductive Region where
  | rom
  | sram
  | aperture
  | keys
deriving DecidableEq, Repr

def privRegion (o : Nat) : Option Region :=
  if o < 0x40000 then some .rom
  else if 0x10000000 ≤ o && o < 0x12000000 then some .sram
  else if 0x20000000 ≤ o && o < 0x20010000 then some .aperture
  else if keySlotBase ≤ o && o < keySlotBase + 0x4000 then some .keys
  else none

/-- A byte of the private space as a command core reads it; bytes 66 to 127 of a key slot and the unused bits of its owner
id read 0. -/
def State.privByte (s : State) (o : Nat) : Byte :=
  match privRegion o with
  | some .rom => Config.romByte o
  | some .sram => Memory.byte s.mem.priv o
  | some .aperture => s.aperByte false (o - 0x20000000)
  | some .keys =>
    let k := (o - keySlotBase) % 128
    if k = 65 then Memory.byte s.mem.priv o &&& 0x0F else if k < 66 then Memory.byte s.mem.priv o else 0
  | none => 0

/-- A byte written: SRAM, key slots, and of the aperture the mailbox and, at M-level, the report (R450). -/
def State.putPrivByte (s : State) (level o : Nat) (b : Byte) : State :=
  let priv (k : Nat) : State := { s with mem := { s.mem with priv := Memory.put s.mem.priv k [b] } }
  match privRegion o with
  | some .rom => s
  | some .sram => priv o
  | some .aperture =>
    let a := o - 0x20000000
    if 0x8000 ≤ a && a < 0x9000 then priv (mboxBase + a - 0x8000)
    else if level = 2 && 0x200 ≤ a && a < 0x43A0 then
      { s with sys := { s.sys with report := Memory.put s.sys.report (a - 0x200) [b] } }
    else s
  | some .keys => if (o - keySlotBase) % 128 < 72 then priv o else s
  | none => s

/-! ### Accesses of a command core -/

/-- Which permission of R364 an access needs: 62 loads, 61 stores and atomics, 60 fetch. -/
def pmpLoad : Nat := 62
def pmpStore : Nat := 61
def pmpFetch : Nat := 60

/-- Whether bytes lie wholly inside a valid PMP region with the permission. -/
def CmdCore.pmpOk (c : CmdCore) (perm a n : Nat) : Bool :=
  (List.range 8).any fun i =>
    let base := fieldOf (Sp.get 0 c.pmpA i) 12 52 * 4096
    let b := Sp.get 0 c.pmpB i
    fieldOf b 63 1 == 1 && fieldOf b perm 1 == 1 && base ≤ a && a + n ≤ base + fieldOf b 0 40 * 4096

/-- The fault code of an access of `n` bytes: privilege by level, else an address that the map does not hold. -/
def State.cmdAccess (s : State) (perm a n : Nat) : Option Nat :=
  let c := s.cmdCore s.cur.key
  let o := a - 2 ^ 63
  let keys := 2 ^ 63 ≤ a && (privRegion o == some Region.keys || privRegion (o + n - 1) == some Region.keys)
  if c.level = 0 && !c.pmpOk perm a n then some 5
  else if c.level < 2 && keys then some 5
  else if 2 ^ 63 ≤ a then
    match privRegion o with
    | none => some 8
    | some r => if privRegion (o + n - 1) != some r || (r == .rom && perm == pmpStore) then some 8 else none
  else if a + n ≤ 2 ^ 56 then none
  else some 8

/-- Bytes as a command core reads them; an intermediate page without a frame reads 0. -/
def State.cmdBytes (s : State) (a n : Nat) : List Byte :=
  if 2 ^ 63 ≤ a then (List.range n).map fun i => s.privByte (a - 2 ^ 63 + i)
  else (pieces a n).flatMap fun q =>
    if hasEntry (pageOf q.1) && peLoc (s.page (pageOf q.1)) != 0 then Memory.bytes s.mem.home q.1 q.2
    else List.replicate q.2 0

/-- Bytes that a command core writes, performed at their home at once. -/
def State.cmdPut (s : State) (a : Nat) (bs : List Byte) : State :=
  if 2 ^ 63 ≤ a then
    let level := (s.cmdCore s.cur.key).level
    let o := a - 2 ^ 63
    let t := ((List.range bs.length).zip bs).foldl (fun s p => s.putPrivByte level (o + p.1) p.2) s
    if keySlotBase < o + bs.length && o < keySlotBase + 0x4000 then t.rekey s else t
  else (pieces a bs.length).foldl (fun s q =>
    if hasEntry (pageOf q.1) && peLoc (s.page (pageOf q.1)) != 0 then s.homePut q.1 ((bs.drop (q.1 - a)).take q.2) else s) s

def State.cmdNat (s : State) (a n : Nat) : Nat := leNat (s.cmdBytes a n)

/-- The first lane of a command core whose access fails. -/
def chkCmdLanes (s : State) (perm n : Nat) (align : Nat) (lanes : List (Nat × Nat)) : Option Flt :=
  lanes.findSome? fun p =>
    match s.cmdAccess perm p.2 n with
    | some c => some { code := c, lane := p.1, t2 := if c = 8 then BitVec.ofNat 64 p.2 else 0 }
    | none => if p.2 % align = 0 then none else some { code := 8, lane := p.1, t2 := BitVec.ofNat 64 p.2 }

/-- The check of one counter address (R291). -/
def chkCmdCounter (s : State) (perm a : Nat) : Option Flt :=
  (chkCmdLanes s perm 8 8 [(0, a)]).map fun f => { f with lane := 255 }

/-! ### Atomics (R286) -/

/-- The new value of an atomic by its class 4 OP, on `n`-bit operands. -/
def atomicNew (op n old c0 c1 : Nat) : Nat :=
  let so := signedOf n old
  let sc := signedOf n c0
  match op with
  | 0x04 => (old + c0) % 2 ^ n
  | 0x05 => old &&& c0
  | 0x06 => old ||| c0
  | 0x07 => old ^^^ c0
  | 0x08 => if sc < so then c0 else old
  | 0x09 => if so < sc then c0 else old
  | 0x0A => min old c0
  | 0x0B => max old c0
  | 0x0C => c0
  | 0x0D => if old = c0 then c1 else old
  | 0x0E => (round32 rne (sumVals false [fp32.value old, fp32.value c0])).1
  | _ => (old + 1) % 2 ^ n

end Sys2Proof.Machine
end

