-- ==== Sys2Proof/Machine/Crypto.lean ====
section
/-!
DEFINITION. The check codes and the hash that the spec names: CRC-16 (spec/08_time_pod_and_fabric.md R183), CRC-32C
(spec/13_engine_instructions.md R324), CRC-64 (spec/20_reliability_laps_replay.md R442) and SHA-384
(spec/21_host_link_and_bringup.md R447).
-/

namespace Sys2Proof.Machine

/-! ### Cyclic redundancy checks -/

/-- A reflected CRC over the bits of one byte. -/
def crcReflected (poly : Nat) : Nat → Nat → Nat
  | 0, c => c
  | n + 1, c => crcReflected poly n (if c % 2 = 1 then (c / 2) ^^^ poly else c / 2)

/-- A CRC of `w` bits, most significant bit first, over the bits of one byte. -/
def crcForward (w poly : Nat) : Nat → Nat → Nat
  | 0, c => c
  | n + 1, c => crcForward w poly n (if bitOf c (w - 1) then (2 * c % 2 ^ w) ^^^ poly else 2 * c % 2 ^ w)

/-- CRC-16 of R183. -/
def crc16 (bs : List Byte) : Nat := bs.foldl (fun c b => crcForward 16 0x1021 8 (c ^^^ (b.toNat * 256))) 0xFFFF

/-- CRC-32C of R324, continued from an earlier value (0 to begin). -/
def crc32c (crcIn : Nat) (bs : List Byte) : Nat :=
  (bs.foldl (fun c b => crcReflected 0x82F63B78 8 (c ^^^ b.toNat)) (crcIn ^^^ 0xFFFFFFFF)) ^^^ 0xFFFFFFFF

/-- The Ethernet CRC-32 of a hall frame's FCS (R192). -/
def crcEthernet (bs : List Byte) : Nat :=
  (bs.foldl (fun c b => crcReflected 0xEDB88320 8 (c ^^^ b.toNat)) 0xFFFFFFFF) ^^^ 0xFFFFFFFF

/-- CRC-64 of R442. -/
def crc64 (bs : List Byte) : Nat :=
  bs.foldl (fun c b => crcForward 64 0x42F0E1EBA9EA3693 8 (c ^^^ (b.toNat * 2 ^ 56))) 0

/-! ### SHA-384 -/

/-- The largest `r`, of `n` bits beyond those given, whose `k`-th power is at most `x`. -/
def rootBits (k x : Nat) : Nat → Nat → Nat
  | 0, r => r
  | n + 1, r => rootBits k x n (if (r + 2 ^ n) ^ k ≤ x then r + 2 ^ n else r)

/-- The first 64 bits of the fraction of the `k`-th root of a number below 512. -/
def rootFraction (k p : Nat) : W64 := BitVec.ofNat 64 (rootBits k (p * 2 ^ (64 * k)) 69 0)

/-- The first 80 primes. -/
def shaPrimes : List Nat := (List.range 410).filter fun n => 2 ≤ n && (List.range n).all fun d => d < 2 || n % d != 0

/-- The round constants of SHA-384: fractions of the cube roots of the first 80 primes. -/
def shaRounds : List W64 := shaPrimes.map (rootFraction 3)
/-- The initial hash value of SHA-384: fractions of the square roots of the ninth to sixteenth prime. -/
def shaInit : List W64 := ((shaPrimes.drop 8).take 8).map (rootFraction 2)

def ror64 (x : W64) (n : Nat) : W64 := x.rotateRight n

/-- The message schedule, newest word first, extended by `n` words. -/
def shaExpand : Nat → List W64 → List W64
  | 0, w => w
  | n + 1, w =>
    let x := nth 0 w 14
    let y := nth 0 w 1
    let s0 := ror64 x 1 ^^^ ror64 x 8 ^^^ (x >>> 7)
    let s1 := ror64 y 19 ^^^ ror64 y 61 ^^^ (y >>> 6)
    shaExpand n ((nth 0 w 15 + s0 + nth 0 w 6 + s1) :: w)

/-- One round on the eight working words. -/
def shaRound (v : List W64) (k : W64) : List W64 :=
  match v with
  | [a, b, c, d, e, f, g, h] =>
    let s1 := ror64 e 14 ^^^ ror64 e 18 ^^^ ror64 e 41
    let t1 := h + s1 + ((e &&& f) ^^^ (~~~e &&& g)) + k
    let s0 := ror64 a 28 ^^^ ror64 a 34 ^^^ ror64 a 39
    [t1 + s0 + ((a &&& b) ^^^ (a &&& c) ^^^ (b &&& c)), a, b, c, d + t1, e, f, g]
  | v => v

/-- Words of eight bytes, most significant byte first. -/
def beWords : Nat → List Byte → List W64
  | 0, _ => []
  | n + 1, bs => BitVec.ofNat 64 (leNat (bs.take 8).reverse) :: beWords n (bs.drop 8)

def shaBlock (hs : List W64) (block : List Byte) : List W64 :=
  let w := (shaExpand 64 (beWords 16 block).reverse).reverse
  ((w.zipWith (· + ·) shaRounds).foldl shaRound hs).zipWith (· + ·) hs

def shaBlocks : Nat → List W64 → List Byte → List W64
  | 0, hs, _ => hs
  | n + 1, hs, bs => shaBlocks n (shaBlock hs (bs.take 128)) (bs.drop 128)

/-- SHA-384 of a message. -/
def sha384 (msg : List Byte) : List Byte :=
  let n := msg.length
  let pad := (239 - n % 128) % 128
  let bs := msg ++ [0x80] ++ List.replicate pad 0 ++ (leBytes 16 (8 * n)).reverse
  ((shaBlocks (bs.length / 128) shaInit bs).take 6).flatMap fun w => (leBytes 8 w.toNat).reverse

end Sys2Proof.Machine
end

