-- ==== Sys2Proof/Machine/Launch.lean ====
section
/-!
DEFINITION. Launch descriptors, admission, edges, the start of a train, placement of teams, the end of a launch and its replay
(spec/02_execution_model.md R35, R36, R42, R52, R66, spec/03_programmer_state.md R74, R77 to R79, R85,
spec/06_address_spaces_and_memories.md R129, R138, spec/07_memory_model.md R163, spec/08_time_pod_and_fabric.md R184,
spec/19_queues_firmware_scheduler.md R413, R417 to R420, spec/20_reliability_laps_replay.md R434 to R436, R440).
-/

namespace Sys2Proof.Machine

/-! ### Descriptors (R417) -/

/-- A descriptor's fields, and whether every reserved bit is 0. -/
def State.readDesc (s : State) (a : Nat) : Desc × Bool :=
  let w (o : Nat) : W64 := s.sysWord (a + o)
  let f := fieldOf
  let w0 := w 0
  let nf := f (w 0x20) 32 6
  let ns := f (w 0x20) 38 7
  let foot (i : Nat) : Footprint :=
    let b := 0x140 + 32 * i
    { vbase := (w b).toNat, size := (w (b + 8)).toNat, kind := f (w (b + 16)) 0 2, cls := f (w (b + 16)) 2 1,
      stride := (w (b + 24)).toNat }
  let slot (i : Nat) : SlotRec :=
    let x := w (0x540 + 8 * i)
    { port := f x 0 4, slot := f x 4 6, kind := f x 10 2, dest := f x 12 7, dcore := f x 19 8, score := f x 27 8 }
  let d : Desc :=
    { grid := f w0 0 21, width := nth 0 [16, 32, 64] (f w0 21 2), det := f w0 23 1 == 1, twin := f w0 24 1 == 1,
      pair := f w0 25 1 == 1, eruns := f w0 32 32, code := BitVec.ofNat 48 (w 8).toNat, nc := f (w 8) 48 8,
      nw := f (w 8) 56 8, centry := BitVec.ofNat 48 (w 0x10).toNat, callot := 8 * f (w 0x10) 48 6,
      wentry := BitVec.ofNat 48 (w 0x18).toNat, wallot := 8 * f (w 0x18) 48 6,
      part := BitVec.ofNat 32 (w 0x20).toNat,
      prod := if f (w 0x28) 16 1 = 1 then some (f (w 0x28) 0 16, (w 0x30).toNat) else none
      sregs := (List.range 16).map fun i => w (0x40 + 8 * i)
      windows := (List.range 8).map fun i => (w (0xC0 + 16 * i), w (0xC8 + 16 * i))
      foots := (List.range nf).map foot
      slots := (List.range ns).map slot }
  let zero :=
    f w0 26 6 == 0 && f (w 0x10) 54 10 == 0 && f (w 0x18) 54 10 == 0 && f (w 0x20) 45 19 == 0 && f (w 0x28) 17 47 == 0 &&
    w 0x38 == 0 && nf ≤ 32 && ns ≤ 64 &&
    ((List.range nf).all fun i => f (w (0x140 + 32 * i + 16)) 3 61 == 0) &&
    ((List.range ns).all fun i => f (w (0x540 + 8 * i)) 35 29 == 0)
  (d, zero)

/-! ### Launch-shape checks (R35, R42, R77, R129, R138, R184) -/

def partOk (p : W32) : Bool :=
  bitsOf p.toNat 24 8 == 0 && partAccg p % 4 == 0 && partAccg p ≤ 64 && partRegg p + partAccg p + partDivg p ≤ 144

def allotOk (n a : Nat) : Bool := n == 0 || (8 ≤ a && a ≤ 256 && a % 8 == 0)

def pagesMeet (a b : Nat × Nat) : Bool := a.1 < b.1 + b.2 && b.1 < a.1 + a.2

/-- The fields of a window entry: LEVEL and the reserved bits of every entry, the ranges of an enabled one (R129). -/
def windowOk (psize : Nat) (w : W64 × W64) : Bool :=
  let p := winIpage w
  let n := winSize w
  winLevel w != 3 && fieldOf w.2 48 16 == 0 && (!winComp w || fieldOf w.2 36 4 == 0) &&
  (n == 0 || (winVpage w + n ≤ 2 ^ 32 &&
    (winComp w || (p / 2 ^ 32 == (p + n - 1) / 2 ^ 32 && (p + n - 1) % 2 ^ 32 < 2 ^ 23 && p / 2 ^ 34 < psize))))

/-- Every enabled window apart from the later ones. -/
def windowsApart : List (W64 × W64) → Bool
  | [] => true
  | w :: ws =>
    (winSize w == 0 || ws.all fun v => winSize v == 0 || !pagesMeet (winVpage w, winSize w) (winVpage v, winSize v)) &&
    windowsApart ws

/-- The virtual pages of team `t`'s range of a footprint: first page and count. -/
def Footprint.span (f : Footprint) (t : Nat) : Nat × Nat :=
  (f.base t / 65536, ceilDiv (f.base t + f.size) 65536 - f.base t / 65536)

/-- A footprint lies in windows with matching permissions, and its per-team ranges are apart (R138). KIND 0, which R138 and R417 do not name,
has the wrong shape (DESIGN CHOICE, notes/assumptions/96.md). -/
def footOk (d : Desc) (f : Footprint) : Bool :=
  let perms := (if f.kind % 2 = 1 then [permR] else []) ++ (if f.kind ≥ 2 then [permW] else []) ++
    (if f.cls = 1 then [permE] else [])
  let covered (vp : Nat) : Bool := d.windows.any fun w =>
    winVpage w ≤ vp && vp < winVpage w + winSize w && perms.all (winPerm w)
  let teams := if f.stride = 0 then [0] else List.range d.grid
  f.kind != 0 && teams.all (fun t => (List.range (f.span t).2).all fun i => covered ((f.span t).1 + i)) &&
  (f.stride == 0 || (List.range (d.grid - 1)).all fun t => (f.span t).1 + (f.span t).2 ≤ (f.span (t + 1)).1)

def slotsApart : List SlotRec → Bool
  | [] => true
  | x :: xs => !(xs.any fun y => y.port == x.port && y.slot == x.slot) && slotsApart xs

/-- A descriptor of a shape that the scheduler accepts. One outside R220's ranges of C + W, which R416 does not name: a pair team of 1 to 32
groups is accepted, and none or more than 32, or 64 for a pair, has the wrong shape (DESIGN CHOICE, notes/assumptions/103.md). -/
def State.shapeOk (s : State) (d : Desc) (zero : Bool) : Bool :=
  let n := d.nc + d.nw
  zero && 1 ≤ d.grid && d.grid ≤ 2 ^ 20 && d.width != 0 && 1 ≤ n && n ≤ (if d.pair then 64 else 32) &&
  allotOk d.nc d.callot && allotOk d.nw d.wallot && partOk d.part &&
  ((List.range d.coreCount).all fun c => d.need c ≤ partRegg d.part) &&
  d.windows.all (windowOk s.psize) && windowsApart d.windows && d.foots.all (footOk d) && slotsApart d.slots

/-! ### Edges (R420) -/

/-- Intermediate page ranges of a descriptor's footprints, of every team, with whether they are written. -/
def Desc.footPages (d : Desc) : List (Nat × Nat × Bool) :=
  d.foots.flatMap fun f =>
    let d1 := { d with foots := [f] }
    (d1.ranges (List.range d.grid)).map fun r => (r.1 / 65536, r.2 / 65536, f.kind ≥ 2)

/-- The pages of a descriptor's footprints, in companion windows too, with whether they are written. Per-team footprints count as one
range over their whole span, the pages between the ranges included (R420). -/
def Desc.spanPages (d : Desc) : List (Nat × Nat × Bool) :=
  d.foots.flatMap fun f =>
    let whole : Footprint := { f with size := (d.grid - 1) * f.stride + f.size, stride := 0 }
    let d1 := { d with foots := [whole] }
    let pages (base : Nat) (r : Nat × Nat) : Nat × Nat × Bool := (base + r.1 / 65536, r.2 / 65536, f.kind ≥ 2)
    (d1.rangesIn false [0]).map (pages 0) ++ (d1.rangesIn true [0]).map (pages companionPages)

def conflict (x y : Desc) : Bool :=
  x.spanPages.any fun a => y.spanPages.any fun b => pagesMeet (a.1, a.2.1) (b.1, b.2.1) && (a.2.2 || b.2.2)

def State.launchIds (s : State) : List Nat := s.fw.launches.map (·.1)
def Launch.unended (l : Launch) : Bool := l.state < 3

/-- The launch that a descriptor names as its producer: the last one admitted from the slot's queue at the entry; none where the slot and
entry hold none (R219). The slot is one of the package that offers the launch: `away`, or this one (DEDUCED, notes/assumptions/86.md). -/
def State.producer (s : State) (d : Desc) (away : Option Nat) : Option Nat :=
  match d.prod with
  | none => none
  | some (q, e) =>
    ((s.fw.launches.filter fun p => p.2.queue == q && p.2.entry == e && p.2.away == away &&
      (away.isSome || p.2.qcb == (s.queue q).qcb)).getLast?).map (·.1)

/-- Every lane of the launch has executed TRIG or exited (R66). A lane held only in a stack entry has not exited. -/
def State.triggered (s : State) (l : Nat) : Bool :=
  let x := s.launch l
  let tr := s.train x.train
  x.state == 2 && tr.live && tr.nextTeam ≥ tr.desc.grid && tr.requeue.isEmpty &&
  s.grid.groups.all fun p => p.2.train != x.train || p.1 < 16 || p.2.ended || (p.2.trig ||| p.2.gone) &&& p.2.lanes == p.2.lanes

/-- Whether an unended launch names a launch as its producer (R66, R243). -/
def State.isProducer (s : State) (l : Nat) : Bool := s.fw.launches.any fun p => p.2.unended && p.2.prod == some l

/-- Edges are satisfied: ended, or the named producer's trigger condition holds and the stores that its TRIGs promise are released (R66;
DEDUCED, notes/assumptions/54.md). A named producer counts as an edge (DEDUCED, notes/assumptions/15.md). -/
def State.edgesMet (s : State) (l : Launch) : Bool :=
  (l.edges ++ l.prod.toList).all fun y => !(s.launch y).unended ||
    (l.prod == some y && s.triggered y && (s.train (s.launch y).train).trigs.isEmpty)

/-! ### Leases of a launch (R138, R400, R420) -/

/-- Every footprint page is held by a granted lease of the launch or a standing one, whose class keeps the page where the footprint
needs it: a PLAIN footprint's pages in bonded DRAM. The home package of another package's page has granted its lease (R400). A lease of
any kind serves: the spec gives the kind of R399 no effect here (DESIGN CHOICE, notes/assumptions/87.md). -/
def State.launchLeased (s : State) (l : Launch) : Bool :=
  l.desc.foots.all fun f => ({ l.desc with foots := [f] }).footPages.all fun r => (List.range r.2.1).all fun i =>
    s.mem.leases.any fun x => x.state == 1 && x.owner == l.owner && x.holds (r.1 + i) && (x.cls == 0 || f.cls == 1) &&
      (x.holder == -1 || fieldOf x.holder 32 16 == l.queue)

/-- A grant that another package's scheduler has made to a launch of this one: the lease, and the entry of each page as that package
keeps it (R393, R400). -/
def State.remoteGrant (s : State) (queue page count cls : Nat) (entry : W64) : State :=
  if pkgOf (page * 65536) = s.pkg then s
  else
    let l : Lease :=
      { desc := remoteDesc + s.fresh, page := page, count := count, owner := peOwner entry, kind := 3, cls := cls,
        holder := BitVec.ofNat 64 (2 ^ 32 * (queue % 2 ^ 16)), state := 1, remote := true }
    let s := { s with mem := { s.mem with leases := s.mem.leases ++ [l] } }
    ((List.range count).foldl (fun s i => s.setPage (page + i) entry) s).spend

/-- The grants that other packages made to a launch end with it. -/
def State.endRemoteGrants (s : State) (l : Launch) : State :=
  let ends (x : Lease) : Bool :=
    x.remote && x.holder != -1 && pkgOf (x.page * 65536) != s.pkg && fieldOf x.holder 32 16 == l.queue && x.owner == l.owner
  { s with mem := { s.mem with leases := s.mem.leases.filter fun x => !ends x } }

/-! ### Admission (R413, R418, R419) -/

/-- A launch that has failed with a fault code is reported to the host (R423); one that another package offered has no queue here to halt
(R424). The queue is the one that admitted it, wherever S-level lists that now. -/
def State.launchEvent (s : State) (l : Launch) (code : Nat) : State :=
  s.hostEvent l.queue (0x80 + code) l.owner l.entry (if l.away.isNone then s.slotsOf l.qcb else [])

/-- The record of an admitted launch, with its edges; a launch-shape error ends it at once with STATE 4. STATE is 1 where it waits on
edges or leases (R418). A record that returns names the queue that offered it by `qcb`. -/
def State.enrol (s : State) (q entry owner rclass desc status w5 : Nat) (w6 : W64) (pod : Bool) (recSeq : W64)
    (away : Option Nat := none) (mask : W64 := 0) (qcb : Option Nat := none) : State :=
  let n := s.fw.admitted + 1
  let d := s.readDesc desc
  let edges := s.launchIds.filter fun y =>
    (s.launch y).unended && (s.launch y).owner == owner && conflict d.1 (s.launch y).desc
  let l : Launch :=
    { id := n, queue := q, entry := entry, status := status, owner := owner, rclass := rclass, admission := n, pod := pod,
      recSeq := recSeq, edges := edges, desc := d.1, w5 := w5, w6 := w6, z := d.1.saveSize, prod := s.producer d.1 away,
      away := away, mask := mask, qcb := if away.isSome then 0 else qcb.getD (s.queue q).qcb }
  let s := { s with fw := { s.fw with admitted := n } }.setLaunch n l
  if s.shapeOk d.1 d.2 then
    let s := s.launchState n 0
    if s.edgesMet l && s.launchLeased l then s else s.launchState n 1
  else (s.launchState n 4).launchEvent l 0

/-- Queue ADD entries whose earlier launches have all ended make their add at the counter's home, as their queue's owner (R394, R413). One
whose page finds no frame for a copy set aside waits (DESIGN CHOICE, notes/assumptions/100.md). -/
def State.flushAdds (s : State) : State :=
  let ready (a : QueueAdd) : Bool := a.entries.isEmpty && a.waitFor.all fun l => !(s.launch l).unended
  let add (r : State × List QueueAdd) (a : QueueAdd) : State × List QueueAdd :=
    let s := r.1
    let t := s.homeWrite a.owner a.counter (leBytes 8 (leNat (s.homeBytes a.owner a.counter 8) + a.amount.toNat))
    if t.mem.starved && !s.mem.starved then (s, r.2 ++ [a]) else (t, r.2)
  let r := (s.fw.adds.filter ready).foldl add (s, [])
  { r.1 with fw := { r.1.fw with adds := (s.fw.adds.filter fun a => !ready a) ++ r.2 } }

/-! ### Slots and cores of a launch (R184, R403, R420) -/

def slotKey (port slot : Nat) : Nat := 64 * port + slot
def State.slotEntry (s : State) (port slot : Nat) : W64 := Sp.get 0 s.pod.slottab (slotKey port slot)
def State.setSlotEntry (s : State) (port slot : Nat) (x : W64) : State :=
  { s with pod := { s.pod with slottab := Sp.set 0 s.pod.slottab (slotKey port slot) x } }
def slotLocked (x : W64) : Bool := fieldOf x 62 1 == 1

/-- The entry that a launch's slot record names, unlocked: V and its tenant. -/
def SlotRec.unlocked (r : SlotRec) (tenant : Nat) : W64 :=
  BitVec.ofNat 64 (2 ^ 63 + 2 ^ 26 * tenant + 2 ^ 18 * r.score + 2 ^ 10 * r.dcore + 2 ^ 8 * r.kind + r.dest)
/-- The entry while the launch runs: LK is set. -/
def SlotRec.entry (r : SlotRec) (tenant : Nat) : W64 := r.unlocked tenant ||| BitVec.ofNat 64 (2 ^ 62)

/-- A function in host-assisted mode (R429). -/
def State.assisted (s : State) (bit : Nat) : Bool := bitAt s.sys.modew bit

/-- Whether no other launch holds a launch's slots, and in host-assisted mode the companion has written the entries (R184, R429). -/
def State.slotsReady (s : State) (l : Launch) : Bool :=
  l.desc.slots.all fun r =>
    let x := s.slotEntry r.port r.slot
    !slotLocked x && (!s.assisted 3 || x == r.unlocked l.owner)

/-- Every cluster of a tenant's CL, those under removal among them. -/
def State.allClusters (s : State) (owner : Nat) : List Nat := (List.range 32).filter fun k => bitAt (s.hpol owner) k

/-- Clusters of a tenant's partition that are not under removal. -/
def State.clusters (s : State) (owner : Nat) : List Nat :=
  let gone := ((s.fw.removals.filter fun r => r.1 == owner).map fun r => r.2).foldl (· ||| ·) (0 : W64)
  (List.range 32).filter fun k => bitAt (s.hpol owner &&& ~~~gone) k

def State.busyCores (s : State) : List Nat := (s.grid.trains.filter fun p => p.2.live).flatMap fun p => p.2.cores

/-- The clusters that primaries may use, with their twins' clusters (R440). -/
def twinPairs : List Nat → List (Nat × Nat)
  | a :: b :: rest => (a, b) :: twinPairs rest
  | _ => []

/-- Teams that a core or core pair holds at once (R35, R79). -/
def Desc.capacity (d : Desc) : Nat :=
  ((List.range d.coreCount).map fun c =>
    let n := max (d.groupsOn c).length 1
    let need := d.need c
    min (min (64 / n) (16 / ceilDiv n 4)) (if need = 0 then 64 else partRegg d.part / need)).foldl min 64

/-- The first cores at which teams may be placed: idle cores, even ones of idle pairs for pair teams. -/
def placesOf (d : Desc) (idle : List Nat) : List Nat :=
  if d.pair then idle.filter fun c => c % 2 == 0 && idle.contains (c + 1) else idle

/-- The core with the same place in a twin's cluster (R440). -/
def mateOf (pairs : List (Nat × Nat)) (core : Nat) : Nat := 8 * Sp.get 0 pairs (core / 8) + core % 8

/-- The idle cores of some clusters, ascending; for a twin launch those of the pairs' first clusters whose twins are idle too. -/
def State.idleCores (s : State) (d : Desc) (clusters : List Nat) (pairs : List (Nat × Nat)) : List Nat :=
  let busy := s.busyCores
  ((if d.twin then pairs.map (·.1) else clusters).flatMap fun k => (List.range 8).map fun i => 8 * k + i).filter fun c =>
    !busy.contains c && !(d.twin && busy.contains (mateOf pairs c))

/-- All the cores of some places, with their twins. -/
def coresAt (d : Desc) (pairs : List (Nat × Nat)) (places : List Nat) : List Nat :=
  let cores := if d.pair then places.flatMap fun c => [c, c + 1] else places
  cores ++ (if d.twin then cores.map (mateOf pairs) else [])

/-- The cores that a launch's train takes: places, all its cores, and the twin clusters (R420, R440). -/
def State.trainCores (s : State) (l : Launch) : List Nat × List (Nat × Nat) :=
  let d := l.desc
  let cl := s.clusters l.owner
  let pairs := if d.twin then twinPairs cl else []
  (coresAt d pairs ((placesOf d (s.idleCores d cl pairs)).take (ceilDiv d.grid (max d.capacity 1))), pairs)

/-! ### Placement (R35, R36, R74, R79, R85) -/

def issueKey (core quad slot : Nat) : Nat := 8 * core + 2 * quad + slot

/-- Whether a team is saved at this boundary: its room appears in the next vc (R36). -/
def State.leaving (s : State) (t : Team) : Bool := t.saved && (s.train t.train).clk < t.endedAt
/-- Teams of a train that take room on a core. -/
def State.teamsOn (s : State) (tr core : Nat) : List Team :=
  (s.grid.teams.filter fun p => p.2.live && p.2.train == tr && (!p.2.saved || s.leaving p.2) && p.2.cores.contains core).map (·.2)
/-- Groups of a train that take room on a core. -/
def State.groupsOn (s : State) (tr core : Nat) : List Group :=
  (s.grid.groups.filter fun p =>
    16 ≤ p.1 && p.2.train == tr && p.2.core == core && (p.2.resident || s.leaving (s.team (teamKey tr p.2.team)))).map (·.2)

/-- The lowest free carve of `need` granules (R79). -/
def fitCarve (limit need : Nat) : Nat → List (Nat × Nat) → Option Nat
  | start, [] => if start + need ≤ limit then some start else none
  | start, (a, n) :: cs => if start + need ≤ a then some start else fitCarve limit need (max start (a + n)) cs

/-- Room for the part `c` of a team on a core: positions, quadrants and a carve (R35, R79). -/
def State.roomOn (s : State) (tr : Nat) (d : Desc) (c core : Nat) : Option Nat :=
  let gs := s.groupsOn tr core
  let mine := d.groupsOn c
  let quadOk (q : Nat) : Bool := (gs.filter fun g => g.quad == q).length + (mine.filter fun g => g % 4 == q).length ≤ 16
  if gs.length + mine.length ≤ 64 && (List.range 4).all quadOk then
    let carves := (s.teamsOn tr core).filterMap fun t => (t.carve.find? fun x => x.1 == core).map fun x => (x.2.1, x.2.2)
    fitCarve 144 (d.need c) (144 - partRegg d.part) (sortBy (fun a b => a.1 ≤ b.1) carves)
  else none

/-- Whether teams of the train move only together: those of a deterministic launch, and of a launch that has issued a timed link
command (R68). -/
def State.together (s : State) (tr : Nat) : Bool := (s.train tr).desc.det || (s.train tr).linked

/-- The first core of the train with room, with the carves; for a twin launch the twin's core has the same room. A train that moves only
whole uses all its cores, whatever becomes of its partition in real time (R36, R67); another places nothing in a cluster under removal
(R377; DEDUCED, notes/assumptions/85.md). -/
def State.findRoom (s : State) (tr : Nat) (claimOk : Nat → Bool) : Option (Nat × List (Nat × Nat × Nat)) :=
  let t := s.train tr
  let d := t.desc
  let cl := s.clusters t.owner
  let stays (k : Nat) : Bool := s.together tr || cl.contains k
  let firsts := t.cores.filter fun c =>
    stays (c / 8) && (!d.twin || stays (mateOf t.mates c / 8)) && (!d.pair || c % 2 == 0) && (!d.twin || t.mates.any fun m => m.1 == c / 8) && claimOk c
  let attempt (core : Nat) : Option (Nat × List (Nat × Nat × Nat)) :=
    let carves := (List.range d.coreCount).map fun c => ((s.roomOn tr d c (core + c)).map fun a => (core + c, a, d.need c))
    if carves.all Option.isSome then some (core, carves.filterMap id) else none
  firsts.findSome? attempt

/-- The `n` lowest free positions of a core (R85). -/
def State.freePositions (s : State) (tr core n : Nat) : List Nat :=
  let used := (s.groupsOn tr core).map fun g => g.pos
  ((List.range 64).filter fun p => !used.contains p).take n

/-- A group of a team as it starts (R37, R74). -/
def newGroup (d : Desc) (tr team g core pos : Nat) : Group :=
  let cond := g < d.nc
  { resident := true, train := tr, team := team, idx := g, core := core, quad := g % 4, pos := pos, width := d.width,
    allot := d.allot g, conductor := cond,
    sreg := Sp.entries 0 0 d.sregs
    pri := { pc := if cond then d.centry else d.wentry, mask := laneMask d.width } }

/-- A team placed on a core: its record and its groups at their positions. -/
def State.placeTeam (s : State) (tr idx core : Nat) (twin : Bool) (carve : List (Nat × Nat × Nat)) : State :=
  let d := (s.train tr).desc
  let t : Team :=
    { live := true, train := tr, idx := idx, twin := twin, core := core, pair := d.pair, groups := d.nc + d.nw,
      conductors := d.nc, carve := carve, wdBase := (s.train tr).clk - 1 }
  let tk := teamKey tr t.keyIdx
  let place (s : State) (c : Nat) : State :=
    let gs := d.groupsOn c
    (gs.zip (s.freePositions tr (core + c) gs.length)).foldl
      (fun s p => s.setGroup (groupKey tr t.keyIdx p.1) (newGroup d tr t.keyIdx p.1 (core + c) p.2)) s
  (List.range d.coreCount).foldl place (s.setTeam tk t)

/-- The core of a twin (R440). -/
def Train.mateCore (t : Train) (core : Nat) : Nat := mateOf t.mates core

/-- The next team of the launch placed where there is room (R36); nothing where there is none. -/
def State.placeNext (s : State) (tr : Nat) : State :=
  let t := s.train tr
  if t.nextTeam ≥ t.desc.grid then s
  else
    match s.findRoom tr (fun _ => true) with
    | none => s
    | some (core, carve) =>
      let s := s.placeTeam tr t.nextTeam core false carve
      let s :=
        if t.desc.twin then
          s.placeTeam tr t.nextTeam (t.mateCore core) true (carve.map fun x => (t.mateCore x.1, x.2.1, x.2.2))
        else s
      s.modTrain tr fun t => { t with nextTeam := t.nextTeam + 1 }

/-- Whether the next team has room. -/
def State.hasRoom (s : State) (tr : Nat) : Bool :=
  let t := s.train tr
  t.live && t.nextTeam < t.desc.grid && (s.findRoom tr (fun _ => true)).isSome

def State.placeAll : Nat → Nat → State → State
  | 0, _, s => s
  | n + 1, tr, s => if s.hasRoom tr then State.placeAll n tr (s.placeNext tr) else s

/-! ### The start of a train (R52, R78, R163, R310, R434) -/

/-- Keys of a core's bytes in the pool and slot maps. -/
def coreSpan : Nat := 2 ^ 32

/-- A core as a launch finds it: zero scratchpad, accumulators, slots and %kp; idle engines and arbiters. -/
def State.clearCore (s : State) (c : Nat) : State :=
  let g := s.grid
  { s with grid := { g with
      pool := Sp.clear g.pool (c * coreSpan) coreSpan
      slots := Sp.clear g.slots (c * coreSpan) coreSpan
      tiles := Sp.clear g.tiles (c * coreSpan) coreSpan
      issue := Sp.clear g.issue (8 * c) 8
      cores := Sp.set {} g.cores c { rx := (s.core c).rx } } }

/-- The implicit acquire of a launch on its cores (R163). -/
def State.acquireAll (s : State) (tr : Nat) : State :=
  let t := s.train tr
  let cl := (t.cores.map (· / 8)).eraseDups
  t.cores.foldl (fun s c => s.refreshCore c) (cl.foldl (fun s k => s.refreshCluster t k) s)

/-- The launch lap (R434). -/
def State.openLaunchLap (s : State) (l : Launch) : State :=
  let gen := s.mem.lapGen + 1
  let lap : Lap :=
    { launch := l.id, owner := l.owner, gen := gen,
      cover := (l.desc.footPages.filter fun r => r.2.2).map fun r => (r.1, r.2.1) }
  { s with mem := { s.mem with laps := s.mem.laps ++ [lap], lapGen := gen } }

/-- A train for a launch on given cores, at the decision vc before vc 0 (R46, R52): the clock's vc 0 is its second
count. -/
def State.startTrain (s : State) (l : Launch) (cores : List Nat) (mates : List (Nat × Nat)) : State :=
  let tr := s.grid.nextTrain
  let t : Train :=
    { live := true, launch := l.id, owner := l.owner, desc := l.desc, cores := cores, clk := 0, vc := -1, qstart := 1,
      seq := s.pod.top, dial := s.pod.dial, pod := fieldOf (s.hpol l.owner) 62 1 == 1, mates := mates
      lapLast := Sp.get 0 s.mem.lapLast l.owner }
  let s := { s with grid := { s.grid with nextTrain := tr + 1 } }.setTrain tr t
  let s := cores.foldl State.clearCore s
  let s := s.acquireAll tr
  let s := s.openLaunchLap l
  let s := s.modLaunch l.id fun x => { x with train := tr, cores := cores }
  State.placeAll (l.desc.grid) tr s

/-- A cluster's view becomes a train's own: it takes the home values within the footprints, and no scrub has undone them (R143). -/
def State.joinCluster (s : State) (tr k : Nat) : State :=
  (s.refreshCluster (s.train tr) k).modTrain tr fun t => { t with stale := t.stale.filter fun x => x != k }

/-- Whether a train has teams to place or to place again. -/
def State.hasWaiting (s : State) (tr : Nat) : Bool :=
  let t := s.train tr
  !t.requeue.isEmpty || t.nextTeam < t.desc.grid || (s.liveTeams tr).any fun tk => (s.team tk).saved

/-- A train that a removal has taken cores from takes idle cores of the partition in their place, while it has teams for them
(R377; DEDUCED, notes/assumptions/85.md). A cluster where it has no core yet takes the home values, as at a start; the views of one where it
stands change at boundaries and acquires only (R143, R144). -/
def State.extendTrain (s : State) (tr : Nat) : State :=
  let t := s.train tr
  if !t.live || t.parked || t.lost = 0 || !s.hasWaiting tr then s
  else
    let d := t.desc
    let cl := s.clusters t.owner
    let free := cl.filter fun k => !(t.mates.any fun m => m.1 == k || m.2 == k)
    let pairs := if d.twin then Sp.puts 0 t.mates (twinPairs free) else []
    let n := ceilDiv t.lost (d.coreCount * (if d.twin then 2 else 1))
    let new := coresAt d pairs ((placesOf d (s.idleCores d cl pairs)).take n)
    if new.isEmpty then s
    else
      let cores := sortBy (fun a b => a ≤ b) (t.cores ++ new)
      let joined := (new.map (· / 8)).eraseDups.filter fun k => !(t.cores.any fun c => c / 8 == k)
      let s := new.foldl State.clearCore s
      let s := s.modTrain tr fun t => { t with cores := cores, lost := t.lost - new.length, mates := pairs }
      let s := joined.foldl (fun s k => s.joinCluster tr k) s
      (new.foldl State.refreshCore s).modLaunch t.launch fun l => { l with cores := cores }

/-- The four conditions of R420 and room for at least one team. A slot that a running launch has locked makes the launch wait (R184
installs the entries before the start and fixes no order; DESIGN CHOICE, notes/assumptions/79.md). -/
def State.canStart (s : State) (l : Launch) : Bool :=
  l.state < 2 && l.id != 0 && s.sys.boot == 8 && s.edgesMet l && s.launchLeased l &&
  s.slotsReady l && !(s.trainCores l).1.isEmpty

/-- The start of a launch: slots installed and locked, status running, train started. In host-assisted mode the companion has written the
entries, and the start only locks them (R429; DEDUCED, notes/assumptions/88.md). A twin launch on one cluster has the wrong shape
(R440). -/
def State.startLaunch (s : State) (id : Nat) : State :=
  let l := s.launch id
  if l.state < 2 && l.id != 0 && l.desc.twin && (s.clusters l.owner).length = 1 then
    ((s.launchState id 4).launchEvent l 0).flushAdds
  else if !s.canStart l then s
  else
    let c := s.trainCores l
    let s := l.desc.slots.foldl (fun s r => s.setSlotEntry r.port r.slot (r.entry l.owner)) s
    let s := (s.modLaunch id fun x => { x with startBc := s.bc }).launchState id 2
    s.startTrain (s.launch id) c.1 c.2

/-! ### The end of a launch (R163, R413, R418) -/

/-- Own bytes of a train's teams pushed to their homes, wherever these lie (R163). Where clusters hold own copies of one byte, the team
with the highest index is pushed last and its value stays (the rule gives no order; DESIGN CHOICE, notes/assumptions/80.md). -/
def State.releaseTrain (s : State) (tr : Nat) : State :=
  let owner := (s.train tr).owner
  let mine := s.mem.own.filter fun p => (p.2 - 1) / 2 ^ 22 == tr
  let keys := (sortBy (fun a b => a.2 ≤ b.2) (mine.map fun p => (p.1 / viewSpan, p.2 - 1))).eraseDups
  keys.foldl (fun s k => s.push owner k.2 k.1 (fun _ => true)) s

/-- Every own byte of a cluster's view pushed to its home, team by team in ascending order. -/
def State.pushCluster (s : State) (owner k : Nat) : State :=
  let keys := (sortBy (fun a b => a ≤ b) ((Sp.window s.mem.own (viewKey k 0) viewSpan).map fun p => p.2 - 1)).eraseDups
  keys.foldl (fun s tk => s.push owner tk k fun _ => true) s

/-- Everything of a train leaves the grid; its cores are idle. -/
def State.dropTrain (s : State) (tr : Nat) : State :=
  let s := s.unpin ((s.grid.cmds.filter fun c => c.train == tr).flatMap (·.pages))
  let g := s.grid
  let keep (k : Nat) : Bool := k < 16 || (k - 16) / 64 / 2 ^ 22 != tr
  let s := { s with
    grid := { g with
      teams := g.teams.filter fun p => p.2.train != tr
      groups := g.groups.filter fun p => keep p.1
      pend := g.pend.filter fun p => p.train != tr
      owed := g.owed.filter fun p => keep p.key
      stps := g.stps.filter fun p => p.train != tr
      cmds := g.cmds.filter fun p => p.train != tr
      outs := g.outs.filter fun p => p.train != tr
      sfu := g.sfu.filter fun p => p.train != tr
      stores := g.stores.filter fun p => p.train != tr
      acts := g.acts.filter fun p => p.train != tr
      acquires := g.acquires.filter fun p => p.train != tr
      resume := g.resume.filter fun p => keep p.1 }
    mem := { s.mem with
      own := s.mem.own.filter fun p => (p.2 - 1) / 2 ^ 22 != tr
      laps := s.mem.laps.filter fun l => l.gone != some tr }
    pod := { s.pod with hallOps := s.pod.hallOps.filter fun o => o.train != tr } }
  ((s.train tr).cores.foldl State.clearCore s).setTrain tr {}

/-- A launch's SLOTTAB entries are unlocked once it has ended (R184). They keep what else they hold, so a cell that still waits leaves at its
first fitting bc (R186; DESIGN CHOICE, notes/assumptions/79.md). -/
def State.freeSlots (s : State) (d : Desc) : State :=
  d.slots.foldl (fun s r => s.setSlotEntry r.port r.slot (s.slotEntry r.port r.slot &&& ~~~BitVec.ofNat 64 (2 ^ 62))) s

/-- The end of a launch after its last boundary: implicit release, completion add, status, lap, remote grants and slots given up. -/
def State.endLaunch (s : State) (tr : Nat) : State :=
  let t := s.train tr
  let l := s.launch t.launch
  let s := (s.releaseTrain tr).removeRevoked tr
  let s := if l.w5 = 0 then s else s.homeWrite l.owner l.w5 (leBytes 8 (leNat (s.homeBytes l.owner l.w5 8) + l.w6.toNat))
  let s := s.freeSlots l.desc
  let s := { s with mem := { s.mem with laps := s.mem.laps.filter fun p => !(p.number == 0 && p.launch == l.id) } }
  let s := s.modLaunch l.id fun x => { x with endBc := s.bc }
  let s := s.launchState l.id (if t.failing then 4 else 3)
  let s := if t.failing then s.launchEvent l (s.launch l.id).fcode else s
  ((s.dropTrain tr).endRemoteGrants l).flushAdds

/-! ### Replay (R435, R436) -/

/-- The frame of a page is not used again (R435); that of another package's page counts there. -/
def State.retireFrame (s : State) (p : Nat) : State :=
  if pkgOf (p * 65536) != s.pkg then s
  else { s with mem := { s.mem with retired := Sp.mod 0 s.mem.retired (tierKey (peLoc (s.page p) == 1) (pageDie p)) (· + 1) } }

/-- A page restored from a lap's copy, with its lines invalidated in the tenant's caches: an unpoisoned copy goes to a fresh frame and
clears PSN, and the poisoned frame is not used again. The restore is a write to the page (R444): laps that still live take their copies of
it first (R434). -/
def State.restorePage (s : State) (l : Lap) (h : Nat × Bool) : State :=
  let p := h.1
  let s := s.setAside p
  let home := Sp.graft s.mem.home (Sp.window l.aside (p * 65536) 65536) (p * 65536) 65536
  let s := { s with mem := { s.mem.invalidate (p * 65536) 65536 with home := home } }
  let s := (s.allClusters l.owner).foldl (fun s k => s.dropClusterLines p k) s
  if pePsn (s.page p) && !h.2 then
    let s := (s.retireFrame p).placePage (peLoc (s.page p)) p
    s.setPage p (setPe (s.page p) 43 1 0)
  else s

/-- What a train's commands have not sent yet: its cells, its hall requests, and the further attempts of those already sent. The spec
says that its entries are stopped (R435); that no attempt follows is DEDUCED (notes/assumptions/89.md). -/
def Pod.dropUnsent (p : Pod) (tr : Nat) : Pod :=
  let mine (id : Nat) : Bool := p.hallOps.any fun o => o.id == id && o.train == tr
  { p with
    cells := p.cells.filter fun c => c.train != some tr
    hallQ := p.hallQ.filter fun q => !mine q.2.opId
    tags := p.tags.filter fun q => !mine q.2.opId }

/-- An attempt undone: the pages that the launch lap holds are restored, the snapshot laps that it opened go, those that it released
live again with the copies that they had, and nothing of it is left in the grid, nor waits to be sent. -/
def State.undoAttempt (s : State) (tr : Nat) : State :=
  let t := s.train tr
  let lap := (s.mem.laps.find? fun p => p.number == 0 && p.launch == t.launch).getD {}
  let opened (p : Lap) : Bool := (p.number == 0 && p.launch == t.launch) || (p.number != 0 && p.train == tr)
  let s : State := { s with mem := { s.mem with laps := s.mem.laps.filter fun p => !opened p } }
  let s := lap.held.foldl (fun s h => s.restorePage lap h) s
  let back (p : Lap) : Lap := if p.gone = some tr then { p with gone := none } else p
  let m := s.mem
  { s with
    mem := { m with
      laps := m.laps.map back
      lapLast := Sp.set 0 m.lapLast t.owner t.lapLast }
    pod := s.pod.dropUnsent tr }.dropTrain tr

/-- A launch that no replay can save fails with code 15 (R436). -/
def State.failReplay (s : State) (tr : Nat) : State :=
  let l := s.launch (s.train tr).launch
  let s := ((s.removeRevoked tr).undoAttempt tr).freeSlots l.desc
  let s := s.modLaunch l.id fun x => { x with fcode := 15, fteam := 0, endBc := s.bc }
  (((s.launchState l.id 4).launchEvent l 15).endRemoteGrants l).flushAdds

/-- The requests that wait for a boundary of an undone attempt wait for one of the next; what was saved of it is gone. -/
def State.followPre (s : State) (old new : Nat) : State :=
  let keep (r : PreReq) : Bool := r.train != old || (!r.done && r.restore.isNone)
  let move (r : PreReq) : PreReq :=
    if r.train = old then { r with train := new, team := r.team.map fun tk => teamKey new (tk % 2 ^ 22) } else r
  { s with fw := { s.fw with pre := (s.fw.pre.filter keep).map move } }

/-- The attempt ends and the launch starts again from vc 0 on the same cores; leases that have been removed stay removed (R401). A train
that was saved off its cores goes back to the queue, and starts where cores are idle (DESIGN CHOICE, notes/assumptions/78.md). -/
def State.replay (s : State) (tr : Nat) : State :=
  let t := s.train tr
  let s := (s.undoAttempt tr).modLaunch t.launch fun x => { x with fcode := 0, fteam := 0 }
  if t.parked then
    let s := s.freeSlots (s.launch t.launch).desc
    { s with fw := { s.fw with pre := s.fw.pre.filter fun r => r.train != tr } }.launchState t.launch 1
  else
    let new := s.grid.nextTrain
    ((s.startTrain (s.launch t.launch) t.cores t.mates).modTrain new fun x => { x with revoked := t.revoked }).followPre tr new

end Sys2Proof.Machine
end

