-- ==== Sys2Proof/Machine/Pod.lean ====
section
/-!
DEFINITION. The escapement loop, the Dial, membership and recovery, cells and slots, and leaf management
(spec/08_time_pod_and_fabric.md R167 to R190, spec/18_translation_leases_partitions.md R406, spec/19_queues_firmware_scheduler.md
R426 to R428, spec/21_host_link_and_bringup.md R452).
-/

namespace Sys2Proof.Machine

/-! ### Offers (R176) -/

/-- Offers made so far that have left the queue, plus the queue's 64 places: the offers that have or had a place. -/
def Pod.placed (p : Pod) : Nat := p.nextTag - p.offers.length + 64

/-- A record enters the offer queue with the next offer tag; the owner's bank counts it (R408). R176 lets a train wait where the 64 places are
taken, and names nothing that S-level's own offers wait for (a queue's LAUNCH, RECOV, the NOTE of a join or a replay): they enter behind the
others at once (DESIGN CHOICE, notes/assumptions/121.md). -/
def State.offer (s : State) (op len daddr tenant : Nat) (words : List W64) : State :=
  let tag := s.pod.nextTag % 2 ^ 16
  let r : LoopRec :=
    { len := len, daddr := daddr, tenant := tenant, writer := s.pkg, otag := tag, words := words, rsvd := false }
  let p := { s.pod with
    offers := s.pod.offers ++ [{ op := op, rcd := r }], nextTag := s.pod.nextTag + 1, applied := Sp.set 0 s.pod.applied tag 0 }
  { s with pod := p }.bumpOwner tenant 10

/-- A record that precedes the queue: RECOV complete, which the held offers follow (R427). -/
def State.offerFirst (s : State) (op len daddr : Nat) (words : List W64) : State :=
  let s := s.offer op len daddr 0 words
  { s with pod := { s.pod with offers := s.pod.offers.getLast?.toList ++ s.pod.offers.dropLast } }

/-- Trains whose records all have places go on. -/
def State.clearOfferHolds (s : State) : State :=
  let n := s.pod.placed
  let placed (h : Nat × Hold) : Bool := match h.2 with
    | .offerFull k => k ≤ n
    | _ => false
  { s with grid := { s.grid with trains := s.grid.trains.map fun p => (p.1, { p.2 with holds := p.2.holds.filter fun h => !placed h }) } }

/-- An offer of a train: where it finds the queue full, the train holds the vc after the boundary (R176). -/
def State.offerFrom (s : State) (tr op len daddr tenant : Nat) (words : List W64) : State :=
  let s := s.offer op len daddr tenant words
  if s.pod.offers.length ≤ 64 then s
  else s.modTrain tr fun t => { t with holds := t.holds ++ [(t.clk + 1, .offerFull s.pod.nextTag)] }

/-! ### Records in bytes (R174, R183) -/

/-- The 64 bytes of a record, with its CRC. -/
def recordBytes (o : Offer) : List Byte :=
  let r := o.rcd
  let head := o.op % 16 + 2 ^ 4 * (r.tenant % 4096) + 2 ^ 16 * (r.writer % 64) + 2 ^ 24 * (r.daddr % 2 ^ 20) + 2 ^ 44 * (r.len % 8) +
    2 ^ 48 * r.otag
  let body := leBytes 8 head ++ (List.range 6).flatMap (fun i => leBytes 8 (nth 0 r.words i).toNat) ++ List.replicate 4 0
  body ++ leBytes 4 (crc32c 0 body)

/-- A record read back from its 64 bytes. -/
def recordOf (bs : List Byte) : Offer :=
  let h := leNat (bs.take 8)
  let rcd : LoopRec :=
    { len := bitsOf h 44 3, daddr := bitsOf h 24 20, tenant := bitsOf h 4 12, writer := bitsOf h 16 6, otag := bitsOf h 48 16
      words := (List.range 6).map fun i => BitVec.ofNat 64 (leNat ((bs.drop (8 + 8 * i)).take 8))
      rsvd := bitsOf h 22 2 != 0 || bitsOf h 47 1 != 0 || leNat ((bs.drop 56).take 4) != 0 }
  { op := bitsOf h 0 4, rcd := rcd }

/-- Whether a record's CRC holds. -/
def recordOk (bs : List Byte) : Bool := bs.length == 64 && leNat (bs.drop 60) == crc32c 0 (bs.take 60)

/-- Whether the tap may put records on the loop: a member, or a joining package with its NOTE (R178, R180, R459). -/
def State.mayTransmit (s : State) : Bool :=
  !s.pod.stopped && ((s.sys.boot == 8 && s.pod.inPod) || (s.sys.boot == 7 && s.sys.joinStep == 2))

/-- The records that leave with one token, at most (R171). -/
def tokenRecords : Nat := 4

/-- The balance count as the token leaves: each record of the head occupies the loop for 1 ns, 1.6 bc (R171, R172), which pass after a hold
of the count (R167). -/
def State.releaseCount (s : State) : W64 :=
  let n := if s.mayTransmit then min tokenRecords s.pod.offers.length else 0
  s.bc + BitVec.ofNat 64 (8 * n / 5 - s.bcHold)

/-- The token held: up to 4 records from the head leave (R171). -/
def State.transmit (s : State) : State :=
  if s.mayTransmit then
    let sent := s.pod.offers.take tokenRecords
    let p := { s.pod with
        flight := s.pod.flight ++ sent, offers := s.pod.offers.drop tokenRecords, wire := s.pod.wire ++ sent.map recordBytes }
    { s with pod := p }.clearOfferHolds
  else s

/-! ### The balance count (R167 to R170) -/

/-- TAPDLY's entry `r`, in 1/16 bc (R453). -/
def State.tapDelay (s : State) (r : Nat) : Int := fieldOf (Sp.get 0 s.sys.tapdly (r / 4)) (16 * (r % 4)) 16

/-- The propagation delay from ring position `ref`, in 1/16 bc (R168). -/
def State.delayFrom (s : State) (ref : Nat) : Int := (s.tapDelay s.rpos - s.tapDelay ref) % (fieldOf s.sys.loopc 0 16 : Nat)

/-- A token gap above this, in bc, is a loss (R179). -/
def lossGap : Nat := 2048
/-- The bc within which every member's token has passed a tap (R172). -/
def rotationMax : Nat := 474

/-- The ring positions of the members whose tokens the tap has heard lately. A member that has left is not heard any more. -/
def State.heardMembers (s : State) : List Nat :=
  (s.pod.heard.filter fun p => s.pod.lastToken < p.2 + lossGap).map (·.1)

/-- Whether this package is the reference package: the member with the lowest ring position (R168). -/
def State.isReference (s : State) : Bool := s.pod.inPod && s.heardMembers.all fun q => s.rpos ≤ q

/-- Whether a package that listens knows the reference package: it has heard the lowest position that another package can have, or every
member's token has passed (R172). -/
def State.knowsReference (s : State) : Bool :=
  s.pod.listen != 0 && ((s.heardMembers.any fun q => q == 0 || (q == 1 && s.rpos == 0)) || s.pod.listen + rotationMax ≤ s.time)

/-- Whether a package awaits the count of R180: one that joins or rejoins, or a member that has not heard a token yet. -/
def State.awaitsCount (s : State) : Bool := s.sys.boot == 7 || (s.sys.boot == 8 && (s.pod.rejoining || !s.pod.loaded))

/-- The balance count that a token of the reference package gives: bc ← token bc + d, rounded (R180). -/
def State.tokenCount (s : State) (pos : Nat) (tokenBc : W64) : W64 :=
  tokenBc + BitVec.ofInt 64 ((s.delayFrom pos + 8) / 16)

/-- A load never moves the count backwards: it holds until the computed count reaches it (R167). -/
def State.reloadBc (s : State) (x : W64) : State :=
  if s.bc.toNat ≤ x.toNat then { s with bc := x, bcHold := 0 } else { s with bcHold := s.bc.toNat - x.toNat }

/-- The ring position of the sponsor as a package that is no member knows it: the lowest heard lately, in host-assisted mode the one that
the companion chose (R427, R429). -/
def State.sponsorHeard (s : State) : Option Nat :=
  if s.assisted 4 then s.pod.chosen else (s.heardMembers.filter fun q => q != s.rpos).foldl (fun m q => match m with
    | none => some q
    | some x => some (min x q)) none

/-- A member leaves the pod: it stamps and applies nothing more, its tap goes on listening, and it sends a rejoin request to its sponsor
(R170, R178, R427). -/
def State.leavePod (s : State) : State :=
  { s with pod := { s.pod with
      inPod := false, rejoining := true, loaded := false, first := none, listen := 0, kept := [], asks := s.pod.asks ++ [(s.sponsorHeard, s.pkg)] } }

/-- The offset recorded at a token of the reference package; beyond ±8 bc the package is out of balance (R168, R170). -/
def State.recordOffset (s : State) (pos : Nat) (tokenBc : W64) : State :=
  let o := (s.bc - tokenBc).toInt * 16 - s.delayFrom pos
  let s := { s with pod := { s.pod with ofs := o } }
  if o.natAbs > 128 then ({ s with pod := { s.pod with out := true } }).leavePod else s

/-- TRIM's sum, saturating at ±100,000 (R169, R386). -/
def trimSum (trm n : Int) : Int := max (-100000) (min 100000 (trm + n))

/-! ### Tokens (R171, R179, R180, R428, R452) -/

/-- A token that follows a regenerated one of a lower position within 64 bc, the 64th among them, is discarded (R428). -/
def State.discardsToken (s : State) (pos : Nat) : Bool :=
  match s.pod.regen with
  | none => false
  | some (low, at_) => low < pos && s.time ≤ at_ + 64

/-- A token that a package hears while it awaits its count: that of a lower position than every earlier one gives the count of the
reference package's first token, as far as the package can tell. -/
def State.noteToken (s : State) (pos : Nat) (tokenBc : W64) : State :=
  let lower := match s.pod.first with
    | none => true
    | some f => pos < f.1
  if s.awaitsCount && lower then
    { s with pod := { s.pod with first := some (pos, s.tokenCount pos tokenBc, s.time), loaded := false } }
  else s

/-- The count is loaded once the package knows the reference package: that of its first token, with the bc that have passed since (R180,
R452; DEDUCED, notes/assumptions/33.md). -/
def State.loadCount (s : State) : State :=
  match s.pod.first with
  | none => s
  | some (_, x, at_) =>
    if s.awaitsCount && !s.pod.loaded && s.knowsReference then
      { s.reloadBc (x + BitVec.ofNat 64 (s.time - at_)) with pod := { s.pod with loaded := true } }
    else s

/-- The count is loaded where it can be, and a joining package then offers its NOTE (R452). -/
def State.joinListened (s : State) : State :=
  let s := s.loadCount
  if s.sys.boot = 7 && s.sys.joinStep < 2 && s.pod.loaded then
    { s with sys := { s.sys with joinStep := 2 } }.offer 7 1 0 0 [BitVec.ofNat 64 s.pkg]
  else s

/-- A token of a ring position is heard: it ends a token loss. -/
def State.hear (s : State) (pos : Nat) : State :=
  { s with pod := { s.pod with
      heard := if pos = s.rpos then s.pod.heard else Sp.set 0 s.pod.heard pos (s.time + 1)
      listen := if s.pod.listen = 0 then s.time + 1 else s.pod.listen
      lastToken := s.time, lossRaised := false
      regen := if s.pod.lossRaised then some (pos, s.time) else s.pod.regen } }

/-- What a token tells of balance time: the count of a package that awaits it, whose NOTE may follow, and a member's offset (R168, R180,
R452). -/
def State.keepTime (s : State) (pos : Nat) (tokenBc : W64) : State :=
  if s.awaitsCount then s.joinListened
  else if s.isReference then { s with pod := { s.pod with ofs := 0 } }
  else if s.pod.inPod && s.heardMembers.all (fun q => pos ≤ q) then s.recordOffset pos tokenBc
  else s

/-- The token goes on: a package that may transmit and has records, and the reference package always, take it and release their own, with
their position and count; every other passes it on (R168, R171). -/
def State.passToken (s : State) (pos : Nat) (tokenBc : W64) : State :=
  let mine := s.mayTransmit && (!s.pod.offers.isEmpty || s.isReference)
  let count := s.releaseCount
  let s := s.transmit
  { s with pod := { s.pod with tokenOut := some (if mine then (s.rpos, count) else (pos, tokenBc)) } }

/-- A token reaches the tap. The tap of a halted package passes it on unread (R459). -/
def State.tokenArrival (s : State) (pos : Nat) (tokenBc : W64) (malformed : Bool) : State :=
  if s.sys.boot = 15 then s.passToken pos tokenBc
  else if (s.sys.boot != 7 && s.sys.boot != 8) || s.discardsToken pos then s
  else if malformed then
    if s.pod.inPod then s.leavePod else s
  else (((s.noteToken pos tokenBc).hear pos).keepTime pos tokenBc).passToken pos tokenBc

/-- The gap since the last token, in oscillator periods. -/
def State.tokenGap (s : State) : Nat := s.time - s.pod.lastToken

/-- Whether the tap times the gap between tokens: it has heard one, or the package holds a pod. -/
def State.timesTokens (s : State) : Bool := s.sys.boot == 8 || (s.sys.boot == 7 && s.pod.listen != 0)

/-- Whether a token loss is due. -/
def State.lossDue (s : State) : Bool := s.timesTokens && !s.pod.lossRaised && lossGap < s.tokenGap

/-- A gap of more than 2,048 bc raises an event to S-level (R179). -/
def State.loseToken (s : State) : State :=
  if s.lossDue then ({ s with pod := { s.pod with lossRaised := true } }.note .tokenLoss).wakeLevel 1 else s

/-- The sponsor: the lowest ring position still in the pod, in host-assisted mode the one that the companion chose (R427, R429). -/
def State.isSponsor (s : State) : Bool := s.pod.inPod && (if s.assisted 4 then s.pod.chosen == some s.rpos else s.isReference)

/-- Whether the token may be regenerated here: a further 2,048 bc have passed, and this package is the sponsor or the companion orders
it (R428, R429). -/
def State.regenerable (s : State) : Bool :=
  s.sys.boot == 8 && !s.pod.stopped && s.pod.inPod && s.pod.lossRaised && 2 * lossGap < s.tokenGap && (s.assisted 4 || s.isReference)

/-- The token generated again; its maker, holding it, may transmit (R171, R428). -/
def State.regenerateToken (s : State) : State :=
  if s.regenerable then
    let s := { s with pod := { s.pod with lossRaised := false, lastToken := s.time } }.note .tokenRegenerated
    let count := s.releaseCount
    let s := s.transmit
    { s with pod := { s.pod with tokenOut := some (s.rpos, count) } }
  else s

/-! ### Records (R173 to R175, R419, R427, R437) -/

/-- The LEN values of an operation. -/
def lenOk (op len : Nat) : Bool :=
  match op with
  | 0 => 1 ≤ len && len ≤ 6
  | 1 => len == 1
  | 2 => len == 1
  | 3 => len == 2
  | _ => len ≤ 6

/-- Whether a record is applied, by the region table as it stands. -/
def State.applies (s : State) (op : Nat) (r : LoopRec) : Bool :=
  op < 8 && lenOk op r.len && !r.rsvd && r.daddr + max r.len 1 ≤ (dialRegion s.pod.dial r.tenant).2

def State.dialWord (s : State) (i : Nat) : W64 := Sp.get 0 s.pod.dial i
def State.putDial (s : State) (i : Nat) (ws : List W64) : State := { s with pod := { s.pod with dial := Sp.put 0 s.pod.dial i ws } }

/-- The package mask of a LAUNCH record names this package: the launch is admitted, with what the queue entry gave where
this package offered it. -/
def State.admitRecord (s : State) (r : LoopRec) (seq : W64) : State :=
  let w (i : Nat) : W64 := nth 0 r.words i
  let q := fieldOf (w 1) 0 16
  let entry := (w 2).toNat
  let own := r.writer == s.pkg
  let mine (e : PodEntry) : Bool := own && e.queue == q && e.entry == entry
  let offered := s.fw.podEntries.find? mine
  let e := offered.getD {}
  let here := 4 ≤ r.len && bitAt (w 3) s.pkg
  let n := s.fw.admitted + 1
  let away : Option Nat := if own then none else some r.writer
  let back (a : QueueAdd) : QueueAdd :=
    if own && a.qcb = e.qcb && a.entries.contains (q, entry) then
      { a with entries := eraseFirst (fun x => x == (q, entry)) a.entries, waitFor := a.waitFor ++ (if here then [n] else []) }
    else a
  let s := { s with fw := { s.fw with podEntries := eraseFirst mine s.fw.podEntries, adds := s.fw.adds.map back } }
  (if here then s.enrol q entry (fieldOf (w 1) 16 12) e.rclass (w 0).toNat e.status e.w5 e.w6 true seq away (w 3) (offered.map (·.qcb))
   else s).flushAdds

/-- Trains that await package `k` (R426): physical data, or a cell of a receive command. -/
def State.awaits (s : State) (tr k : Nat) : Bool :=
  let t := s.train tr
  t.holds.any (fun h => h.2 == Hold.physical (some k)) ||
  s.grid.cmds.any fun c => c.train == tr && !c.started && c.start ≤ t.clk && match c.op with
    | .lrecv _ spkg _ _ _ => spkg == k
    | _ => false

/-- RECOV start and complete: packages announced as recovering, and the restart of the pause monitors that awaited one
(R426, R427). -/
def State.markRecovery (s : State) (w0 : W64) : State :=
  let k := fieldOf w0 0 6
  if fieldOf w0 8 1 = 0 then { s with pod := { s.pod with recovering := Sp.set false s.pod.recovering k true } }
  else
    let s1 := { s with pod := { s.pod with recovering := Sp.set false s.pod.recovering k false } }
    (s.grid.trains.map (·.1)).foldl (fun s1 tr =>
      if s.awaits tr k then s1.modTrain tr fun t => { t with pause := 0, overrun := false } else s1) s1

/-- The sponsor sends its Dial as applied through `m` to a member. -/
def State.transferTo (s : State) (member : Nat) (m : W64) : State :=
  if s.isSponsor then { s with pod := { s.pod with transfers := s.pod.transfers ++ [(member, m, s.pod.dial)] } } else s

/-- A NOTE with owner id 0: a package that joins, or the replay of a pod launch (R437, R452). One that names its writer is of a package that
joins, unless a pod launch here that runs on the writer too bears that sequence number (DEDUCED, notes/assumptions/110.md). -/
def State.readNote (s : State) (r : LoopRec) (seq : W64) : State :=
  let w0 := nth 0 r.words 0
  let s := { s with pod := { s.pod with notes := s.pod.notes ++ [(seq, r)] } }
  if r.tenant != 0 || r.len = 0 then s
  else
    let joins := w0.toNat = r.writer
    match (s.fw.launches.find? fun p => p.2.pod && p.2.recSeq == w0 && p.2.state == 2 && (!joins || bitAt p.2.mask r.writer)).map (·.2) with
    | some l => s.replay l.train
    | none => if joins then s.transferTo r.writer seq else s

/-- The effect of an applied record. -/
def State.applyRecord (s : State) (op : Nat) (r : LoopRec) (seq : W64) : State :=
  let base := (dialRegion s.pod.dial r.tenant).1 + r.daddr
  let w (i : Nat) : W64 := nth 0 r.words i
  let old := s.dialWord base
  match op with
  | 0 => s.putDial base (r.words.take r.len)
  | 1 => s.putDial base [old + w 0]
  | 2 => if old = 0 then s.putDial base [w 0] else s
  | 3 => if old = w 0 then s.putDial base [w 1] else s
  | 4 => (s.putDial base (r.words.take r.len)).admitRecord r seq
  | 5 => s.applyTmap (r.words.take r.len)
  | 6 =>
    let s := (s.putDial base (r.words.take r.len)).markRecovery (w 0)
    if fieldOf (w 0) 8 1 = 0 && r.writer = s.pkg then s.transferTo (fieldOf (w 0) 0 6) seq else s
  | _ => s.readNote r seq

/-- Stamping: the next sequence number, and the record's effect or the count of records not applied (R173, R175). The writer
matches its own record (R177). %seq follows the numbers that are applied (R75). -/
def State.stamp (s : State) (op : Nat) (r : LoopRec) : State :=
  let seq := s.pod.seq + 1
  let s := { s with pod := { s.pod with seq := seq } }
  let s :=
    if r.writer = s.pkg && (s.pod.flight.any fun o => o.rcd.otag == r.otag) then
      { s with pod := { s.pod with
          flight := eraseFirst (fun o => o.rcd.otag == r.otag) s.pod.flight
          applied := Sp.set 0 s.pod.applied r.otag seq } }
    else s
  if s.applies op r then { s with pod := { s.pod with top := seq } }.applyRecord op r seq else s.bump 0 3

/-- Whether records that pass the tap are kept unstamped. -/
def State.keeps (s : State) : Bool :=
  (s.sys.boot == 8 && s.pod.rejoining) || (s.sys.boot == 7 && s.sys.joinStep == 2)

/-- A record reaches the tap. A failed CRC counts and makes a member leave (R178); a package that keeps records has then
lost one and starts over. -/
def State.receive (s : State) (op : Nat) (r : LoopRec) (crcOk : Bool) : State :=
  if s.sys.boot = 8 && s.pod.inPod then
    if crcOk then s.stamp op r else (s.bump 0 1).leavePod
  else if s.keeps then
    if crcOk then { s with pod := { s.pod with kept := s.pod.kept ++ [{ op := op, rcd := r }] } }
    else { s.bump 0 1 with pod := { s.pod with kept := [] } }
  else s

/-! ### Rejoining (R427, R452) -/

/-- The sponsor receives a rejoin request and offers RECOV start. -/
def State.rejoinAsked (s : State) (member : Nat) : State :=
  if s.isSponsor then s.offer 6 1 (4096 + member) 0 [BitVec.ofNat 64 member] else s

/-- The kept records after the announcement of this package: its RECOV start, or its NOTE while it joins. -/
def State.keptAfter (s : State) : Option (List Offer) :=
  let mine (o : Offer) : Bool :=
    if s.sys.boot = 7 then o.op == 7 && o.rcd.writer == s.pkg && nth 0 o.rcd.words 0 == BitVec.ofNat 64 s.pkg
    else o.op == 6 && nth 0 o.rcd.words 0 == BitVec.ofNat 64 s.pkg
  match s.pod.kept.dropWhile fun o => !mine o with
  | [] => none
  | _ :: rest => some rest

/-- The sponsor's Dial, as applied through `m`, arrives: it is loaded, the kept records are stamped and applied in order, and
the package is a member again; a rejoining one offers RECOV complete, a joining one is READY. A rejoining one that has not yet heard a
token loads its count at the first. -/
def State.takeDial (s : State) (m : W64) (dial : List (Nat × W64)) : State :=
  match s.keptAfter with
  | none => s
  | some rest =>
    if !s.keeps then s
    else
      let joining := s.sys.boot == 7
      let s := { s with pod := { s.pod with seq := m, top := m, dial := Sp.puts 0 [] (dial.filter fun p => p.1 < 1048576), inPod := true
                                            rejoining := false, out := false, kept := [] } }
      let s := if joining then { s with sys := { s.sys with boot := 8 }, pod := { s.pod with flight := [] } } else s
      let s := rest.foldl (fun s o => if s.pod.inPod then s.stamp o.op o.rcd else s) s
      if joining then s else (s.offerFirst 6 1 (4096 + s.pkg) [BitVec.ofNat 64 (s.pkg + 256)]).note (.rejoinNote m)

/-- The pod formed by this package: bc and the sequence counter at 0, an empty Dial, the token (R452). -/
def State.formPod (s : State) : State :=
  { s with
    bc := 0, bcHold := 0
    pod := { s.pod with
        inPod := true, seq := 0, top := 0, dial := [], heard := [], lastToken := s.time, rejoining := false, loaded := true, first := none, tokenOut := some (s.rpos, 0) }
    sys := { s.sys with boot := 8 } }

/-- A failure of bring-up: everything idle, the loader resident (R447). -/
def State.failBoot (s : State) (cause die : Nat) : State :=
  { s with sys := { s.sys with boot := 14, cause := cause, die := die }
           fw := { s.fw with cmds := s.fw.cmds.map fun p => (p.1, { p.2 with on := false }) } }

/-- JOIN fails with cause 5. -/
def State.failJoin (s : State) : State := s.failBoot 5 0

/-- No token within 4,096 bc of entry to JOIN. -/
def State.joinTokenTimeout (s : State) : State :=
  if s.sys.boot = 7 && s.sys.joinStep = 0 && s.pod.listen = 0 && s.time ≥ s.sys.joinEntry + 4096 then
    if fieldOf s.sys.podcfg 24 1 = 1 || s.psize = 1 then s.formPod else { s with sys := { s.sys with joinStep := 1 } }
  else s

/-- No token within 1,600,000 bc of entry to JOIN. -/
def State.joinFailTimeout (s : State) : State :=
  if s.sys.boot = 7 && s.sys.joinStep < 2 && s.pod.listen = 0 && s.time ≥ s.sys.joinEntry + 1600000 then s.failJoin else s

/-! ### Cells (R181 to R187, R189, R190, R457) -/

/-- The header's fields (R182); bits [63:48] are the CRC. -/
def cellHeader (c : LinkCell) : Nat :=
  c.dest % 128 + 256 * c.kind + 1024 * c.dcore + 2 ^ 18 * c.spkg + 2 ^ 24 * c.sslot + 2 ^ 30 * c.flow + 2 ^ 38 * c.rop
/-- The 136 bytes of a cell, with its CRC16 (R183). -/
def cellBytes (c : LinkCell) : List Byte :=
  let h := leBytes 6 (cellHeader c)
  h ++ leBytes 2 (crc16 (h ++ c.payload)) ++ c.payload
/-- A cell read back from its 136 bytes. -/
def cellOf (bs : List Byte) : LinkCell :=
  let h := leNat (bs.take 8)
  { dest := bitsOf h 0 7, kind := bitsOf h 8 2, dcore := bitsOf h 10 8, spkg := bitsOf h 18 6, sslot := bitsOf h 24 6,
    flow := bitsOf h 30 8, rop := bitsOf h 38 4, payload := bs.drop 8 }

/-- Whether the ports have stopped: those of a halted package, from the next frame on (R459). -/
def State.portStopped (s : State) : Bool := s.pod.stopped && s.pod.stopBc ≤ s.bc.toNat

/-- The slot of the current bc. -/
def State.slotNow (s : State) : Nat := s.bc.toNat % 64

/-- The mark of a leaf management write, which leaves in any occurrence without a timed cell. -/
def anySlot : Nat := 64

/-- The cell that may leave a port in this bc: the first in start order whose slot this is, where its payload is ready; in an occurrence
without a timed cell, a management write (R186, R190). A cell whose command started before its package went out of balance or left the pod
leaves by the package's own bc: R170 holds commands at their start, and R186 names no other bc (DEDUCED, notes/assumptions/122.md). -/
def State.cellFor (s : State) (port : Nat) : Option OutCell :=
  let bc := s.bc.toNat
  let of (slot : Nat) : Option OutCell :=
    (s.pod.cells.find? fun c => c.port == port && c.slot == slot).bind fun c => if c.ready ≤ bc then some c else none
  if s.portStopped || s.bcHold != 0 || (s.pod.lastSent.any fun p => p.1 == port && p.2 == bc + 1) then none
  else match of s.slotNow with
    | some c => some c
    | none => of anySlot

/-- A port transmits one cell per bc, which bears the slot in which it leaves. A cell in a slot whose entry has V = 0 is dropped
(R457). -/
def State.sendCell (s : State) (port : Nat) : State :=
  match s.cellFor port with
  | none => s
  | some c =>
    let drop := c.slot != anySlot && fieldOf (s.slotEntry port c.slot) 63 1 == 0
    { s with pod := { s.pod with
        cells := eraseFirst (fun x => x == c) s.pod.cells
        sent := if drop then s.pod.sent else s.pod.sent ++ [{ c.cell with sslot := s.slotNow }]
        lastSent := Sp.set 0 s.pod.lastSent port (s.bc.toNat + 1) } }

/-- The payload of the oldest cell that waits for a slot is `n` bc late (R186). -/
def State.delayPayload (s : State) (port slot n : Nat) : State :=
  { s with pod := { s.pod with
      cells := modFirst (fun c => c.port == port && c.slot == slot) (fun c => { c with ready := c.ready + n }) s.pod.cells } }

/-- Cores whose link column receives a cell for `core`: a twin's column receives it too (R441). -/
def State.receivers (s : State) (core : Nat) : List Nat :=
  match (s.grid.trains.find? fun p => p.2.live && p.2.desc.twin && p.2.cores.contains core &&
      (p.2.mates.any fun m => m.1 == core / 8)).map (·.2) with
  | none => [core]
  | some t => [core, t.mateCore core]

/-- A cell enters a receive buffer of 256 cells. -/
def State.bufferCell (s : State) (c : LinkCell) (core : Nat) : State :=
  if (s.core core).rx.length ≥ 256 then s.bump 0 4
  else s.modCore core fun k => { k with rx := k.rx ++ [c] }

/-- Whether the CRC16 of a cell's 136 bytes holds (R183). -/
def cellOk (bs : List Byte) : Bool :=
  bs.length == 136 && leNat ((bs.drop 6).take 2) == crc16 (bs.take 6 ++ bs.drop 8)

/-- A cell arrives at a link column. -/
def State.cellArrives (s : State) (c : LinkCell) (crcOk : Bool) : State :=
  if s.sys.boot != 8 then s
  else if !crcOk then s.bump 0 0
  else if c.kind = 3 then s.bump 0 4
  else (s.receivers (c.dcore % 256)).foldl (fun s k => s.bufferCell { c with payload := c.payload.take 128 } k) s

/-! ### Leaf management (R190) -/

/-- LMGT.BUSY. -/
def State.leafBusy (s : State) : Bool := fieldOf s.pod.lmgt 63 1 == 1

/-- A write of LMGT: unless a write is in progress, a KIND 3 cell with LMGD and LMGT[11:0] waits to leave its port. DESIGN CHOICE (log
84): the spec gives no other field of it, and they are 0. -/
def State.writeLmgt (s : State) (v : W64) : State :=
  if s.leafBusy then s
  else
    let c : LinkCell :=
      { kind := 3, dest := 0, dcore := 0, spkg := s.pkg, sslot := 0, flow := 0, rop := 0,
        payload := leBytes 8 s.pod.lmgd.toNat ++ leBytes 8 (fieldOf v 0 7 + 256 * fieldOf v 8 4) ++ List.replicate 112 0 }
    { s with pod := { s.pod with
        lmgt := BitVec.ofNat 64 (2 ^ 63)
        cells := s.pod.cells ++ [{ port := fieldOf v 8 4, slot := anySlot, ready := s.bc.toNat, cell := c }] } }

/-- The leaf's acknowledgement: BUSY clears, ERR says whether the write was refused. -/
def State.leafAck (s : State) (err : Bool) : State :=
  if s.leafBusy then { s with pod := { s.pod with lmgt := BitVec.ofNat 64 (if err then 2 ^ 62 else 0) } } else s

/-! ### Switch reduction (R188)

The leaf itself is outside the package; this is what its reduced cells hold. -/

/-- Elements of a payload. -/
def payloadElems (n : Nat) : List Byte → List Nat
  | bs => (List.range (128 / n)).map fun i => leNat ((bs.drop (n * i)).take n)

/-- An element as it enters the accumulation: BF16 sums accumulate in binary32. -/
def reduceIn (rop x : Nat) : Nat := if 4 ≤ rop && rop ≤ 6 then x * 65536 else x

/-- One addition, minimum or maximum of the accumulated element with the next member's. For the operations that R188 reserves (0 and 10
to 15) the result is a free value (notes/assumptions/94.md). -/
def reduceStep (rop : Nat) (acc x : Nat) : Nat :=
  match rop with
  | 1 | 4 => (round32 rne (sumVals false [fp32.value acc, fp32.value x])).1
  | 2 | 5 => minMax false acc x
  | 3 | 6 => minMax true acc x
  | 7 => (acc + x) % 2 ^ 32
  | 8 => if signedOf 32 x < signedOf 32 acc then x else acc
  | 9 => if signedOf 32 acc < signedOf 32 x then x else acc
  | _ => (Config.reservedReduction rop acc x).toNat

/-- An element as it leaves: NaNs are canonical, and BF16 results are rounded once. -/
def reduceOut (rop x : Nat) : Nat :=
  if rop = 0 || 7 ≤ rop then x
  else
    let y := if (fp32.value x).isNan then fp32.canon else x
    if rop < 4 then y else (bf16.round rne (fp32.value y)).1

/-- One element of a reduced cell from the members' elements, in ascending package index. -/
def reduceElem (rop : Nat) : List Nat → Nat
  | [] => 0
  | x :: xs => reduceOut rop (xs.foldl (fun acc y => reduceStep rop acc (reduceIn rop y)) (reduceIn rop x))

/-- The payload of a reduced cell from the members' payloads, in ascending package index. -/
def reducePayload (rop : Nat) (members : List (List Byte)) : List Byte :=
  let n := if 4 ≤ rop && rop ≤ 6 then 2 else 4
  (List.range (128 / n)).flatMap fun i => leBytes n (reduceElem rop (members.map fun m => nth 0 (payloadElems n m) i))

/-- The members' cells of one round reach a core here as one reduced cell: it has the header of the lowest member's, and each member whose
ROP differs is counted (R182, R188, R408). -/
def State.reducedArrives (s : State) (dcore : Nat) (members : List LinkCell) : State :=
  match sortBy (fun a b => a.spkg ≤ b.spkg) members with
  | [] => s
  | low :: rest =>
    let s := (rest.filter fun c => c.rop != low.rop).foldl (fun s _ => s.bump 0 7) s
    s.cellArrives { low with kind := 1, dcore := dcore, payload := reducePayload low.rop ((low :: rest).map (·.payload)) } true

end Sys2Proof.Machine
end

