-- ==== Sys2Proof/Machine/MemOps.lean ====
section
/-!
DEFINITION. Class 4: pool and global loads and stores, atomics, fences, counters and Dial operations
(spec/12_memory_and_synchronisation_instructions.md R277 to R300). On a command core every access is performed at once (R363).
-/

namespace Sys2Proof.Machine

/-! ### Addresses and checks (R280, R281, R288, R291) -/

/-- The registers an address and its data name. -/
def memRegs (a : MAddr) (rs : List Nat) : List Nat := rs ++ a.vregs

def latPool : Nat := 10
def latStp : Nat := 6
def latNear : Nat := 640
def latFar : Nat := 4096
def latDial : Nat := 12

/-- Scratchpad bytes of the issuing core; a command core has none. -/
def State.scratch (s : State) : Nat := if s.cur.cmd then 0 else scratchBytes s.myTrain.desc.part

def chkPool (s : State) (n : Nat) (lanes : List (Nat × Nat)) : Option Flt := chkLanes 8 lanes fun a => a + n ≤ s.scratch

/-- The translation of one access of the issuing team. -/
def State.xlat (s : State) (perms : List Nat) (va n : Nat) : Option Xlat :=
  if va ≥ 2 ^ 48 then none else translate s.myTrain.desc perms false va n

def State.leased (s : State) (u : Use) (va n : Nat) : Bool :=
  match s.xlat [] va n with
  | none => false
  | some x => leaseOk s.myTrain s.myTeam.idx u va n x.ia

/-- R130 and R139 for every lane; `align` is 1 where the access need not be aligned. -/
def chkGlobal (s : State) (u : Use) (perm n align : Nat) (lanes : List (Nat × Nat)) : List (Option Flt) :=
  [chkLanes 8 lanes fun va => va % align == 0 && (s.xlat [perm] va n).isSome,
   chkLanes 9 lanes fun va => s.leased u va n]

/-- The other-package test of R149. -/
def chkFar (s : State) (scope n : Nat) (lanes : List (Nat × Nat)) : Option Flt :=
  (chkLanes 7 lanes fun va => match s.xlat [] va n with
    | none => true
    | some x => !scopeFar s scope x.ia).map fun f => { f with t2 := 0 }

/-- The other-package test of a command core's accesses (R149): the private space lies on no other package. -/
def chkCmdFar (s : State) (scope : Nat) (lanes : List (Nat × Nat)) : Option Flt :=
  (chkLanes 7 lanes fun a => 2 ^ 63 ≤ a || !scopeFar s scope a).map fun f => { f with t2 := 0 }

/-- The checks of a command core's counter at `va` (R149, R291). -/
def chkCmdCount (s : State) (runs : Bool) (perm scope va : Nat) : List (Option Flt) :=
  if runs then
    [chkScope s true scope, chkCmdCounter s perm va, (chkCmdFar s scope [(0, va)]).map fun f => { f with lane := 255 }]
  else []

/-- An intermediate address tagged with its caching level. -/
def tag (level ia : Nat) : Nat := level * 2 ^ 56 + ia
def tagLevel (x : Nat) : Nat := x / 2 ^ 56
def tagAddr (x : Nat) : Nat := x % 2 ^ 56

/-- An address that has passed its checks, tagged. -/
def State.place (s : State) (va n : Nat) : Nat :=
  match s.xlat [] va n with
  | none => 0
  | some x => tag (s.level x) x.ia

/-- An access cut at its pages, whose caching levels may differ (R137): tagged address and bytes of each part. -/
def State.parts (s : State) (va n : Nat) : List (Nat × Nat) := (pieces va n).map fun q => (s.place q.1 q.2, q.2)

/-- The bytes of a lane's load, each part at its page's level (R146). -/
def State.loadParts (s : State) (va n : Nat) : List Byte :=
  (s.parts va n).flatMap fun q => s.sample (tagLevel q.1) (tagAddr q.1) q.2

/-- A lane's store, each part at its page's level (R145). -/
def State.storeParts (s : State) (pos va : Nat) (bs : List Byte) : State :=
  (pieces va bs.length).foldl (fun s q =>
    let x := s.place q.1 q.2
    s.bufferStore pos (tagLevel x) (tagAddr x) ((bs.drop (q.1 - va)).take q.2)) s

/-! ### Landing of lane data (R282) -/

/-- Numbers of some lanes land in a register or a pair. -/
def State.landData (s : State) (sz lat dst : Nat) (xs : List (Nat × Nat)) : State :=
  let lo := xs.map fun p => (p.1, BitVec.ofNat 32 p.2)
  let s := s.later lat (.vec dst lo)
  if sz = 3 then s.later lat (.vec (dst + 1) (xs.map fun p => (p.1, BitVec.ofNat 32 (p.2 / 2 ^ 32)))) else s

def dataDst (sz r : Nat) : List Dst := (dataRegs sz r).map Dst.vec

/-- What the home notes of a load: a poisoned page is consumed where the data lands (R432, R433), and a page that fails its checks counts
as an owner mismatch (R394). -/
def State.noteLoad (s : State) (lat : Nat) (pages : List Nat) : State :=
  let s := s.countMisses s.myTrain.owner pages
  match pages.filter fun p => pePsn (s.page p) with
  | [] => s
  | ps => s.modTrain s.cur.train fun t => { t with bad := t.bad ++ ps.eraseDups.map fun p => (t.clk + lat, p, s.cur.key) }

/-! ### Pool loads and stores -/

def execLdp (h : Head) (dst : Nat) (sx : Bool) (a : MAddr) (s : State) : Host.Outcome State Fault Refusal :=
  let n := sizeOf a.sz
  let lanes := a.lanes s h
  attempt s [chkRegs s (memRegs a (dataRegs a.sz dst)), chkPool s n lanes, chkPend s (dataDst a.sz dst)] fun s =>
    s.landData a.sz latPool dst (lanes.map fun p =>
      (p.1, loaded a.sz sx (Memory.nat s.grid.pool (s.me.core * coreSpan + p.2) n)))

def execStp (h : Head) (dst : Nat) (a : MAddr) (s : State) : Host.Outcome State Fault Refusal :=
  let n := sizeOf a.sz
  let lanes := a.lanes s h
  let data := s.dataOf a.sz dst
  attempt s [chkRegs s (memRegs a (dataRegs a.sz dst)), chkPool s n lanes] fun s =>
    let writes : List PoolWrite := lanes.map fun p =>
      { train := s.cur.train, due := s.now + latStp, team := s.cur.team, group := s.me.idx, lane := p.1, core := s.me.core,
        addr := p.2, data := leBytes n (nth 0 data p.1) }
    { s with grid := { s.grid with stps := s.grid.stps ++ writes } }

/-! ### Global loads and stores -/

def execLdg (h : Head) (dst : Nat) (sx : Bool) (a : MAddr) (s : State) : Host.Outcome State Fault Refusal :=
  let n := sizeOf a.sz
  let lanes := a.lanes s h
  let regs := chkRegs s (memRegs a (dataRegs a.sz dst))
  if s.cur.cmd then
    attempt s [regs, chkCmdLanes s pmpLoad n 1 lanes] fun s =>
      s.landData a.sz latNear dst (lanes.map fun p => (p.1, loaded a.sz sx (s.cmdNat p.2 n)))
  else
    attempt s ([regs] ++ chkGlobal s .load permR n 1 lanes ++ [chkPend s (dataDst a.sz dst)]) fun s =>
      let parts := lanes.flatMap fun p => (s.parts p.2 n).map fun q => tagAddr q.1
      let lat := if parts.any fun x => pkgOf x != s.pkg then latFar else latNear
      (s.landData a.sz lat dst (lanes.map fun p => (p.1, loaded a.sz sx (leNat (s.loadParts p.2 n))))).noteLoad lat
        (parts.map pageOf)

def execStg (h : Head) (dst : Nat) (a : MAddr) (s : State) : Host.Outcome State Fault Refusal :=
  let n := sizeOf a.sz
  let lanes := a.lanes s h
  let data := s.dataOf a.sz dst
  let bytes (l : Nat) : List Byte := leBytes n (nth 0 data l)
  let regs := chkRegs s (memRegs a (dataRegs a.sz dst))
  if s.cur.cmd then
    attempt s [regs, chkCmdLanes s pmpStore n 1 lanes] fun s => lanes.foldl (fun s p => s.cmdPut p.2 (bytes p.1)) s
  else
    attempt s ([regs] ++ chkGlobal s .store permW n 1 lanes) fun s =>
      lanes.foldl (fun s p => s.storeParts p.1 p.2 (bytes p.1)) s

/-! ### Atomics (R286 to R289) -/

/-- The operands c0 and c1 of each lane; AINC has none. -/
def State.atomicArgs (s : State) (op : Nat) (o : Atom) (l : Nat) : Nat × Nat :=
  let reg (r : Nat) : Nat := nth 0 (s.dataOf o.a.sz r) l
  if op = 0x0F then (0, 0)
  else (reg o.sc, if op = 0x0D then reg (o.sc + (if o.a.sz = 3 then 2 else 1)) else 0)

/-- The registers of an atomic's operands. -/
def atomicRegs (op : Nat) (o : Atom) : List Nat :=
  let w := if o.a.sz = 3 then 2 else 1
  let n := if op = 0x0F then 0 else if op = 0x0D then 2 * w else w
  (List.range n).map (· + o.sc)

/-- The kind under which `owed` notes a register whose atomic result has not landed. -/
def awaited : Nat := 5

/-- The team awaits atomic results in these vector registers (R240, R294). -/
def State.await (s : State) (rs : List Nat) : State :=
  { s with grid := { s.grid with owed := s.grid.owed ++ rs.map fun r => { key := s.cur.key, kind := awaited, reg := r } } }

/-- An atomic by its OP: on a compute core it waits for its boundary, on a command core it is performed lane by lane. -/
def atomic (op : Nat) (h : Head) (o : Atom) (s : State) : Host.Outcome State Fault Refusal :=
  let n := sizeOf o.a.sz
  let lanes := o.a.lanes s h
  let dsts := if o.nr then [] else dataDst o.a.sz o.dst
  let regs := chkRegs s (memRegs o.a ((if o.nr then [] else dataRegs o.a.sz o.dst) ++ atomicRegs op o))
  let scope := chkScope s (s.execs h) o.scope
  let args (l : Nat) : Nat × Nat := s.atomicArgs op o l
  if s.cur.cmd then
    attempt s [regs, scope, chkCmdLanes s pmpStore n n lanes, chkCmdFar s o.scope lanes] fun s =>
      let step (acc : State × List (Nat × Nat)) (p : Nat × Nat) : State × List (Nat × Nat) :=
        let old := acc.1.cmdNat p.2 n
        (acc.1.cmdPut p.2 (leBytes n (atomicNew op (8 * n) old (args p.1).1 (args p.1).2)), acc.2 ++ [(p.1, old)])
      let r := lanes.foldl step (s, [])
      if o.nr then r.1 else r.1.landData o.a.sz latNear o.dst r.2
  else
    let g := chkGlobal s .atomic permA n n lanes
    attempt s ([regs, scope] ++ g.take 1 ++ [chkFar s o.scope n lanes] ++ g.drop 1 ++ [chkPend s dsts]) fun s =>
      let at_ := lanes.map fun p => (p.1, s.place p.2 n)
      let lat := at_.foldl (fun m p => max m (opLat (scopeAt s o.scope (tagAddr p.2)) (tagLevel p.2))) (scopeLat o.scope)
      let act : Act :=
        { train := s.cur.train, team := s.cur.team, key := s.cur.key, group := s.me.idx, core := s.me.core, ord := s.grid.ord,
          due := 0, what := .atomic op (o.a.sz == 3) o.scope (at_.map fun p => (p.1, p.2, (args p.1).1, (args p.1).2))
            (if o.nr then none else some o.dst) lat }
      let s := at_.foldl (fun s p => s.touchLine (tagAddr p.2) n) s
      let s := { s with grid := { s.grid with acts := s.grid.acts ++ [act], ord := s.grid.ord + 1 } }
      (dsts.foldl State.owe s).await (if o.nr || lanes.isEmpty then [] else dataRegs o.a.sz o.dst)

def execAadd (h : Head) (o : Atom) (s : State) := atomic 0x04 h o s
def execAand (h : Head) (o : Atom) (s : State) := atomic 0x05 h o s
def execAor (h : Head) (o : Atom) (s : State) := atomic 0x06 h o s
def execAxor (h : Head) (o : Atom) (s : State) := atomic 0x07 h o s
def execAmin (h : Head) (o : Atom) (s : State) := atomic 0x08 h o s
def execAmax (h : Head) (o : Atom) (s : State) := atomic 0x09 h o s
def execAminu (h : Head) (o : Atom) (s : State) := atomic 0x0A h o s
def execAmaxu (h : Head) (o : Atom) (s : State) := atomic 0x0B h o s
def execAexch (h : Head) (o : Atom) (s : State) := atomic 0x0C h o s
def execAcas (h : Head) (o : Atom) (s : State) := atomic 0x0D h o s
def execAfadd (h : Head) (o : Atom) (s : State) := atomic 0x0E h o s
def execAinc (h : Head) (o : Atom) (s : State) := atomic 0x0F h o s

/-! ### Fences (R290) -/

/-- A synchronising action of the issuing group waits for the boundary of its quantum. -/
def State.act (s : State) (w : ActWhat) : State :=
  let a : Act :=
    { train := s.cur.train, team := s.cur.team, key := s.cur.key, group := s.me.idx, core := s.me.core, ord := s.grid.ord,
      due := 0, what := w }
  { s with grid := { s.grid with acts := s.grid.acts ++ [a], ord := s.grid.ord + 1 } }

/-- FENCE by its kinds; a command core's stores are at their homes already. -/
def fence (rel acq : Bool) (h : Head) (scope : Nat) (s : State) : Host.Outcome State Fault Refusal :=
  let runs := s.holds h
  attempt s [chkRegs s [], chkScope s runs scope] fun s =>
    if runs && !s.cur.cmd then s.act (.fence rel acq scope) else s

def execFenceAcq (h : Head) (scope : Nat) (s : State) := fence false true h scope s
def execFenceRel (h : Head) (scope : Nat) (s : State) := fence true false h scope s
def execFenceAr (h : Head) (scope : Nat) (s : State) := fence true true h scope s

/-! ### Counters (R291 to R294) -/

/-- The checks of a counter of the issuing team at virtual address `va`. -/
def chkCounter (s : State) (runs : Bool) (u : Use) (scope va : Nat) : List (Option Flt) :=
  if runs then
    let noLane (f : Option Flt) : Option Flt := f.map fun f => { f with lane := 255 }
    let g := chkGlobal s u permA 8 8 [(0, va)]
    [chkScope s true scope] ++ (g.take 1).map noLane ++ [noLane (chkFar s scope 8 [(0, va)])] ++ (g.drop 1).map noLane
  else []

/-- Until the condition holds a command core executes the instruction again (R363). -/
def State.retry (s : State) : State := s.jump s.cur.addr

/-- The issuing group blocks. -/
def State.block (s : State) (b : Block) : State := s.modGroup s.cur.key fun g => { g with block := b }

def execWaitc (h : Head) (o : Cnt) (s : State) : Host.Outcome State Fault Refusal :=
  let runs := s.holds h
  let va := (s.scalar o.sa).toNat
  let target := (o.b.uval s).toNat
  if s.cur.cmd then
    attempt s ([chkRegs s []] ++ chkCmdCount s runs pmpLoad o.scope va) fun s =>
      if runs && s.cmdNat va 8 < target then s.retry else s
  else
    attempt s ([chkRegs s []] ++ chkCounter s runs .counterWait o.scope va) fun s =>
      if runs then s.block (.waitc o.scope va (s.place va 8) target) else s

def execCntadd (h : Head) (o : Cnt) (s : State) : Host.Outcome State Fault Refusal :=
  let runs := s.holds h
  let va := (s.scalar o.sa).toNat
  let x := (o.b.uval s).toNat
  if s.cur.cmd then
    attempt s ([chkRegs s []] ++ chkCmdCount s runs pmpStore o.scope va) fun s =>
      if runs then s.cmdPut va (leBytes 8 (s.cmdNat va 8 + x)) else s
  else
    attempt s ([chkRegs s []] ++ chkCounter s runs .counterAdd o.scope va) fun s =>
      if runs then s.act (.count o.scope (s.place va 8) x none) else s

/-- A team whose team area holds no save area (R294). -/
def chkSaveArea (s : State) (runs : Bool) (va : Nat) : Option Flt :=
  check (!runs || (s.myTrain.desc.saveArea s.myTeam.idx).isSome) { code := 9, t2 := BitVec.ofNat 64 va }

def execYield (h : Head) (o : Cnt) (s : State) : Host.Outcome State Fault Refusal :=
  let runs := s.holds h
  let va := (s.scalar o.sa).toNat
  let target := (o.b.uval s).toNat
  attempt s ([chkRegs s [], chkTrain s] ++ chkCounter s runs .counterWait o.scope va ++ [chkSaveArea s runs va]) fun s =>
    if runs then s.block (.yield o.scope va (s.place va 8) target) else s

/-! ### The Dial (R295 to R299) -/

/-- The Dial region of the issuer by the Dial it reads: BASE and SIZE. -/
def State.myRegion (s : State) : Nat × Nat :=
  if s.cur.cmd then (0, 1048576) else dialRegion s.myTrain.dial s.myTrain.owner
def State.myDial (s : State) : List (Nat × W64) := if s.cur.cmd then s.pod.dial else s.myTrain.dial

def execDld (h : Head) (dst sa : Nat) (imm : Option W32) (s : State) : Host.Outcome State Fault Refusal :=
  let w := (s.scalar sa + ((imm.map fun x : W32 => x.signExtend 64).getD 0)).toNat
  let r := s.myRegion
  attempt s [chkRegs s [], check (!s.holds h || w < r.2) { code := 8, t2 := BitVec.ofNat 64 w }, chkPend s [.scal dst]] fun s =>
    s.landScalar h latDial dst (Sp.get 0 s.myDial (r.1 + w))

/-- The record operations and lengths that the issuer may name, and the payload's last scalar (R296, R298). -/
def chkDrecFields (s : State) (o : Drec) : Option Flt :=
  check ((if s.cur.cmd then o.rop < 8 else o.rop < 4) && lenOk o.rop o.rlen && (o.rlen = 0 || o.sb + o.rlen ≤ 128)) (fltIllegal s)

/-- On a command core a DREC that executes needs S-level, and TMAP M-level (R209, R298). -/
def chkDrecLevel (s : State) (runs : Bool) (o : Drec) : Option Flt :=
  check (!runs || !s.cur.cmd || (if o.rop = 5 then 2 else 1) ≤ (s.cmdCore s.cur.key).level) { code := 5 }

/-- Scope and Dial region. -/
def chkDrecWhere (s : State) (runs : Bool) (o : Drec) : List (Option Flt) :=
  let a := (s.scalar o.sa).toNat
  [check (!runs || s.podAllowed) { code := 7 },
   check (!runs || a + max o.rlen 1 ≤ s.myRegion.2) { code := 8, t2 := BitVec.ofNat 64 a }]

def State.drecWords (s : State) (o : Drec) : List W64 := (List.range o.rlen).map fun i => s.scalar (o.sb + i)

/-- The record of a train waits for the release of its boundary. -/
def State.drecAct (s : State) (o : Drec) : State :=
  s.act (.drec o.rop o.rlen (s.scalar o.sa).toNat 0 (s.drecWords o))

/-- A command core whose offer finds the queue full executes DREC again; otherwise its record enters the queue. -/
def State.drecCommand (s : State) (o : Drec) (after : State → State) : State :=
  if s.pod.offers.length ≥ 64 then s.retry
  else after (s.offer o.rop o.rlen (s.scalar o.sa).toNat 0 (s.drecWords o))

def execDrec (h : Head) (o : Drec) (s : State) : Host.Outcome State Fault Refusal :=
  let runs := s.holds h
  attempt s ([chkRegs s [], chkDrecFields s o, chkDrecLevel s runs o] ++ chkDrecWhere s runs o) fun s =>
    if !runs then s else if s.cur.cmd then s.drecCommand o id else s.drecAct o

/-- The offer tag of a group whose record has not been offered yet. -/
def noTag : Nat := 2 ^ 16

def execDrecWait (h : Head) (dst : Nat) (o : Drec) (s : State) : Host.Outcome State Fault Refusal :=
  let runs := s.holds h
  attempt s ([chkRegs s [], chkDrecFields s o, chkDrecLevel s runs o] ++ chkDrecWhere s runs o ++
      [if runs then chkPend s [.scal dst] else none]) fun s =>
    if !runs then s
    else if s.cur.cmd then
      s.drecCommand o fun s => s.block (.drecw ((s.pod.nextTag - 1) % 2 ^ 16) dst none)
    else ((s.drecAct o).owe (.scal dst)).block (.drecw noTag (s.boundDst dst) none)

def execDwait (h : Head) (b : Src) (s : State) : Host.Outcome State Fault Refusal :=
  let runs := s.holds h
  let n := (b.uval s).toNat
  attempt s [chkRegs s [], check (!runs || s.podAllowed) { code := 7 }] fun s =>
    if !runs then s
    else if s.cur.cmd then (if s.pod.top.toNat < n then s.retry else s)
    else s.block (.dwait n)

end Sys2Proof.Machine
end

