-- ==== Sys2Proof/Machine/Control.lean ====
section
/-!
DEFINITION. Class 5: transfers, divergence and reconvergence, barriers, formats, time and traps
(spec/10_scalar_and_control_instructions.md R235 to R250, spec/02_execution_model.md R38 to R41, R58,
spec/03_programmer_state.md R85), and which instructions end a run (R45).
-/

namespace Sys2Proof.Machine

/-! ### Transfers (R236, R237) -/

def execBra (h : Head) (t : Target) (s : State) : Host.Outcome State Fault Refusal :=
  attempt s [chkRegs s []] fun s => if s.holds h then s.jump (t.addr s) else s

def execBrc (h : Head) (cn : Nat) (neg : Bool) (t : Target) (s : State) : Host.Outcome State Fault Refusal :=
  attempt s [chkRegs s []] fun s => if s.holds h && s.me.readCond cn != neg then s.jump (t.addr s) else s

def latLink : Nat := 2

def execCall (h : Head) (dst : Nat) (t : Target) (s : State) : Host.Outcome State Fault Refusal :=
  attempt s [chkRegs s [], chkPend s [.scal dst]] fun s =>
    let target := t.addr s
    let s1 := s.landScalar h latLink dst (s.cur.next.zeroExtend 64)
    if s.holds h then s1.jump target else s1

def execRet (h : Head) (sa : Nat) (s : State) : Host.Outcome State Fault Refusal :=
  attempt s [chkRegs s []] fun s => if s.holds h then s.jump ((s.scalar sa).truncate 48) else s

def execLoop (h : Head) (dst : Nat) (t : Target) (s : State) : Host.Outcome State Fault Refusal :=
  attempt s [chkRegs s [], chkPend s [.scal dst]] fun s =>
    let n := s.scalar dst - 1
    let s1 := s.landScalar h latLink dst n
    if s.holds h && n != 0 then s1.jump (t.addr s) else s1

/-! ### The divergence stack (R40, R85) -/

/-- The address that stands for no reconvergence address: no JOIN lies there. -/
def noRcv : Addr48 := -1

/-- The 32 bytes of a slot's entry. -/
def PcSlot.bytes (p : PcSlot) : List Byte :=
  leBytes 8 p.mask.toNat ++ leBytes 8 p.pc.toNat ++ leBytes 8 (p.rcv.getD noRcv).toNat ++ leBytes 4 p.fmt.toNat ++
  leBytes 4 p.jfmt.toNat

/-- A slot read from its entry; bits above the group's width are 0. -/
def slotOf (width : Nat) (bs : List Byte) : PcSlot :=
  let w (o n : Nat) : Nat := leNat ((bs.drop o).take n)
  let rcv : Addr48 := BitVec.ofNat 48 (w 16 6)
  { mask := BitVec.ofNat 64 (w 0 8) &&& laneMask width, pc := BitVec.ofNat 48 (w 8 6), rcv := if rcv = noRcv then none else some rcv,
    fmt := BitVec.ofNat 32 (w 24 4), jfmt := BitVec.ofNat 32 (w 28 4) }

def Group.spills (g : Group) : Nat := (g.stack.filter fun e => e == .spilled).length

/-- The virtual address of the group's `i`-th spilled entry; none beyond its part. -/
def State.spillAt (s : State) (i : Nat) : Option Nat :=
  let p := s.myTrain.desc.spillPart s.myTeam.idx s.me.idx
  if 32 * (i + 1) ≤ p.2 then some (p.1 + 32 * i) else none

/-- Whether the next push goes beyond the group's share. -/
def State.pushSpills (s : State) : Bool := s.me.stack.length ≥ 8 * partDivg s.myTrain.desc.part

/-- A push beyond the group's part of the spill area. -/
def chkSpill (s : State) (pushes : Bool) : Option Flt :=
  let i := s.me.spills
  check (!(pushes && s.pushSpills) || (s.spillAt i).isSome)
    { code := 9, t2 := BitVec.ofNat 64 ((s.myTrain.desc.spillPart s.myTeam.idx s.me.idx).1 + 32 * i) }

def spillHold : Nat := 640

/-- The hold of a spill or fill. -/
def State.holdGroup (s : State) : State :=
  let now := s.now
  s.modGroup s.cur.key fun g => { g with hold := max g.hold (now + spillHold) }

/-- A push of a slot's contents. An entry has no place for a wait at JOIN (R85): a slot that waited issues its JOIN again. -/
def State.pushSlot (s : State) (p : PcSlot) : State :=
  let spill := s.pushSpills
  let i := s.me.spills
  let s := s.modGroup s.cur.key fun g => { g with stack := (if spill then .spilled else .share { p with waiting := false }) :: g.stack }
  if !spill then s
  else
    let x := s.place ((s.spillAt i).getD 0) 32
    (s.bufferStore 0 (tagLevel x) (tagAddr x) p.bytes).holdGroup

/-- The top entry taken from the stack, with the hold of a fill. A fill is a load (R40), whose bytes land when the hold ends: a poisoned
page that it reads is consumed there (R432, R433). -/
def State.popSlot (s : State) : State × Option PcSlot :=
  match s.me.stack with
  | [] => (s, none)
  | .share p :: rest => (s.modGroup s.cur.key fun g => { g with stack := rest }, some p)
  | .spilled :: rest =>
    let x := s.place ((s.spillAt (s.me.spills - 1)).getD 0) 32
    let p := slotOf s.me.width (s.sample (tagLevel x) (tagAddr x) 32)
    (((s.modGroup s.cur.key fun g => { g with stack := rest }).holdGroup).noteLoad spillHold [pageOf (tagAddr x)], some p)

/-! ### Two issuable slots (R41) -/

def Group.both (g : Group) : Bool := g.handler.isNone && g.pri.issuable && g.alt.issuable

/-- The alternation restarts with the primary slot when the group passes to two issuable slots. -/
def State.alternate (before : Group) (s : State) : State :=
  if !before.both && s.me.both then s.modGroup s.cur.key fun g => { g with altNext := false } else s

/-! ### BRD (R38, R238) -/

/-- The lanes that BRD takes. -/
def State.taken (s : State) (h : Head) (m : Nat) (neg : Bool) : W64 :=
  let x := s.me.readMask m
  if s.holds h then (s.me.slot s.cur.alt).mask &&& (if neg then ~~~x else x) else 0

/-- The issuing slot keeps the lanes not taken, the other receives the taken ones. -/
def State.diverge (s : State) (taken : W64) (target rcv : Addr48) : State :=
  s.modGroup s.cur.key fun g =>
    let me := g.slot s.cur.alt
    let g := g.setSlot s.cur.alt { me with mask := me.mask &&& ~~~taken, rcv := some rcv, jfmt := me.fmt }
    g.setSlot (!s.cur.alt) { pc := target, mask := taken, rcv := some rcv, fmt := me.fmt, jfmt := me.fmt }

def execBrd (h : Head) (m : Nat) (neg : Bool) (tgt rcv : W32) (s : State) : Host.Outcome State Fault Refusal :=
  let taken := s.taken h m neg
  let mask := (s.me.slot s.cur.alt).mask
  let other := s.me.slot (!s.cur.alt)
  let some_ := taken != 0 && taken != mask
  attempt s [chkTrain s, chkRegs s [], chkSpill s (some_ && other.live)] fun s =>
    let before := s.me
    let target := plusDisp s.cur.addr tgt
    if taken = 0 then s
    else if taken = mask then s.jump target
    else (((if other.live then s.pushSlot other else s).diverge taken target (plusDisp s.cur.addr rcv))).alternate before

/-! ### JOIN and EXIT (R39, R239, R240, R372) -/

/-- The merge of two slots that wait at a JOIN, with the pop that follows it. -/
def State.merge (s : State) (j : Addr48) : State :=
  let g := s.me
  let fmt := if g.pri.waiting then g.pri.jfmt else g.alt.jfmt
  let r := s.popSlot
  r.1.modGroup s.cur.key fun g =>
    let p : PcSlot := { g.pri with mask := g.pri.mask ||| g.alt.mask, pc := nextAddr j 8, fmt := fmt, waiting := false, rcv := none }
    match r.2 with
    | none => { g with pri := p, alt := {} }
    | some e => { g with pri := { p with rcv := e.rcv, jfmt := e.jfmt }, alt := e }

/-- JOIN's fault: its address is not the slot's recorded one, or the other slot waits elsewhere. -/
def chkJoin (s : State) (runs : Bool) : Option Flt :=
  let me := s.me.slot s.cur.alt
  let other := s.me.slot (!s.cur.alt)
  check (!runs || me.rcv.isNone || (me.rcv == some s.cur.addr && !(other.live && other.waiting && other.pc != s.cur.addr))) (fltIllegal s)

/-- A slot that waits keeps its PC at the JOIN. -/
def execJoin (h : Head) (s : State) : Host.Outcome State Fault Refusal :=
  let runs := s.holds h
  attempt s [chkTrain s, chkRegs s [], chkJoin s runs] fun s =>
    let before := s.me
    if !runs || (before.slot s.cur.alt).rcv.isNone then s
    else
      let other := before.slot (!s.cur.alt)
      let s := s.modGroup s.cur.key fun g => g.setSlot s.cur.alt { g.slot s.cur.alt with pc := s.cur.addr, waiting := true }
      if !other.live || other.waiting then (s.merge s.cur.addr).alternate before else s

/-! ### Barriers (R242) -/

/-- The barrier that a group waits at. -/
def Group.barrier (g : Group) : Option Nat :=
  match g.block, g.wake with
  | .bar n _ _, none => some n
  | _, _ => none

/-- A timing fault of a group that is blocked at an instruction issued from a slot: BAR, or a TALIGN (`align`). -/
def State.blockedFault (s : State) (tr key : Nat) (addr : Addr48) (alt align : Bool) : State :=
  let g := s.group key
  let t := s.train tr
  let r : FaultRec :=
    { team := g.team, group := g.idx, key := key, code := 10, lane := 255, tcode := 0, resume := addr, alt := alt, t2 := 0,
      p := t.clk, pvc := t.vc, align := align }
  s.setTrain tr { t with faults := t.faults ++ [r] }

/-- Once every group that has not ended waits at a BAR: release by one number, or a timing fault of each. Where an EXIT and not a BAR
completes the barrier, the release is counted from the EXIT's vc: the model's choice (notes/assumptions/97.md), since R242 counts from
the last arrival only. -/
def State.settleBarrier (s : State) (tk : Nat) : State :=
  let t := s.team tk
  let keys := (s.teamGroups tk).filter fun k => !(s.group k).ended
  let at_ := keys.filterMap fun k => (s.group k).barrier
  if keys.isEmpty || at_.length != keys.length then s
  else if at_.all fun n => n == at_.headD 0 then
    let w := (s.train t.train).clk + (if t.pair then 8 else 2)
    keys.foldl (fun s k => s.modGroup k fun g => { g with wake := some w }) s
  else
    keys.foldl (fun s k => match (s.group k).block with
      | .bar _ addr alt => s.blockedFault t.train k addr alt false
      | _ => s) s

def execBar (h : Head) (n : Nat) (s : State) : Host.Outcome State Fault Refusal :=
  attempt s [chkTrain s, chkRegs s []] fun s =>
    if s.holds h then
      (s.modGroup s.cur.key fun g => { g with block := .bar n s.cur.addr s.cur.alt, wake := none }).settleBarrier s.myTeamKey
    else s

/-- The group ends when neither slot is live and its stack is empty. -/
def State.endGroup (s : State) : State :=
  let g := s.me
  if g.pri.live || g.alt.live || !g.stack.isEmpty then s
  else
    let s := s.modGroup s.cur.key fun g => { g with ended := true }
    if s.cur.cmd then s else s.settleBarrier s.myTeamKey

def execExit (h : Head) (s : State) : Host.Outcome State Fault Refusal :=
  attempt s [chkRegs s []] fun s =>
    if !s.holds h then s
    else
      let before := s.me
      let me := before.slot s.cur.alt
      let other := before.slot (!s.cur.alt)
      let leaves := before.handler == some s.cur.alt
      let s := s.modGroup s.cur.key fun g =>
        { (g.setSlot s.cur.alt { me with mask := 0, waiting := false }) with gone := g.gone ||| me.mask }
      let s :=
        if other.live && other.waiting then s.merge other.pc
        else if other.live then s
        else
          let r := s.popSlot
          match r.2 with
          | none => s
          | some e => r.1.modGroup s.cur.key fun g => { g with pri := e, alt := { g.alt with mask := 0 } }
      let s := if leaves then s.modGroup s.cur.key fun g => { g with handler := none } else s
      (s.alternate before).endGroup

/-! ### NOP, TRIG (R241, R243) -/

def execNop (_h : Head) (_len : Nat) (s : State) : Host.Outcome State Fault Refusal := attempt s [chkRegs s []] id

/-- TRIG marks the lanes of its slot. Where it marks a lane anew, the team's stores so far are promised to a dependant: they are released at a
boundary once a launch names this one as its producer (R66; DEDUCED, notes/assumptions/54.md). -/
def execTrig (h : Head) (s : State) : Host.Outcome State Fault Refusal :=
  attempt s [chkTrain s, chkRegs s []] fun s =>
    if s.holds h then
      let mask := (s.me.slot s.cur.alt).mask
      let tk := s.myTeamKey
      let promise (t : Train) : Train := if t.trigs.contains tk then t else { t with trigs := t.trigs ++ [tk] }
      let s := if mask &&& ~~~s.me.trig = 0 then s else s.modTrain s.cur.train promise
      s.modGroup s.cur.key fun g => { g with trig := g.trig ||| mask }
    else s

/-! ### FMT and GSTAT (R244, R245) -/

/-- The bits of FMT that FSEL names; all for 0. -/
def fmtSel (fsel : Nat) : Nat :=
  let fields := [0x1F, 0x1F * 2 ^ 5, 0x1F * 2 ^ 10, 7 * 2 ^ 15, 2 ^ 18, 0x1F * 2 ^ 19, 0xF * 2 ^ 24, 0xF * 2 ^ 28]
  if fsel = 0 then 2 ^ 32 - 1
  else ((List.range 8).map fun i => if bitOf fsel i then nth 0 fields i else 0).foldl (· + ·) 0

def latFmt : Nat := 2

def execSetfmt (h : Head) (fsel : Nat) (x : VSrc) (s : State) : Host.Outcome State Fault Refusal :=
  let v := x.low s
  let sel := BitVec.ofNat 32 (fmtSel fsel)
  attempt s [chkRegs s [], check (!s.holds h || !bitOf (fmtSel fsel) 15 || fmtRnd v < 5) { code := 6 }] fun s =>
    if s.holds h then s.later latFmt (.fmt s.cur.alt sel v) else s

def execSetfmtStatus (h : Head) (x : VSrc) (s : State) : Host.Outcome State Fault Refusal :=
  attempt s [chkRegs s []] fun s => if s.holds h then s.later latFmt (.gstatClear (x.low s &&& 0x3F)) else s

def execGetfmt (h : Head) (dst : Nat) (s : State) : Host.Outcome State Fault Refusal :=
  attempt s [chkRegs s [], chkPend s [.scal dst]] fun s => s.landScalar h latFmt dst (s.fmt.zeroExtend 64)

/-! ### Time (R246 to R248) -/

/-- Two conductors of one team that issue TBASE in one vc: the one later in issue-slot order gives the value, which is the model's choice
(notes/assumptions/98.md). -/
def execTbase (h : Head) (sa : Nat) (imm : Option W32) (s : State) : Host.Outcome State Fault Refusal :=
  let x := s.scalar sa + ((imm.map fun x : W32 => x.signExtend 64).getD 0)
  attempt s [chkTrain s, chkRegs s [], chkRole s] fun s => if s.holds h then s.later 1 (.tb x) else s

/-- The train's clock at TB + o; now where that has passed. The sum is modulo 2^64 and compared unsigned with vc (DESIGN CHOICE,
notes/assumptions/105.md). -/
def State.waitClk (s : State) (o : Nat) : Nat :=
  s.now + ((s.myTeam.tb + BitVec.ofNat 64 o).toNat - s.myTrain.vc.toNat)

def execTwait (h : Head) (o : Nat) (s : State) : Host.Outcome State Fault Refusal :=
  attempt s [chkTrain s, chkRegs s []] fun s => if s.holds h then s.block (.twait (s.waitClk o)) else s

/-- Whether a waiting TALIGN of the train has other operands. -/
def State.alignDiffers (s : State) (t v : W64) : Bool :=
  s.myTrain.alignWho.any fun w => match (s.group w.1).block with
    | .talign t' v' _ => t' != t || v' != v
    | _ => false

/-- A team's second TALIGN before the alignment. -/
def State.alignedTeam (s : State) : Bool := s.myTrain.alignWho.any fun w => (s.group w.1).team == s.cur.team

/-- Differing operands: every TALIGN of the train faults at this vc, one that issues later in it too (R58). -/
def State.alignFaults (s : State) : State :=
  let who := s.myTrain.alignWho
  let now := s.now
  let s := s.raise { code := 10, align := true }
  (who.foldl (fun s w => s.blockedFault s.cur.train w.1 (BitVec.ofNat 48 w.2) (bitOf w.2 48) true) s).modTrain s.cur.train
    fun t => { t with alignWho := [], alignBad := some now }

def execTalign (h : Head) (dst sa sb : Nat) (s : State) : Host.Outcome State Fault Refusal :=
  let runs := s.holds h
  let t := s.scalar sa
  let v := s.scalar sb
  attempt s [chkTrain s, chkRegs s [], check (!runs || (s.me.conductor && !s.alignedTeam)) { code := 10 },
      if runs then chkPend s [.scal dst] else none] fun s =>
    if !runs then s
    else if s.alignDiffers t v || s.myTrain.alignBad == some s.now then s.alignFaults
    else
      ((s.owe (.scal dst)).block (.talign t v (s.boundDst dst))).modTrain s.cur.train fun x =>
        { x with alignWho := x.alignWho ++ [(s.cur.key, s.cur.addr.toNat + 2 ^ 48 * s.cur.alt.toNat)] }

/-! ### Traps (R249, R250, R363) -/

/-- TRAP and BRK: on a compute core the fault's point is the vc of the next issue, until when the group does not issue; on a
command core the next level is entered. -/
def trapping (code : Nat) (h : Head) (tcode : Nat) (s : State) : Host.Outcome State Fault Refusal :=
  attempt s [chkRegs s []] fun s =>
    if !s.holds h then s
    else if s.cur.cmd then s.enterLevel s.cur.key s.cur.next s.cur.alt { code := code, tcode := tcode }
    else
      let t := s.myTrain
      let r : FaultRec :=
        { team := s.cur.team, group := s.me.idx, key := s.cur.key, code := code, lane := 255, tcode := tcode, resume := s.cur.next,
          alt := s.cur.alt, t2 := 0, p := t.clk + 1 + h.d, pvc := t.vc + BitVec.ofNat 64 (1 + h.d) }
      (s.modGroup s.cur.key fun g => { g with halted := true }).modTrain s.cur.train fun t => { t with faults := t.faults ++ [r] }

def execTrap (h : Head) (code : Nat) (s : State) := trapping 13 h code s
def execBrk (h : Head) (code : Nat) (s : State) := trapping 12 h code s

def latVec : Nat := 2

def execTvec (h : Head) (x : VSrc) (s : State) : Host.Outcome State Fault Refusal :=
  let a : Addr48 := match x with
    | .reg n => (s.scalar n).truncate 48
    | .imm d => plusDisp s.cur.addr d
  attempt s [chkTrain s, chkRegs s []] fun s => if s.holds h then s.later latVec (.tvec a) else s

/-! ### The end of a run (R45) -/

end Sys2Proof.Machine

namespace Sys2Proof

/-- Instructions that end their run whatever happens; a taken transfer ends it too. -/
def Instr.endsRun : Instr → Bool
  | .brd _ _ _ _ _ => true
  | .join _ => true
  | .exit _ => true
  | .trap _ _ => true
  | .brk _ _ => true
  | .tret _ => true
  | .bar _ _ => true
  | .waitc _ _ => true
  | .cwait _ _ => true
  | .dwait _ _ => true
  | .drecWait _ _ _ => true
  | .yield _ _ => true
  | .twait _ _ => true
  | .talign _ _ _ _ => true
  | _ => false

end Sys2Proof
end

