-- ==== Sys2Proof/Machine/VecFloat.lean ====
section
/-!
DEFINITION. Class 2: floating point, conversions and quantisation (spec/11_vector_instructions.md R260 to R270,
spec/05_arithmetic.md R107 to R120).
-/

namespace Sys2Proof.Machine

/-- The latency of class 2, and that of QPACK and QAMAX (R131). -/
def latFloat : Nat := 6
def latQuant : Nat := 8

/-- A float instruction's checks and landing: one (value, flags) pair for each lane. -/
def floatOp (h : Head) (dst : Nat) (srcs : List Nat) (f : State → List (Nat × Nat)) (s : State) :
    Host.Outcome State Fault Refusal :=
  attempt s [chkRegs s (dst :: srcs), chkPend s [.vec dst]] fun s => s.landFloat h latFloat dst (f s)

/-- Lane numbers with a vector's values. -/
def State.laned {α : Type} (s : State) (xs : List α) : List (Nat × α) := (List.range s.me.width).zip xs

/-- Two binary32 sources, rounded once at dither place `place l`. -/
def float2 (s : State) (rm : Nat) (sat : Bool) (place : Nat → Nat) (f : Bool → Val → Val → Val × Nat)
    (as bs : List W32) : List (Nat × Nat) :=
  (s.laned (as.zip bs)).map fun p =>
    let r := roundingOf s.fmt rm sat (place p.1)
    round32 r (f r.down (val32 p.2.1) (val32 p.2.2))

/-- Three binary32 sources. -/
def float3 (s : State) (rm : Nat) (sat : Bool) (place : Nat → Nat) (as bs cs : List W32) : List (Nat × Nat) :=
  (s.laned (as.zip (bs.zip cs))).map fun p =>
    let r := roundingOf s.fmt rm sat (place p.1)
    round32 r (fmaVal r.down (val32 p.2.1) (val32 p.2.2.1) (val32 p.2.2.2))

/-- The place of a binary32 result (R261). -/
def place1 (l : Nat) : Nat := l % 32
/-- The place in a pair instruction (R261). -/
def place2 (j l : Nat) : Nat := (2 * l + j) % 32

def addOp (down : Bool) (a b : Val) : Val × Nat := sumVals down [a, b]
def subOp (down : Bool) (a b : Val) : Val × Nat := sumVals down [a, b.neg]
def mulOp (_ : Bool) (a b : Val) : Val × Nat := mulVal a b

def arith2 (h : Head) (o : F2) (f : Bool → Val → Val → Val × Nat) (s : State) : Host.Outcome State Fault Refusal :=
  floatOp h o.dst (o.sa :: o.b.vregs) (fun s => float2 s o.rm o.sat place1 f (s.me.vec o.sa) (o.b.vec s)) s

def execFadd (h : Head) (o : F2) (s : State) := arith2 h o addOp s
def execFsub (h : Head) (o : F2) (s : State) := arith2 h o subOp s
def execFmul (h : Head) (o : F2) (s : State) := arith2 h o mulOp s
def execFma (h : Head) (o : F3) (s : State) :=
  floatOp h o.dst [o.sa, o.sb, o.sc]
    (fun s => float3 s o.rm o.sat place1 (s.me.vec o.sa) (s.me.vec o.sb) (s.me.vec o.sc)) s

/-- FMIN and FMAX (R116). -/
def minMaxOp (h : Head) (o : F2) (wantMax : Bool) (s : State) : Host.Outcome State Fault Refusal :=
  floatOp h o.dst (o.sa :: o.b.vregs)
    (fun s => ((s.me.vec o.sa).zip (o.b.vec s)).map fun p => (minMax wantMax p.1.toNat p.2.toNat, 0)) s
def execFmin (h : Head) (o : F2) (s : State) := minMaxOp h o false s
def execFmax (h : Head) (o : F2) (s : State) := minMaxOp h o true s

/-- FCMP's relation and flag (R264). -/
def floatRel (cc : Nat) (a b : Val) : Bool × Nat :=
  let un := a.isNan || b.isNan
  let o := cmpVal a b
  match cc with
  | 0 => (!un && o == .eq, 0)
  | 1 => (un || o != .eq, 0)
  | 2 => (!un && o == .lt, if un then flagNV else 0)
  | 3 => (!un && o != .gt, if un then flagNV else 0)
  | 4 => (!un && o == .gt, if un then flagNV else 0)
  | 5 => (!un && o != .lt, if un then flagNV else 0)
  | 6 => (un, 0)
  | _ => (!un, 0)

def execFcmp (h : Head) (cc : Nat) (o : F2) (s : State) : Host.Outcome State Fault Refusal :=
  attempt s [chkRegs s (o.sa :: o.b.vregs), chkPend s [.mask o.dst]] fun s =>
    let rs := (s.me.vec o.sa).zipWith (fun a b => floatRel cc (val32 a) (val32 b)) (o.b.vec s)
    (s.landMask h latFloat o.dst (rs.map (·.1))).landFlags latFloat (flagsOf s.me.width (s.active h) (rs.map (·.2)))

/-- FABS (R261): a NaN becomes the canonical NaN. -/
def execFabs (h : Head) (neg : Bool) (dst sa : Nat) (s : State) :=
  floatOp h dst [sa] (fun s => (s.me.vec sa).map fun a =>
    (if (val32 a).isNan then fp32.canon
      else if neg then (a ^^^ 0x80000000).toNat else (a &&& 0x7FFFFFFF).toNat, 0)) s

/-- FRND (R261). -/
def execFrnd (h : Head) (o : F1) (s : State) :=
  floatOp h o.dst [o.sa] (fun s => (s.laned (s.me.vec o.sa)).map fun p =>
    rndIntegral (roundingOf s.fmt o.rm false (place1 p.1)) p.2.toNat) s

/-- FCVT to a format (R265): element J of the lane. -/
def execFcvt (h : Head) (o : Cvt) (s : State) :=
  let e := fmtPositions o.f
  floatOp h o.dst [o.sa] (fun s => (s.laned ((s.me.vec o.sa).zip (s.me.vec o.dst))).map fun p =>
    let r := (fmtOf o.f).round (roundingOf s.fmt o.rm o.sat ((p.1 * e + o.j) % 32)) (val32 p.2.1)
    ((putElem (32 / e) o.j p.2.2 r.1).toNat, r.2)) s

/-- FCVT from a format (R265), exact. -/
def execFcvtToF32 (h : Head) (o : Cvt) (s : State) :=
  let e := fmtPositions o.f
  floatOp h o.dst [o.sa] (fun s => (s.me.vec o.sa).map fun a =>
    fp32.round rne ((fmtOf o.f).value (bitsOf a.toNat (32 / e * o.j) (fmtOf o.f).w))) s

/-- The range of an integer type (R266). -/
def intRange (it : Nat) : Int × Int :=
  let w := 32 / intPositions it
  if it % 2 = 0 then (-(2 ^ (w - 1)), 2 ^ (w - 1) - 1) else (0, 2 ^ w - 1)

/-- FCVTI (R117, R266). -/
def execFcvti (h : Head) (o : Cvt) (s : State) :=
  let e := intPositions o.f
  floatOp h o.dst [o.sa] (fun s => (s.laned ((s.me.vec o.sa).zip (s.me.vec o.dst))).map fun p =>
    let k := toInt (roundingOf s.fmt o.rm false ((p.1 * e + o.j) % 32)) (intRange o.f).1 (intRange o.f).2 (val32 p.2.1)
    ((putElem (32 / e) o.j p.2.2 (wrapOf (32 / e) k.1)).toNat, k.2)) s

/-- ICVTF (R266). -/
def execIcvtf (h : Head) (o : Cvt) (s : State) :=
  let w := 32 / intPositions o.f
  floatOp h o.dst [o.sa] (fun s => (s.laned (s.me.vec o.sa)).map fun p =>
    let x := bitsOf p.2.toNat (w * o.j) w
    fp32.round (roundingOf s.fmt o.rm false (place1 p.1)) (Val.ofInt (if o.f % 2 = 0 then signedOf w x else x))) s

def execFclass (h : Head) (dst sa : Nat) (s : State) :=
  floatOp h dst [sa] (fun s => (s.me.vec sa).map fun a => (classOf a.toNat, 0)) s

/-- FSCALE (R261): b is a signed 32-bit integer. -/
def execFscale (h : Head) (o : F2) (s : State) :=
  floatOp h o.dst (o.sa :: o.b.vregs) (fun s => (s.laned ((s.me.vec o.sa).zip (o.b.vec s))).map fun p =>
    fp32.round (roundingOf s.fmt o.rm o.sat (place1 p.1)) ((val32 p.2.1).scale p.2.2.toInt)) s

/-- FDOT2's exact sum (R115, R263). -/
def dot2Val (down half : Bool) (a b c : W32) : Val × Nat :=
  let t := if half then fp16 else bf16
  let el (x : W32) (j : Nat) : Val := t.value (bitsOf x.toNat (16 * j) 16)
  let p0 := mulVal (el a 0) (el b 0)
  let p1 := mulVal (el a 1) (el b 1)
  if p0.2 != 0 || p1.2 != 0 then (.nan, flagNV) else sumVals down [p0.1, p1.1, val32 c]

def execFdot2 (h : Head) (half : Bool) (o : F3) (s : State) :=
  floatOp h o.dst [o.sa, o.sb, o.sc] (fun s =>
    (s.laned ((s.me.vec o.sa).zip ((s.me.vec o.sb).zip (s.me.vec o.sc)))).map fun p =>
      let r := roundingOf s.fmt o.rm o.sat (place1 p.1)
      round32 r (dot2Val r.down half p.2.1 p.2.2.1 p.2.2.2)) s

/-- Both registers of a pair, each rounded on its own (R262). -/
def pairOp (h : Head) (dst : Nat) (srcs : List Nat) (f : State → Nat → List (Nat × Nat)) (s : State) :
    Host.Outcome State Fault Refusal :=
  attempt s [chkRegs s ((dst :: srcs).flatMap fun r => [r, r + 1]), chkPend s [.vec dst, .vec (dst + 1)]] fun s =>
    (s.landFloat h latFloat dst (f s 0)).landFloat h latFloat (dst + 1) (f s 1)

def vsrcReg : VSrc → Nat
  | .reg n => n
  | .imm _ => 0

def arithPair (h : Head) (o : F2) (f : Bool → Val → Val → Val × Nat) (s : State) : Host.Outcome State Fault Refusal :=
  pairOp h o.dst [o.sa, vsrcReg o.b]
    (fun s j => float2 s o.rm o.sat (place2 j) f (s.me.vec (o.sa + j)) (s.me.vec (vsrcReg o.b + j))) s

def execFadd2 (h : Head) (o : F2) (s : State) := arithPair h o addOp s
def execFmul2 (h : Head) (o : F2) (s : State) := arithPair h o mulOp s
def execFma2 (h : Head) (o : F3) (s : State) :=
  pairOp h o.dst [o.sa, o.sb, o.sc]
    (fun s j => float3 s o.rm o.sat (place2 j) (s.me.vec (o.sa + j)) (s.me.vec (o.sb + j)) (s.me.vec (o.sc + j))) s

/-! ### Quantisation (R267 to R270) -/

/-- The lanes of a block of `b` lanes with their values, active ones only. -/
def blockLanes {α : Type} (s : State) (m : W64) (b k : Nat) (xs : List α) : List (Nat × α) :=
  (pick s.me.width m xs).filter fun p => p.1 / b == k

/-- The amax record of some values (R267). -/
def amaxRecord (xs : List Nat) : Nat :=
  if xs.any fun x => (fp32.value x).isNan then fp32.canon
  else
    let fin := (xs.filter fun x => !(fp32.value x).isInf).map (· % 2 ^ 31)
    fin.foldl max 0 + (if xs.any fun x => (fp32.value x).isInf then 2 ^ 31 else 0)

/-- QAMAX (R267). -/
def execQamax (h : Head) (sub8 : Bool) (dst sa : Nat) (s : State) : Host.Outcome State Fault Refusal :=
  attempt s [chkRegs s [dst, sa], chkPend s [.vec dst]] fun s =>
    let b := if sub8 then 8 else 32
    let recs := (List.range (ceilDiv s.me.width b)).map fun k =>
      amaxRecord ((blockLanes s (s.active h) b k (s.me.vec sa)).map fun p => p.2.toNat)
    s.landVec h latQuant dst ((List.range s.me.width).map fun l => BitVec.ofNat 32 (nth 0 recs (l / b)))

/-- A block's QSCALE result and flags (R268). A NaN among the b lanes of a sub-block whose amax record is a number fits no shift, so σ is
0 there: R120 does not say how it counts (DESIGN CHOICE, notes/assumptions/73.md). -/
def blockScale (code : Nat) (s : State) (m : W64) (as bs : List W32) (k : Nat) : Nat × Nat :=
  match (blockLanes s m 32 k as).head? with
  | none => (0, 0)
  | some p =>
    if isMx code then mxScale code p.2.toNat
    else
      let live := blockLanes s m 32 k bs
      let mx := (List.range 4).map fun q =>
        ((live.filter fun p => p.1 % 32 / 8 == q).map fun p => p.2.toNat % 2 ^ 31).foldl max 0
      let r := xbScale code p.2.toNat mx
      (r.1 + 256 * r.2.1, r.2.2)

/-- QSCALE (R268). -/
def execQscale (h : Head) (dst sa sb : Nat) (s : State) : Host.Outcome State Fault Refusal :=
  let q := fmtQ s.fmt
  attempt s [chkRegs s [dst, sa, sb], check (!s.execs h || (11 ≤ q && q ≤ 19)) { code := 6 }, chkPend s [.vec dst]] fun s =>
    let rs := (List.range (ceilDiv s.me.width 32)).map (blockScale q s (s.active h) (s.me.vec sa) (s.me.vec sb))
    s.landFloat h latFloat dst ((List.range s.me.width).map fun l => nth (0, 0) rs (l / 32))

/-- t and the lanes' element index for a lane (R269). -/
def packPlace (w e part l : Nat) : Nat := part % e * (w / e) + l / e

/-- The scale code and sub-block shift that a scale lane gives lane l (R269). -/
def scaleOf (l : Nat) (b : W32) : Nat × Nat := (bitsOf b.toNat 0 8, bitsOf b.toNat (8 + 2 * (l % 32 / 8)) 2)

/-- The dither place of QPACK (R269). -/
def packDither (code e t j l : Nat) : Nat := if isMx code || isXb code then l % 32 else (t * e + j) % 32

/-- QPACK (R269). -/
def execQpack (h : Head) (part : Nat) (eot : Bool) (o : F2) (s : State) : Host.Outcome State Fault Refusal :=
  let q := fmtQ s.fmt
  let e := quantElems q
  let sb := vsrcReg o.b
  attempt s [chkRegs s [o.dst, o.sa, sb], check (!s.execs h || quantOk q) { code := 6 }, chkPend s [.vec o.dst]] fun s =>
    let w := s.me.width
    let m := s.active h
    let outs := (pick w m ((s.me.vec o.sa).zip (s.me.vec sb))).map fun p =>
      let t := packPlace w e part p.1
      let j := p.1 % e
      let sc := scaleOf p.1 p.2.2
      let r := quantise q (roundingOf s.fmt o.rm o.sat (packDither q e t j p.1)) p.2.1.toNat sc.1 sc.2
      (t, j, r)
    let old := s.me.vec o.dst
    let lanes := (List.range w).filterMap fun t =>
      let mine := outs.filter fun x => x.1 == t
      if mine.isEmpty then none
      else some (t, mine.foldl (fun x y => putElem (32 / e) y.2.1 x y.2.2.1) (nth 0 old t))
    let fl := outs.foldl (fun acc x => orFlags acc x.2.2.2) 0
    let s1 := (s.later latQuant (.vec o.dst lanes)).landFlags latQuant fl
    if eot && modeOf s.fmt o.rm == 4 && s.execs h then s1.later latQuant (.ph s.cur.alt) else s1

/-- QUNPACK (R270). -/
def execQunpack (h : Head) (qf part : Nat) (o : F2) (s : State) : Host.Outcome State Fault Refusal :=
  let e := quantElems qf
  let sb := vsrcReg o.b
  attempt s [chkRegs s [o.dst, o.sa, sb], check (!s.execs h || quantOk qf) { code := 6 }, chkPend s [.vec o.dst]] fun s =>
    let w := s.me.width
    let as := s.me.vec o.sa
    s.landFloat h latFloat o.dst ((s.laned (s.me.vec sb)).map fun p =>
      let x := nth 0 as (packPlace w e part p.1)
      let sc := scaleOf p.1 p.2
      dequantise qf (roundingOf s.fmt o.rm o.sat (place1 p.1)) (bitsOf x.toNat (32 / e * (p.1 % e)) (32 / e)) sc.1 sc.2)

end Sys2Proof.Machine
end

