-- ==== Sys2Proof/Machine/VecInt.lean ====
section
/-!
DEFINITION. Class 1: vector integer and mask instructions (spec/11_vector_instructions.md R251 to R259).
-/

namespace Sys2Proof.Machine

def latInt : Nat := 4
def latIntMul : Nat := 6

/-- A vector instruction on two sources, lane by lane. -/
def lanes2 (h : Head) (o : V2) (lat : Nat) (f : W32 → W32 → W32) (s : State) : Host.Outcome State Fault Refusal :=
  attempt s [chkRegs s ([o.dst, o.sa] ++ o.b.vregs), chkPend s [.vec o.dst]] fun s =>
    s.landVec h lat o.dst ((s.me.vec o.sa).zipWith f (o.b.vec s))

/-- The same, element by element: `f` takes the width and the elements. -/
def elems2 (h : Head) (o : V2) (lat : Nat) (f : Nat → Nat → Nat → Nat) (s : State) : Host.Outcome State Fault Refusal :=
  let w := elemWidth o.pk
  lanes2 h o lat (fun a b => joinElems w ((laneElems o.pk a).zipWith (f w) (laneElems o.pk b))) s

/-- A vector instruction on one source, lane by lane. -/
def lanes1 (h : Head) (dst sa lat : Nat) (f : W32 → W32) (s : State) : Host.Outcome State Fault Refusal :=
  attempt s [chkRegs s [dst, sa], chkPend s [.vec dst]] fun s => s.landVec h lat dst ((s.me.vec sa).map f)

/-- The same, element by element. -/
def elems1 (h : Head) (o : V1) (f : Nat → Nat → Nat) (s : State) : Host.Outcome State Fault Refusal :=
  let w := elemWidth o.pk
  lanes1 h o.dst o.sa latInt (fun a => joinElems w ((laneElems o.pk a).map (f w))) s

/-- An element as the integer that U selects. -/
def elemInt (u : Bool) (w x : Nat) : Int := if u then (x : Int) else signedOf w x

/-- A sum clamped to the w-bit range (R257, IADDS). -/
def clampElem (u : Bool) (w : Nat) (x : Int) : Nat :=
  let lo : Int := if u then 0 else -(2 ^ (w - 1))
  let hi : Int := if u then 2 ^ w - 1 else 2 ^ (w - 1) - 1
  wrapOf w (max lo (min hi x))

/-- The shift amount y[log2 w - 1 : 0]. -/
def elemShift (w y : Nat) : Nat := y % w

def execIadd (h : Head) (o : V2) (s : State) := elems2 h o latInt (fun _ x y => x + y) s
def execIsub (h : Head) (o : V2) (s : State) := elems2 h o latInt (fun w x y => x + 2 ^ w - y) s
def execImul (h : Head) (o : V2) (s : State) := elems2 h o latIntMul (fun _ x y => x * y) s
def execImulh (h : Head) (o : V2) (s : State) :=
  elems2 h o latIntMul (fun w x y => wrapOf w (elemInt o.u w x * elemInt o.u w y / (2 ^ w : Nat))) s
def execImad (h : Head) (o : V3) (s : State) : Host.Outcome State Fault Refusal :=
  attempt s [chkRegs s [o.dst, o.sa, o.sb, o.sc], chkPend s [.vec o.dst]] fun s =>
    let w := elemWidth o.pk
    let mul (a b : W32) : List Nat := (laneElems o.pk a).zipWith (fun x y => x * y) (laneElems o.pk b)
    let ps := (s.me.vec o.sa).zipWith mul (s.me.vec o.sb)
    s.landVec h latIntMul o.dst
      (ps.zipWith (fun p c => joinElems w (p.zipWith (fun x z => x + z) (laneElems o.pk c))) (s.me.vec o.sc))
def execIabs (h : Head) (o : V1) (s : State) := elems1 h o (fun w x => wrapOf w (signedOf w x).natAbs) s
def execIabsd (h : Head) (o : V2) (s : State) :=
  elems2 h o latInt (fun w x y => (elemInt o.u w x - elemInt o.u w y).natAbs) s
def execImin (h : Head) (o : V2) (s : State) := elems2 h o latInt (fun w x y => if signedOf w y < signedOf w x then y else x) s
def execImax (h : Head) (o : V2) (s : State) := elems2 h o latInt (fun w x y => if signedOf w y > signedOf w x then y else x) s
def execIminu (h : Head) (o : V2) (s : State) := elems2 h o latInt (fun _ x y => if y < x then y else x) s
def execImaxu (h : Head) (o : V2) (s : State) := elems2 h o latInt (fun _ x y => if y > x then y else x) s

/-- Whether y wins over x (R258: a tie keeps x). -/
def beats (u : Bool) (w x y : Nat) : Bool := elemInt u w y > elemInt u w x

/-- Bits l·e + j of the active lanes, from 64·SEG (R258, R274). -/
def segBallot (width : Nat) (m : W64) (seg : Nat) (bits : List (List Bool)) : W64 :=
  let live := ((List.range width).zip bits).map fun p => p.2.map fun b => b && bitAt m p.1
  ballot ((live.flatten.drop (64 * seg)).take 64)

/-- IMAXB (R258). -/
def execImaxb (h : Head) (dec : Decision) (o : V2) (s : State) : Host.Outcome State Fault Refusal :=
  let d : Dst := match dec with | .mask m _ => .mask m | .scalar n _ => .scal n
  attempt s [chkRegs s ([o.dst, o.sa] ++ o.b.vregs), chkPend s [.vec o.dst, d]] fun s =>
    let w := elemWidth o.pk
    let won (a b : W32) : List Bool := (laneElems o.pk a).zipWith (beats o.u w) (laneElems o.pk b)
    let best (x y : Nat) : Nat := if beats o.u w x y then y else x
    let as := s.me.vec o.sa
    let bs := o.b.vec s
    let wins := as.zipWith won bs
    let t := s.landVec h latInt o.dst
      (as.zipWith (fun a b => joinElems w ((laneElems o.pk a).zipWith best (laneElems o.pk b))) bs)
    match dec with
    | .mask m el => t.landMask h latInt m (wins.map fun xs => nth false xs el)
    | .scalar n seg => t.landLaneScalar h latInt n (segBallot s.me.width (s.active h) seg wins)

def execIadds (h : Head) (o : V2) (s : State) :=
  elems2 h o latInt (fun w x y => clampElem o.u w (elemInt o.u w x + elemInt o.u w y)) s
def execIsubs (h : Head) (o : V2) (s : State) :=
  elems2 h o latInt (fun w x y => clampElem o.u w (elemInt o.u w x - elemInt o.u w y)) s
def execIand (h : Head) (o : V2) (s : State) := lanes2 h o latInt (fun a b => a &&& b) s
def execIor (h : Head) (o : V2) (s : State) := lanes2 h o latInt (fun a b => a ||| b) s
def execIxor (h : Head) (o : V2) (s : State) := lanes2 h o latInt (fun a b => a ^^^ b) s
def execInot (h : Head) (o : V1) (s : State) := lanes1 h o.dst o.sa latInt (fun a => ~~~a) s
def execIshl (h : Head) (o : V2) (s : State) := elems2 h o latInt (fun w x y => x * 2 ^ elemShift w y) s
def execIshr (h : Head) (o : V2) (s : State) := elems2 h o latInt (fun w x y => x / 2 ^ elemShift w y) s
def execIsra (h : Head) (o : V2) (s : State) :=
  elems2 h o latInt (fun w x y => wrapOf w (signedOf w x / (2 ^ elemShift w y : Nat))) s

/-- ICMP: mask bit l takes the relation of element ESEL (R257). -/
def execIcmp (h : Head) (cc el : Nat) (o : V2) (s : State) : Host.Outcome State Fault Refusal :=
  attempt s [chkRegs s (o.sa :: o.b.vregs), chkPend s [.mask o.dst]] fun s =>
    let w := elemWidth o.pk
    let rel (a b : W32) : Bool := related w cc (nth 0 (laneElems o.pk a) el) (nth 0 (laneElems o.pk b) el)
    s.landMask h latInt o.dst ((s.me.vec o.sa).zipWith rel (o.b.vec s))

/-- ISEL reads its mask at issue (R257). -/
def execIsel (h : Head) (sm : Nat) (sn : Bool) (o : V2) (s : State) : Host.Outcome State Fault Refusal :=
  attempt s [chkRegs s ([o.dst, o.sa] ++ o.b.vregs), chkPend s [.vec o.dst]] fun s =>
    let m := s.me.readMask sm
    let ab := (s.me.vec o.sa).zip (o.b.vec s)
    s.landVec h latInt o.dst (((List.range s.me.width).zip ab).map fun p => if bitAt m p.1 != sn then p.2.1 else p.2.2)

/-- IMOV: a vector, a scalar's [31:0], or %lane, each lane's own index (R254, R257). -/
def execImov (h : Head) (dst : Nat) (x : MixSrc) (s : State) : Host.Outcome State Fault Refusal :=
  attempt s [chkRegs s (dst :: (match x with | .vec n => [n] | .other _ => [])), chkPend s [.vec dst]] fun s =>
    s.landVec h latInt dst (match x with
      | .vec n => s.me.vec n
      | .other n =>
        if n = 128 then (List.range s.me.width).map (BitVec.ofNat 32)
        else List.replicate s.me.width ((s.scalar n).truncate 32))

/-- IMOVI (R259). -/
def execImovi (h : Head) (dst : Nat) (x : MovImm) (s : State) : Host.Outcome State Fault Refusal :=
  attempt s [chkRegs s [dst], chkPend s [.vec dst]] fun s =>
    s.landVec h latInt dst (List.replicate s.me.width (x.val.truncate 32))

def execIpopc (h : Head) (o : V1) (s : State) := elems1 h o popCount s
def execIclz (h : Head) (o : V1) (s : State) := elems1 h o leadingZeros s
def execIbrev (h : Head) (o : V1) (s : State) := elems1 h o reverseBits s

/-- IBFX (R259). -/
def execIbfx (h : Head) (u : Bool) (pos wm1 : Nat) (o : V1) (s : State) :=
  lanes1 h o.dst o.sa latInt (fun a =>
    let f := bitsOf a.toNat pos (wm1 + 1)
    BitVec.ofNat 32 (if u then f else wrapOf 32 (signedOf (wm1 + 1) f))) s

/-- IBFI (R259). -/
def execIbfi (h : Head) (pos wm1 : Nat) (o : V2) (s : State) :=
  lanes2 h o latInt (fun a b => BitVec.ofNat 32 (putBits b.toNat pos (wm1 + 1) a.toNat)) s

/-- A mask operation on the masks as they read at issue. -/
def masks2 (h : Head) (o : M2) (f : W64 → W64 → W64) (s : State) : Host.Outcome State Fault Refusal :=
  attempt s [chkRegs s [], chkPend s [.mask o.dst]] fun s =>
    let b := s.me.readMask o.sb
    s.later latInt (.mask o.dst (s.active h) (f (s.me.readMask o.sa) (if o.nb then ~~~b else b)))

def execMand (h : Head) (o : M2) (s : State) := masks2 h o (fun a b => a &&& b) s
def execMor (h : Head) (o : M2) (s : State) := masks2 h o (fun a b => a ||| b) s
def execMxor (h : Head) (o : M2) (s : State) := masks2 h o (fun a b => a ^^^ b) s

/-- MPOP counts the active lanes whose mask bit is set (R257). -/
def execMpop (h : Head) (dst sa : Nat) (s : State) : Host.Outcome State Fault Refusal :=
  attempt s [chkRegs s [], chkPend s [.scal dst]] fun s =>
    s.landLaneScalar h latInt dst (BitVec.ofNat 64 (lanesOf s.me.width (s.active h &&& s.me.readMask sa)).length)

end Sys2Proof.Machine
end

