-- ==== Sys2Proof/Machine/CrossLane.lean ====
section
/-!
DEFINITION. Class 3: cross-lane instructions and the special-function unit (spec/11_vector_instructions.md R271 to R276).
-/

namespace Sys2Proof.Machine

/-- The latency of the cross-lane instructions (R271). -/
def latCross : Nat := 8

/-- A lane of a vector, its index reduced modulo the width (R251). -/
def laneOf (xs : List W32) (w i : Nat) : W32 := nth 0 xs (i % w)

/-- A vector whose lane l is lane `f l` of SA. -/
def gather (h : Head) (dst sa : Nat) (srcs : List Nat) (f : State → List Nat) (s : State) :
    Host.Outcome State Fault Refusal :=
  attempt s [chkRegs s (dst :: sa :: srcs), chkPend s [.vec dst]] fun s =>
    s.landVec h latCross dst ((f s).map (laneOf (s.me.vec sa) s.me.width))

def execShfl (h : Head) (dst sa sb : Nat) (s : State) :=
  gather h dst sa [sb] (fun s => (s.me.vec sb).map BitVec.toNat) s
def execShflImm (h : Head) (dst sa : Nat) (imm : W32) (s : State) :=
  gather h dst sa [] (fun s => (List.range s.me.width).map (· + imm.toNat)) s
def execShflx (h : Head) (dst sa : Nat) (b : VSrc) (s : State) :=
  gather h dst sa b.vregs (fun s => (s.laned (b.vec s)).map fun p => (BitVec.ofNat 32 p.1 ^^^ p.2).toNat) s

/-- PUSHL (R272): the whole register lands. -/
def execPushl (h : Head) (dst sa sb : Nat) (s : State) : Host.Outcome State Fault Refusal :=
  attempt s [chkRegs s [dst, sa, sb], chkPend s [.vec dst]] fun s =>
    let w := s.me.width
    let src := pick w (s.active h) ((s.me.vec sa).zip (s.me.vec sb))
    let base := (s.laned (s.me.vec dst)).map fun p =>
      (p.1, src.foldl (fun x q => if q.2.2.toNat % w = p.1 then q.2.1 else x) p.2)
    s.later latCross (.vec dst (if s.execs h then base else []))

def execBcast (h : Head) (dst sa : Nat) (b : VSrc) (s : State) :=
  gather h dst sa [] (fun s => List.replicate s.me.width (b.low s).toNat) s

/-- GETLN (R271). -/
def execGetln (h : Head) (dst sa : Nat) (b : VSrc) (s : State) : Host.Outcome State Fault Refusal :=
  attempt s [chkRegs s [sa], chkPend s [.scal dst]] fun s =>
    s.landLaneScalar h latCross dst ((laneOf (s.me.vec sa) s.me.width (b.low s).toNat).zeroExtend 64)

/-- SETLN (R271): the target lane need not be active. -/
def execSetln (h : Head) (dst sa : Nat) (b : VSrc) (s : State) : Host.Outcome State Fault Refusal :=
  attempt s [chkRegs s [dst], chkPend s [.vec dst]] fun s =>
    s.later latCross (.vec dst
      (if s.execs h then [((b.low s).toNat % s.me.width, (s.scalar sa).truncate 32)] else []))

/-! ### RED and SCAN (R273) -/

/-- The identity of an operation. -/
def redIdentity (opk : Nat) : Nat :=
  nth 0 [0, 0x7FFFFFFF, 0x80000000, 0xFFFFFFFF, 0, 0xFFFFFFFF, 0, 0, 0x80000000, 0x7F800000, 0xFF800000] opk

/-- One step on 32-bit values: the result and the flags. -/
def redStep (opk : Nat) (r : Rounding) (x y : Nat) : Nat × Nat :=
  match opk with
  | 0 => ((x + y) % 2 ^ 32, 0)
  | 1 => (if signedOf 32 y < signedOf 32 x then y else x, 0)
  | 2 => (if signedOf 32 y > signedOf 32 x then y else x, 0)
  | 3 => (min x y, 0)
  | 4 => (max x y, 0)
  | 5 => (x &&& y, 0)
  | 6 => (x ||| y, 0)
  | 7 => (x ^^^ y, 0)
  | 8 => round32 r (sumVals r.down [fp32.value x, fp32.value y])
  | 9 => (minMax false x y, 0)
  | _ => (minMax true x y, 0)

/-- A delivered result: a NaN of a float operation is canonical. -/
def redOut (opk x : Nat) : Nat := if 8 ≤ opk && (fp32.value x).isNan then fp32.canon else x

/-- The running results of the active lanes: lane, value before it (none for the first), value with it, flags so far. -/
def redRun (opk rm : Nat) (fmt : W32) : Option Nat → Nat → List (Nat × W32) → List (Nat × Option Nat × Nat × Nat)
  | _, _, [] => []
  | none, fl, p :: ps => (p.1, none, p.2.toNat, fl) :: redRun opk rm fmt (some p.2.toNat) fl ps
  | some x, fl, p :: ps =>
    let k := redStep opk (roundingOf fmt rm false (p.1 % 32)) x p.2.toNat
    (p.1, some x, k.1, orFlags fl k.2) :: redRun opk rm fmt (some k.1) (orFlags fl k.2) ps

def State.redLanes (s : State) (h : Head) (opk rm sa : Nat) : List (Nat × Option Nat × Nat × Nat) :=
  redRun opk rm s.fmt none 0 (pick s.me.width (s.active h) (s.me.vec sa))

/-- RED (R273). -/
def execRed (h : Head) (opk rm dst sa : Nat) (s : State) : Host.Outcome State Fault Refusal :=
  attempt s [chkRegs s [sa], chkPend s [.scal dst]] fun s =>
    let r := ((s.redLanes h opk rm sa).getLast?).getD (0, none, 0, 0)
    (s.landLaneScalar h latCross dst (BitVec.ofNat 64 (redOut opk r.2.2.1))).landFlags latCross r.2.2.2

/-- SCAN (R273); the step whose result .excl drops is not made and gives no flag (DEDUCED, notes/assumptions/13.md). -/
def execScan (h : Head) (opk rm : Nat) (exc : Bool) (dst sa : Nat) (s : State) : Host.Outcome State Fault Refusal :=
  attempt s [chkRegs s [dst, sa], chkPend s [.vec dst]] fun s =>
    let rs := s.redLanes h opk rm sa
    let out := rs.map fun r =>
      let x := if exc then (match r.2.1 with | none => redIdentity opk | some y => redOut opk y) else redOut opk r.2.2.1
      (r.1, BitVec.ofNat 32 x)
    let fl := (((if exc then rs.dropLast else rs).getLast?).map fun r => r.2.2.2).getD 0
    (s.later latCross (.vec dst out)).landFlags latCross fl

/-- VOTE (R274). -/
def execVote (h : Head) (pk seg dst : Nat) (x : MixSrc) (s : State) : Host.Outcome State Fault Refusal :=
  attempt s [chkRegs s (match x with | .vec n => [n] | .other _ => []), chkPend s [.scal dst]] fun s =>
    s.landLaneScalar h latCross dst (match x with
      | .vec n => segBallot s.me.width (s.active h) seg ((s.me.vec n).map fun a => (laneElems pk a).map (· != 0))
      | .other m => s.me.readMask m &&& s.active h)

/-! ### The special-function unit (R275, R276) -/

/-- The latency from an entry's start (R131). -/
def latSfu : Nat := 24

/-- The 64 places of column S, checked whatever the active set (R276). A restored team's entries take places from the boundary of its
restore on, though they start only later: the rule does not say (DESIGN CHOICE, notes/assumptions/106.md). -/
def chkSfu (s : State) : Option Flt :=
  check (s.cur.cmd || (s.grid.sfu.filter fun e => e.core == s.me.core && e.train == s.cur.train).length < 64) { code := 10 }

/-- The first vc from `now` on at which no entry of a core's column S starts (R276). -/
def State.sfuStart (s : State) (core now : Nat) : Nat :=
  let mine := s.grid.sfu.filter fun e => e.core == core && e.train == s.cur.train
  let taken (v : Nat) : Bool := (s.core core).lastSfu == some v || mine.any fun e => e.start == v
  ((List.range (mine.length + 2)).map (now + ·)).find? (fun v => !taken v) |>.getD now

/-- An entry of column S: it starts at the first vc at which no earlier entry starts; a command core, which has no
column, takes its result at once (R363). -/
def State.enterSfu (s : State) (h : Head) (dst : Nat) (rs : List (Nat × Nat)) : State :=
  let m := s.active h
  let lanes := pick s.me.width m (rs.map fun r => BitVec.ofNat 32 r.1)
  let fl := flagsOf s.me.width m (rs.map (·.2))
  if s.cur.cmd then (s.later latSfu (.vec dst lanes)).landFlags latSfu fl
  else
    let e : SfuEntry :=
      { train := s.cur.train, core := s.me.core, start := s.sfuStart s.me.core s.now, key := s.cur.key, dst := dst, lanes := lanes,
        flags := BitVec.ofNat 32 fl }
    let s := s.owe (.vec dst)
    { s with grid := { s.grid with sfu := s.grid.sfu ++ [e] } }

/-- One SFU instruction. -/
def sfuOp (h : Head) (o : F1) (op : SfuOp) (s : State) : Host.Outcome State Fault Refusal :=
  attempt s [chkRegs s [o.dst, o.sa], chkSfu s, chkPend s [.vec o.dst]] fun s =>
    s.enterSfu h o.dst ((s.laned (s.me.vec o.sa)).map fun p =>
      if bitAt (s.active h) p.1 then round32 (roundingOf s.fmt o.rm o.sat (place1 p.1)) (op.value (val32 p.2)) else (0, 0))

def execFrcp (h : Head) (o : F1) (s : State) := sfuOp h o .rcp s
def execFrsq (h : Head) (o : F1) (s : State) := sfuOp h o .rsq s
def execFsqrt (h : Head) (o : F1) (s : State) := sfuOp h o .sqrt s
def execFexp2 (h : Head) (o : F1) (s : State) := sfuOp h o .exp2 s
def execFlog2 (h : Head) (o : F1) (s : State) := sfuOp h o .log2 s
def execFsin (h : Head) (o : F1) (s : State) := sfuOp h o .sin s
def execFcos (h : Head) (o : F1) (s : State) := sfuOp h o .cos s
def execFtanh (h : Head) (o : F1) (s : State) := sfuOp h o .tanh s
def execFdiv (h : Head) (o : F2) (s : State) : Host.Outcome State Fault Refusal :=
  let sb := vsrcReg o.b
  attempt s [chkRegs s [o.dst, o.sa, sb], chkSfu s, chkPend s [.vec o.dst]] fun s =>
    s.enterSfu h o.dst ((s.laned ((s.me.vec o.sa).zip (s.me.vec sb))).map fun p =>
      if bitAt (s.active h) p.1 then
        round32 (roundingOf s.fmt o.rm o.sat (place1 p.1)) (divVal (val32 p.2.1) (val32 p.2.2)) else (0, 0))

end Sys2Proof.Machine
end

