-- ==== Sys2Proof/Machine/Engine.lean ====
section
/-!
DEFINITION. The geometry of engine commands: layout words, bank permutation, boxes, espalier walks, and what each command reads,
writes, occupies and takes (spec/03_programmer_state.md R78, R81, R82, spec/13_engine_instructions.md R304, R307, R312 to R332).
-/

namespace Sys2Proof.Machine

/-! ### Layout words and the bank permutation (R81, R82) -/

structure Layout where
  base : Nat
  str : List Nat
  bpm : Nat
  bad : Bool
deriving DecidableEq, Repr

def layoutOf (w0 w1 w2 : W64) : Layout :=
  let x := fieldOf w0 0 32 + 2 ^ 32 * fieldOf w1 0 32 + 2 ^ 64 * fieldOf w2 0 32
  { base := bitsOf x 0 24, str := [bitsOf x 24 18, bitsOf x 42 18, bitsOf x 60 18], bpm := bitsOf x 78 4, bad := bitsOf x 82 14 != 0 }

def bpmK (mode : Nat) : Nat := nth 0 [0, 1, 1, 1, 1, 1, 1, 2, 2, 2, 2, 2, 3, 3, 3, 4] mode
def bpmS (mode : Nat) : Nat := nth 0 [0, 1, 2, 3, 4, 5, 6, 2, 3, 4, 5, 6, 3, 4, 5, 4] mode

/-- A pool address under a mode. -/
def permute (mode a : Nat) : Nat :=
  let l := a / 64
  64 * (l ^^^ (l / 2 ^ bpmS mode % 2 ^ bpmK mode)) + a % 64

/-- A range cut at multiples of `blk`, by fuel. -/
def chop (blk : Nat) : Nat → Nat → Nat → List (Nat × Nat)
  | 0, _, _ => []
  | fuel + 1, a, n => if n = 0 then [] else let k := min n (blk - a % blk); (a, k) :: chop blk fuel (a + k) (n - k)

/-- The pool ranges that a range of generated addresses reaches, in order. -/
def poolSegs (mode a n : Nat) : List (Nat × Nat) :=
  if mode = 0 then (if n = 0 then [] else [(a, n)])
  else (chop 64 (n / 64 + 2) a n).map fun q => (permute mode q.1, q.2)

def rangesMeet (xs ys : List (Nat × Nat)) : Bool := xs.any fun a => ys.any fun b => a.1 < b.1 + b.2 && b.1 < a.1 + a.2

/-! ### Moves -/

/-- One side of a move: generated pool address, linear slot byte, virtual address, bytes of a slot row to convert, or given
bytes. -/
inductive Side where
  | pool (a : Nat)
  | slot (a : Nat)
  | global (va : Nat)
  | fill (row : Nat)
  | data (bs : List Byte)
deriving DecidableEq, Repr

/-- `n` consecutive bytes at offset `off` of the command's order. -/
structure Move where
  off : Nat
  n : Nat
  src : Side
  dst : Side
deriving DecidableEq, Repr

/-- Bytes to the next page boundary of a side (R322). -/
def Side.room : Side → Nat → Nat
  | .global va, _ => 65536 - va % 65536
  | .pool _, n => n
  | .slot _, n => n
  | .fill _, n => n
  | .data _, n => n

/-- A side `k` bytes on. -/
def Side.after (k : Nat) : Side → Side
  | .pool a => .pool (a + k)
  | .slot a => .slot (a + k)
  | .global va => .global ((va + k) % 2 ^ 64)
  | .fill r => .fill r
  | .data bs => .data (bs.drop k)

/-- A move cut at the page boundaries of each global side. -/
def cutMove : Nat → Move → List Move
  | 0, _ => []
  | fuel + 1, m =>
    if m.n = 0 then []
    else
      let k := min m.n (min (m.src.room m.n) (m.dst.room m.n))
      { m with n := k } :: cutMove fuel { off := m.off + k, n := m.n - k, src := m.src.after k, dst := m.dst.after k }
def cutMoves (ms : List Move) : List Move := ms.flatMap fun m => cutMove (2 * (m.n / 65536) + 4) m

/-! ### Boxes (R319) -/

structure Box where
  n0 : Nat
  n1 : Nat
  n2 : Nat
  n3 : Nat
  gs : List Nat
deriving DecidableEq, Repr

def boxOf (b0 b1 b2 : W64) : Box :=
  { n0 := fieldOf b0 0 24, n1 := fieldOf b0 24 16, n2 := fieldOf b0 40 16, n3 := fieldOf b0 56 8,
    gs := [fieldOf b1 0 32, fieldOf b1 32 32, fieldOf b2 0 32] }

def Box.bytes (b : Box) : Nat := b.n0 * b.n1 * b.n2 * b.n3
/-- The rows in box order: [i1, i2, i3]. -/
def Box.rows (b : Box) : List (List Nat) :=
  if b.n0 = 0 then []
  else (List.range b.n3).flatMap fun i3 => (List.range b.n2).flatMap fun i2 => (List.range b.n1).map fun i1 => [i1, i2, i3]
/-- The offset of a row by strides. -/
def dot (is ss : List Nat) : Nat := ((is.zip ss).map fun p => p.1 * p.2).foldl (· + ·) 0

end Sys2Proof.Machine

namespace Sys2Proof
open Machine

/-! ### The scalars a command reads at issue, in ascending field position (R320, R323, R326, R381) -/

def Eng.regs (e : Eng) : List Nat := if e.csel = 0 then [] else [e.cnt]
def Copy.regs (o : Copy) (tail : List Nat) : List Nat :=
  [o.sa, o.sa + 1, o.sa + 2, o.sb] ++ o.eng.regs ++ [o.box, o.box + 1, o.box + 2] ++ tail
def Copy.plainTail (o : Copy) : List Nat := if o.sk = 1 && o.dk = 1 then [o.x] else []
def Copy.crcTail (o : Copy) : List Nat := o.plainTail ++ (if o.cmp then [o.y, o.y + 1] else [o.y])

/-- The scalars of any command. -/
def Instr.vals : Instr → List Nat
  | .cpy _ o => o.regs o.plainTail
  | .cpyk _ o => o.regs o.crcTail
  | .cpyr _ o => o.regs [o.x, o.y]
  | .tfill _ o => [o.sa, o.sa + 1, o.sa + 2]
  | .accrd _ o => if o.dk then [] else [o.reg]
  | .accwr _ o => [o.reg]
  | .esp _ o => [o.sa, o.sb, o.sb + 1] ++ o.eng.regs ++ [o.spl, o.lw, o.lw + 1, o.lw + 2, o.g]
  | .lsend _ o => [o.sa]
  | .lmcast _ o => [o.sa]
  | .lred _ o => [o.sa, o.sb]
  | .lrecv _ _ _ sa _ => [sa]
  | .lput _ o => [o.sa, o.sb, o.sb + 1, o.cnt, o.lens]
  | .lputAtomic _ o => [o.sa, o.sb, o.sb + 1, o.cnt, o.lens]
  | .lget _ o => [o.sa, o.sb, o.sb + 1, o.cnt, o.lens]
  | .lap _ _ sa sb e => [sa, sb] ++ e.regs
  | _ => []

/-- CNT and CSEL of a command. -/
def Instr.counter : Instr → Nat
  | .cpy _ o => o.eng.csel
  | .cpyk _ o => o.eng.csel
  | .cpyr _ o => o.eng.csel
  | .esp _ o => o.eng.csel
  | .lput _ o => o.csel
  | .lputAtomic _ o => o.csel
  | .lget _ o => o.csel
  | .lap _ _ _ _ e => e.csel
  | _ => 0

/-- Where the counter's address stands among the values read. -/
def Instr.counterPlace : Instr → Nat
  | .cpy _ _ => 4
  | .cpyk _ _ => 4
  | .cpyr _ _ => 4
  | .esp _ _ => 3
  | .lput _ _ => 3
  | .lputAtomic _ _ => 3
  | .lget _ _ => 3
  | _ => 2

end Sys2Proof

namespace Sys2Proof.Machine

/-- The values that a copy reads, by name. -/
structure CopyVals where
  lay : Layout
  g : Nat
  box : Box
  rest : List W64
deriving DecidableEq, Repr

def copyVals (o : Copy) (vs : List W64) : CopyVals :=
  let v (i : Nat) : W64 := nth 0 vs i
  let k := if o.eng.csel = 0 then 4 else 5
  { lay := layoutOf (v 0) (v 1) (v 2), g := (v 3).toNat, box := boxOf (v k) (v (k + 1)) (v (k + 2)), rest := vs.drop (k + 3) }

/-- G2 and, for CPYK, the CRC operands (R320, R324). -/
def CopyVals.g2 (v : CopyVals) : Nat := (nth 0 v.rest 0).toNat
def CopyVals.crcIn (o : Copy) (v : CopyVals) : Nat := fieldOf (nth 0 v.rest o.plainTail.length) 0 32
def CopyVals.crcWant (o : Copy) (v : CopyVals) : Nat := fieldOf (nth 0 v.rest (o.plainTail.length + 1)) 0 32

/-- The slot row of a box row. -/
def CopyVals.row0 (v : CopyVals) : Nat := v.lay.base % 128

/-- The moves of CPY and CPYK in box order (R319, R320). -/
def copyMoves (o : Copy) (v : CopyVals) : List Move :=
  let rows := v.box.rows
  let pool (i : List Nat) : Side := .pool (v.lay.base + dot i v.lay.str)
  let global (i : List Nat) : Side := .global ((v.g + dot i v.box.gs) % 2 ^ 64)
  ((List.range rows.length).zip rows).map fun (k, i) =>
    let side : Side × Side :=
      if o.sk = 0 then (pool i, global i)
      else if o.dk = 0 then (global i, pool i)
      else if o.dk = 2 then (global i, .fill (v.row0 + nth 0 i 0))
      else (global i, .global ((v.g2 + dot i v.lay.str) % 2 ^ 64))
    { off := k * v.box.n0, n := v.box.n0, src := side.1, dst := side.2 }

/-- The moves of CPYR from its offsets (R323): the row's bytes, then the pad element, aligned to its size. -/
def raggedMoves (o : Copy) (v : CopyVals) (offs : List Nat) : List Move :=
  let esz := 2 ^ o.esz
  let pad := leBytes esz (nth 0 v.rest 1).toNat
  let n0 := v.box.n0
  (List.range v.box.n1).flatMap fun i =>
    let a := nth 0 offs i
    let b := nth 0 offs (i + 1)
    let len := min ((if b ≥ a then b - a else 0) * esz) n0
    let dst : Side := if o.dk = 2 then .fill (v.row0 + i) else .pool (v.lay.base + i * nth 0 v.lay.str 0)
    let fills := ((List.range (n0 - len)).map fun j => nth 0 pad ((len + j) % esz))
    (if len = 0 then [] else [{ off := i * n0, n := len, src := .global ((v.g + a * esz) % 2 ^ 64), dst := dst }]) ++
    (if n0 - len = 0 then [] else [{ off := i * n0 + len, n := n0 - len, src := .data fills, dst := dst.after len }])

/-! ### Espalier walks (R326, R327) -/

/-- An entry of an espalier word whose extent exceeds 1: axis, selector, extent, merge. -/
structure EspEntry where
  ax : Nat
  sel : Nat
  ext : Nat
  mrg : Bool
deriving DecidableEq, Repr

structure EspVals where
  word : Nat
  e : List Nat
  f1 : List Nat
  f2 : List Nat
  lay : Layout
  g : Nat
deriving DecidableEq, Repr

def espVals (o : Esp) (vs : List W64) : EspVals :=
  let v (i : Nat) : W64 := nth 0 vs i
  let k := if o.eng.csel = 0 then 3 else 4
  { word := (v 0).toNat
    e := (List.range 8).map fun a => fieldOf (v (1 + a / 4)) (16 * (a % 4)) 16
    f1 := (List.range 8).map fun a => fieldOf (v k) (8 * a) 4
    f2 := (List.range 8).map fun a => fieldOf (v k) (8 * a + 4) 4
    lay := layoutOf (v (k + 1)) (v (k + 2)) (v (k + 3)), g := (v (k + 4)).toNat }

/-- The extent of a selector of axis `a`. -/
def EspVals.extent (v : EspVals) (a sel : Nat) : Nat :=
  let i := 2 ^ nth 0 v.f1 a
  let m := 2 ^ nth 0 v.f2 a
  match sel with
  | 0 => nth 0 v.e a
  | 1 => ceilDiv (nth 0 v.e a) (i * m)
  | 2 => m
  | _ => i

/-- All eight entries, outermost first. -/
def EspVals.entries (v : EspVals) : List EspEntry :=
  (List.range 8).map fun i =>
    let b := bitsOf v.word (8 * i) 8
    { ax := b % 8, sel := b / 16, ext := v.extent (b % 8) (b / 16), mrg := bitOf b 3 }

/-- B, the padded byte count. -/
def EspVals.bytes (o : Esp) (v : EspVals) : Nat := 2 ^ o.esz * (v.entries.map (·.ext)).foldl (· * ·) 1

/-- Whether axis `a` is named as R327 allows. -/
def EspVals.axisOk (v : EspVals) (a : Nat) : Bool :=
  let named := (v.entries.filter fun x => x.ax == a && x.ext > 1).map (·.sel)
  let parts := [1, 2, 3].filter fun s => v.extent a s > 1
  nth 0 v.e a ≤ 1 || named == [0] || (parts.all (fun s => named.count s == 1) && named.length == parts.length)

/-- The format checks of R327. -/
def EspVals.ok (o : Esp) (v : EspVals) : Bool :=
  v.entries.all (fun x => x.sel < 4) && (List.range 8).all v.axisOk &&
  (v.f1.zip v.f2).all (fun p => p.1 + p.2 ≤ 15) && !(nth false (v.entries.map (·.mrg)) 7) && v.bytes o ≤ 2 ^ 24

/-- Entries joined into dimensions, outermost first: each a list of entries. -/
def espDims : List EspEntry → List (List EspEntry)
  | [] => []
  | x :: xs =>
    match espDims xs with
    | [] => [[x]]
    | d :: ds => if x.mrg then (x :: d) :: ds else [x] :: d :: ds

/-- The strides of the dimensions, innermost first. -/
def espStrides (str : List Nat) : Nat → Nat → List Nat → List Nat
  | _, _, [] => []
  | d, cur, ext :: exts =>
    let given := if d < 3 then nth 0 str d else 0
    cur :: espStrides str (d + 1) (if given = 0 then cur * ext else given) exts

/-- Every index vector of some extents, in row-major order. -/
def indices : List Nat → List (List Nat)
  | [] => [[]]
  | n :: ns => (List.range n).flatMap fun i => (indices ns).map (i :: ·)

/-- The index of axis `a` from the entries' indices: the sum of what they give. R327 lets entries of one selector 2 or 3 with X > 1 name an
axis of extent 1 or less several times, and gives that sum for one of each (DESIGN CHOICE, notes/assumptions/127.md). -/
def EspVals.axisIndex (v : EspVals) (js : List (EspEntry × Nat)) (a : Nat) : Nat :=
  let i := 2 ^ nth 0 v.f1 a
  let m := 2 ^ nth 0 v.f2 a
  js.foldl (fun acc p =>
    if p.1.ax != a then acc
    else acc + p.2 * (match p.1.sel with
      | 1 => m * i
      | 2 => i
      | _ => 1)) 0

/-- The offsets of source and destination of every element that moves, with its place in the walk. Padding positions count in it, and so in
the byte offset that a failed ESP reports, of which R326 says only that ESP fails by pieces as R322 states (DESIGN CHOICE,
notes/assumptions/128.md). -/
def EspVals.walk (o : Esp) (v : EspVals) : List (Nat × Nat × Nat) :=
  let esz := 2 ^ o.esz
  let es := v.entries.filter fun x => x.ext > 1
  let dims := espDims es
  let exts := dims.map fun d => (d.map (·.ext)).foldl (· * ·) 1
  let strides := (espStrides v.lay.str 0 esz exts.reverse).reverse
  let flat (js : List (EspEntry × Nat)) : Nat := js.foldl (fun acc p => acc * p.1.ext + p.2) 0
  let split (js : List (EspEntry × Nat)) : List Nat :=
    (dims.foldl (fun (acc : List Nat × List (EspEntry × Nat)) d =>
      (acc.1 ++ [flat (acc.2.take d.length)], acc.2.drop d.length)) ([], js)).1
  let sizes := (List.range 8).map fun a => ((v.e.take a).foldl (· * ·) 1)
  let all := if v.entries.any fun x => x.ext = 0 then [] else indices (es.map (·.ext))
  ((List.range all.length).zip all).filterMap fun (k, jv) =>
    let js := es.zip jv
    let idx := (List.range 8).map (v.axisIndex js)
    if (idx.zip v.e).any fun p => p.1 ≥ p.2 then none
    else some (k, esz * dot idx sizes, dot (split js) strides)

/-- The side that a kind names at an offset: 0 pool, 1 global, 2 slot. -/
def espSide (kind base off : Nat) : Side :=
  match kind with
  | 0 => .pool (base + off)
  | 1 => .global ((base + off) % 2 ^ 64)
  | _ => .slot (256 * base + off)

/-- Where the two sides begin: the source takes LW.BASE if it is pool or slot, otherwise the destination does (R326). -/
def EspVals.bases (o : Esp) (v : EspVals) : Nat × Nat :=
  let low (kind x : Nat) : Nat := if kind = 2 then x % 128 else x
  let second (kind : Nat) : Nat := if kind = 0 then v.g % 2 ^ 24 else if kind = 2 then v.g % 128 else v.g
  if o.sk != 1 then (low o.sk v.lay.base, second o.dk) else (v.g, low o.dk v.lay.base)

/-- The moves of an espalier command; none where a format check fails. -/
def espMoves (o : Esp) (v : EspVals) : List Move :=
  let b := v.bases o
  (if v.ok o then v.walk o else []).map fun (k, so, d) =>
    { off := k * 2 ^ o.esz, n := 2 ^ o.esz, src := espSide o.sk b.1 so, dst := espSide o.dk b.2 d }

/-! ### Ranges of moves -/

def Side.pools (mode n : Nat) : Side → List (Nat × Nat)
  | .pool a => poolSegs mode a n
  | .slot _ => []
  | .global _ => []
  | .fill _ => []
  | .data _ => []

def readsOf (mode : Nat) (ms : List Move) : List (Nat × Nat) := ms.flatMap fun m => m.src.pools mode m.n
def writesOf (mode : Nat) (ms : List Move) : List (Nat × Nat) := ms.flatMap fun m => m.dst.pools mode m.n

end Sys2Proof.Machine

namespace Sys2Proof
open Machine

/-- The layout's permutation mode of a command. -/
def Instr.bpm (i : Instr) (vs : List W64) : Nat :=
  match i with
  | .cpy _ o => (copyVals o vs).lay.bpm
  | .cpyk _ o => (copyVals o vs).lay.bpm
  | .cpyr _ o => (copyVals o vs).lay.bpm
  | .tfill _ _ => (layoutOf (nth 0 vs 0) (nth 0 vs 1) (nth 0 vs 2)).bpm
  | .esp _ o => (espVals o vs).lay.bpm
  | _ => 0

/-- The moves that a command's values fix at issue; CPYR's global side is known at its start only. -/
def Instr.moves (i : Instr) (vs : List W64) : List Move :=
  match i with
  | .cpy _ o => copyMoves o (copyVals o vs)
  | .cpyk _ o => copyMoves o (copyVals o vs)
  | .cpyr _ o => raggedMoves o (copyVals o vs) []
  | .tfill _ o =>
    let l := layoutOf (nth 0 vs 0) (nth 0 vs 1) (nth 0 vs 2)
    let mb := fillBytes o.f
    (List.range (o.nrm1 + 1)).map fun r =>
      { off := r * mb, n := mb, src := .pool (l.base + r * nth 0 l.str 0), dst := .fill (o.row0 + r) }
  | .esp _ o => espMoves o (espVals o vs)
  | .accrd _ o =>
    if o.dk then []
    else [{ off := 0, n := (o.nrm1 + 1) * 128 * accWidth o.fmt, src := .data [], dst := .pool (nth 0 vs 0).toNat }]
  | .accwr _ o => [{ off := 0, n := (o.nrm1 + 1) * 128 * accWidth o.fmt, src := .pool (nth 0 vs 0).toNat, dst := .data [] }]
  | .lsend _ _ => [{ off := 0, n := 128, src := .pool (nth 0 vs 0).toNat, dst := .data [] }]
  | .lmcast _ _ => [{ off := 0, n := 128, src := .pool (nth 0 vs 0).toNat, dst := .data [] }]
  | .lred _ _ =>
    [{ off := 0, n := 128, src := .pool (nth 0 vs 0).toNat, dst := .data [] },
     { off := 0, n := 128, src := .data [], dst := .pool (nth 0 vs 1).toNat }]
  | .lrecv _ _ _ _ _ => [{ off := 0, n := 128, src := .data [], dst := .pool (nth 0 vs 0).toNat }]
  | .lput _ o => if o.lk then [] else [{ off := 0, n := (nth 0 vs 4).toNat, src := .pool (nth 0 vs 0).toNat, dst := .data [] }]
  | .lputAtomic _ o =>
    if o.lk then []
    else
      let n := (nth 0 vs 4).toNat
      [{ off := 0, n := n, src := .pool (nth 0 vs 0).toNat, dst := .data [] },
       { off := 0, n := if o.aq then 8 else 4, src := .data [], dst := .pool (nth 0 vs 0).toNat }]
  | .lget _ o => if o.lk then [] else [{ off := 0, n := (nth 0 vs 4).toNat, src := .data [], dst := .pool (nth 0 vs 0).toNat }]
  | _ => []

/-- Slots that a command reads: operands and scales, or a slot side (R307, R311, R326). -/
def scaled (code : Nat) : Bool := isMx code || isXb code || code == 23
def Mma.slots (o : Mma) (fmt : W32) : List Nat :=
  [o.sa, o.sb] ++ (if scaled (fmtA fmt) then [fmtAs fmt] else []) ++ (if scaled (fmtB fmt) then [fmtBs fmt] else [])

def Instr.slotsRead (i : Instr) (fmt : W32) : List Nat :=
  match i with
  | .mma _ o => o.slots fmt
  | .mmas _ o => o.slots fmt
  | .esp _ o => if o.sk = 2 then [o.slot] else []
  | _ => []

/-- Slots that a command fills, an XB format's scale slot among them. -/
def Copy.fills (o : Copy) : List Nat := if o.dk = 2 then o.slot :: (if isXb o.f then [o.ss] else []) else []
def Instr.slotsFilled : Instr → List Nat
  | .cpy _ o => o.fills
  | .cpyk _ o => o.fills
  | .cpyr _ o => o.fills
  | .tfill _ o => o.slot :: (if isXb o.f then [o.ss] else [])
  | .esp _ o => if o.dk = 2 then [o.slot] else []
  | _ => []

/-- The tile a command names and whether it is a matrix command. -/
def Instr.tile : Instr → Option (Nat × Bool)
  | .mma _ o => some (o.tile, true)
  | .mmas _ o => some (o.tile, true)
  | .accz _ t _ => some (t, false)
  | .accrd _ o => some (o.tile, false)
  | .accwr _ o => some (o.tile, false)
  | _ => none

/-- Whether the command writes a tile other than by k-steps. -/
def Instr.writesTile : Instr → Bool
  | .accz _ _ _ => true
  | .accwr _ _ => true
  | _ => false

/-! ### Occupancy and latency (R304, R313 to R318, R321, R327, R329) -/

/-- The bytes that a command moves. -/
def Instr.size (i : Instr) (vs : List W64) : Nat :=
  match i with
  | .cpy _ o => (copyVals o vs).box.bytes
  | .cpyk _ o => (copyVals o vs).box.bytes
  | .cpyr _ o => (copyVals o vs).box.n0 * (copyVals o vs).box.n1
  | .tfill _ o => (o.nrm1 + 1) * fillBytes o.f
  | .esp _ o => (espVals o vs).bytes o
  | _ => 0

/-- 0 M, 1 C, 2 E, 3 L. -/
def Instr.column : Instr → Nat
  | .cpy _ _ => 1
  | .cpyk _ _ => 1
  | .cpyr _ _ => 1
  | .tfill _ _ => 1
  | .esp _ _ => 2
  | .lsend _ _ => 3
  | .lmcast _ _ => 3
  | .lred _ _ => 3
  | .lrecv _ _ _ _ _ => 3
  | .lput _ _ => 3
  | .lputAtomic _ _ => 3
  | .lget _ _ => 3
  | _ => 0

/-- vc between the k-steps of a matrix command: 3 for FP32X3. -/
def kPace (fmt : W32) : Nat := if fmtA fmt = 20 then 3 else 1

def Instr.occupancy (i : Instr) (fmt : W32) (vs : List W64) : Nat :=
  match i with
  | .mma _ o => (o.nm1 + 1) * kPace fmt
  | .mmas _ o => o.nm1 + 1
  | .accrd _ o => o.nrm1 + 1
  | .accwr _ o => o.nrm1 + 1
  | .cpy _ _ => Nat.max 1 (ceilDiv (i.size vs) 128)
  | .cpyk _ _ => Nat.max 1 (ceilDiv (i.size vs) 128)
  | .cpyr _ _ => Nat.max 1 (ceilDiv (i.size vs) 128)
  | .tfill _ _ => Nat.max 1 (ceilDiv (i.size vs) 128)
  | .esp _ _ => Nat.max 1 (ceilDiv (i.size vs) 256)
  | _ => 1

/-- Start to landing, for a copy from its base latency of R321. -/
def Instr.latency (i : Instr) (fmt : W32) (vs : List W64) (copyBase : Nat) : Nat :=
  match i with
  | .mma _ _ => i.occupancy fmt vs + 64
  | .mmas _ _ => i.occupancy fmt vs + 64
  | .accz _ _ _ => 1
  | .accrd _ o => 24 + o.nrm1 + 1
  | .accwr _ o => 24 + o.nrm1 + 1
  | .tfill _ _ => 16 + ceilDiv (i.size vs) 128
  | .cpy _ _ => copyBase + ceilDiv (i.size vs) 128
  | .cpyk _ _ => copyBase + ceilDiv (i.size vs) 128
  | .cpyr _ _ => copyBase + ceilDiv (i.size vs) 128
  | .esp _ _ => 192 + ceilDiv (i.size vs) 256
  | .lrecv _ _ _ _ _ => 8
  | .lred _ _ => 200
  | _ => 1

end Sys2Proof
end

