-- ==== Sys2Proof/Machine/EngineOps.lean ====
section
/-!
DEFINITION. Class 6 at issue: the checks, columns and start vc of engine commands, and the immediate commands
(spec/13_engine_instructions.md R301 to R334, spec/02_execution_model.md R59, R60).
-/

namespace Sys2Proof.Machine

/-! ### Columns (R304 to R306) -/

def Cmd.complete (c : Cmd) (clk : Nat) : Bool := c.started && !c.waits && c.land ≤ clk

/-- The vc from which a column is free of the entries issued so far. -/
def State.colFree (s : State) (core col : Nat) : Nat :=
  (s.grid.cmds.filter fun c => c.core == core && c.col == col && !c.started).foldl (fun m c => max m (c.start + c.occ))
    (Sp.get 0 (s.core core).colFree col)

/-- The vc from which the cluster's espalier engine is free of the train's other cores (R306). -/
def State.espFree (s : State) (core : Nat) : Nat :=
  ((List.range 8).map fun i => 8 * (core / 8) + i).foldl
    (fun m c => if c != core && s.myTrain.cores.contains c then max m (s.colFree c 2) else m) 0

/-- The vc at which a command that issues now reaches its column. -/
def State.reach (s : State) (core col : Nat) : Nat := max (s.now + 2) (s.colFree core col)

/-- TB + offset (R59). -/
def State.timedVc (s : State) (ofs : Nat) : Nat := (s.myTeam.tb + BitVec.ofNat 64 ofs).toNat

/-- The start of a command: TB + offset as the train's clock counts it, or the first free vc. -/
def State.startOf (s : State) (core col ofs : Nat) : Nat :=
  if ofs = untimed then
    if col = 2 then max (s.reach core col) (s.espFree core) else s.reach core col
  else s.now + (s.timedVc ofs - s.myTrain.vc.toNat)

/-- The landing of a command's outputs. -/
def Cmd.writes (c : Cmd) : List (Nat × Nat) := writesOf (c.op.bpm c.vals) (c.op.moves c.vals)

/-- R60 and R304 to R307: whether a command that would start at `start` raises a timing fault. The pool bytes of a pending LGET or hall
atomic count as landing one vc after its start, since no rule gives their vc (DESIGN CHOICE, notes/assumptions/107.md). -/
def State.mistimed (s : State) (i : Instr) (vs : List W64) (fmt : W32) (ofs start : Nat) : Bool :=
  let core := s.me.core
  let col := i.column
  let full := (s.grid.cmds.filter fun c => c.core == core && c.col == col && !c.started).length ≥ 64
  let timed := ofs != untimed
  let late := timed && s.timedVc ofs < s.myTrain.vc.toNat + (s.reach core col - s.now)
  let mine (c : Cmd) : Bool := c.core == core && c.train == s.cur.train && c.land > start
  let reads := readsOf (i.bpm vs) (i.moves vs)
  let poolLate := timed && !reads.isEmpty &&
    (s.grid.stps.any (fun w => w.core == core && w.due > start && rangesMeet reads [(w.addr, w.data.length)]) ||
     s.grid.cmds.any fun c => mine c && rangesMeet reads c.writes)
  let slotLate := timed && (i.slotsRead fmt).any fun n => s.grid.cmds.any fun c => mine c && c.op.slotsFilled.contains n
  let tileLate := timed && match i.tile with
    | none => false
    | some (t, matrix) => s.grid.cmds.any fun c => mine c && match c.op.tile with
      | none => false
      | some (u, m) => u == t && (if matrix then c.op.writesTile else m || c.op.writesTile)
  let esp := timed && col == 2 && (s.grid.cmds.any (fun c =>
      c.col == 2 && c.train == s.cur.train && c.core != core && c.core / 8 == core / 8 && !c.started &&
      c.start < start + i.occupancy fmt vs && start < c.start + c.occ) ||
    ((List.range 8).map fun k => 8 * (core / 8) + k).any fun c =>
      c != core && s.myTrain.cores.contains c && Sp.get 0 (s.core c).colFree 2 > start)
  full || late || poolLate || slotLate || tileLate || esp

/-! ### Checks of operands (R303, R309, R312, R314, R320, R321) -/

def fltFormat : Flt := { code := 6 }
def fltWindow (a : Nat) : Flt := { code := 8, t2 := BitVec.ofNat 64 a }
/-- A window fault where no address is at fault (a slot, a tile, a SLOTTAB entry): R371 gives t2 no value, so it is free. -/
def fltNoAddress (s : State) : Flt := { code := 8, t2 := Config.value s.fresh }

/-- Pool bytes of moves lie in the scratchpad. -/
def chkMovePools (s : State) (ms : List Move) : Option Flt :=
  let side (n : Nat) (x : Side) : Option Flt := match x with
    | .pool a => check (n = 0 || a + n ≤ s.scratch) (fltWindow a)
    | .slot _ => none
    | .global _ => none
    | .fill _ => none
    | .data _ => none
  ms.findSome? fun m => (side m.n m.src).orElse fun _ => side m.n m.dst

/-- The team holds every slot that a command names. -/
def chkSlots (s : State) (ns : List Nat) : Option Flt :=
  check (ns.all fun n => bitOf (s.myTeam.claimed s.me.core) n) (fltNoAddress s)

/-- The tile and its rows exist. -/
def chkTile (s : State) (t row0 n : Nat) : Option Flt :=
  check (t < tilesOf s.myTrain.desc.part && row0 + n ≤ 128) (fltNoAddress s)

/-- The translation of an engine operand; a companion window is legal for copies (R130). -/
def State.engineXlat (s : State) (copy write : Bool) (va n : Nat) : Option Xlat :=
  if va ≥ 2 ^ 48 then none else translate s.myTrain.desc [if write then permW else permR, permE] copy va n

/-- The global sides of moves already cut at pages: write, address, length. -/
def globalSides (ms : List Move) : List (Bool × Nat × Nat) :=
  ms.flatMap fun m =>
    (match m.src with
      | .global va => [(false, va, m.n)]
      | .pool _ => []
      | .slot _ => []
      | .fill _ => []
      | .data _ => []) ++
    (match m.dst with
      | .global va => [(true, va, m.n)]
      | .pool _ => []
      | .slot _ => []
      | .fill _ => []
      | .data _ => [])

/-- R130 for every global byte. -/
def chkGlobals (s : State) (copy : Bool) (gs : List (Bool × Nat × Nat)) : Option Flt :=
  gs.findSome? fun g => check (s.engineXlat copy g.1 g.2.1 g.2.2).isSome (fltWindow g.2.1)

/-- R139 for every global byte, of a companion window too (R321). -/
def chkLeases (s : State) (copy : Bool) (gs : List (Bool × Nat × Nat)) : Option Flt :=
  gs.findSome? fun g =>
    check (match s.engineXlat copy g.1 g.2.1 g.2.2 with
      | none => false
      | some x => engineLeased s.myTrain s.myTeam.idx g.1 g.2.1 g.2.2 x)
      { code := 9, t2 := BitVec.ofNat 64 g.2.1 }

/-- Whether a virtual page lies in an ENGINE footprint of the team. -/
def State.engineClass (s : State) (va : Nat) : Bool :=
  s.myTrain.desc.foots.any fun f => f.cls == 1 && f.holds s.myTeam.idx (va / 65536)

/-- Whether a virtual page lies in an ENGINE footprint of kind W of the team. -/
def State.drainClass (s : State) (va : Nat) : Bool :=
  s.myTrain.desc.foots.any fun f => f.cls == 1 && f.kind == 2 && f.holds s.myTeam.idx (va / 65536)

/-- The first part of a copy's latency (R321). One that moves no global byte has that of a copy on its own package (DESIGN CHOICE,
notes/assumptions/120.md). -/
def State.copyBase (s : State) (both : Bool) (gs : List (Bool × Nat × Nat)) : Nat :=
  let xs := gs.filterMap fun g => (s.engineXlat true g.1 g.2.1 g.2.2).map fun x => (g.2.1, x)
  if xs.any fun p => p.2.comp || s.engineClass p.1 then 8192
  else
    let far := xs.any fun p => pkgOf p.2.ia != s.pkg
    if both then (if far then 4736 else 1280) else (if far then 4096 else 640)

/-! ### The mould of a command that enters a column -/

/-- The command's record, its column entry, and its pending registers. -/
def State.enterColumn (s : State) (i : Instr) (ofs start lat : Nat) (batched : Bool) (dsts : List Dst) : State :=
  let fmt := s.fmt
  let vs := i.vals.map s.scalar
  let c : Cmd :=
    { id := s.grid.ord, train := s.cur.train, team := s.cur.team, key := s.cur.key, group := s.me.idx, core := s.me.core,
      col := i.column, untimed := ofs == untimed, start := start, occ := i.occupancy fmt vs, land := start + lat,
      batch := if batched && ofs == untimed then s.myTeam.closed + 1 else 0, op := i, addr := s.cur.addr, alt := s.cur.alt,
      fmt := fmt, vals := vs, bank := s.me.handler.isSome }
  let s := { s with grid := { s.grid with cmds := s.grid.cmds ++ [c], ord := s.grid.ord + 1 } }
  let s := if c.col = 3 && ofs != untimed then s.modTrain s.cur.train fun t => { t with linked := true } else s
  dsts.foldl State.owe s

/-- What a command checks beside the mould: format, scope, window and lease checks, the vector registers it names, its
destinations, the base of a copy's latency and whether it joins a batch. -/
structure Checks where
  format : List (Option Flt) := []
  scope : List (Option Flt) := []
  window : List (Option Flt) := []
  lease : List (Option Flt) := []
  vregs : List Nat := []
  dsts : List Dst := []
  base : Nat := 0
  batched : Bool := false

/-- Checks 2 to 5 of R208 in their order and the entry into the column. A false condition leaves nothing there (R301) and makes no
pending write (R73), so R50 asks nothing of its destinations. -/
def command (h : Head) (i : Instr) (ofs : Nat) (k : Checks) (s : State) : Host.Outcome State Fault Refusal :=
  let runs := s.holds h
  let vs := i.vals.map s.scalar
  let csel := i.counter
  let cnt := if csel = 0 then [] else chkCounter s runs .counterAdd (csel - 1) (nth 0 vs i.counterPlace).toNat
  let start := s.startOf s.me.core i.column ofs
  let own := if runs then
      k.format ++ cnt.take 1 ++ k.scope ++ k.window ++ (cnt.drop 1).take 2 ++ k.lease ++ cnt.drop 3 ++
      [check (!s.mistimed i vs s.fmt ofs start) { code := 10 }, chkPend s k.dsts]
    else []
  attempt s ([chkTrain s, chkRegs s k.vregs, chkRole s] ++ own) fun s =>
    if runs then s.enterColumn i ofs start (i.latency s.fmt vs k.base) k.batched k.dsts else s

/-- A layout word with a non-zero reserved bit (R82). -/
def chkLayout (s : State) (l : Layout) : Option Flt := check (!l.bad) (fltIllegal s)

/-! ### Matrix and accumulator commands (R311 to R316) -/

/-- The format checks of R312. -/
def chkPair (s : State) (sparse : Bool) (o : Mma) : Option Flt :=
  let a := fmtA s.fmt
  let b := fmtB s.fmt
  check ((pairKind sparse a b).isSome && (o.k0 + o.nm1 + 1) * pairDepth sparse a b ≤ min (rowLen a) (rowLen b)) fltFormat

def matrix (sparse : Bool) (i : Instr) (h : Head) (o : Mma) (s : State) : Host.Outcome State Fault Refusal :=
  command h i o.ofs { format := [chkPair s sparse o], window := [chkTile s o.tile 0 0, chkSlots s (o.slots s.fmt)] } s

def execMma (h : Head) (o : Mma) (s : State) := matrix false (.mma h o) h o s
def execMmas (h : Head) (o : Mma) (s : State) := matrix true (.mmas h o) h o s

def execAccz (h : Head) (tile ofs : Nat) (s : State) : Host.Outcome State Fault Refusal :=
  command h (.accz h tile ofs) ofs { window := [chkTile s tile 0 0] } s

/-- The registers that ACCRD with DK = 1 writes (R315). -/
def accRegs (w : Nat) (o : Acc) : List Nat :=
  (List.range (ceilDiv ((o.nrm1 + 1) * 128 * accWidth o.fmt) (4 * w))).map (· + o.reg)

def execAccrd (h : Head) (o : Acc) (s : State) : Host.Outcome State Fault Refusal :=
  let i : Instr := .accrd h o
  let regs := if o.dk then accRegs s.me.width o else []
  command h i o.ofs
    { window := [chkTile s o.tile o.row0 (o.nrm1 + 1), chkMovePools s (i.moves (i.vals.map s.scalar))]
      vregs := regs, dsts := regs.map Dst.vec } s

def execAccwr (h : Head) (o : Acc) (s : State) : Host.Outcome State Fault Refusal :=
  let i : Instr := .accwr h o
  command h i o.ofs
    { window := [chkTile s o.tile o.row0 (o.nrm1 + 1), chkMovePools s (i.moves (i.vals.map s.scalar))] } s

/-! ### Fills and copies (R317 to R324) -/

def execTfill (h : Head) (o : Tfill) (s : State) : Host.Outcome State Fault Refusal :=
  let i : Instr := .tfill h o
  let vs := i.vals.map s.scalar
  let rows := check (o.row0 + o.nrm1 + 1 ≤ 128) (fltNoAddress s)
  command h i o.ofs
    { format := [chkLayout s (layoutOf (nth 0 vs 0) (nth 0 vs 1) (nth 0 vs 2)), check (fillOk o.f) fltFormat]
      window := [rows, chkMovePools s (i.moves vs), chkSlots s i.slotsFilled], batched := true } s

/-- The format checks of a copy (R317, R320, R323). CPYR asks N2 = N3 = 1 of either destination, though R323 names no fault for the
pool's (DESIGN CHOICE, notes/assumptions/108.md). -/
def chkCopyForm (o : Copy) (v : CopyVals) (ragged : Bool) : Option Flt :=
  check ((o.dk != 2 || (fillOk o.f && v.box.n0 == fillBytes o.f && v.box.n2 == 1 && v.box.n3 == 1 && v.row0 + v.box.n1 ≤ 128)) &&
    (!(o.sk == 1 && o.dk == 1) || v.lay.base == 0) &&
    (!ragged || (v.box.n0 % 2 ^ o.esz == 0 && v.box.n2 == 1 && v.box.n3 == 1))) fltFormat

/-- The checks of a copy whose global sides are `gs`. -/
def copyChecks (s : State) (o : Copy) (v : CopyVals) (ragged : Bool) (ms : List Move) (gs : List (Bool × Nat × Nat))
    (more : List (Option Flt)) (dsts : List Dst) : Checks :=
  { format := [chkLayout s v.lay, chkCopyForm o v ragged]
    window := more ++ [chkGlobals s true gs, chkMovePools s ms, chkSlots s o.fills]
    lease := [chkLeases s true gs], dsts := dsts, base := s.copyBase (o.sk = 1 && o.dk = 1) gs, batched := true }

def copy (i : Instr) (h : Head) (o : Copy) (dsts : List Dst) (s : State) : Host.Outcome State Fault Refusal :=
  let v := copyVals o (i.vals.map s.scalar)
  let ms := cutMoves (copyMoves o v)
  command h i o.eng.ofs (copyChecks s o v false ms (globalSides ms) [] dsts) s

def execCpy (h : Head) (o : Copy) (s : State) := copy (.cpy h o) h o [.scal o.dst] s
def execCpyk (h : Head) (o : Copy) (s : State) := copy (.cpyk h o) h o [.scal o.dst, .scal o.y] s

/-- CPYR checks its offset array at issue; its rows are checked at its start (R323). An array whose address is no multiple of 4 raises a
window fault, which R323 does not name (DESIGN CHOICE, notes/assumptions/108.md). -/
def execCpyr (h : Head) (o : Copy) (s : State) : Host.Outcome State Fault Refusal :=
  let i : Instr := .cpyr h o
  let v := copyVals o (i.vals.map s.scalar)
  let array := (nth 0 v.rest 0).toNat
  let gs := globalSides (cutMoves [{ off := 0, n := 4 * (v.box.n1 + 1), src := .global array, dst := .data [] }])
  let first := if v.g < 2 ^ 48 then [(false, v.g, 1)] else []
  let k := copyChecks s o v true (raggedMoves o v []) gs [check (array % 4 == 0) (fltWindow array)] [.scal o.dst]
  command h i o.eng.ofs { k with base := s.copyBase false (gs ++ first) } s

/-! ### Espalier (R326, R327) -/

/-- Slot bytes past byte 32,767 (R326). -/
def chkEspSlots (s : State) (ms : List Move) : Option Flt :=
  let past (n : Nat) (x : Side) : Bool := match x with
    | .slot a => a + n > 32768
    | .pool _ => false
    | .global _ => false
    | .fill _ => false
    | .data _ => false
  check (!(ms.any fun m => past m.n m.src || past m.n m.dst)) (fltNoAddress s)

def execEsp (h : Head) (o : Esp) (s : State) : Host.Outcome State Fault Refusal :=
  let i : Instr := .esp h o
  let v := espVals o (i.vals.map s.scalar)
  let ok := v.ok o
  let ms := cutMoves (espMoves o v)
  let gs := globalSides ms
  command h i o.eng.ofs
    { format := [chkLayout s v.lay, check ok fltFormat]
      window := [chkGlobals s false gs, chkMovePools s ms, chkEspSlots s ms, chkSlots s (i.slotsRead 0 ++ i.slotsFilled)]
      lease := [chkLeases s false gs], dsts := [.scal o.dst], batched := true } s

/-! ### Link commands (R185, R328 to R331) -/

/-- SLOTTAB admits the command: valid, the issuing tenant and core, the kind. A twin's entry names its primary's core. -/
def chkSlotTab (s : State) (kind port slot : Nat) : Option Flt :=
  let e := s.slotEntry port slot
  check (fieldOf e 63 1 == 1 && fieldOf e 26 12 == s.myTrain.owner && fieldOf e 18 8 == s.readCore s.me && fieldOf e 8 2 == kind)
    (fltNoAddress s)

def send (kind : Nat) (i : Instr) (h : Head) (o : Send) (s : State) : Host.Outcome State Fault Refusal :=
  command h i o.ofs { window := [chkMovePools s (i.moves (i.vals.map s.scalar)), chkSlotTab s kind o.port o.slot] } s

def execLsend (h : Head) (o : Send) (s : State) := send 0 (.lsend h o) h o s
def execLred (h : Head) (o : Send) (s : State) := send 1 (.lred h o) h o s
def execLmcast (h : Head) (o : Send) (s : State) := send 2 (.lmcast h o) h o s

def execLrecv (h : Head) (spkg flow sa ofs : Nat) (s : State) : Host.Outcome State Fault Refusal :=
  let i : Instr := .lrecv h spkg flow sa ofs
  command h i ofs { window := [chkMovePools s (i.moves (i.vals.map s.scalar))] } s

/-- The longest put or get (R330). -/
def hallMax : Nat := 1048576

/-- The operand bytes of a hall atomic (R331). -/
def hallOperands (ac : Nat) (q : Bool) : Nat := (if q then 8 else 4) * (if ac = 10 then 2 else 1)

/-- The checks of LPUT and LGET: length, HPOL.POD, and the local side, read and written as the command does. They are no copies:
a companion window raises a window fault (R130). An atomic's old value goes over its first operand bytes; all its bytes are checked as a
destination, ACAS's c1 among them (DESIGN CHOICE, notes/assumptions/117.md). -/
def hall (i : Instr) (h : Head) (o : Hall) (sizeOk : Nat → Bool) (uses : List Bool) (s : State) : Host.Outcome State Fault Refusal :=
  let vs := i.vals.map s.scalar
  let len := (nth 0 vs 4).toNat
  let pieces := if o.lk then
      cutMoves [{ off := 0, n := if sizeOk len then len else 0, src := .global (nth 0 vs 0).toNat, dst := .data [] }] else []
  let gs := uses.flatMap fun w => (globalSides pieces).map fun g => (w, g.2)
  command h i untimed
    { format := [check (sizeOk len) fltFormat], scope := [check s.podAllowed { code := 7 }]
      window := [chkGlobals s false gs, chkMovePools s (i.moves vs)], lease := [chkLeases s false gs] } s

def execLput (h : Head) (o : Hall) (s : State) := hall (.lput h o) h o (fun n => n ≤ hallMax) [false] s
def execLputAtomic (h : Head) (o : Hall) (s : State) :=
  hall (.lputAtomic h o) h o (fun n => n = hallOperands o.ac o.aq) [false, true] s
def execLget (h : Head) (o : Hall) (s : State) := hall (.lget h o) h o (fun n => n ≤ hallMax) [true] s

/-! ### Immediate commands (R309, R325, R332 to R334) -/

def latClaim : Nat := 2
def latLapq : Nat := 12

/-- The issuing team's immediate command is complete `lat` vc from now. -/
def State.busyFor (s : State) (lat : Nat) : State :=
  let now := s.now
  s.modTeam s.myTeamKey fun t => { t with busyUntil := max t.busyUntil (now + lat) }

/-- The checks that every immediate command makes, and its effect where its condition holds; otherwise it makes no pending write
(R73). -/
def immediate (h : Head) (own : State → List (Option Flt)) (dsts : List Dst) (lat : Nat) (effect : State → State) (s : State) :
    Host.Outcome State Fault Refusal :=
  attempt s ([chkTrain s, chkRegs s [], chkRole s] ++ (if s.holds h then own s ++ [chkPend s dsts] else [])) fun s =>
    if s.holds h then (effect s).busyFor lat else s

/-- A scalar destination as the register a landing names. -/
def State.scalarReg (s : State) (dst : Nat) : Nat × Nat := s.dstReg (.scal dst)

def execTclaim (h : Head) (dst mask : Nat) (s : State) : Host.Outcome State Fault Refusal :=
  immediate h (fun _ => []) [.scal dst] latClaim (fun s => let r := s.scalarReg dst; s.later latClaim (.claim mask r.1 r.2)) s

/-- A slot of a command that has not completed may not be released (R309). -/
def chkRelease (s : State) (mask : Nat) : Option Flt :=
  let busy (c : Cmd) : Bool :=
    c.train == s.cur.train && c.team == s.cur.team && c.core == s.me.core && !c.complete s.now &&
    (c.op.slotsRead c.fmt ++ c.op.slotsFilled).any fun n => bitOf (mask &&& s.myTeam.claimed s.me.core) n
  check (!(s.grid.cmds.any busy)) { code := 10 }

def execTrel (h : Head) (mask : Nat) (s : State) : Host.Outcome State Fault Refusal :=
  immediate h (fun s => [chkRelease s mask]) [] latClaim (fun s => s.later latClaim (.unclaim mask)) s

def execCbatch (h : Head) (dst : Nat) (s : State) : Host.Outcome State Fault Refusal :=
  immediate h (fun _ => []) [.scal dst] latClaim (fun s =>
    let n := s.myTeam.closed + 1
    (s.landScalar h latClaim dst (BitVec.ofNat 64 n)).modTeam s.myTeamKey fun t => { t with closed := n }) s

def execCwait (h : Head) (sa : Nat) (s : State) : Host.Outcome State Fault Refusal :=
  let n := (s.scalar sa).toNat
  immediate h (fun s => [check (n ≤ s.myTeam.closed) { code := 10 }]) [] latClaim (fun s => s.block (.cwait n)) s

/-- The drain target is leased as a copy's destination, and lies in a companion window or in an ENGINE footprint of kind W (R332). The 64
bytes of an image's header are checked, and a target elsewhere raises the lease fault (DESIGN CHOICE, notes/assumptions/118.md). -/
def chkDrain (s : State) (va : Nat) : List (Option Flt) :=
  [chkGlobals s true [(true, va, 64)],
   check (match s.engineXlat true true va 64 with
     | none => false
     | some x => engineLeased s.myTrain s.myTeam.idx true va 64 x && (x.comp || s.drainClass va))
     { code := 9, t2 := BitVec.ofNat 64 va }]

/-- LAP opens its lap at the boundary of its quantum; the command completes when its counter is added. -/
def execLap (h : Head) (dst sa sb : Nat) (eng : Eng) (s : State) : Host.Outcome State Fault Refusal :=
  let i : Instr := .lap h dst sa sb eng
  let vs := i.vals.map s.scalar
  let va := (nth 0 vs 0).toNat
  let counter := (nth 0 vs 2).toNat
  let cnt (s : State) : List (Option Flt) := if eng.csel = 0 then [] else chkCounter s true .counterAdd (eng.csel - 1) counter
  immediate h (fun s => (cnt s).take 1 ++ (chkDrain s va).take 1 ++ ((cnt s).drop 1).take 2 ++ (chkDrain s va).drop 1 ++ (cnt s).drop 3)
    [.scal dst] 0 (fun s =>
      let x := (s.engineXlat true true va 64).getD { ia := 0, level := 0, comp := false }
      let id := s.grid.ord
      let r := s.scalarReg dst
      let act : ActWhat :=
        .lapOpen (tag (if x.comp then 3 else 0) x.ia) (nth 0 vs 1).toNat id r.1 r.2 eng.csel
          (if eng.csel = 0 then 0 else s.place counter 8)
      let c : Cmd :=
        { id := id, train := s.cur.train, team := s.cur.team, key := s.cur.key, group := s.me.idx, core := s.me.core, col := 4,
          untimed := true, start := s.now, occ := 0, land := s.now, batch := 0, op := i, addr := s.cur.addr, alt := s.cur.alt,
          fmt := s.fmt, vals := vs, started := true, waits := true, bank := s.me.handler.isSome }
      ({ s with grid := { s.grid with cmds := s.grid.cmds ++ [c], ord := id + 1 } }.act act).owe (.scal dst)) s

def execLapRel (h : Head) (dst sa : Nat) (s : State) : Host.Outcome State Fault Refusal :=
  immediate h (fun _ => []) [.scal dst] 0 (fun s =>
    let r := s.scalarReg dst
    (s.act (.lapRel (fieldOf (s.scalar sa) 0 16) r.1 r.2)).owe (.scal dst)) s

/-- LAPQ reads the laps as the train's last boundary left them; before its first boundary it finds none (DESIGN CHOICE,
notes/assumptions/119.md). -/
def execLapq (h : Head) (dst sa : Nat) (s : State) : Host.Outcome State Fault Refusal :=
  immediate h (fun _ => []) [.scal dst] latLapq (fun s =>
    let laps := s.myTrain.laps
    let st : Nat := match laps.find? fun l => l.1 == fieldOf (s.scalar sa) 0 16 with
      | none => 0
      | some l => if l.2 then 2 else 1
    s.landScalar h latLapq dst (BitVec.ofNat 64 (st + 65536 * laps.length))) s

end Sys2Proof.Machine
end

