-- ==== Sys2Proof/Machine/Fetch.lean ====
section
/-!
DEFINITION. Instruction fetch: its checks in order, the bytes, and the decoded instruction
(spec/09_instruction_encoding_and_assembly.md R203 to R209, spec/06_address_spaces_and_memories.md R139,
spec/17_privilege_traps_preemption.md R363, R364).
-/

namespace Sys2Proof.Machine

/-- The start of code as a command core fetches it: its 48-bit PC counts from 2^63 (R363, R446). -/
def cmdCode : Nat := 2 ^ 63

/-- Bytes at an address as the issuer fetches them, or the fault of the window, lease or PMP check. -/
def State.codeBytes (s : State) (a : Addr48) (n : Nat) : Except Flt (List Byte) :=
  let va := a.toNat
  if s.cur.cmd then
    match s.cmdAccess pmpFetch (cmdCode + va) n with
    | some c => .error { code := c, t2 := if c = 8 then BitVec.ofNat 64 va else 0 }
    | none => .ok (s.cmdBytes (cmdCode + va) n)
  else
    let d := s.myTrain.desc
    match translate d [permX] false va n with
    | none => .error { code := 8, t2 := BitVec.ofNat 64 va }
    | some x =>
      if leaseOk s.myTrain s.myTeam.idx .load va n x.ia then
        .ok (s.viewBytes s.myTrain.owner (s.readCore s.me) (s.level x) x.ia n)
      else .error { code := 9, t2 := BitVec.ofNat 64 va }

/-- The bytes of the instruction at `a`: alignment, then the first eight bytes, LEN, the block's end, and the rest. -/
def State.fetchAt (s : State) (a : Addr48) : Except Flt (List Byte) :=
  let off := a.toNat % 32
  if badTarget a then .error { code := 3 }
  else
    match s.codeBytes a 8 with
    | .error f => .error f
    | .ok head =>
      let len := (leNat head) % 4
      let n := lenBytes len
      if len = 3 then .error { code := 1, t2 := BitVec.ofNat 64 (leNat head) }
      else if off + n > 32 then .error { code := 2 }
      else if n = 8 then .ok head
      else
        match s.codeBytes (a + 8) (n - 8) with
        | .error f => .error f
        | .ok rest => .ok (head ++ rest)

/-- The instruction at `a` with its word and length, or the fault that it raises there. -/
def State.decodeAt (s : State) (a : Addr48) : Except Flt (Instr × Nat × Nat) :=
  match s.fetchAt a with
  | .error f => .error f
  | .ok bs =>
    match decodeWord (leNat bs) with
    | .error _ => .error { code := 1, t2 := BitVec.ofNat 64 (leNat bs) }
    | .ok i => .ok (i, leNat bs, bs.length)

end Sys2Proof.Machine
end

