-- ==== Sys2Proof/Machine/EngineRun.lean ====
section
/-!
DEFINITION. Engine commands at their start vc, k-steps and landings; register landings, pool writes and SFU starts
(spec/13_engine_instructions.md R308, R313 to R329, spec/07_memory_model.md R155, R156, spec/02_execution_model.md R49, R62,
spec/18_translation_leases_partitions.md R398).
-/

namespace Sys2Proof.Machine

/-- The state as a command's issuer sees it. -/
def State.asIssuer (s : State) (c : Cmd) : State :=
  { s with cur := { key := c.key, cmd := false, train := c.train, team := c.team, alt := c.alt, addr := c.addr } }

/-- The distance of a twin's group keys from its primary's. -/
def twinSpan : Nat := 64 * 2 ^ 21
/-- The twin's command that starts with a primary's (R440). -/
def Cmd.twinIs (c : Cmd) (key start : Nat) : Bool := c.key == key + twinSpan && c.start == start

def State.setCmd (s : State) (c : Cmd) : State :=
  { s with grid := { s.grid with cmds := s.grid.cmds.map fun x => if x.id = c.id then c else x } }
def State.dropCmd (s : State) (id : Nat) : State := { s with grid := { s.grid with cmds := s.grid.cmds.filter fun x => x.id != id } }

/-! ### Pieces (R322, R398) -/

/-- The cause with which a piece fails on its pages, source first; 0 for none. -/
def State.pieceCause (s : State) (owner : Nat) (pages : List Nat) : Nat :=
  if !(pages.all fun p => peOwner (s.page p) == owner) then 1
  else if !(pages.all s.keyOk) then 2
  else if !(pages.all fun p => peCp (s.page p) && peLoc (s.page p) != 0) then 3
  else 0

/-- The translation of a side at the command's start. -/
def State.sideXlat (s : State) (write : Bool) (n : Nat) : Side → Option Xlat
  | .global va => s.engineXlat true write va n
  | .pool _ => none
  | .slot _ => none
  | .fill _ => none
  | .data _ => none

/-- Causes 5 and 6 of a piece of a ragged row (R323). -/
def State.rowCause (s : State) (m : Move) : Nat :=
  match m.src with
  | .global va =>
    match s.engineXlat true false va m.n with
    | none => 5
    | some x => if engineLeased s.myTrain s.myTeam.idx false va m.n x then 0 else 6
  | .pool _ => 0
  | .slot _ => 0
  | .fill _ => 0
  | .data _ => 0

/-- The intermediate pages of a piece. -/
def State.piecePages (s : State) (m : Move) : List Nat :=
  ((s.sideXlat false m.n m.src).toList ++ (s.sideXlat true m.n m.dst).toList).filterMap fun x =>
    if x.comp then none else some (pageOf x.ia)

/-- The rows of CPYR that pass their checks, as pieces, and the first row with a piece that fails: its cause and offset (R323). -/
def State.raggedRows (s : State) : List Move → List Move × Option (Nat × Nat)
  | [] => ([], none)
  | m :: ms =>
    match ((cutMoves [m]).map s.rowCause).find? (· != 0) with
    | some cause => ([], some (cause, m.off))
    | none => let r := s.raggedRows ms; (cutMoves [m] ++ r.1, r.2)

/-- The pieces that pass, in box order, and the first failure: cause and offset. -/
def State.pass (s : State) (owner : Nat) : List Move → List Move × Option (Nat × Nat)
  | [] => ([], none)
  | m :: ms =>
    let cause := s.pieceCause owner (s.piecePages m)
    if cause = 0 then let r := s.pass owner ms; (m :: r.1, r.2) else ([], some (cause, m.off))

/-! ### Reads at the start (R134, R155) -/

def State.poolBytes (s : State) (core mode a n : Nat) : List Byte :=
  (poolSegs mode a n).flatMap fun q => Memory.bytes s.grid.pool (core * coreSpan + q.1) q.2

/-- A slot's bytes: 32 KiB each. -/
def slotAt (core slot off : Nat) : Nat := core * coreSpan + 32768 * slot + off

/-- Global bytes as an engine reads them: companion memory and the capacity tier at home, else by caching level. -/
def State.engineBytes (s : State) (x : Xlat) (n : Nat) : List Byte :=
  if x.comp then Memory.bytes s.mem.comp x.ia n
  else if peLoc (s.page (pageOf x.ia)) = 2 || s.level x = 0 then Memory.bytes s.mem.home x.ia n
  else Memory.bytes s.mem.cview (viewKey (s.readCore s.me / 8) x.ia) n

def State.readSide (s : State) (mode slot n : Nat) : Side → List Byte
  | .pool a => s.poolBytes s.me.core mode a n
  | .slot a => Memory.bytes s.grid.slots (slotAt s.me.core slot a) n
  | .global va =>
    match s.engineXlat true false va n with
    | none => List.replicate n 0
    | some x => s.engineBytes x n
  | .fill _ => []
  | .data bs => bs.take n

/-- CPYR's offset array as the home gives it: a page that fails its checks gives zeros (R394, R397). -/
def State.arrayBytes (s : State) (m : Move) : List Byte :=
  if (s.piecePages m).all fun p => s.pageOk s.myTrain.owner p then s.readSide 0 0 m.n m.src else List.replicate m.n 0

/-- What bytes for a side put where. -/
def State.outsTo (s : State) (mode slot : Nat) (bs : List Byte) : Side → List OutWhat
  | .pool a =>
    ((poolSegs mode a bs.length).foldl (fun (acc : List OutWhat × List Byte) q =>
      (acc.1 ++ [OutWhat.pool s.me.core q.1 (acc.2.take q.2)], acc.2.drop q.2)) ([], bs)).1
  | .slot a => [.slot s.me.core slot a bs]
  | .global va =>
    match s.engineXlat true true va bs.length with
    | none => []
    | some x =>
      let level := if x.comp then 3 else if peLoc (s.page (pageOf x.ia)) = 2 then 0 else s.level x
      [.global level x.ia bs]
  | .fill _ => []
  | .data _ => []

/-- Rows of a fill: the moves into each row joined, and converted where the row is whole (R317, R322). -/
def fillOuts (core slot ss f : Nat) (ms : List (Nat × List Byte)) : List OutWhat :=
  (ms.map (·.1)).eraseDups.flatMap fun r =>
    let raw := (ms.filter fun m => m.1 == r).flatMap (·.2)
    if raw.length < fillBytes f then []
    else
      let x := fillRow f raw
      [OutWhat.slot core slot (256 * r) x.1] ++ (if x.2.isEmpty then [] else [OutWhat.slot core ss (256 * r) x.2])

def Side.fillRow? : Side → Option Nat
  | .fill r => some r
  | .pool _ => none
  | .slot _ => none
  | .global _ => none
  | .data _ => none

/-! ### The start of a command -/

/-- Outputs of a command, due at its landing, with the poisoned pages that global writes come from. -/
def State.addOutsFrom (s : State) (c : Cmd) (due : Nat) (ws : List (OutWhat × Option Nat)) : State :=
  { s with grid := { s.grid with outs := s.grid.outs ++ ws.map fun w =>
      { train := c.train, due := due, start := c.start, col := c.col, core := c.core, team := c.team, key := c.key, what := w.1, bad := w.2 } } }
def State.addOuts (s : State) (c : Cmd) (due : Nat) (ws : List OutWhat) : State := s.addOutsFrom c due (ws.map fun w => (w, none))

/-- A register owed by a command lands at `due`. -/
def State.landOwed (s : State) (c : Cmd) (due : Nat) (r : Nat × Nat) (w : Landing) : State :=
  let s := s.settleOwed c.key r
  { s with grid := { s.grid with pend := s.grid.pend ++ [{ train := c.train, due := due, key := c.key, what := w }] } }

/-- The scalar register that a command's DST names, as at its issue (R76). -/
def Cmd.scalarReg (c : Cmd) (n : Nat) : Nat × Nat := if c.bank && 112 ≤ n then (2, n - 112) else (1, n)

def landingOf (r : Nat × Nat) (x : W64) : Landing := if r.1 = 2 then .trapr r.2 (some x) else .scal r.2 (some x)

def State.landScalarOf (s : State) (c : Cmd) (n : Nat) (x : W64) : State :=
  let r := c.scalarReg n
  s.landOwed c c.land r (landingOf r x)

/-- Data of poisoned pages is consumed at a vc: where a command's outputs land, or at its start where they leave in frames (R432). -/
def State.poisoned (s : State) (c : Cmd) (at_ : Nat) (pages : List Nat) : State :=
  match pages.filter fun p => pePsn (s.page p) with
  | [] => s
  | ps => s.modTrain c.train fun t => { t with bad := t.bad ++ ps.eraseDups.map fun p => (at_, p, c.key) }

/-- The page of a piece's source, which is not companion memory. -/
def State.sourcePage (s : State) (m : Move) : Option Nat :=
  (s.sideXlat false m.n m.src).bind fun x => if x.comp then none else some (pageOf x.ia)
/-- The poisoned page of a piece's source. -/
def State.badSource (s : State) (m : Move) : Option Nat :=
  (s.sourcePage m).bind fun p => if pePsn (s.page p) then some p else none
def Side.isGlobal : Side → Bool
  | .global _ => true
  | .pool _ => false
  | .slot _ => false
  | .fill _ => false
  | .data _ => false

/-- Pages one after another, each stay on the same pages once: the pieces of a copy, which are cut at page boundaries only (R322). -/
def pieceRuns : List (List Nat) → List (List Nat)
  | a :: b :: rest => if a = b then pieceRuns (b :: rest) else a :: pieceRuns (b :: rest)
  | ps => ps

/-- What is common to CPY, CPYR, CPYK and ESP: the pieces that pass are read and written, the status and the end of the work land with them.
An ESP has no slot rows: of its linear slot bytes each element before the failing piece is written (DEDUCED, notes/assumptions/113.md). Bad
data that a pool or slot takes, or a CRC's scalar, is consumed there, and bad data that is committed at the boundary that commits it (R432).
`stop` is the failing row after the moves, `f` gives the fill of the slot rows, `crc` the CRC scalar with its input and the value to
compare. -/
def State.startMoves (s : State) (c : Cmd) (dst mode slot : Nat) (stop : Option (Nat × Nat)) (f ss : Nat) (ms : List Move)
    (crc : Option (Nat × Nat × Option Nat)) : State :=
  let owner := s.myTrain.owner
  let passed := s.pass owner (cutMoves ms)
  let r := (passed.1, if passed.2.isSome then passed.2 else stop)
  let read := r.1.map fun m => (m, s.readSide mode slot m.n m.src)
  let outs := read.flatMap fun p => (s.outsTo mode slot p.2 p.1.dst).map fun w => (w, if p.1.dst.isGlobal then s.badSource p.1 else none)
  let fills := fillOuts c.core slot ss f (read.filterMap fun p => p.1.dst.fillRow?.map fun k => (k, p.2))
  let out := crc.map fun x => crc32c x.2.1 (read.flatMap (·.2))
  let wrong := match crc, out, r.2 with
    | some (_, _, some want), some y, none => y != want
    | _, _, _ => false
  let status : Nat := match r.2 with
    | some (cause, off) => cause * 2 ^ 56 + off % 2 ^ 48
    | none => if wrong then 4 * 2 ^ 56 else 0
  let pages := (pieceRuns (r.1.map s.piecePages)).flatMap id
  let writesGlobal := outs.any fun w => match w.1 with
    | .global _ _ _ => true
    | .pool _ _ _ => false
    | .slot _ _ _ _ => false
    | .tile _ _ _ _ => false
    | .tileZero _ _ => false
    | .finish _ => false
  let s1 := (s.poisoned c c.land ((r.1.filter fun m => crc.isSome || !m.dst.isGlobal).filterMap s.sourcePage)).pin pages
  let s1 := s1.setCmd { c with started := true, failed := status != 0, waits := writesGlobal && status == 0, pages := pages }
  let s1 := s1.addOutsFrom c c.land (outs ++ (fills ++ [OutWhat.finish c.id]).map fun w => (w, none))
  let s1 := s1.landScalarOf c dst (BitVec.ofNat 64 status)
  let s1 := match crc, out with
    | some x, some y => s1.landScalarOf c x.1 (BitVec.ofNat 64 y)
    | _, _ => s1
  let s1 := if wrong then s1.modGroup c.key fun g => { g with checks := g.checks ++ [(c.land, c.addr)] } else s1
  match passed.2 with
  | none => s1
  | some (cause, _) => (if cause = 1 then s1.bump 0 9 else s1).bumpOwner owner 6

/-- The k-th tile word's key. -/
def tileAt (core tile k : Nat) : Nat := core * coreSpan + 16384 * tile + k

def State.clearTile (s : State) (core tile : Nat) : State :=
  { s with grid := { s.grid with tiles := Sp.clear s.grid.tiles (tileAt core tile 0) 16384 } }
def State.setKp (s : State) (core tile : Nat) (x : W64) : State := s.modCore core fun k => { k with kp := Sp.set 0 k.kp tile x }

/-- A slot's content moved to address 0. -/
def State.slotCopy (s : State) (core slot : Nat) : Memory :=
  Sp.rekey (Sp.window s.grid.slots (slotAt core slot 0) 32768) (slotAt core slot 0) 0

/-- MMA and MMAS read their slots whole; .z clears the tile; %kp lands 0 (R313). -/
def State.startMatrix (s : State) (c : Cmd) (o : Mma) : State :=
  let scale (code slot : Nat) : Memory := if scaled code then s.slotCopy c.core slot else []
  let c := { c with
    started := true, slotA := s.slotCopy c.core o.sa, slotB := s.slotCopy c.core o.sb
    scaleA := scale (fmtA c.fmt) (fmtAs c.fmt), scaleB := scale (fmtB c.fmt) (fmtBs c.fmt) }
  let s := if o.z then s.clearTile c.core o.tile else s
  (s.setKp c.core o.tile 0).setCmd c

/-- Whether ACCRD rounds by dither (R113). -/
def accDithers (fmt : W32) (o : Acc) : Bool := o.fmt < 4 && modeOf fmt o.rm == 4

/-- ACCRD: the rows converted; pool bytes or registers, flags and the dither phase land together (R315). -/
def State.startAccrd (s : State) (c : Cmd) (o : Acc) : State :=
  let n := (o.nrm1 + 1) * 128
  let words := (Sp.range 0 s.grid.tiles (tileAt c.core o.tile (128 * o.row0)) n).map BitVec.toNat
  let outs := ((List.range n).zip words).map fun p =>
    accOut o.fmt (modeOf c.fmt o.rm) (fmtPh c.fmt) o.sat (fmtE4n c.fmt) (p.1 % 128) p.2
  let bytes := outs.flatMap (·.1)
  let flags := outs.foldl (fun a p => orFlags a p.2) 0
  let pend (s : State) (w : Landing) : State :=
    { s with grid := { s.grid with pend := s.grid.pend ++ [{ train := c.train, due := c.land, key := c.key, what := w }] } }
  let w := s.me.width
  let s := s.setCmd { c with started := true }
  let s :=
    if o.dk then
      ((List.range (accRegs w o).length).zip (accRegs w o)).foldl (fun s p =>
        let part := (bytes.drop (4 * w * p.1)).take (4 * w)
        let lanes := (List.range (part.length / 4)).map fun l => (l, BitVec.ofNat 32 (leNat ((part.drop (4 * l)).take 4)))
        s.landOwed c c.land (0, p.2) (.vec p.2 lanes)) s
    else s.addOuts c c.land [.pool c.core (nth 0 c.vals 0).toNat bytes]
  let s := if flags = 0 then s else pend s (.gstatSet (BitVec.ofNat 32 flags))
  if accDithers c.fmt o && o.row0 + o.nrm1 = 127 then pend s (.ph c.alt) else s

/-- ACCWR: pool words enter the rows, and %kp lands 0 with them (R316). -/
def State.startAccwr (s : State) (c : Cmd) (o : Acc) : State :=
  let w := accWidth o.fmt
  let n := (o.nrm1 + 1) * 128
  let bytes := s.poolBytes c.core 0 (nth 0 c.vals 0).toNat (n * w)
  let words := (List.range n).map fun k => BitVec.ofNat 32 (accIn o.fmt (leNat ((bytes.drop (w * k)).take w)))
  let kp : Pend := { train := c.train, due := c.land, key := c.key, what := .kp c.core o.tile 0 }
  let s := (s.setCmd { c with started := true }).addOuts c c.land [.tile c.core o.tile (128 * o.row0) words]
  { s with grid := { s.grid with pend := s.grid.pend ++ [kp] } }

def State.startAccz (s : State) (c : Cmd) (tile : Nat) : State :=
  let kp : Pend := { train := c.train, due := c.land, key := c.key, what := .kp c.core tile 0 }
  let s := (s.setCmd { c with started := true }).addOuts c c.land [.tileZero c.core tile]
  { s with grid := { s.grid with pend := s.grid.pend ++ [kp] } }

def State.startTfill (s : State) (c : Cmd) (o : Tfill) : State :=
  let rows := (c.op.moves c.vals).map fun m => (m.dst.fillRow?.getD 0, s.readSide (c.op.bpm c.vals) 0 m.n m.src)
  (s.setCmd { c with started := true }).addOuts c c.land (fillOuts c.core o.slot o.ss o.f rows)

/-! ### Cells (R186, R187, R328, R329, R441, R442) -/

/-- A sent cell: its payload counts in the signature, and a primary's cell waits for its slot. -/
def State.startSend (s : State) (c : Cmd) (kind rop : Nat) (o : Send) : State :=
  let e := s.slotEntry o.port o.slot
  let payload := s.poolBytes c.core 0 (nth 0 c.vals 0).toNat 128
  let cell : LinkCell :=
    { kind := kind, dest := fieldOf e 0 7, dcore := fieldOf e 10 8, spkg := s.pkg, sslot := o.slot, flow := o.flow, rop := rop,
      payload := payload }
  let out : OutCell := { port := o.port, slot := o.slot, ready := s.bc.toNat, cell := cell, train := some c.train }
  let twin := s.myTeam.twin
  let s := (s.setCmd { c with started := true }).act (.cell payload)
  if twin then s else { s with pod := { s.pod with cells := s.pod.cells ++ [out] } }

/-- The oldest buffered cell that a receive matches. -/
def Cmd.matches (s : State) (c : Cmd) (x : LinkCell) : Bool :=
  match c.op with
  | .lrecv _ spkg flow _ _ => x.spkg == spkg && x.flow == flow
  | .lred _ o => x.kind == 1 && x.dest == fieldOf (s.slotEntry o.port o.slot) 0 7 && x.flow == o.flow
  | _ => false

def State.arrived (s : State) (c : Cmd) : Bool := (s.core c.core).rx.any (c.matches s)

/-- A receive takes its cell; the payload lands at the command's landing. -/
def State.takeCell (s : State) (c : Cmd) (a : Nat) : State :=
  match (s.core c.core).rx.find? (c.matches s) with
  | none => s
  | some x =>
    let s1 := s.modCore c.core fun k => { k with rx := eraseFirst (c.matches s) k.rx }
    s1.addOuts c c.land [.pool c.core a x.payload]

def State.startRecv (s : State) (c : Cmd) : State :=
  (s.takeCell c (nth 0 c.vals 0).toNat).setCmd { c with started := true }

/-! ### Hall operations at their start (R192 to R196, R330, R331) -/

/-- A path table entry. -/
def State.hpath (s : State) (plane pod : Nat) : W64 := Sp.get 0 s.pod.hpath (128 * plane + pod)

/-- The operation's frames: offset from the operation's first byte, and the frame. Set bits in the reserved fields of the target descriptor
change nothing (DESIGN CHOICE, notes/assumptions/116.md). -/
def hallFrames (op : Nat) (o : Hall) (vs : List W64) (bytes : List Byte) : List (Nat × HallFrame) :=
  let base := fieldOf (nth 0 vs 1) 0 48
  let w := nth 0 vs 2
  let len := (nth 0 vs 4).toNat
  (List.range (ceilDiv len 1024)).map fun i =>
    let off := base + 1024 * i
    (1024 * i,
      { op := op, plane := off / 65536 % 16, pod := fieldOf w 0 7, pkg := fieldOf w 7 6, tag := 0, inc := 0, owner := fieldOf w 13 12,
        offset := off % 2 ^ 48, acode := if o.ac = 0 then 0 else 3 + o.ac, len := min 1024 (len - 1024 * i),
        payload := (bytes.drop (1024 * i)).take 1024 })

/-- Whether the path table has no path for some frame of an operation (R194). -/
def State.noPath (s : State) (frames : List (Nat × HallFrame)) : Option Nat :=
  (frames.find? fun f => fieldOf (s.hpath f.2.plane f.2.pod) 63 1 == 0).map (·.1)

/-- An LPUT or LGET that sends nothing, by its status: one of length 0, or without a path (R194, R330). -/
def State.hallEmpty (s : State) (c : Cmd) : Option W64 :=
  let empty (o : Hall) (op : Nat) : Option W64 :=
    if (nth 0 c.vals 4).toNat = 0 then some 0
    else (s.noPath (hallFrames op o c.vals [])).map fun off => BitVec.ofNat 64 (7 * 2 ^ 56 + off)
  match c.op with
  | .lput _ o => empty o 0
  | .lputAtomic _ o => empty o 3
  | .lget _ o => empty o 1
  | _ => none

/-- The cause with which a local page fails for the engine: 1 owner, 2 key (R394, R397). -/
def State.localCause (s : State) (owner p : Nat) : Nat :=
  if s.pageOk owner p then 0 else if peOwner (s.page p) = owner && peLoc (s.page p) != 0 then 2 else 1

/-- Frames take their places among those that wait, in issue order of their commands (R196). -/
def queueFrames (queue frames : List (Nat × HallTag)) : List (Nat × HallTag) :=
  frames.foldl (fun q f => insertBy (fun a b => a.2.opId ≤ b.2.opId) f q) queue

/-- LPUT and LGET: local bytes are read, and frames wait for tags. An operation that its boundary has already counted does nothing more;
one that sends nothing waits for that boundary. A local piece that fails ends the operation. The pages of a global local side are
pinned until its completion (R402). A twin makes no hall operation (R441): its command completes with its primary's. -/
def State.startHall (s : State) (c : Cmd) (o : Hall) (op : Nat) : State :=
  let owner := s.myTrain.owner
  let len := (nth 0 c.vals 4).toNat
  let local_ := (nth 0 c.vals 0).toNat
  if s.myTeam.twin || c.steps != 0 then s.setCmd { c with started := true, waits := s.myTeam.twin && c.steps == 0 }
  else if (s.hallEmpty c).isSome then s.setCmd { c with started := true, waits := true, ends := s.hallEmpty c }
  else
    let sides := if o.lk then cutMoves [{ off := 0, n := len, src := .global local_, dst := .data [] }] else []
    let place (m : Move) : Option Nat := match m.src with
      | .global va => (s.engineXlat false (op == 1) va m.n).map fun x => pageOf x.ia
      | _ => none
    let pages := sides.filterMap place
    let bad := sides.findSome? fun m => (place m).bind fun p =>
      if s.localCause owner p = 0 then none else some (s.localCause owner p, m.off)
    let bytes :=
      if op = 1 then [] else if o.lk then sides.flatMap fun m => s.readSide 0 0 m.n m.src else s.poolBytes c.core 0 local_ len
    let frames := if bad.isSome then [] else hallFrames op o c.vals bytes
    let hop : HallOp :=
      { id := c.id, train := c.train, team := c.team, key := c.key, group := c.group, core := c.core, scope := o.csel - 1,
        counterIa := s.place (nth 0 c.vals 3).toNat 8, left := frames.length
        status := match bad with
          | none => 0
          | some (cause, off) => BitVec.ofNat 64 (cause * 2 ^ 56 + off % 2 ^ 48)
        get := op == 1, localGlobal := o.lk, localAddr := local_, old := none, data := [], after := c.start }
    let waiting : List (Nat × HallTag) :=
      frames.map fun f => (f.2.plane, { frame := f.2, attempts := 0, sent := 0, opId := c.id, first := f.1 })
    let s := if op = 1 || bad.isSome then s else s.poisoned c s.now pages
    let s := match bad with
      | some (1, _) => s.bump 0 9
      | _ => s
    let s := (s.pin pages).setCmd { c with started := true, waits := true, pages := pages }
    { s with pod := { s.pod with hallOps := s.pod.hallOps ++ [hop], hallQ := queueFrames s.pod.hallQ waiting } }

/-! ### Column starts (COLUMN_ENTRY_START) -/

/-- A started command's column is free from the end of its occupancy (R304). -/
def State.occupy (s : State) (c : Cmd) : State :=
  if c.col < 4 then
    s.modCore c.core fun k => { k with colFree := Sp.set 0 k.colFree c.col (max (Sp.get 0 k.colFree c.col) (c.start + c.occ)) }
  else s

/-- A command starts: its column is occupied, and it reads its inputs. -/
def State.startCmd (s0 : State) (c : Cmd) : State :=
  let s := s0.asIssuer c
  let s := s.occupy c
  let mode := c.op.bpm c.vals
  match c.op with
  | .mma _ o => s.startMatrix c o
  | .mmas _ o => s.startMatrix c o
  | .accz _ t _ => s.startAccz c t
  | .accrd _ o => s.startAccrd c o
  | .accwr _ o => s.startAccwr c o
  | .tfill _ o => s.startTfill c o
  | .cpy _ o => s.startMoves c o.dst mode o.slot none o.f o.ss (c.op.moves c.vals) none
  | .cpyk _ o =>
    let v := copyVals o c.vals
    s.startMoves c o.dst mode o.slot none o.f o.ss (c.op.moves c.vals)
      (some (o.y, v.crcIn o, if o.cmp then some (v.crcWant o) else none))
  | .cpyr _ o =>
    let v := copyVals o c.vals
    let array := (nth 0 v.rest 0).toNat
    let reads := cutMoves [{ off := 0, n := 4 * (v.box.n1 + 1), src := .global array, dst := .data [] }]
    let bytes := reads.flatMap s.arrayBytes
    let offs := (List.range (v.box.n1 + 1)).map fun i => leNat ((bytes.drop (4 * i)).take 4)
    let rows := s.raggedRows (raggedMoves o v offs)
    let pages := reads.flatMap s.piecePages
    let s := (s.countMisses s.myTrain.owner pages).poisoned c c.land pages
    s.startMoves c o.dst mode o.slot rows.2 o.f o.ss rows.1 none
  | .esp _ o => s.startMoves c o.dst mode o.slot none 0 0 (c.op.moves c.vals) none
  | .lsend _ o => s.startSend c 0 0 o
  | .lmcast _ o => s.startSend c 2 0 o
  | .lred _ o => s.startSend c 1 o.rop o
  | .lrecv _ _ _ _ _ => s.startRecv c
  | .lput _ o => s.startHall c o 0
  | .lputAtomic _ o => s.startHall c o 3
  | .lget _ o => s.startHall c o 1
  | _ => s.setCmd { c with started := true }

/-- Whether a link command waits: an absent cell, or a package out of the pod (R170, R178, R187). -/
def State.cmdLate (s : State) (c : Cmd) : Bool :=
  match c.op with
  | .lrecv _ _ _ _ _ => !s.pod.inPod || !s.arrived c
  | .lsend _ _ => !s.pod.inPod
  | .lmcast _ _ => !s.pod.inPod
  | .lred _ _ => !s.pod.inPod
  | _ => false

/-- The commands of a train due to start at its clock, in the order M, C, E, L and by core. -/
def State.dueCmds (s : State) (tr : Nat) : List Cmd :=
  let clk := (s.train tr).clk
  sortBy (fun a b => lexLe [a.col, a.core] [b.col, b.core])
    (s.grid.cmds.filter fun c => c.train == tr && !c.started && c.start ≤ clk)

def State.startColumns (s : State) (tr : Nat) : State :=
  let cur := s.cur
  let s := (s.dueCmds tr).foldl (fun s c => if s.cmdLate c then s else s.startCmd c) s
  { s with cur := cur }

/-- LRED's receive at s + 192, still to be made. -/
def State.dueReds (s : State) (tr : Nat) : List Cmd :=
  let clk := (s.train tr).clk
  s.grid.cmds.filter fun c => c.train == tr && c.started && c.steps == 0 && c.land ≤ clk + 8 && match c.op with
    | .lred _ _ => true
    | _ => false

def State.receiveReds (s : State) (tr : Nat) : State :=
  (s.dueReds tr).foldl (fun s c =>
    if s.arrived c then (s.takeCell c (nth 0 c.vals 1).toNat).setCmd { c with steps := 1 } else s) s

/-! ### k-steps (R121 to R124, R103, R313) -/

def Instr.mmaOf : Instr → Option (Bool × Mma)
  | .mma _ o => some (false, o)
  | .mmas _ o => some (true, o)
  | _ => none

/-- The vc of the next k-step, for FP32X3 of its next pass. -/
def Cmd.nextStep (c : Cmd) : Nat := c.start + kPace c.fmt * c.steps + c.pass

/-- Matrix commands whose next k-step is due. -/
def State.dueSteps (s : State) (tr : Nat) : List Cmd :=
  let clk := (s.train tr).clk
  s.grid.cmds.filter fun c => c.train == tr && c.started && c.nextStep ≤ clk && match Instr.mmaOf c.op with
    | some (_, o) => c.steps ≤ o.nm1
    | none => false

/-- The slot of a group's next run start: the handler's, the only issuable one, or the next of the alternation (R41, R372). A run under
way in the only issuable slot is cut at the point of the fault. -/
def Group.nextSlot (g : Group) : Bool :=
  let free := match g.handler with
    | some a => [a]
    | none => [false, true].filter fun a => (g.slot a).issuable
  match free with
  | [a] => a
  | [] => !g.pri.live && g.alt.live
  | _ => g.altNext

/-- A fault that an engine detects: code 6 at the vc of detection, for the conductor that issued, with its next run start (R103, R366).
An ended conductor has none: t1 is a free value. -/
def State.engineFault (s : State) (c : Cmd) : State :=
  let g := s.group c.key
  let t := s.train c.train
  let alt := if g.ended then bitAt (Config.value s.fresh) 48 else g.nextSlot
  let resume := if g.ended then (Config.value s.fresh).truncate 48 else (g.slot alt).pc
  let r : FaultRec :=
    { team := c.team, group := c.group, key := c.key, code := 6, lane := 255, tcode := 0, resume := resume, alt := alt,
      t2 := 0, p := t.clk, pvc := t.vc }
  (s.spend.modTrain c.train fun t => { t with faults := t.faults ++ [r] }).dropCmd c.id

/-- One pass of a k-step on every element of the tile: the whole k-step, but a third of it for FP32X3 (R123). After the last pass %kp
lands at the next step's vc; IOV lands at the completion. -/
def State.stepMatrix (s : State) (c : Cmd) (sparse : Bool) (o : Mma) : State :=
  let fa := fmtA c.fmt
  let fb := fmtB c.fmt
  let depth := pairDepth sparse fa fb
  let k := o.k0 + c.steps
  let aRows := slotRows c.slotA
  if sparse && indexFault depth o.k0 k aRows then s.engineFault c
  else
    let base := tileAt c.core o.tile 0
    let words := (Sp.range 0 s.grid.tiles base 16384).map BitVec.toNat
    let r := kstep fa fb depth k c.pass words aRows (slotRows c.slotB) (slotRows c.scaleA) (slotRows c.scaleB)
    let iov := c.iov || r.2
    let done := c.pass + 1 = kPace c.fmt
    let kp : Pend :=
      { train := c.train, due := c.nextStep + 1, key := c.key, what := .kp c.core o.tile (BitVec.ofNat 64 (c.steps + 1)) }
    let flag : Pend := { train := c.train, due := c.land, key := c.key, what := .gstatSet (BitVec.ofNat 32 flagIOV) }
    let g := s.grid
    let s := { s with grid := { g with
        tiles := Sp.put 0 g.tiles base (r.1.map (BitVec.ofNat 32))
        pend := g.pend ++ (if done then [kp] else []) ++ (if done && c.steps = o.nm1 && iov then [flag] else []) } }
    s.setCmd (if done then { c with steps := c.steps + 1, pass := 0, iov := iov } else { c with pass := c.pass + 1, iov := iov })

def State.stepMatrices (s : State) (tr : Nat) : State :=
  (s.dueSteps tr).foldl (fun s c => match Instr.mmaOf c.op with
    | some (sparse, o) => s.stepMatrix c sparse o
    | none => s) s

/-! ### Landings (R49, R84, R134, R156, R158, R276, R308) -/

/-- The order of register landings within a vc: status clears and phase advances first (R83, R84). -/
def Landing.rank : Landing → Nat
  | .gstatClear _ => 0
  | .ph _ => 0
  | .vec _ _ => 1
  | .scal _ _ => 1
  | .trapr _ _ => 1
  | .mask _ _ _ => 1
  | .cond _ _ => 1
  | .gstatSet _ => 1
  | .fmt _ _ _ => 1
  | .tvec _ => 1
  | .tb _ => 1
  | .claim _ _ _ => 1
  | .unclaim _ => 1
  | .kp _ _ _ => 1

/-- An atomic's result that has landed is awaited no more. -/
def State.arriveAt (s : State) (p : Pend) : State :=
  match p.what.register with
  | some (0, r) => s.settleOwed p.key (awaited, r)
  | _ => s

/-- Registers land, and then the acquires that complete in this vc refresh their cores' views (R144, R151); that of a group that
has left its core for a save has no view to refresh. -/
def State.landRegisters (s : State) (tr : Nat) : State :=
  let clk := (s.train tr).clk
  let due (p : Pend) : Bool := p.train == tr && p.due ≤ clk && (s.group p.key).resident
  let taken (a : Acquire) : Bool := a.train == tr && a.due ≤ clk
  let ps := sortBy (fun a b => a.what.rank ≤ b.what.rank) (s.grid.pend.filter due)
  let s := { s with grid := { s.grid with pend := s.grid.pend.filter fun p => !due p } }
  let s := ps.foldl (fun s p => (s.land p.key p.what).arriveAt p) s
  let here (a : Acquire) : Bool := (s.group a.key).width = 0 || (s.group a.key).resident
  let s1 := ((s.grid.acquires.filter taken).filter here).foldl (fun s a => s.refreshCore a.core) s
  { s1 with grid := { s1.grid with acquires := s1.grid.acquires.filter fun a => !taken a } }

/-- STP bytes enter the pool in the order of (team, group, lane). -/
def State.landStps (s : State) (tr : Nat) : State :=
  let clk := (s.train tr).clk
  let due (p : PoolWrite) : Bool := p.train == tr && p.due ≤ clk
  let ps := sortBy (fun a b => lexLe [a.team, a.group, a.lane] [b.team, b.group, b.lane]) (s.grid.stps.filter due)
  let g := s.grid
  { s with grid := { g with
      stps := g.stps.filter fun p => !due p
      pool := ps.foldl (fun m p => Memory.put m (p.core * coreSpan + p.addr) p.data) g.pool } }

/-- The end of a copy's work: its pages are unpinned, and its counter add waits for the boundary (R158, R402). -/
def State.finishCmd (s : State) (id : Nat) : State :=
  match s.grid.cmds.find? fun c => c.id == id with
  | none => s
  | some c =>
    let s := (s.unpin c.pages).setCmd { c with pages := [] }
    let csel := c.op.counter
    if c.failed || csel = 0 then s
    else
      let cur := s.cur
      let s := s.asIssuer c
      let s := s.act (.count (csel - 1) (s.place (nth 0 c.vals c.op.counterPlace).toNat 8) 1 none)
      { s with cur := cur }

/-- One engine output lands; a global write joins the quantum as a store of its conductor's team, in the order of start vc. Of writes of
one conductor that start in one vc the column order decides, which R56 leaves open (DESIGN CHOICE, notes/assumptions/101.md). -/
def State.landOut (s : State) (e : EngOut) : State :=
  match e.what with
  | .pool core a bs => { s with grid := { s.grid with pool := Memory.put s.grid.pool (core * coreSpan + a) bs } }
  | .slot core n off bs => { s with grid := { s.grid with slots := Memory.put s.grid.slots (slotAt core n off) bs } }
  | .tile core t first ws => { s with grid := { s.grid with tiles := Sp.put 0 s.grid.tiles (tileAt core t first) ws } }
  | .tileZero core t => s.clearTile core t
  | .global level ia bs =>
    let b : BufStore :=
      { train := e.train, team := e.team, group := (s.group e.key).idx, pos := 64 + 8 * e.start + e.col, ord := s.grid.ord,
        clk := e.due, level := level, ia := ia, data := bs, bad := e.bad }
    { s with grid := { s.grid with stores := s.grid.stores ++ [b], ord := s.grid.ord + 1 } }
  | .finish id => s.finishCmd id

def State.landOuts (s : State) (tr : Nat) : State :=
  let clk := (s.train tr).clk
  let due (e : EngOut) : Bool := e.train == tr && e.due ≤ clk
  let es := sortBy (fun a b => lexLe [a.start, a.col, a.core] [b.start, b.col, b.core]) (s.grid.outs.filter due)
  let s := { s with grid := { s.grid with outs := s.grid.outs.filter fun e => !due e } }
  es.foldl State.landOut s

/-- The landings of an SFU entry, 24 vc after its start. -/
def SfuEntry.lands (e : SfuEntry) : List Pend :=
  let mk (w : Landing) : Pend := { train := e.train, due := e.start + 24, key := e.key, what := w }
  mk (.vec e.dst e.lanes) :: (if e.flags = (0 : W32) then [] else [mk (.gstatSet e.flags)])

/-- SFU entries that start. A restored entry's landings are pending already; the group of an ended team has no register left. -/
def State.startSfu (s : State) (tr : Nat) : State :=
  let clk := (s.train tr).clk
  let due (e : SfuEntry) : Bool := e.train == tr && e.start ≤ clk
  let es := s.grid.sfu.filter due
  let s := { s with grid := { s.grid with sfu := s.grid.sfu.filter fun e => !due e } }
  es.foldl (fun s e =>
    let s := s.modCore e.core fun k => { k with lastSfu := some e.start }
    if e.only || (s.group e.key).width = 0 then s
    else
    let s := s.settleOwed e.key (0, e.dst)
    { s with grid := { s.grid with pend := s.grid.pend ++ e.lands } }) s

end Sys2Proof.Machine
end

