-- ==== Sys2Proof/Machine/Hall.lean ====
section
/-!
DEFINITION. The hall tier: sending, replies, retries, requests of other pods, and the completion of LPUT and LGET at a boundary
(spec/08_time_pod_and_fabric.md R192 to R197, spec/13_engine_instructions.md R330, R331,
spec/18_translation_leases_partitions.md R404).
-/

namespace Sys2Proof.Machine

/-! ### Frames in bytes (R192, R193, R195) -/

/-- Bytes of payload that an operation's frame carries: a GET request names a length and has none. -/
def hallPayload (op len : Nat) : Nat := if op = 1 then 0 else len

/-- The bytes of a frame that package `pkg` of this pod sends, with its FCS. -/
def hallBytes (pkg : Nat) (f : HallFrame) : List Byte :=
  let b (n : Nat) : Byte := BitVec.ofNat 8 n
  let dst := [b (2 * f.up), b f.spine, b f.pkg, b f.flow] ++ leBytes 2 (f.tag % 4096 + 4096 * (f.inc % 16))
  let src := [2, b Config.podIndex.toNat, b pkg, b f.plane, 0, 0]
  let op := [b f.op] ++ leBytes 2 f.len ++ leBytes 2 f.owner ++ leBytes 6 f.offset ++ [b f.acode] ++ List.replicate 4 0
  let body := dst ++ src ++ [0x88, 0xB5] ++ op ++ f.payload.take (hallPayload f.op f.len)
  body ++ leBytes 4 (crcEthernet body)

/-- A frame read back from its bytes; the other end is its source. -/
def hallOf (bs : List Byte) : HallFrame :=
  let n (i k : Nat) : Nat := leNat ((bs.drop i).take k)
  let len := n 15 2
  { op := n 14 1 % 16, plane := n 9 1, pod := n 7 1, pkg := n 8 1, tag := n 4 2 % 4096, inc := n 4 2 / 4096, owner := n 17 2 % 4096
    offset := n 19 6, acode := n 25 1, len := len, up := n 0 1 / 2, spine := n 1 1, flow := n 3 1
    payload := (bs.drop 30).take (hallPayload (n 14 1 % 16) len) }

/-- Whether bytes are a frame of R192 for package `pkg`: addresses, EtherType, header, length and FCS. -/
def hallFormOk (pkg : Nat) (bs : List Byte) : Bool :=
  let n (i k : Nat) : Nat := leNat ((bs.drop i).take k)
  let f := hallOf bs
  let body := bs.take (bs.length - 4)
  n 0 1 % 2 == 0 && n 2 1 == pkg && n 6 1 == 2 && f.pod < 128 && f.pkg < 64 && f.plane < 16 && n 10 2 == 0 && n 12 2 == 0xB588 &&
  f.op < 6 && f.len ≤ 1024 && n 26 4 == 0 && bs.length == 34 + hallPayload f.op f.len && leNat (bs.drop (bs.length - 4)) == crcEthernet body

/-! ### Sending (R194, R196, R457) -/

def tagKey (plane tag : Nat) : Nat := 4096 * plane + tag

/-- The lowest free tag of a plane. -/
def State.freeTag (s : State) (plane : Nat) : Option Nat :=
  (List.range 4096).find? fun t => !(s.pod.tags.any fun p => p.1 == tagKey plane t)

/-- An operation that fails at one of its frames: the first failure's cause and offset stay. -/
def HallOp.fail (o : HallOp) (cause off : Nat) : HallOp :=
  if o.status = 0 then { o with status := BitVec.ofNat 64 (cause * 2 ^ 56 + off % 2 ^ 48) } else o

def Pod.modOp (p : Pod) (id : Nat) (f : HallOp → HallOp) : Pod :=
  { p with hallOps := p.hallOps.map fun o => if o.id = id then f o else o }

/-- An operation ends: no frame of it waits or holds a tag. -/
def Pod.endOp (p : Pod) (id cause off : Nat) : Pod :=
  { p.modOp id fun o => { o.fail cause off with left := 0 } with
    tags := p.tags.filter fun t => t.2.opId != id
    hallQ := p.hallQ.filter fun t => t.2.opId != id }

/-- bc for which a frame occupies its port (R29). -/
def framePeriod : Nat := 8

/-- Whether a plane's port sends no frame in this bc. In HALTED it goes on to the end of the 64-bc frame (R459). -/
def State.portBusy (s : State) (plane : Nat) : Bool :=
  s.portStopped || (s.sys.boot != 8 && s.sys.boot != 15) || s.bcHold != 0 ||
  s.pod.hallLast.any fun p => p.1 == plane && s.bc.toNat + 1 < p.2 + framePeriod

/-- A frame leaves by its plane's port. -/
def State.putFrame (s : State) (f : HallFrame) (err : Bool) : State :=
  { s with pod := { s.pod with
      frames := s.pod.frames ++ [(hallBytes s.pkg f, err)]
      hallLast := Sp.set 0 s.pod.hallLast f.plane (s.bc.toNat + 1) } }

/-- A frame with the path that the table holds for its plane and pod (R194). R194 says that the own pod's entry is not used, as traffic
within the pod is no hall traffic, and says nothing of an operation that names the own pod: its frame takes that entry as any other's
(DESIGN CHOICE, notes/assumptions/123.md). -/
def State.withPath (s : State) (f : HallFrame) : HallFrame :=
  let e := s.hpath f.plane f.pod
  { f with up := fieldOf e 0 7, spine := fieldOf e 8 8, flow := fieldOf e 16 8 }

def State.hasPath (s : State) (f : HallFrame) : Bool := fieldOf (s.hpath f.plane f.pod) 63 1 == 1

/-- A tag's first INC for a new frame: the next multiple of 4, so that no attempt of an earlier frame bears it. DESIGN CHOICE (log
83). -/
def State.firstInc (s : State) (k : Nat) : Nat := Sp.get 0 s.pod.incs k

/-- A request with a free tag: its path and INC are fixed for all its attempts (R194, R196). -/
def State.sendRequest (s : State) (q : Nat × HallTag) (t : Nat) : State :=
  let k := tagKey q.1 t
  let f := s.withPath { q.2.frame with tag := t, inc := s.firstInc k }
  let s := { s with pod := { s.pod with
      hallQ := eraseFirst (fun y => y == q) s.pod.hallQ
      tags := s.pod.tags ++ [(k, { q.2 with frame := f, attempts := 1, sent := s.time })]
      incs := Sp.set 0 s.pod.incs k ((s.firstInc k + 4) % 16) } }
  s.putFrame f false

/-- What a plane's port would send next: the tag of a further attempt, a reply, or the first waiting request. -/
inductive FrameDue where
  | retry (tag : Nat × HallTag)
  | reply (r : HallFrame × Bool)
  | request (q : Nat × HallTag)
deriving DecidableEq, Repr

/-- Further attempts leave first, then replies, then requests in issue order. DESIGN CHOICE (log 82). -/
def State.frameDue (s : State) (plane : Nat) : Option FrameDue :=
  if s.portBusy plane then none
  else
    match s.pod.tags.find? fun t => t.2.waiting && t.1 / 4096 == plane with
    | some t => some (.retry t)
    | none =>
      match s.pod.answers.find? fun r => r.1.plane == plane with
      | some r => some (.reply r)
      | none =>
        match s.pod.hallQ.find? fun q => q.1 == plane with
        | some q => if !s.hasPath q.2.frame || (s.freeTag plane).isSome then some (.request q) else none
        | none => none

/-- A plane's port sends one frame. A request or a reply that finds no path is not sent; the request's operation ends with cause 7. -/
def State.sendFrame (s : State) (plane : Nat) : State :=
  match s.frameDue plane with
  | none => s
  | some (.retry t) =>
    let again : HallTag := { t.2 with waiting := false, sent := s.time }
    let s : State := { s with pod := { s.pod with tags := s.pod.tags.map fun p => if p.1 = t.1 then (t.1, again) else p } }
    s.putFrame again.frame false
  | some (.reply r) =>
    let s := { s with pod := { s.pod with answers := eraseFirst (fun x => x == r) s.pod.answers } }
    if s.hasPath r.1 then s.putFrame (s.withPath r.1) r.2 else s
  | some (.request q) =>
    if s.hasPath q.2.frame then
      match s.freeTag plane with
      | none => s
      | some t => s.sendRequest q t
    else { s with pod := s.pod.endOp q.2.opId 7 q.2.first }

/-! ### Replies and retries (R196) -/

/-- A reply: stale ones are dropped and counted; an accepted one frees its tag. -/
def State.hallReply (s : State) (f : HallFrame) (err : Bool) : State :=
  let k := tagKey f.plane f.tag
  if 1024 < f.len then s.bump 0 5
  else match (s.pod.tags.find? fun p => p.1 == k).map (·.2) with
  | none => s.bump 0 6
  | some t =>
    if t.frame.inc != f.inc then s.bump 0 6
    else
      let p := { s.pod with tags := s.pod.tags.filter fun x => x.1 != k }
      let bytes := f.payload.take f.len
      { s with pod := p.modOp t.opId fun o =>
          let o := { o with left := o.left - 1 }
          if err then o.fail 8 t.first
          else if o.get then { o with data := o.data ++ [(t.first, bytes)] }
          else if f.op = 4 then { o with old := some bytes }
          else o }

/-- Attempts of one frame in all. -/
def hallAttempts : Nat := 4

/-- Whether a frame's reply has not come within 1,600,000 bc of its leaving. -/
def State.replyLate (s : State) (t : HallTag) : Bool := !t.waiting && t.sent + 1600000 ≤ s.time

/-- No reply within 1,600,000 bc: the request waits to leave again with the next INC, or TIMEOUT after the last attempt. -/
def State.hallTimeout (s : State) (plane tag : Nat) : State :=
  let k := tagKey plane tag
  match (s.pod.tags.find? fun p => p.1 == k).map (·.2) with
  | none => s
  | some t =>
    if !s.replyLate t then s
    else if t.attempts ≥ hallAttempts then { s with pod := s.pod.endOp t.opId 7 t.first }
    else
      let again : HallTag :=
        { t with attempts := t.attempts + 1, waiting := true, frame := { t.frame with inc := (t.frame.inc + 1) % 16 } }
      { s with pod := { s.pod with tags := s.pod.tags.map fun p => if p.1 = k then (k, again) else p } }

/-! ### Requests of other pods (R195, R197, R404) -/

/-- The intermediate address of byte `o` of a tenant's export region. -/
def State.exportAt (s : State) (owner o : Nat) : Nat :=
  let h := s.hpol owner
  s.pkg * 2 ^ 50 + fieldOf h 60 2 * 2 ^ 48 + fieldOf h 52 7 * 2 ^ 32 + o

/-- Whether a request's bytes lie in the export region, on pages that the tenant reaches and a standing lease holds (R394, R397, R404). -/
def State.exports (s : State) (f : HallFrame) : Bool :=
  let h := s.hpol f.owner
  fieldOf h 63 1 == 1 && f.offset + f.len ≤ 65536 * fieldOf h 32 20 &&
  (pieces (s.exportAt f.owner f.offset) f.len).all fun q =>
    let p := pageOf q.1
    s.pageOk f.owner p && s.mem.leases.any fun l => l.state == 1 && l.holder == -1 && l.owner == f.owner && l.holds p

def seenKey (f : HallFrame) : Nat := ((f.pod * 64 + f.pkg) * 16 + f.plane) * 4096 + f.tag

/-- What tells a request from another of its tag: its content and its tag's use (log 83), whatever path it took. -/
def hallAsked (f : HallFrame) : HallFrame := { f with inc := f.inc / 4, up := 0, spine := 0, flow := 0 }

/-- The same request sent again. -/
def HallSeen.repeats (x : HallSeen) (f : HallFrame) : Bool := hallAsked x.request == hallAsked f

/-- The operands of an atomic; ACAS has two. -/
def hallOperandsOf (f : HallFrame) : Nat := if f.acode = 13 then 2 else 1
/-- The bytes of an atomic's operand, from its length. -/
def hallWidth (f : HallFrame) : Nat := f.len / hallOperandsOf f

/-- Whether an atomic request has a code, a length and an aligned offset that R331 allows. One that has not is answered with an error reply
and performs nothing: R195 names that answer for other requests only (DESIGN CHOICE, notes/assumptions/93.md). -/
def hallAtomicOk (f : HallFrame) : Bool :=
  let n := hallWidth f
  4 ≤ f.acode && f.acode ≤ 15 && (n == 4 || n == 8 && f.acode != 14) && n * hallOperandsOf f == f.len && f.offset % n == 0

/-- An operation is performed at its home, and its reply leaves. -/
def State.performHall (s : State) (f : HallFrame) : State × HallFrame :=
  let a := s.exportAt f.owner f.offset
  let n := hallWidth f
  let reply (op : Nat) (bs : List Byte) : HallFrame := { f with op := op, len := bs.length, payload := bs }
  if f.op = 0 then (s.homeWrite f.owner a (f.payload.take f.len), reply 5 [])
  else if f.op = 1 then (s, reply 2 (s.homeBytes f.owner a f.len))
  else
    let old := s.homeBytes f.owner a n
    let c (i : Nat) : Nat := leNat ((f.payload.drop (n * i)).take n)
    (s.homeWrite f.owner a (leBytes n (atomicNew f.acode (8 * n) (leNat old) (c 0) (c 1))), reply 4 old)

/-- A reply waits for its port. -/
def State.reply (s : State) (r : HallFrame) (err : Bool) : State :=
  { s with pod := { s.pod with answers := s.pod.answers ++ [(r, err)] } }

/-- A reply is kept as its tag's last and waits for its port (R197). -/
def State.answer (s : State) (f r : HallFrame) (err : Bool) : State :=
  let x : HallSeen := { request := f, reply := r, err := err }
  let s : State := { s with pod := { s.pod with replies := s.pod.replies.filter (fun p => p.1 != seenKey f) ++ [(seenKey f, x)] } }
  s.reply r err

/-- The pages of the export region that a request reaches. -/
def State.exportPages (s : State) (f : HallFrame) : List Nat :=
  (pieces (s.exportAt f.owner f.offset) f.len).map fun q => pageOf q.1

/-- A request that may not reach its bytes: it counts and is answered with an error reply (R195, R404). -/
def State.refuseHall (s : State) (f : HallFrame) : State :=
  (s.countMisses f.owner (s.exportPages f)).answer f { f with op := if f.op = 0 then 5 else f.op + 1, len := 0, payload := [] } true

/-- The request sent again: a PUT writes its bytes again where it may still reach them (R404), everything else is answered only (R197). -/
def State.repeatHall (s : State) (x : HallSeen) (f : HallFrame) : State :=
  let again := { x.reply with inc := f.inc }
  if f.op != 0 || x.err then s.reply again x.err
  else if s.exports f then (s.performHall f).1.reply again false
  else s.refuseHall f

/-- A frame that is no request of R192 is discarded and counted. -/
def State.hallRequest (s : State) (f : HallFrame) : State :=
  if s.sys.boot != 8 then s
  else if (f.op != 0 && f.op != 1 && f.op != 3) || 1024 < f.len then s.bump 0 5
  else
    match (s.pod.replies.find? fun p => p.1 == seenKey f && p.2.repeats f).map (·.2) with
    | some x => s.repeatHall x f
    | none =>
      if s.exports f && (f.op != 3 || hallAtomicOk f) then let r := s.performHall f; r.1.answer f r.2 false
      else s.refuseHall f

/-- A hall frame's bytes reach a port: a request, a reply, or a frame that is discarded and counted (R192). -/
def State.frameArrives (s : State) (bs : List Byte) (err : Bool) : State :=
  let f := hallOf bs
  if s.sys.boot != 8 then s
  else if !hallFormOk s.pkg bs then s.bump 0 5
  else if f.op = 0 || f.op = 1 || f.op = 3 then s.hallRequest f
  else s.hallReply f err

/-! ### At a boundary (R158, R330, R331) -/

/-- Bytes that arrive at a virtual address of an operation's team, as a store of its conductor in R56 key order (R56, R156); the twin,
which receives what its primary receives, makes the same store (R441). -/
def State.storeVirtual (s : State) (o : HallOp) (va : Nat) (bs : List Byte) : State :=
  let tr := s.train o.train
  (pieces va bs.length).foldl (fun s q =>
    match translate tr.desc [permW, permE] false q.1 q.2 with
    | none => s
    | some x =>
      let b : BufStore :=
        { train := o.train, team := o.team, group := o.group, pos := 64 + 8 * o.after + 3, ord := s.grid.ord, clk := tr.clk,
          level := if peLoc (s.page (pageOf x.ia)) = 2 then 0 else s.level x, ia := x.ia, data := (bs.drop (q.1 - va)).take q.2 }
      let twin := if tr.desc.twin then [{ b with team := o.team + 2 ^ 21 }] else []
      { s with grid := { s.grid with stores := s.grid.stores ++ b :: twin, ord := s.grid.ord + 1 } }) s

/-- Bytes at an offset of the local side: a pool's are the twin's too (R441). -/
def State.putLocal (s : State) (o : HallOp) (off : Nat) (bs : List Byte) : State :=
  if o.localGlobal then s.storeVirtual o (o.localAddr + off) bs
  else
    let tr := s.train o.train
    let cores := if tr.desc.twin then [o.core, tr.mateCore o.core] else [o.core]
    { s with grid := { s.grid with
        pool := cores.foldl (fun m c => Memory.put m (c * coreSpan + o.localAddr + off) bs) s.grid.pool } }

/-- Phase 1: the bytes of the replies that have arrived, and an atomic's old value once its operation is complete. Pool bytes are
written at once, global bytes commit with the quantum's stores. -/
def State.landHall (s : State) (tr : Nat) : State :=
  (s.pod.hallOps.filter fun o => o.train == tr).foldl (fun s o =>
    let s := o.data.foldl (fun s d => s.putLocal o d.1 d.2) s
    let s := match o.old with
      | some bs => if o.left = 0 && o.status = 0 then s.putLocal o 0 bs else s
      | none => s
    { s with pod := s.pod.modOp o.id fun x => { x with data := [] } }) s

/-- The commands of a train that send nothing and have not been counted, with their status: as their start found it, else as the path table
stands now (R194). -/
def State.emptyHalls (s : State) (tr : Nat) : List (Cmd × W64) :=
  (s.grid.cmds.filter fun c => c.train == tr && c.steps == 0 && c.team < 2 ^ 21 && (!c.started || c.waits) &&
      !(s.pod.hallOps.any fun o => o.id == c.id)).filterMap fun c => (c.ends.or (s.hallEmpty c)).map fun st => (c, st)

/-- Complete operations become counter adds of this boundary, with their status; so do those that send nothing, at the first boundary
after their issue (R194, R330). A twin's command makes its add in the signature only (R442). -/
def State.completeHall (s : State) (tr : Nat) : State :=
  let t := s.train tr
  let done := s.pod.hallOps.filter fun o => o.train == tr && o.left == 0
  let none_ := s.emptyHalls tr
  let count (team key group core scope ia : Nat) (st : W64) : Act :=
    { train := tr, team := team, key := key, group := group, core := core, ord := s.grid.ord, due := 0
      what := .count scope ia (if st = 0 then 1 else 0) (some st) }
  let ofCmd (c : Cmd) (st : W64) : Act :=
    count c.team c.key c.group c.core (c.op.counter - 1) ((s.asIssuer c).place (nth 0 c.vals 3).toNat 8) st
  let twins (key start : Nat) (st : W64) : List Act :=
    ((s.grid.cmds.filter fun c => c.col == 3 && c.twinIs key start).map fun c => ofCmd c st)
  let acts := (done.flatMap fun o => count o.team o.key o.group o.core o.scope o.counterIa o.status :: twins o.key o.after o.status) ++
    none_.flatMap fun p => ofCmd p.1 p.2 :: twins p.1.key p.1.start p.2
  let upd (c : Cmd) : Cmd :=
    if done.any fun o => o.id == c.id || (c.col == 3 && c.twinIs o.key o.after) then { c with waits := false, land := t.clk, pages := [] }
    else if none_.any fun p => p.1.id == c.id || (c.col == 3 && c.twinIs p.1.key p.1.start) then { c with waits := false, land := if c.started then t.clk else c.land, steps := 1 }
    else c
  let failed := ((done.map (·.status)) ++ none_.map (·.2)).filter fun st => 7 ≤ fieldOf st 56 8
  let s := s.unpin ((s.grid.cmds.filter fun c => done.any fun o => o.id == c.id).flatMap (·.pages))
  let s := failed.foldl (fun s _ => s.bumpOwner t.owner 7) s
  { s with
    pod := { s.pod with hallOps := s.pod.hallOps.filter fun o => !(o.train == tr && o.left == 0) }
    grid := { s.grid with acts := s.grid.acts ++ acts, ord := s.grid.ord + 1, cmds := s.grid.cmds.map upd } }

end Sys2Proof.Machine
end

