-- ==== Sys2Proof/Machine/Laps.lean ====
section
/-!
DEFINITION. Snapshot laps: opening, draining, counting and releasing (spec/13_engine_instructions.md R332 to R334,
spec/20_reliability_laps_replay.md R438, R439).
-/

namespace Sys2Proof.Machine

/-- A twin's group takes what its primary's group takes (R441). -/
def State.withTwin (s : State) (key : Nat) : List Nat :=
  if 16 ≤ key && (s.train (s.group key).train).desc.twin && (s.group (key + twinSpan)).width != 0 then [key, key + twinSpan] else [key]

/-- A register owed by a group and its twin lands. -/
def State.landFor (s : State) (key due : Nat) (r : Nat × Nat) (w : Landing) : State :=
  (s.withTwin key).foldl (fun s k =>
    let s := s.settleOwed k r
    { s with grid := { s.grid with pend := s.grid.pend ++ [{ train := (s.group k).train, due := due, key := k, what := w }] } }) s

/-- Live snapshot laps of a tenant. -/
def State.lapsOf (s : State) (owner : Nat) : List Lap := s.mem.laps.filter fun l => l.number != 0 && l.owner == owner && l.gone.isNone

/-- The first number after `n` that no live lap bears; numbers wrap from 65,535 to 1. -/
def nextLap (live : List Nat) : Nat → Nat → Nat
  | 0, n => n
  | fuel + 1, n => let m := n % 65535 + 1; if live.contains m then nextLap live fuel m else m

/-- The latency of a lap's number. -/
def latLap : Nat := 640

/-- The bytes from a drain target to the end of its leased range. -/
def Desc.drainRoom (d : Desc) (team va : Nat) : Nat :=
  match d.windows.find? fun w => winVpage w ≤ va / 65536 && va / 65536 < winVpage w + winSize w with
  | none => 0
  | some w =>
    let windowEnd := (winVpage w + winSize w) * 65536
    let ends := (d.foots.filter fun f => (winComp w || f.cls == 1) && f.holds team (va / 65536)).map fun f =>
      ceilDiv (f.base team + f.size) 65536 * 65536
    min windowEnd (ends.foldl max 0) - va

/-- The tenant's resident pages on this package, ascending. -/
def State.tenantPages (s : State) (owner : Nat) : List Nat :=
  (s.mem.pages.filter fun p => peOwner p.2 == owner && pkgOf (p.1 * 65536) == s.pkg && hasEntry p.1 && peLoc p.2 != 0).map (·.1)

/-- LAP at its boundary: the lap opens on the tenant's pages, or its number is 0 where the tenant has four. With a deadline of 0 its
counter has been added at this boundary. R325 completes a LAP by its counter's add: one that opens nothing, and so adds none, completes at
b, and one that names no counter (CSEL = 0) at the first boundary at or after b + D (DESIGN CHOICE, notes/assumptions/130.md). -/
def State.openLap (s : State) (a : Act) (target deadline cmd kind reg : Nat) : State :=
  let tr := s.train a.train
  let clk := tr.clk
  let live := s.lapsOf tr.owner
  let at_ := ((s.grid.cmds.find? fun c => c.id == cmd).map (·.start)).getD 0
  let setCmds (s : State) (f : Cmd → Cmd) : State :=
    { s with grid := { s.grid with cmds := s.grid.cmds.map fun c =>
        if c.id = cmd || (c.col == 4 && c.twinIs a.key at_) then f c else c } }
  if 4 ≤ live.length then
    setCmds (s.landFor a.key (clk + latLap) (kind, reg) (landingOf (kind, reg) 0)) fun c => { c with waits := false, land := clk }
  else
    let n := nextLap (live.map (·.number)) 65535 (Sp.get 0 s.mem.lapLast tr.owner)
    let gen := s.mem.lapGen + 1
    let va := ((s.grid.cmds.find? fun c => c.id == cmd).map fun c => (nth 0 c.vals 0).toNat).getD 0
    let lap : Lap :=
      { number := n, launch := tr.launch, owner := tr.owner, gen := gen, target := tagAddr target, targetComp := tagLevel target == 3
        due := clk + deadline, train := a.train, counted := deadline == 0, vcAt := tr.vc, bcAt := s.bc
        limit := tr.desc.drainRoom (a.team % 2 ^ 21) va, cover := (s.tenantPages tr.owner).map fun p => (p, 1)
        bad := (s.tenantPages tr.owner).filter fun p => pePsn (s.page p) }
    let m := s.mem
    let s := { s with mem := { m with laps := m.laps ++ [lap], lapGen := gen, lapLast := Sp.set 0 m.lapLast tr.owner n } }
    setCmds (s.landFor a.key (clk + latLap) (kind, reg) (landingOf (kind, reg) (BitVec.ofNat 64 n))) fun c =>
      { c with steps := n, land := clk + deadline, waits := deadline != 0 }

/-- LAP .rel at its boundary: a drained lap of the tenant that has been counted goes, as far as the attempt stands (R435). -/
def State.releaseLap (s : State) (a : Act) (lap kind reg : Nat) : State :=
  let tr := s.train a.train
  let mine (l : Lap) : Bool := l.number == lap && lap != 0 && l.owner == tr.owner && l.counted && l.gone.isNone
  let ok := s.mem.laps.any mine
  let s := { s with mem := { s.mem with laps := s.mem.laps.map fun l => if mine l then { l with gone := some a.train } else l } }
  let s := (s.withTwin a.key).foldl (fun s k => s.modTeam (teamKey a.train (s.group k).team) fun t =>
    { t with busyUntil := max t.busyUntil (tr.clk + latLap) }) s
  s.landFor a.key (tr.clk + latLap) (kind, reg) (landingOf (kind, reg) (BitVec.ofNat 64 (if ok then lap else 0)))

/-! ### The drained image (R438, R439) -/

/-- A page as it stood when the lap opened, and whether it was poisoned then, or its copy or itself since. -/
def State.lapPage (s : State) (l : Lap) (p : Nat) : List Byte × Bool :=
  let bad := l.bad.contains p || ((l.held.find? fun h => h.1 == p).map (·.2)).getD (pePsn (s.page p))
  let src := if l.held.any fun h => h.1 == p then l.aside else s.mem.home
  (if bad then List.replicate 65536 0 else Memory.bytes src (p * 65536) 65536, bad)

def drainRecord : Nat := 65600

/-- An uncorrectable error in a page that a lap has set aside (R439). -/
def State.spoilAside (s : State) (gen p : Nat) : State :=
  let spoil (h : Nat × Bool) : Nat × Bool := if h.1 = p then (p, true) else h
  { s with mem := { s.mem with laps := s.mem.laps.map fun l => if l.gen = gen then { l with held := l.held.map spoil } else l } }

/-- Bytes written as a copy writes its destination: page by page, up to the first page that fails its checks (R398). -/
def State.copyTo (s : State) (owner ia : Nat) (bs : List Byte) : State :=
  let r := (pieces ia bs.length).takeWhile fun q => s.pieceCause owner [pageOf q.1] == 0
  let n := (r.map (·.2)).foldl (· + ·) 0
  let s := s.homeWrite owner ia (bs.take n)
  if n = bs.length then s
  else (if s.pieceCause owner [pageOf (ia + n)] = 1 then s.bump 0 9 else s).bumpOwner owner 6

/-- The drain writes the image and is complete. -/
def State.drain (s : State) (gen : Nat) : State :=
  match s.mem.laps.find? fun l => l.gen == gen && l.number != 0 && !l.written with
  | none => s
  | some l =>
    let all := l.cover.map (·.1)
    let pages := all.take ((l.limit - 64) / drainRecord)
    let w (x : Nat) : List Byte := leBytes 8 x
    let header := w (1 + 2 ^ 16 * l.number + 2 ^ 32 * l.owner) ++ w pages.length ++ w (pages.length < all.length : Bool).toNat ++
      w l.vcAt.toNat ++ w l.bcAt.toNat ++ List.replicate 24 0
    let record (p : Nat) : List Byte :=
      let x := s.lapPage l p
      w (p % 2 ^ 40 + 2 ^ 40 * x.2.toNat) ++ List.replicate 56 0 ++ x.1
    let bs := if l.limit < 64 then [] else header ++ pages.flatMap record
    let poisoned := (pages.filter fun p => (s.lapPage l p).2).length
    let s := (List.range poisoned).foldl (fun s _ => s.bumpOwner l.owner 4) s
    let s :=
      if l.targetComp then s.compPut l.target bs
      else s.copyTo l.owner l.target bs
    { s with mem := { s.mem with laps := s.mem.laps.map fun x => if x.gen = gen then { x with written := true } else x } }

/-- Snapshot laps of a train whose deadline has come, still to be counted. -/
def State.lapsDue (s : State) (tr : Nat) : List Cmd :=
  let clk := (s.train tr).clk
  s.grid.cmds.filter fun c => c.train == tr && c.col == 4 && c.waits && c.steps != 0 && c.land ≤ clk && c.key &&& twinSpan == 0

/-- The counter add of a LAP, and its twin's, which counts in the signature only (R333, R442). -/
def State.addLap (s : State) (c : Cmd) : State :=
  let add (s : State) (c : Cmd) : State :=
    if c.op.counter = 0 then s
    else
      let a : Act :=
        { train := c.train, team := c.team, key := c.key, group := c.group, core := c.core, ord := s.grid.ord, due := 0
          what := .count (c.op.counter - 1) ((s.asIssuer c).place (nth 0 c.vals c.op.counterPlace).toNat 8) 1 none }
      { s with grid := { s.grid with acts := s.grid.acts ++ [a], ord := s.grid.ord + 1 } }
  (c :: s.grid.cmds.filter fun d => d.col == 4 && d.twinIs c.key c.start).foldl add s

/-- At the first boundary at or after the deadline the drain is complete and its counter is added (R333). -/
def State.countLaps (s : State) (tr : Nat) : State :=
  let owner := (s.train tr).owner
  let clk := (s.train tr).clk
  (s.lapsDue tr).foldl (fun s c =>
    let mine (l : Lap) : Bool := l.number == c.steps && l.owner == owner && l.gone.isNone
    let gens := (s.mem.laps.filter fun l => mine l && !l.written).map (·.gen)
    let s := gens.foldl State.drain s
    let s := { s with mem := { s.mem with laps := s.mem.laps.map fun l => if mine l then { l with counted := true } else l } }
    let s := s.addLap c
    let finish (d : Cmd) : Cmd :=
      if d.id = c.id || (d.col == 4 && d.twinIs c.key c.start) then { d with waits := false, land := clk } else d
    { s with grid := { s.grid with cmds := s.grid.cmds.map finish } }) s

/-- A train's LAPs and releases of a quantum, in the order of their boundary. -/
def State.lapActs (s : State) (tr : Nat) : List Act :=
  let isLap (a : Act) : Bool := match a.what with
    | .lapOpen _ _ _ _ _ _ _ => true
    | .lapRel _ _ _ => true
    | _ => false
  sortBy (fun a b => lexLe [a.team, a.ord] [b.team, b.ord])
    (s.grid.acts.filter fun a => a.train == tr && a.team < 2 ^ 21 && isLap a)

/-- The LAPs of some actions that open their laps, by command and deadline. `last` is the tenant's last lap number, and `live` are its laps,
by number and whether counted, as the actions find them. -/
def openings : Nat → List (Nat × Bool) → List Act → List (Nat × Nat)
  | _, _, [] => []
  | last, live, a :: as => match a.what with
    | .lapOpen _ deadline cmd _ _ _ _ =>
      if live.length < 4 then
        let n := nextLap (live.map (·.1)) 65535 last
        (cmd, deadline) :: openings n (live ++ [(n, deadline == 0)]) as
      else openings last live as
    | .lapRel lap _ _ => openings last (live.filter fun l => !(l.1 == lap && lap != 0 && l.2)) as
    | _ => openings last live as

/-- The LAPs that open at a train's boundary, as its laps stand. -/
def State.lapsOpened (s : State) (tr : Nat) : List (Nat × Nat) :=
  let owner := (s.train tr).owner
  openings (Sp.get 0 s.mem.lapLast owner) ((s.lapsOf owner).map fun l => (l.number, l.counted)) (s.lapActs tr)

/-- The laps of a boundary: those that are due are counted, and those that open with a deadline of 0 add their counters. -/
def State.boundaryLaps (s : State) (tr : Nat) : State :=
  let s := s.countLaps tr
  (((s.lapsOpened tr).filter fun o => o.2 == 0).flatMap fun o => s.grid.cmds.filter fun c => c.id == o.1).foldl State.addLap s

/-- Laps open and go at the end of phase 4; a lap with a deadline of 0 is drained at once. -/
def State.moveLaps (s : State) (tr : Nat) : State :=
  let s := (s.lapActs tr).foldl (fun s a =>
    match a.what with
    | .lapOpen target deadline cmd kind reg _ _ => s.openLap a target deadline cmd kind reg
    | .lapRel lap kind reg => s.releaseLap a lap kind reg
    | _ => s) s
  ((s.mem.laps.filter fun l => l.number != 0 && l.counted && !l.written).map (·.gen)).foldl State.drain s

/-- What LAPQ reads until the next boundary. -/
def State.snapLaps (s : State) (tr : Nat) : State :=
  let laps := (s.lapsOf (s.train tr).owner).map fun l => (l.number, l.counted)
  s.modTrain tr fun t => { t with laps := laps }

end Sys2Proof.Machine
end

