-- ==== Sys2Proof/Machine/Image.lean ====
section
/-!
DEFINITION. Context images: what a save writes and how a restore reads it (spec/17_privilege_traps_preemption.md R375, R376, R378
to R381, spec/12_memory_and_synchronisation_instructions.md R294, spec/13_engine_instructions.md R313). What an image has no place
for (the lanes that triggered, pending FMT writes, batches of commands) stays in the team's own records.
-/

namespace Sys2Proof.Machine

def padTo (n : Nat) (bs : List Byte) : List Byte := (bs ++ List.replicate (n - bs.length) 0).take n
/-- Fields (position, value) of a number. -/
def fields (fs : List (Nat × Nat)) : Nat := (fs.map fun p => 2 ^ p.1 * p.2).foldl (· + ·) 0

/-! ### Group records (R379) -/

def Block.code : Block → Nat
  | .none => 0
  | .bar _ _ _ => 1
  | .waitc _ _ _ _ => 2
  | .yield _ _ _ _ => 3
  | .cwait _ => 4
  | .dwait _ => 5
  | .drecw _ _ _ => 6
  | .twait _ => 7
  | .talign _ _ _ => 8

/-- BAR's number, the scope, the two operand words and the destination. DREC .w keeps its offer tag in the second word. -/
def Block.operands : Block → Nat × Nat × Nat × Nat × Nat
  | .none => (0, 0, 0, 0, 0)
  | .bar n _ _ => (n, 0, 0, 0, 0)
  | .waitc sc va _ t => (0, sc, va, t, 0)
  | .yield sc va _ t => (0, sc, va, t, 0)
  | .cwait n => (0, 0, n, 0, 0)
  | .dwait n => (0, 0, n, 0, 0)
  | .drecw tag dst q => (0, 0, (q.map BitVec.toNat).getD 0, tag, dst)
  | .twait _ => (0, 0, 0, 0, 0)
  | .talign t v dst => (0, 0, t.toNat, v.toNat, dst)

def State.teamCmds (s : State) (tk : Nat) : List Cmd :=
  let keys := s.teamGroups tk
  s.grid.cmds.filter fun c => keys.contains c.key

/-- A group with the wake of its wait. CWAIT's is the latest completion of its batches, once none of them is still to be fixed (R325). -/
def State.timed (s : State) (g : Group) : Group :=
  match g.block, g.wake with
  | .cwait n, none =>
    let cs := (s.teamCmds (teamKey g.train g.team)).filter fun c => c.batch != 0 && c.batch ≤ n
    if cs.all fun c => c.started && !c.waits then { g with wake := some (cs.foldl (fun m c => max m c.land) 0) } else g
  | _, _ => g

/-- A wait that has ended before the image vc blocks no more. -/
def Group.awake (g : Group) (base : Nat) : Group :=
  let passed : Bool := match g.block, g.wake with
    | .twait c, _ => c < base
    | _, some w => w < base
    | _, none => false
  if passed then { g with block := .none, wake := none } else g

/-- The wake offset: all ones while the wait is not satisfied. -/
def Group.wakeOffset (g : Group) (base : Nat) : Nat :=
  match g.block, g.wake with
  | .twait c, _ => c - base
  | .none, _ => 0
  | _, some w => w - base
  | _, none => 2 ^ 64 - 1

/-- The issue slot in which a run of the group is under way or not yet free; a restored run may still wait for one. -/
def State.runOf (s : State) (k base : Nat) : Option IssueSlot :=
  ((s.grid.resume ++ s.grid.issue).find? fun p => p.2.key == k && 0 < p.2.count && (p.2.busy || base ≤ p.2.free)).map (·.2)

/-- Instructions to the end of the run that stands at `a`, by fuel. -/
def State.runLeft (s : State) : Nat → Addr48 → Nat
  | 0, _ => 0
  | n + 1, a =>
    match s.decodeAt a with
    | .error _ => 1
    | .ok (i, w, len) => if (Raw.ofNat w).e || i.endsRun then 1 else 1 + s.runLeft n (nextAddr a len)

/-- A group's record (R379). HOLD and its end stand for every hold of the group that is in force at the image vc: a spill or fill hold, which
R379 names, and likewise one of a trap entry (R371), a TRET or a RESUME (DESIGN CHOICE, notes/assumptions/132.md). -/
def State.groupRecord (s : State) (k base : Nat) : List Byte :=
  let g := (s.timed (s.group k)).awake base
  let o := g.block.operands
  let w4 (x : Nat) : List Byte := leBytes 8 x
  let run := s.runOf k base
  let left (x : IssueSlot) : Nat :=
    if x.busy then { s with cur := { key := k, train := g.train, team := g.team, alt := x.alt } }.runLeft (24 - x.count) (g.slot x.alt).pc
    else 0
  let hold : Bool := base ≤ g.hold
  g.pri.bytes ++ g.alt.bytes ++
  w4 (fields [(0, g.pri.live.toNat), (1, g.alt.live.toNat), (2, g.pri.waiting.toNat), (3, g.alt.waiting.toNat),
    (4, g.handler.isSome.toNat), (5, (g.handler.getD false).toNat), (6, g.ended.toNat), (8, g.block.code), (12, o.1),
    (16, g.stack.length), (24, o.2.1), (27, hold.toNat)]) ++
  w4 (g.wakeOffset base) ++ w4 o.2.2.1 ++ w4 o.2.2.2.1 ++
  w4 (g.gstat.toNat + 2 ^ 32 * o.2.2.2.2) ++ w4 g.tvec.toNat ++
  (match run with
    | none => w4 0
    | some x => w4 (1 + 2 * x.alt.toNat + 4 * left x)) ++
  w4 ((match run with
    | none => 0
    | some x => (if x.busy then x.next else x.free) - base) + 2 ^ 32 * (if hold then g.hold - base else 0)) ++
  (List.range 128).flatMap (fun r => w4 (Sp.get 0 g.sreg r).toNat) ++
  (List.range 8).flatMap (fun m => w4 (g.readMask m).toNat) ++
  w4 (((List.range 8).map fun c => 2 ^ c * (g.readCond c).toNat).foldl (· + ·) 0) ++ List.replicate 56 0 ++
  (List.range 16).flatMap (fun r => w4 (Sp.get 0 g.treg r).toNat)

/-! ### The pool section (R294) -/

/-- Register carve, scratchpad, divergence shares, tiles and claimed slots of the team on its core `c`. -/
def State.poolSection (s : State) (tk c : Nat) : List Byte :=
  let t := s.team tk
  let d := (s.train t.train).desc
  let core := t.core + c
  let gs := (d.groupsOn c).map fun g => s.group (groupKey t.train t.keyIdx g)
  let regs (g : Group) : List Byte :=
    (List.range g.allot).flatMap fun r => (List.range g.width).flatMap fun l => leBytes 4 (g.readVec r l).toNat
  let share (g : Group) : List Byte := padTo (256 * partDivg d.part) (g.stack.reverse.flatMap fun e => match e with
    | .share p => p.bytes
    | .spilled => [])
  padTo (16384 * d.need c) (gs.flatMap regs) ++ Memory.bytes s.grid.pool (core * coreSpan) (scratchBytes d.part) ++
  gs.flatMap share ++
  (Sp.range 0 s.grid.tiles (tileAt core 0 0) (16384 * tilesOf d.part)).flatMap (fun x : W32 => leBytes 4 x.toNat) ++
  ((List.range 16).filter fun n => bitOf (t.claimed core) n).flatMap fun n => Memory.bytes s.grid.slots (slotAt core n 0) 32768

/-! ### The pending section (R380) -/

structure PendEntry where
  offset : Nat
  kind : Nat
  index : Nat
  group : Nat
  odd : Nat
  addr : Nat
  data : List Byte
deriving DecidableEq, Repr

def PendEntry.bytes (e : PendEntry) : List Byte :=
  leBytes 8 (fields [(0, e.kind), (8, e.index), (16, e.group), (24, e.odd), (32, e.offset)]) ++ leBytes 8 e.addr ++
  leBytes 4 e.data.length ++ leBytes 4 0 ++ padTo (ceilDiv e.data.length 8 * 8) e.data

/-- Whether an image has a place for a landing. -/
def Landing.inImage : Landing → Bool
  | .vec _ _ => true
  | .scal _ _ => true
  | .trapr _ _ => true
  | .mask _ _ _ => true
  | .cond _ _ => true
  | .gstatSet _ => true
  | .ph _ => true
  | .kp _ _ _ => true
  | .gstatClear _ => false
  | .fmt _ _ _ => false
  | .tvec _ => false
  | .tb _ => false
  | .claim _ _ _ => false
  | .unclaim _ => false

/-- Kind, index and data of a landing of group `g`; lanes and bits that it leaves keep their values. -/
def Landing.entry (g : Group) (w : Landing) : Nat × Nat × List Byte :=
  match w with
  | .vec r v => (0, r, padTo 256 ((List.range g.width).flatMap fun l => leBytes 4 (Sp.get (g.readVec r l) v l).toNat))
  | .scal r x => (1, r, leBytes 8 (x.getD (Sp.get 0 g.sreg r)).toNat)
  | .trapr r x => (1, 128 + r, leBytes 8 (x.getD (Sp.get 0 g.treg r)).toNat)
  | .mask r sel val => (2, r, leBytes 8 (blend64 (g.readMask r) (sel &&& g.lanes) val).toNat)
  | .cond r x => (3, r, leBytes 8 (x.getD (g.readCond r)).toNat)
  | .kp _ tile x => (4, tile, leBytes 8 x.toNat)
  | .gstatSet x => (5, 0, leBytes 8 x.toNat)
  | .ph alt => (6, alt.toNat, leBytes 8 1)
  | .gstatClear _ => (0, 0, [])
  | .fmt _ _ _ => (0, 0, [])
  | .tvec _ => (0, 0, [])
  | .tb _ => (0, 0, [])
  | .claim _ _ _ => (0, 0, [])
  | .unclaim _ => (0, 0, [])

/-- Every event due after the image vc, in ascending offset. -/
def State.pendEntries (s : State) (tk base : Nat) : List PendEntry :=
  let t := s.team tk
  let keys := s.teamGroups tk
  let odd (core : Nat) : Nat := core - t.core
  let regs := (s.grid.pend.filter fun p => keys.contains p.key && p.what.inImage).map fun p =>
    let g := s.group p.key
    let e := p.what.entry g
    { offset := p.due - base, kind := e.1, index := e.2.1, group := g.idx, odd := odd g.core, addr := 0, data := e.2.2 : PendEntry }
  let sfu := (s.grid.sfu.filter fun e => keys.contains e.key && !e.only).flatMap fun e =>
    e.lands.map fun p =>
      let g := s.group p.key
      let x := p.what.entry g
      { offset := p.due - base, kind := x.1, index := x.2.1, group := g.idx, odd := odd g.core, addr := 0, data := x.2.2 : PendEntry }
  let stps := (s.grid.stps.filter fun w => w.train == t.train && w.team == t.keyIdx).map fun w =>
    { offset := w.due - base, kind := 7, index := 0, group := w.group, odd := odd w.core, addr := w.addr, data := w.data : PendEntry }
  let kps := t.cores.flatMap fun c => ((s.core c).kp).map fun p =>
    { offset := 0, kind := 4, index := p.1, group := 0, odd := odd c, addr := 0, data := leBytes 8 p.2.toNat : PendEntry }
  let laps := ((s.teamCmds tk).filter fun c => c.col == 4 && c.waits && c.op.counter != 0).map fun c =>
    { offset := c.land - base, kind := 11, index := c.op.counter - 1, group := c.group, odd := odd c.core
      addr := (nth 0 c.vals c.op.counterPlace).toNat, data := leBytes 8 1 : PendEntry }
  let cells := t.cores.flatMap fun c => (s.core c).rx.map fun x =>
    { offset := 0, kind := 12, index := x.flow, group := 0, odd := odd c, addr := x.spkg, data := cellBytes x : PendEntry }
  sortBy (fun a b => a.offset ≤ b.offset) (kps ++ regs ++ sfu ++ stps ++ laps ++ cells)

/-! ### The column section (R381) -/

/-- Commands that an image records: those not started, and started matrix commands that have not completed. -/
def State.columnCmds (s : State) (tk : Nat) : List Cmd :=
  let clk := (s.train (s.team tk).train).clk
  (s.teamCmds tk).filter fun c => c.col < 4 && !c.complete clk && (!c.started || (Instr.mmaOf c.op).isSome)

def Cmd.record (c : Cmd) (base odd : Nat) : List Byte :=
  padTo 16 ((encodeBytes c.op).getD []) ++
  leBytes 8 (fields [(0, c.col), (3, c.group), (9, odd), (10, c.untimed.toNat), (11, c.started.toNat)] +
    2 ^ 32 * wrapOf 32 ((c.start : Int) - base)) ++
  leBytes 8 c.fmt.toNat ++ leBytes 8 c.steps ++ padTo 88 (c.vals.flatMap fun v => leBytes 8 v.toNat)

/-- The slots that a started matrix command read. -/
def Cmd.copies (c : Cmd) : List Byte :=
  if !c.started then []
  else
    let slot (m : Memory) : List Byte := Memory.bytes m 0 32768
    slot c.slotA ++ slot c.slotB ++ (if scaled (fmtA c.fmt) then slot c.scaleA else []) ++
      (if scaled (fmtB c.fmt) then slot c.scaleB else [])

/-! ### The image (R378) -/

/-- The position of the last winner of a quadrant; 255 for none. -/
def Core.winner (k : Core) (quad : Nat) : Nat :=
  match Sp.get 0 k.lastWin quad with
  | 0 => 255
  | n + 1 => n

def State.teamImage (s : State) (tk : Nat) : List Byte :=
  let t := s.team tk
  let tr := s.train t.train
  let d := tr.desc
  let base := tr.clk + 1
  let keys := s.teamGroups tk
  let records := keys.flatMap fun k => s.groupRecord k base
  let pool := (List.range d.coreCount).flatMap fun c => s.poolSection tk c
  let pend := s.pendEntries tk base
  let cmds := s.columnCmds tk
  let pendBytes := pend.flatMap PendEntry.bytes
  let cols := cmds.flatMap fun c => c.record base (c.core - t.core)
  let copies := cmds.flatMap Cmd.copies
  let poolAt := 256 + records.length
  let pendAt := poolAt + pool.length
  let colAt := pendAt + pendBytes.length
  let copyAt := colAt + cols.length
  let claims := t.claimed t.core + (if t.pair then 2 ^ 16 * t.claimed (t.core + 1) else 0)
  let wins := (List.range d.coreCount).flatMap fun c => (List.range 4).map fun q => (8 * (4 * c + q), (s.core (t.core + c)).winner q)
  let served := ((List.range t.groups).zip keys).map fun p => (p.1, (s.group p.2).served.toNat)
  let w (x : Nat) : List Byte := leBytes 8 x
  let header :=
    w (fields [(0, 1), (16, t.groups), (32, d.width), (40, t.pair.toNat), (41, d.det.toNat)]) ++ w (tr.vc + 1).toNat ++ w t.tb.toNat ++
    w tr.qt.toNat ++ w (t.closed + 1 + 2 ^ 32 * t.closed) ++ w claims ++ w (fields wins) ++ w (fields served) ++
    w (d.part.toNat + 2 ^ 32 * (d.callot / 8) + 2 ^ 40 * (d.wallot / 8) + 2 ^ 48 * d.nc) ++ w (pend.length + 2 ^ 16 * cmds.length) ++
    w pendAt ++ w colAt ++ w poolAt ++ w (if copies.isEmpty then 0 else copyAt) ++
    w (handleOf (s.launch tr.launch).queue t.idx).toNat
  padTo 256 header ++ records ++ pool ++ pendBytes ++ cols ++ copies

/-! ### Where an image lies (R294, R387) -/

/-- The pieces of a team's save area: virtual pages translated by the launch's windows. -/
def Desc.areaPieces (d : Desc) (va n : Nat) : List (Nat × Nat) :=
  (pieces va n).map fun q => (((translate d [] false q.1 q.2).map (·.ia)).getD 0, q.2)

/-- Bytes written at a list of pieces in turn. -/
def State.putPieces (s : State) (ps : List (Nat × Nat)) (bs : List Byte) : State :=
  (ps.foldl (fun (acc : State × List Byte) q => (acc.1.sysPut q.1 (acc.2.take q.2), acc.2.drop q.2)) (s, bs)).1

/-- The image address 0 names the save area of the team. -/
def State.imagePieces (s : State) (tk image n : Nat) : List (Nat × Nat) :=
  let t := s.team tk
  let d := (s.train t.train).desc
  if image != 0 then [(image, n)]
  else match d.saveArea t.idx with
    | none => []
    | some va => d.areaPieces va n

def State.imageBytes (s : State) (tk image n : Nat) : List Byte :=
  (s.imagePieces tk image n).flatMap fun q => s.sysBytes q.1 q.2

/-! ### Reading an image -/

/-- A number of `n` bytes at an offset of some bytes. -/
def at_ (bs : List Byte) (o n : Nat) : Nat := leNat ((bs.drop o).take n)

/-- The block that a group record names, its counter translated again; the record has no place for the address of a BAR. -/
def State.readBlock (s : State) (old : Block) (bs : List Byte) : Block :=
  let f := at_ bs 0x40 8
  let a := at_ bs 0x50 8
  let b := at_ bs 0x58 8
  let dst := at_ bs 0x64 1
  match bitsOf f 8 4 with
  | 1 => match old with
    | .bar _ addr alt => .bar (bitsOf f 12 4) addr alt
    | _ => .bar (bitsOf f 12 4) 0 false
  | 2 => .waitc (bitsOf f 24 3) a (s.place a 8) b
  | 3 => .yield (bitsOf f 24 3) a (s.place a 8) b
  | 4 => .cwait a
  | 5 => .dwait a
  | 6 => .drecw b dst (if a = 0 then none else some (BitVec.ofNat 64 a))
  | 7 => .twait 0
  | 8 => .talign (BitVec.ofNat 64 a) (BitVec.ofNat 64 b) dst
  | _ => .none

/-- The stack: as many share entries as fit the depth, spilled ones above them. -/
def readStack (width depth divg : Nat) (share : List Byte) : List StackEntry :=
  let n := min depth (8 * divg)
  List.replicate (depth - n) .spilled ++
    ((List.range n).map fun i => StackEntry.share (slotOf width ((share.drop (32 * i)).take 32))).reverse

/-- A group as its record and its part of the pool section hold it; every offset counts from `base`. -/
def State.readGroup (s : State) (old : Group) (bs carve share : List Byte) (divg base : Nat) : Group :=
  let f := at_ bs 0x40 8
  let wake := at_ bs 0x48 8
  let block := match s.readBlock old.block bs with
    | .twait _ => .twait (base + wake)
    | b => b
  let slot (o k : Nat) : PcSlot := { slotOf old.width ((bs.drop o).take 32) with waiting := bitOf f (2 + k) }
  let regs (o n : Nat) : List W64 := (List.range n).map fun r => BitVec.ofNat 64 (at_ bs (o + 8 * r) 8)
  let lanes := (List.range old.allot).flatMap fun r => (List.range old.width).map fun l =>
    (64 * r + l, BitVec.ofNat 32 (at_ carve (4 * (old.width * r + l)) 4))
  { old with
    resident := true
    ended := bitOf f 6
    handler := if bitOf f 4 then some (bitOf f 5) else none
    pri := slot 0 0, alt := slot 0x20 1
    stack := readStack old.width (bitsOf f 16 8) divg share
    gstat := BitVec.ofNat 32 (at_ bs 0x60 4), tvec := BitVec.ofNat 48 (at_ bs 0x68 8)
    block := block
    wake := if block = .none || wake = 2 ^ 64 - 1 || bitsOf f 8 4 = 7 then none else some (base + wake)
    hold := if bitOf f 27 then base + at_ bs 0x7C 4 else 0
    vreg := lanes.filter fun p => p.2 != 0
    sreg := Sp.entries 0 0 (regs 0x80 128)
    mreg := (Sp.entries 0 0 (regs 0x480 8)).filter fun p => p.1 != 0
    creg := ((List.range 7).map fun c => (c + 1, bitOf (at_ bs 0x4C0 8) (c + 1))).filter fun p => p.2
    treg := Sp.entries 0 0 (regs 0x500 16) }

/-- The entries of a pending section, by their count. -/
def readPend : Nat → List Byte → List PendEntry
  | 0, _ => []
  | n + 1, bs =>
    let f := at_ bs 0 8
    let len := at_ bs 16 4
    { offset := f / 2 ^ 32, kind := bitsOf f 0 8, index := bitsOf f 8 8, group := bitsOf f 16 8, odd := bitsOf f 24 1
      addr := at_ bs 8 8, data := (bs.drop 24).take len : PendEntry } :: readPend n (bs.drop (24 + ceilDiv len 8 * 8))

/-- The landing that an entry of kinds 0 to 6 stands for. -/
def PendEntry.landing (e : PendEntry) (width core : Nat) : Option Landing :=
  let x := BitVec.ofNat 64 (leNat e.data)
  match e.kind with
  | 0 => some (.vec e.index ((List.range width).map fun l => (l, BitVec.ofNat 32 (at_ e.data (4 * l) 4))))
  | 1 => some (if e.index < 128 then .scal e.index (some x) else .trapr (e.index - 128) (some x))
  | 2 => some (.mask e.index (-1) x)
  | 3 => some (.cond e.index (some (x != 0)))
  | 4 => some (.kp core e.index x)
  | 5 => some (.gstatSet (x.truncate 32))
  | 6 => some (.ph (e.index != 0))
  | _ => none

end Sys2Proof.Machine
end

