-- ==== Sys2Proof/Machine/Preempt.lean ====
section
/-!
DEFINITION. Pre-emption: requests and decisions, saves and restores of teams and trains, YIELD's save
(spec/17_privilege_traps_preemption.md R374 to R377, R387, R388, spec/02_execution_model.md R64, R68, spec/07_memory_model.md
R164, spec/12_memory_and_synchronisation_instructions.md R294).
-/

namespace Sys2Proof.Machine

/-! ### Handles (R388) -/

/-- The resident or saved team that a handle names: its train and key. -/
def State.teamOfHandle (s : State) (h : W64) : Option (Nat × Nat) :=
  match s.trainOfHandle h with
  | none => none
  | some tr =>
    let tk := teamKey tr (fieldOf h 0 21)
    if fieldOf h 63 1 = 0 && fieldOf h 21 11 = 0 && fieldOf h 48 15 = 0 && (s.team tk).live && !(s.team tk).ended then some (tr, tk) else none

def State.trainNamed (s : State) (h : W64) : Option Nat :=
  if fieldOf h 63 1 = 1 && fieldOf h 0 32 = 0 && fieldOf h 48 15 = 0 then s.trainOfHandle h else none

/-! ### The cost estimate and the decision (R374) -/

def Cmd.stepsLeft (c : Cmd) : Nat :=
  match Instr.mmaOf c.op with
  | some (_, o) => o.nm1 + 1 - c.steps
  | none => 0

def Cmd.copyVc (c : Cmd) : Nat :=
  match c.op with
  | .cpy _ _ => ceilDiv (c.op.size c.vals) 128
  | .cpyr _ _ => ceilDiv (c.op.size c.vals) 128
  | .cpyk _ _ => ceilDiv (c.op.size c.vals) 128
  | _ => 0

def State.estimate (s : State) (tk : Nat) : Nat :=
  let t := s.team tk
  let tr := s.train t.train
  let left := (s.teamCmds tk ++ t.kept).filter fun c => !c.complete tr.clk
  24 * (tr.desc.eruns - t.retired) + (left.map Cmd.stepsLeft).foldl (· + ·) 0 + (left.map Cmd.copyVc).foldl (· + ·) 0

/-- The teams that a request concerns. -/
def State.concerned (s : State) (tr : Nat) (team : Option Nat) : List Nat :=
  match team with
  | some tk => [tk]
  | none => (s.liveTeams tr).filter fun tk => !(s.team tk).twin

/-- Whether what a request concerns has committed: the team, or any team of the whole train, an ended one too. -/
def State.hasCommitted (s : State) (tr : Nat) (team : Option Nat) : Bool :=
  match team with
  | some tk => (s.team tk).committed
  | none => (s.train tr).committed

/-- E of a request. A team that is still to be placed has all its expected runs before it. -/
def State.estimateFor (s : State) (tr : Nat) (team : Option Nat) : Nat :=
  let t := s.train tr
  let unplaced := team.isNone && (t.nextTeam < t.desc.grid || !t.requeue.isEmpty)
  ((s.concerned tr team).map s.estimate).foldl max (if unplaced then 24 * t.desc.eruns else 0)

/-- 0 DRAIN, 1 DISCARD, 2 SAVE. -/
def State.decidePre (s : State) (tr : Nat) (team : Option Nat) (d : Nat) (drain : Bool) : Nat :=
  if drain && (s.train tr).desc.eruns != 0 && s.estimateFor tr team ≤ d then 0
  else if !s.hasCommitted tr team then 1
  else 2

/-- Whether a request on the target is pending. -/
def State.prePending (s : State) (tr : Nat) (team : Option Nat) : Bool :=
  s.fw.pre.any fun r => !r.done && r.train == tr && (r.team.isNone || team.isNone || r.team == team)

/-- A request enters. Where the train must stay together it concerns the whole train. -/
def State.requestPre (s : State) (tr : Nat) (team : Option Nat) (handle : W64) (d image : Nat) (force ring : Bool) : State :=
  let team := if s.together tr then none else team
  let r : PreReq :=
    { id := s.fw.nextPre, train := tr, team := team, handle := handle, deadline := s.bc.toNat + d, image := image
      decision := if force then 2 else s.decidePre tr team d true, done := false, restore := none, ring := ring }
  { s with fw := { s.fw with pre := s.fw.pre ++ [r], nextPre := s.fw.nextPre + 1 } }

/-- The team that a request concerns now; none where the train has come to move only whole since (R68). -/
def State.preTeam (s : State) (r : PreReq) : Option Nat := if s.together r.train then none else r.team

def State.setPre (s : State) (r : PreReq) : State :=
  { s with fw := { s.fw with pre := s.fw.pre.map fun x => if x.id = r.id then r else x } }
def State.dropPre (s : State) (id : Nat) : State := { s with fw := { s.fw with pre := s.fw.pre.filter fun x => x.id != id } }

/-- The end of a request: code 16 where CTXSV made it (R387); a save that the scheduler asked for is kept for its restore. -/
def State.finishPre (s : State) (r : PreReq) (imageVc : W64) : State :=
  let s := if r.ring || r.decision != 2 then s.dropPre r.id else s.setPre { r with done := true }
  if r.ring then s.reportPost 16 (BitVec.ofNat 64 r.decision) imageVc r.handle (s.train r.train).owner else s

/-- A drained request past its deadline is decided again, with DRAIN excluded (R374). -/
def State.drainLapsed (s : State) (id : Nat) : State :=
  match s.fw.pre.find? fun r => r.id == id with
  | none => s
  | some r =>
    if r.done || r.decision != 0 || s.bc.toNat < r.deadline then s
    else s.setPre { r with decision := s.decidePre r.train (s.preTeam r) 0 false }

/-! ### Removed clusters (R377, R405) -/

def State.policy (s : State) (owner : Nat) : Policy := Sp.get {} s.fw.policy owner

/-- Whether a team or its twin stands on a cluster of a mask. -/
def State.standsOn (s : State) (mask : W64) (tk : Nat) : Bool :=
  let on (t : Team) : Bool := t.live && !t.saved && t.cores.any fun c => bitAt mask (c / 8)
  on (s.team tk) || on (s.team (tk + 2 ^ 21))

/-- Whether a train that moves only whole (R68) has a core in a cluster of a mask. -/
def State.boundTo (s : State) (mask : W64) (tr : Nat) : Bool := s.together tr && (s.train tr).cores.any fun c => bitAt mask (c / 8)

/-- Pre-emption requests for a train's teams on removed clusters; for a train that moves only whole, one where it has a core there. -/
def State.vacateTrain (s : State) (mask : W64) (tr : Nat) : State :=
  let ask (s : State) (team : Option Nat) : State :=
    if s.prePending tr team then s else s.requestPre tr team 0 (s.policy (s.train tr).owner).dl 0 false false
  if s.together tr then (if s.boundTo mask tr then ask s none else s)
  else ((s.concerned tr none).filter fun tk => s.standsOn mask tk).foldl (fun s tk => ask s (some tk)) s

/-- The requests of a tenant's trains. -/
def State.vacate (s : State) (owner : Nat) (mask : W64) : State :=
  ((s.grid.trains.filter fun p => p.2.live && p.2.owner == owner && !p.2.parked).map (·.1)).foldl (fun s tr => s.vacateTrain mask tr) s

/-! ### Dropping a team (R240, R374) -/

/-- A team and everything of it leaves the grid; an ended team's pool writes, acquires and entries of column S are still to come. -/
def State.forgetTeam (s : State) (tk : Nat) : State :=
  let t := s.team tk
  let keys := s.teamGroups tk
  let s := s.unpin ((s.teamCmds tk).flatMap (·.pages))
  let clk := (s.train t.train).clk
  let mine (tr team : Nat) : Bool := tr == t.train && team == t.keyIdx
  let free (x : IssueSlot) : IssueSlot := if x.busy && keys.contains x.key then { free := clk } else x
  let g := s.grid
  { s with grid := { g with
      teams := g.teams.filter fun p => p.1 != tk
      groups := g.groups.filter fun p => !keys.contains p.1
      issue := g.issue.map fun p : Nat × IssueSlot => (p.1, free p.2)
      pend := g.pend.filter fun p => !keys.contains p.key
      owed := g.owed.filter fun p => !keys.contains p.key
      stps := g.stps.filter fun p => t.ended || !mine p.train p.team
      cmds := g.cmds.filter fun c => !keys.contains c.key
      outs := g.outs.filter fun e => !keys.contains e.key
      sfu := g.sfu.filter fun e => t.ended || !keys.contains e.key
      stores := g.stores.filter fun b => !mine b.train b.team
      acts := g.acts.filter fun a => !keys.contains a.key
      acquires := g.acquires.filter fun a => t.ended || !keys.contains a.key
      resume := g.resume.filter fun p => !keys.contains p.1 } }.modTrain t.train fun x =>
    { x with alignWho := x.alignWho.filter (fun w => !keys.contains w.1), bad := x.bad.filter fun b => !keys.contains b.2.2 }

/-- Ended teams leave their places. -/
def State.clearEnded (s : State) (tr : Nat) : State :=
  ((s.grid.teams.filter fun p => p.2.train == tr && p.2.live && p.2.ended).map (·.1)).foldl State.forgetTeam s

/-- A discarded team is queued to start again from its entries, its twin with it; the queue ascends by team index (R36). -/
def State.discardTeam (s : State) (tk : Nat) : State :=
  let t := s.team tk
  let s := (s.forgetTeam tk).forgetTeam (tk + 2 ^ 21)
  s.modTrain t.train fun x => { x with requeue := sortBy (fun a b => a ≤ b) (t.idx :: x.requeue) }

/-! ### The save (R164, R294, R375) -/

/-- Whether the end of a command's work is still to land. -/
def State.finishing (s : State) (c : Cmd) : Bool := s.grid.outs.any fun e => e.what == .finish c.id

/-- Whether a started command has outputs still to land. A copy's land with the end of its work, LRED's with its received cell. -/
def State.landing (s : State) (c : Cmd) (clk : Nat) : Bool :=
  match c.op with
  | .cpy _ _ => s.finishing c
  | .cpyr _ _ => s.finishing c
  | .cpyk _ _ => s.finishing c
  | .esp _ _ => s.finishing c
  | .lput _ _ => false
  | .lputAtomic _ _ => false
  | .lget _ _ => false
  | .lap _ _ _ _ _ => false
  | .mma _ _ => false
  | .mmas _ _ => false
  | .lsend _ _ => false
  | .lmcast _ _ => false
  | _ => clk < c.land

/-- Whether a boundary may save the team (R375): no hall operation, and no started command but a matrix command has output to land. -/
def State.savable (s : State) (tk : Nat) : Bool :=
  let clk := (s.train (s.team tk).train).clk
  let keys := s.teamGroups tk
  !(s.pod.hallOps.any fun o => keys.contains o.key) && (s.teamCmds tk).all fun c => !c.started || !s.landing c clk

/-- Every own byte of the team is pushed, wherever its home lies. -/
def State.releaseTeam (s : State) (tk : Nat) : State :=
  let t := s.team tk
  s.push (s.train t.train).owner tk (t.core / 8) fun _ => true

/-- The team's image is written; what the image holds leaves the grid. Its commands and acquires leave with it: nothing of a saved
team starts, steps or lands. -/
def State.saveTeam (s : State) (tk image : Nat) (yielded : Bool) : State :=
  let s := s.releaseTeam tk
  let bs := s.teamImage tk
  let t := s.team tk
  let clk := (s.train t.train).clk
  let base := clk + 1
  let keys := s.teamGroups tk
  let s := s.putPieces (s.imagePieces tk image bs.length) bs
  let free (x : IssueSlot) : IssueSlot := if keys.contains x.key && (x.busy || base ≤ x.free) then { free := base - 1 } else x
  let s := keys.foldl (fun s k => s.modGroup k fun g => { g with resident := false }) s
  let s := t.cores.foldl (fun s c => s.modCore c fun k => { k with rx := [] }) s
  let kept := (s.teamCmds tk).filter fun c => !c.complete clk
  let acqs := s.grid.acquires.filter fun a => keys.contains a.key
  let sfus := s.grid.sfu.filter fun e => keys.contains e.key
  let s := (sfus.filter fun e => !e.only).foldl (fun s e => s.settleOwed e.key (0, e.dst)) s
  let g := s.grid
  let s := { s with grid := { g with
      issue := g.issue.map fun p : Nat × IssueSlot => (p.1, free p.2)
      pend := g.pend.filter fun p => !(keys.contains p.key && p.what.inImage)
      stps := g.stps.filter fun w => !(w.train == t.train && w.team == t.keyIdx)
      sfu := g.sfu.filter fun e => !keys.contains e.key
      cmds := g.cmds.filter fun c => !keys.contains c.key
      acquires := g.acquires.filter fun a => !keys.contains a.key
      resume := g.resume.filter fun p => !keys.contains p.1 } }
  s.modTeam tk fun t =>
    { t with saved := true, yielded := yielded, endedAt := base, image := image, kept := kept, acqs := acqs
             sfus := sfus.map fun e : SfuEntry => { e with only := true } }

/-- A twin holds what its primary holds; its image is its primary's. -/
def State.saveTwin (s : State) (tk image : Nat) (yielded : Bool) : State :=
  if (s.team (tk + 2 ^ 21)).live then s.saveTeam (tk + 2 ^ 21) image yielded else s

/-- The ranges (address, bytes) that no area of S-level's may meet: the pages of tenants, the images that saved teams have outside their
save areas, the fault ring, and the queue control blocks. -/
def State.takenRanges (s : State) : List (Nat × Nat) :=
  ((s.mem.pages.filter fun q => peOwner q.2 != 0).map fun q => (q.1 * 65536, 65536)) ++
  ((s.grid.teams.filter fun p => p.2.saved && p.2.image != 0).map fun p => (p.2.image, (s.train p.2.train).desc.saveSize)) ++
  (fieldOf s.fw.fring 12 52 * 4096, 64 * ringSize s.fw.fring) :: (s.fw.queues.filter fun p => p.2.listed).map fun p => (p.2.qcb, 64)

/-- The first multiple of 4 KiB from `a` on where `z` bytes meet none of some ranges; each of them is passed once at most. -/
def clearPlace (z : Nat) (rs : List (Nat × Nat)) : Nat → Nat → Nat
  | 0, a => a
  | n + 1, a =>
    match rs.find? fun r => a < r.1 + r.2 && r.1 < a + z with
    | none => a
    | some r => clearPlace z rs n (ceilDiv (r.1 + r.2) 4096 * 4096)

/-- An area of owner id 0 that S-level provides for `z` bytes (R140), in the intermediate space of one die of this package (R393): the first
at or after a place of S-level's choice, else the first of a die (DESIGN CHOICE, notes/assumptions/49.md). -/
def State.freeArea (s : State) (z : Nat) (taken : List (Nat × Nat)) : Option Nat :=
  let x := (Config.value s.fresh).toNat
  let die (d : Nat) : Nat := 2 ^ 48 * (4 * s.pkg + d)
  (((die (x % 4) + 4096 * (x / 4 % 2 ^ 27)) :: (List.range 4).map die).map fun a => clearPlace z taken taken.length a).find? fun a =>
    a / 2 ^ 50 = s.pkg && a % 2 ^ 48 + z ≤ 2 ^ 39

/-- The image addresses of some teams' save: from an address on, Z apart; for 0, each team's own save area or an area that S-level
provides. None where S-level has no area left: such a save waits. -/
def State.imagesFor (z : Nat) : Nat → List (Nat × Nat) → List Nat → State → Option (State × List Nat)
  | _, _, [], s => some (s, [])
  | image, taken, tk :: tks, s =>
    let t := s.team tk
    if image != 0 then (State.imagesFor z (image + z) taken tks s).map fun r => (r.1, image :: r.2)
    else if ((s.train t.train).desc.saveArea t.idx).isSome then (State.imagesFor z 0 taken tks s).map fun r => (r.1, 0 :: r.2)
    else match s.freeArea z taken with
      | none => none
      | some a => (State.imagesFor z 0 ((a, z) :: taken) tks s.spend).map fun r => (r.1, a :: r.2)

/-- The entries of a map keyed by core that belong to some cores. -/
def ofCores {β : Type} (cores : List Nat) (m : List (Nat × β)) : List (Nat × β) := m.filter fun p => cores.contains (p.1 / coreSpan)

/-- What some cores hold. -/
def State.coresHeld (s : State) (cores : List Nat) : Leftover :=
  { pool := ofCores cores s.grid.pool, slots := ofCores cores s.grid.slots, tiles := ofCores cores s.grid.tiles
    cores := s.grid.cores.filter fun p => cores.contains p.1, issue := s.grid.issue.filter fun p => cores.contains (p.1 / 8) && !p.2.busy }

/-- Cleared cores hold what was left, each core's on the core that takes its place. Cells that a link column has received do not move with a
train. -/
def State.putLeftover (s : State) (l : Leftover) (places : List Nat) (place : Nat → Nat) : State :=
  let g := s.grid
  let move {β : Type} (span : Nat) (m w : List (Nat × β)) : List (Nat × β) := places.foldl (fun m c =>
    Sp.graft m (Sp.rekey (Sp.window w (c * span) span) (c * span) (place c * span)) (place c * span) span) m
  let s := { s with grid := { g with
      pool := move coreSpan g.pool l.pool, slots := move coreSpan g.slots l.slots, tiles := move coreSpan g.tiles l.tiles
      issue := move 8 g.issue l.issue } }
  l.cores.foldl (fun s p => s.modCore (place p.1) fun k => { p.2 with rx := k.rx }) s

/-- A train is saved with the teams that are resident, `ts`, to some images; teams that a save of their own or YIELD has taken off stay as
they are. What the cores hold stays with the train: a team placed later on a core finds
it there (R78, R310; DEDUCED, notes/assumptions/99.md). The teams that have ended are gone: what they left to land or to start moves with the
train. -/
def State.saveTrain (s : State) (tr : Nat) (ts images : List Nat) : State :=
  let s := s.clearEnded tr
  let mark (s : State) (tk : Nat) : State :=
    if (s.team tk).live then s.modTeam tk fun t => { t with parked := true } else s
  let s := (ts.zip images).foldl (fun s p =>
    mark (mark ((s.saveTeam p.1 p.2 false).saveTwin p.1 p.2 false) p.1) (p.1 + 2 ^ 21)) s
  s.modTrain tr fun t => { t with parked := true, places := t.cores, cores := [], left := s.coresHeld t.cores }

/-- The teams that were saved with their train. -/
def State.parkedTeams (s : State) (tr : Nat) : List Nat := (s.liveTeams tr).filter fun tk => (s.team tk).parked

/-- The whole train goes back to the queue (R374). -/
def State.discardTrain (s : State) (tr : Nat) : State :=
  let l := (s.train tr).launch
  let s := { s with mem := { s.mem with laps := s.mem.laps.filter fun p => !(p.number == 0 && p.launch == l) } }
  let s := s.freeSlots (s.launch l).desc
  (s.dropTrain tr).launchState l 1

/-- The requests of a train that wait for its boundary, and whether one finds its target gone. -/
def State.openPre (s : State) (tr : Nat) : List PreReq :=
  (s.fw.pre.filter fun r => !r.done && r.restore.isNone && r.train == tr).map fun r => { r with team := s.preTeam r }
def State.preEnded (s : State) (r : PreReq) : Bool :=
  match r.team with
  | some tk => !(s.team tk).live || (s.team tk).ended
  | none => (s.liveTeams r.train).isEmpty && (s.train r.train).requeue.isEmpty && (s.train r.train).nextTeam ≥ (s.train r.train).desc.grid
/-- Whether the target cannot be served now: no train runs, or the team is off its core already. -/
def State.preAway (s : State) (r : PreReq) : Bool :=
  !(s.train r.train).live || (s.train r.train).parked || (match r.team with
    | some tk => (s.team tk).saved
    | none => false)

/-- Whether what a request concerns has committed nothing at any boundary, nor sent a hall operation (R374). -/
def State.discardable (s : State) (tr : Nat) (team : Option Nat) : Bool :=
  !s.hasCommitted tr team && !(s.pod.hallOps.any fun o => match team with
    | some tk => (s.teamGroups tk).contains o.key
    | none => o.train == tr)

/-- The scheduler's requests for single teams of a train are met by a save of the whole train. -/
def State.dropTeamPre (s : State) (tr id : Nat) : State :=
  let met (x : PreReq) : Bool := x.train == tr && x.team.isSome && !x.ring && !x.done && x.restore.isNone && x.id != id
  { s with fw := { s.fw with pre := s.fw.pre.filter fun x => !met x } }

/-- Discards at a boundary, before its phases: what the team did in this quantum is dropped with its state. A team that has sent a hall
operation since the decision is saved instead. -/
def State.serveDiscards (s : State) (tr : Nat) : State :=
  ((s.openPre tr).filter fun r => r.decision == 1).foldl (fun s r =>
    let vc := (s.train tr).vc + 1
    if s.preAway r || s.preEnded r then s
    else if !s.discardable tr r.team then s.setPre { r with decision := 2 }
    else match r.team with
      | some tk => (s.discardTeam tk).finishPre r vc
      | none => (s.finishPre r vc).discardTrain tr) s

/-- A team saved alone leaves its train's timetable, and takes along what its image has no place for: its faults that are still to come, and
its TALIGNs, unless the alignment takes place at this boundary (R248, R376). -/
def State.leaveTrain (s : State) (tk : Nat) : State :=
  let t := s.team tk
  let tr := s.train t.train
  let keys := s.teamGroups tk
  let mine (r : FaultRec) : Bool := r.team == t.keyIdx
  let waits (w : Nat × Nat) : Bool := tr.align.isNone && keys.contains w.1
  if !t.saved then s
  else
    (s.modTeam tk fun x => { x with traps := tr.faults.filter mine, aligns := tr.alignWho.filter waits }).modTrain t.train fun x =>
      { x with faults := x.faults.filter fun r => !mine r, alignWho := x.alignWho.filter fun w => !waits w }

/-- The saves of a train at its boundary, after all its phases. -/
def State.servePre (s : State) (tr : Nat) : State :=
  (s.openPre tr).foldl (fun s r =>
    let vc := (s.train tr).vc + 1
    let ts := (s.concerned tr r.team).filter fun tk => r.team.isSome || !(s.team tk).saved
    if s.preAway r || s.preEnded r || r.decision != 2 || !(ts.all s.savable) then s
    else match State.imagesFor (s.train tr).desc.saveSize r.image s.takenRanges ts s with
      | none => s
      | some (s, images) =>
        match r.team with
        | some tk =>
          let a := images.headD 0
          ((((s.saveTeam tk a false).saveTwin tk a false).leaveTrain tk).leaveTrain (tk + 2 ^ 21)).finishPre r vc
        | none => ((s.saveTrain tr ts images).dropTeamPre tr r.id).finishPre r vc) s

/-- The requests of a train whose targets have ended, at the end of its boundary's vc. -/
def State.endPre (s : State) (tr : Nat) : State :=
  (s.openPre tr).foldl (fun s r => if !s.preAway r && s.preEnded r then s.finishPre r ((s.train tr).vc + 1) else s) s

/-! ### The restore (R376, R164) -/

/-- Offsets within the pool section of core `c`: carve, scratchpad, shares, tiles, slots, end. -/
def poolOffsets (d : Desc) (claims c : Nat) : List Nat :=
  let n := (d.groupsOn c).length
  let sizes := [16384 * d.need c, scratchBytes d.part, 256 * partDivg d.part * n, 65536 * tilesOf d.part,
    32768 * popCount 16 (bitsOf claims (16 * c) 16)]
  sizes.foldl (fun acc x => acc ++ [acc.getLast?.getD 0 + x]) [0]

/-- The pool, tiles and slots of one core restored. -/
def State.restorePool (s : State) (d : Desc) (claims c core : Nat) (bs : List Byte) : State :=
  let o := poolOffsets d claims c
  let part (i : Nat) : List Byte := (bs.drop (nth 0 o i)).take (nth 0 o (i + 1) - nth 0 o i)
  let tiles := (List.range (16384 * tilesOf d.part)).map fun i => BitVec.ofNat 32 (at_ (part 3) (4 * i) 4)
  let slots := (List.range 16).filter fun n => bitOf (bitsOf claims (16 * c) 16) n
  let g := s.grid
  { s with grid := { g with
      pool := Memory.put g.pool (core * coreSpan) (part 1)
      tiles := Sp.put 0 g.tiles (tileAt core 0 0) tiles
      slots := ((List.range slots.length).zip slots).foldl
        (fun m p => Memory.put m (slotAt core p.2 0) (((part 4).drop (32768 * p.1)).take 32768)) g.slots } }

/-- A run under way resumes (R379). In a train restored whole its quadrant's issue slots are free; a single team's run waits for one, and
what is left of a run that has issued its last instruction holds its group. -/
def State.resumeRun (s : State) (k base : Nat) (bs : List Byte) (whole : Bool) : State :=
  let f := at_ bs 0x70 8
  let next := base + at_ bs 0x78 4
  let g := s.group k
  let left := bitsOf f 2 5
  let run : IssueSlot := { busy := true, key := k, next := next, count := 24 - left, alt := bitOf f 1 }
  if !bitOf f 0 then s
  else if !whole then
    if left = 0 then s.modGroup k fun g => { g with hold := max g.hold next }
    else { s with grid := { s.grid with resume := s.grid.resume ++ [(k, run)] } }
  else
    let a := issueKey g.core g.quad 0
    let slot := if (Sp.get {} s.grid.issue a).key = 0 then a else a + 1
    let x : IssueSlot := if left = 0 then { key := k, count := 1, free := next } else run
    { s with grid := { s.grid with issue := Sp.set {} s.grid.issue slot x } }

/-- One pending entry takes effect at `base` + its offset. -/
def State.restoreEntry (s : State) (tk core base : Nat) (e : PendEntry) : State :=
  let t := s.team tk
  let k := groupKey t.train t.keyIdx e.group
  let c := core + e.odd
  match e.kind with
  | 7 =>
    let w : PoolWrite :=
      { train := t.train, due := base + e.offset, team := t.keyIdx, group := e.group, lane := 0, core := c, addr := e.addr, data := e.data }
    { s with grid := { s.grid with stps := s.grid.stps ++ [w] } }
  | 11 => s
  | 12 => s.modCore c fun x => { x with rx := x.rx ++ [cellOf e.data] }
  | _ =>
    match e.landing (s.train t.train).desc.width c with
    | none => s
    | some w =>
      if e.kind = 4 && e.offset = 0 then s.land k w
      else
        let p : Pend := { train := t.train, due := base + e.offset, key := k, what := w }
        { s with grid := { s.grid with pend := s.grid.pend ++ [p] } }

/-- The slots that a started matrix command read, from the copies that begin at an offset, and the bytes they take (R381). -/
def Cmd.withCopies (c : Cmd) (bs : List Byte) : Cmd × Nat :=
  if !c.started then (c, 0)
  else
    let slot (i : Nat) : Memory := Sp.entries 0 0 ((bs.drop (32768 * i)).take 32768)
    let a := scaled (fmtA c.fmt)
    let b := scaled (fmtB c.fmt)
    ({ c with slotA := slot 0, slotB := slot 1, scaleA := if a then slot 2 else [], scaleB := if b then slot (if a then 3 else 2) else [] },
      32768 * (2 + a.toNat + b.toNat))

/-- A kept command moved with its team: from core `old` to `core`, `shift` vc on. -/
def Cmd.moved (c : Cmd) (old core shift : Nat) : Cmd :=
  { c with land := c.land + shift, start := c.start + shift, core := core + (c.core - old) }

/-- A command as its column record says. -/
def Cmd.read (c : Cmd) (base : Nat) (bs : List Byte) : Cmd :=
  let op := match decodeWord (at_ bs 0 16) with
    | .ok x => x
    | .error _ => c.op
  let start := (base : Int) + signedOf 32 (at_ bs 0x14 4)
  let vals := (List.range c.vals.length).map fun j => BitVec.ofNat 64 (at_ bs (0x28 + 8 * j) 8)
  { c with op := op, fmt := BitVec.ofNat 32 (at_ bs 0x18 4), steps := at_ bs 0x20 8, vals := vals, start := start.toNat
           land := (start + c.land - c.start).toNat }

/-- An acquire moved with its team. -/
def Acquire.moved (a : Acquire) (old core shift : Nat) : Acquire := { a with due := a.due + shift, core := core + (a.core - old) }
/-- An entry of column S moved with its team. -/
def SfuEntry.moved (e : SfuEntry) (old core shift : Nat) : SfuEntry := { e with start := e.start + shift, core := core + (e.core - old) }

/-- Commands of the team come back: those of the columns as the image says, with the copies of the started matrix commands in their
order; the rest, the acquires and the entries of column S moved with the team. An acquire that the team gained while it was saved
completes on its new core when it is due. -/
def State.restoreCmds (s : State) (tk core base shift : Nat) (cols copies : List Byte) : State :=
  let t := s.team tk
  let one (acc : List Cmd × List Byte × List Byte) (c : Cmd) : List Cmd × List Byte × List Byte :=
    let m := c.moved t.core core shift
    if c.col < 4 && (!c.started || (Instr.mmaOf c.op).isSome) then
      let r := (m.read base (acc.2.1.take 128)).withCopies acc.2.2
      (acc.1 ++ [r.1], acc.2.1.drop 128, acc.2.2.drop r.2)
    else (acc.1 ++ [m], acc.2)
  let cmds := (t.kept.foldl one ([], cols, copies)).1
  let keys := s.teamGroups tk
  let here := s.grid.acquires.map fun a : Acquire => if keys.contains a.key then a.moved t.core core 0 else a
  let acqs := here ++ t.acqs.map fun a => a.moved t.core core shift
  let sfu := s.grid.sfu ++ t.sfus.map fun e => e.moved t.core core shift
  ((cmds.filter (·.started)).foldl State.occupy { s with grid := { s.grid with cmds := s.grid.cmds ++ cmds, acquires := acqs, sfu := sfu } }).modTeam tk
    fun t => { t with kept := [], acqs := [], sfus := [] }

/-- The bytes of an image: to the end of its last section. -/
def imageLength (img : List Byte) : Nat :=
  let cols := at_ img 0x58 8
  let n := bitsOf (at_ img 0x48 8) 16 16
  let copies (i : Nat) : Nat :=
    let r := (img.drop (cols + 128 * i)).take 128
    let fmt := BitVec.ofNat 32 (at_ r 0x18 4)
    if bitOf (at_ r 0x10 8) 11 then 32768 * (2 + (scaled (fmtA fmt)).toNat + (scaled (fmtB fmt)).toNat) else 0
  cols + 128 * n + ((List.range n).map copies).foldl (· + ·) 0

/-- A restore that reads a poisoned page consumes its data where the image takes effect (R432, R433). -/
def State.consumeImage (s : State) (tk base image : Nat) (img : List Byte) : State :=
  let t := s.team tk
  let pages := (s.imagePieces tk image (imageLength img)).flatMap fun q =>
    if 2 ^ 63 ≤ q.1 then [] else (pieces q.1 q.2).map fun x => pageOf x.1
  match (pages.filter fun p => pePsn (s.page p)).eraseDups with
  | [] => s
  | ps => s.modTrain t.train fun x => { x with bad := x.bad ++ ps.map fun p => (base, p, groupKey t.train t.keyIdx 0) }

/-- A team restored onto `core` from an image, its events counted from `base`; `move` moves TB. With its `whole` train it keeps the
positions that its groups had. -/
def State.restoreTeam (s : State) (tk core base image : Nat) (move : W64) (carve : List (Nat × Nat × Nat)) (alone whole : Bool) : State :=
  let t := s.team tk
  let tr := s.train t.train
  let d := tr.desc
  let img := s.imageBytes tk image d.saveSize
  let w (o : Nat) : Nat := at_ img o 8
  let claims := w 0x28
  let keys := s.teamGroups tk
  let shift := base - t.endedAt
  let poolOf (c : Nat) : List Byte :=
    img.drop (w 0x60 + if c = 0 then 0 else ((poolOffsets d claims 0).getLast?.getD 0))
  let record (i : Nat) : List Byte := (img.drop (256 + 1408 * i)).take 1408
  let place (s : State) (c : Nat) : State :=
    let gs := d.groupsOn c
    let o := poolOffsets d claims c
    let bs := poolOf c
    (((List.range gs.length).zip gs).zip (s.freePositions t.train (core + c) gs.length)).foldl (fun s p =>
      let g := p.1.2
      let k := groupKey t.train t.keyIdx g
      let before := ((gs.take p.1.1).map fun x => d.allot x * d.width * 4).foldl (· + ·) 0
      let share := (bs.drop (nth 0 o 2 + 256 * partDivg d.part * p.1.1)).take (256 * partDivg d.part)
      let s1 := { s with cur := { key := k, train := t.train, team := t.keyIdx } }
      let old := s.group k
      let x := s1.readGroup old (record g) (bs.drop before) share (partDivg d.part) base
      s.setGroup k { x with core := core + c, pos := if whole then old.pos else p.2, served := bitOf (w 0x38) g }) (s.restorePool d claims c (core + c) bs)
  let s := (List.range d.coreCount).foldl place s
  let s := s.restoreCmds tk core base shift
    ((img.drop (w 0x58)).take (128 * fieldOf (BitVec.ofNat 64 (w 0x48)) 16 16)) (if w 0x68 = 0 then [] else img.drop (w 0x68))
  let s := s.modTeam tk fun t =>
    { t with saved := false, yielded := false, parked := false, core := core, carve := carve, tb := BitVec.ofNat 64 (w 0x10) + move
             busyUntil := if t.busyUntil < t.endedAt then t.busyUntil else t.busyUntil + shift
             closed := w 0x20 / 2 ^ 32, ready := if t.yielded then none else t.ready
             claims := Sp.entries 0 core [bitsOf claims 0 16] ++ (if d.pair then Sp.entries 0 (core + 1) [bitsOf claims 16 16] else []) }
  let s := (readPend (bitsOf (w 0x48) 0 16) (img.drop (w 0x50))).foldl (fun s e => s.restoreEntry tk core base e) s
  let later (b : Nat × Nat × Nat) : Nat × Nat × Nat := if keys.contains b.2.2 then (b.1 + shift, b.2) else b
  let s := s.modTrain t.train fun x => { x with bad := x.bad.map later }
  let move (w : Landing) : Landing := match w with
    | .tb x => .tb (x + move)
    | w => w
  let residual (p : Pend) : Pend :=
    if keys.contains p.key && !p.what.inImage then { p with due := p.due + shift, what := move p.what } else p
  let s := { s with grid := { s.grid with pend := s.grid.pend.map residual } }
  let s := s.consumeImage tk base image img
  let s := keys.foldl (fun s k => s.resumeRun k base (record (s.group k).idx) whole) s
  let s := if alone then
      (List.range d.coreCount).foldl (fun s c => s.modCore (core + c) fun x =>
        { x with lastWin := (List.range 4).foldl (fun m q =>
            let b := bitsOf (w 0x30) (8 * (4 * c + q)) 8
            Sp.set 0 m q (if b = 255 then 0 else b + 1)) x.lastWin }) s
    else s
  let s := if core / 8 = t.core / 8 && !tr.stale.contains (core / 8) then s else s.joinCluster t.train (core / 8)
  (List.range d.coreCount).foldl (fun s c => s.refreshCore (core + c)) s

/-- Whether the slot numbers of a saved team are unclaimed on a core (R309). -/
def State.slotsFree (s : State) (tk core : Nat) : Bool :=
  let t := s.team tk
  (List.range (if t.pair then 2 else 1)).all fun c =>
    (s.grid.teams.all fun p => p.1 == tk || !p.2.live || p.2.ended || p.2.saved || p.2.train != t.train ||
      p.2.claimed (core + c) &&& t.claimed (t.core + c) == 0)

/-- Operands of a TALIGN at which a group still waits. -/
def State.talignOf (s : State) (key : Nat) : Option (W64 × W64) :=
  match (s.group key).block with
  | .talign x v _ => some (x, v)
  | _ => none

/-- A value lands in the destination of a group's wait. -/
def State.landOwedScalar (s : State) (tr key due n : Nat) (x : W64) : State :=
  let r := boundReg n
  let s := s.settleOwed key r
  { s with grid := { s.grid with pend := s.grid.pend ++ [{ train := tr, due := due, key := key, what := landingOf r x }] } }

/-- A group's TALIGN is over: the lateness lands at a vc, and the group is eligible. -/
def State.endTalign (s : State) (tr key due dst : Nat) (late : W64) : State :=
  (s.landOwedScalar tr key due dst late).modGroup key fun g => { g with block := .none, wake := none }

/-- The TALIGNs that wait in a train, with some that come back to it; all fault where they differ (R58, R248). -/
def State.joinAlign (s : State) (tr : Nat) (ws : List (Nat × Nat)) : State :=
  let who := (s.train tr).alignWho ++ ws
  let ops := who.filterMap fun w => s.talignOf w.1
  if ops.all fun o => some o == ops.head? then s.modTrain tr fun x => { x with alignWho := who }
  else
    (who.foldl (fun s w => s.blockedFault tr w.1 (BitVec.ofNat 48 w.2) (bitOf w.2 48) true) s).modTrain tr fun x =>
      { x with alignWho := [], alignBad := some x.clk }

/-- A team that was saved alone and joins at `base` brings back what its image had no place for: its faults come as much later as its events
do (R376), the lateness of an alignment that it took part in lands, and a TALIGN that still waits takes part in the train's, with which it
is compared at this boundary (R248; DESIGN CHOICE, notes/assumptions/126.md). -/
def State.joinTrain (s : State) (tk base : Nat) : State :=
  let t := s.team tk
  let later (r : FaultRec) : FaultRec := { r with p := r.p + (base - t.endedAt) }
  let s := s.modTeam tk fun x => { x with traps := [], aligns := [], late := none }
  let s := s.modTrain t.train fun x => { x with faults := x.faults ++ t.traps.map later }
  match t.late with
  | some x => (s.teamGroups tk).foldl (fun s k => match (s.group k).block with
      | .talign _ _ dst => s.endTalign t.train k base dst x
      | _ => s) s
  | none => if t.aligns.isEmpty then s else s.joinAlign t.train (t.aligns.filter fun w => (s.talignOf w.1).isSome)

/-- The restore latency of a team that joins its running train. -/
def restoreLat : Nat := 1280

/-- A single team joins its train at the boundary `b` + 1,280 (R376); nothing where there is no room. Its groups are on the core from `b`
on, and the boundaries between check their waits (DESIGN CHOICE, notes/assumptions/102.md). -/
def State.rejoinTeam (s : State) (tk : Nat) (want : Nat → Bool) : State :=
  let t := s.team tk
  let tr := s.train t.train
  let base := tr.clk + restoreLat
  match s.findRoom t.train fun c => want c && s.slotsFree tk c with
  | none => s
  | some (core, carve) =>
    let yielded := t.yielded
    let move := tr.vc + BitVec.ofNat 64 restoreLat - BitVec.ofNat 64 (at_ (s.imageBytes tk t.image 16) 8 8)
    let s := (s.restoreTeam tk core base t.image move carve (s.teamsOn t.train core).isEmpty false).joinTrain tk base
    let wake (k : Nat) (s : State) : State := s.modGroup k fun g =>
      { g with hold := max g.hold base, wake := if yielded && !g.ended then some base else g.wake }
    let s := (s.teamGroups tk).foldl (fun s k => wake k s) s
    let twin := tk + 2 ^ 21
    if (s.team twin).live && (s.team twin).saved then
      let mate := tr.mateCore core
      let s := (s.restoreTeam twin mate base t.image move (carve.map fun x => (tr.mateCore x.1, x.2.1, x.2.2))
        (s.teamsOn t.train mate).isEmpty false).joinTrain twin base
      (s.teamGroups twin).foldl (fun s k => wake k s) s
    else s

/-- The cores that a parked train would take from a first core: all that it had, in their relative placement. A twin launch moves by
whole clusters. -/
def State.trainPlaces (s : State) (tr first : Nat) : Option (List Nat) :=
  let t := s.train tr
  let low := t.places.foldl min 255
  let cores := t.places.map fun c => first + (c - low)
  let cl := s.clusters t.owner
  let busy := s.busyCores
  let aligned := (!t.desc.pair || first % 2 == low % 2) && (!t.desc.twin || first % 8 == low % 8)
  if aligned && cores.all fun c => c < 256 && cl.contains (c / 8) && !busy.contains c then some cores else none

/-- The parked train resumes at its image vc on cores from `first`, its teams where they stood relative to it: the decisions of the
saved boundary's vc follow. What an ended team left to land or to start moves with the train, as does what its cores held. Every core
takes its cluster's view, and a cluster that its cores did not stand on before, or that was scrubbed since, the home values, also where no
team is restored: R143 names no refresh there (DEDUCED, notes/assumptions/99.md). -/
def State.resumeTrain (s : State) (tr first : Nat) (imageOf : Nat → Nat) : State :=
  match s.trainPlaces tr first with
  | none => s
  | some cores =>
    let t := s.train tr
    let low := t.places.foldl min 255
    let place (c : Nat) : Nat := first + (c - low)
    let cluster (k : Nat) : Nat := first / 8 + k - low / 8
    let gone (key : Nat) : Bool := (s.group key).width = 0
    let g := s.grid
    let s := { s with grid := { g with
        acquires := g.acquires.map fun a : Acquire => if a.train = tr && gone a.key then { a with core := place a.core } else a
        sfu := g.sfu.map fun e : SfuEntry => if e.train = tr && gone e.key then { e with core := place e.core } else e
        stps := g.stps.map fun w : PoolWrite =>
          if w.train = tr && !(s.team (teamKey tr w.team)).live then { w with core := place w.core } else w } }
    let s := (cores.foldl State.clearCore s).putLeftover t.left t.places place
    let s := s.modTrain tr fun t => { t with
      parked := false, cores := cores, places := [], left := {}, mates := t.mates.map fun m => (cluster m.1, cluster m.2) }
    let moved := (t.places.filter fun c => place c / 8 != c / 8 || t.stale.contains (place c / 8)).map fun c => place c / 8
    let s := moved.eraseDups.foldl (fun s k => s.joinCluster tr k) s
    let s := cores.foldl State.refreshCore s
    let s := (s.parkedTeams tr).foldl (fun s tk =>
      let x := s.team tk
      s.restoreTeam tk (place x.core) (t.clk + 1) (imageOf tk) 0 (x.carve.map fun y => (place y.1, y.2)) true true) s
    s.modLaunch t.launch fun l => { l with cores := cores }

/-- The first core that a restore request leaves open or names. -/
def anyCore : Nat := 256
def State.firstFor (s : State) (tr want : Nat) : Option Nat :=
  (if want = anyCore then List.range 256 else [want]).find? fun c => (s.trainPlaces tr c).isSome

/-- Where the save wrote a team's image (R375, R387). -/
def State.imageStart (s : State) (tk : Nat) : Nat := (((s.imagePieces tk (s.team tk).image 1).head?).map (·.1)).getD 0

/-- Where the images of a parked train's restore lie: where the save wrote them, if the first is at the address that CTXLD names, else Z
apart from that address (R140, R387, R388). -/
def State.trainImage (s : State) (tr addr tk : Nat) : Nat :=
  let ts := (s.parkedTeams tr).filter fun tk => !(s.team tk).twin
  if addr = 0 || ts.head?.map s.imageStart == some addr then (s.team tk).image
  else addr + (s.train tr).desc.saveSize * ts.findIdx fun x => x == (tk / 2 ^ 22 * 2 ^ 22 + tk % 2 ^ 21)

/-- A restore request's train or team (R376, R388). -/
def State.serveRestore (s : State) (id : Nat) : State :=
  match s.fw.pre.find? fun r => r.id == id && !r.done with
  | none => s
  | some r =>
    match r.restore with
    | none => s
    | some want =>
      let t := s.train r.train
      let done (s : State) : State :=
        let s := s.dropPre id
        if r.ring then s.spend.reportPost 17 0 (Config.value s.fresh) r.handle t.owner else s
      match r.team with
      | none =>
        match s.firstFor r.train want with
        | none => s
        | some c =>
          if t.parked then done (s.resumeTrain r.train c (s.trainImage r.train r.image)) else s.dropPre id
      | some tk =>
        if !(s.team tk).live || !(s.team tk).saved then s.dropPre id
        else
        let s0 := if r.image = 0 then s else s.modTeam tk fun x => { x with image := r.image }
        let s1 := s0.rejoinTeam tk fun c => want == anyCore || c == want
        if (s1.team tk).saved then s else done s1

/-! ### YIELD (R64, R294) -/

def Group.yielding (g : Group) : Bool :=
  match g.block, g.wake with
  | .yield _ _ _ _, none => true
  | _, _ => false

/-- Whether every group of a team waits at YIELD or has ended. -/
def State.allYield (s : State) (tk : Nat) : Bool :=
  let t := s.team tk
  let live := (s.teamGroups tk).filter fun k => !(s.group k).ended
  t.live && !t.ended && !live.isEmpty && live.all fun k => (s.group k).yielding

/-- Whether a resident team is saved at this boundary. -/
def State.yieldsNow (s : State) (tk : Nat) : Bool :=
  let t := s.team tk
  let clk := (s.train t.train).clk
  let keys := s.teamGroups tk
  s.allYield tk && !t.saved && (s.teamCmds tk).all (fun c => c.complete clk) && t.busyUntil ≤ clk &&
  !(s.grid.owed.any fun o => o.kind == awaited && keys.contains o.key)

/-- Saves of the fully yielded teams. -/
def State.saveYields (s : State) (tr : Nat) : State :=
  ((s.liveTeams tr).filter fun tk => !(s.team tk).twin && s.yieldsNow tk).foldl
    (fun s tk => (s.saveTeam tk 0 true).saveTwin tk 0 true) s

/-- Whether a team that YIELD saved is ready to resume. -/
def Team.returns (t : Team) : Bool := !t.twin && t.saved && t.yielded && !t.parked && t.ready.isSome

/-- Ready teams restored in the order in which they became ready, by index within one boundary. One that finds no core with room and its
slot numbers unclaimed does not hold back the later ones (DESIGN CHOICE, notes/assumptions/90.md), and one that is saved at this boundary
is not restored at it (DESIGN CHOICE, notes/assumptions/109.md): R64 says neither. -/
def State.restoreYields (s : State) (tr : Nat) : State :=
  let ready := (s.liveTeams tr).filterMap fun tk =>
    let t := s.team tk
    if t.returns && !s.leaving t then t.ready.map fun b => (tk, b) else none
  (sortBy (fun a b => lexLe [a.2, a.1] [b.2, b.1]) ready).foldl (fun s p => s.rejoinTeam p.1 fun _ => true) s

end Sys2Proof.Machine
end

