-- ==== Sys2Proof/Machine/Boundary.lean ====
section
/-!
DEFINITION. The boundary of a quantum: its condition, the six phases, the signatures of twins, the consumption of errors, what
follows the phases, and the alignment of a train (spec/02_execution_model.md R55, R56, R58, R63 to R66,
spec/07_memory_model.md R145 to R162, spec/12_memory_and_synchronisation_instructions.md R286 to R299,
spec/20_reliability_laps_replay.md R432 to R437, R440 to R442).
-/

namespace Sys2Proof.Machine

/-! ### When a boundary is due (R55, R58, R248) -/

def State.residentTeams (s : State) (tr : Nat) : List Nat := (s.liveTeams tr).filter fun tk => !(s.team tk).saved

/-- Every resident team with a conductor has issued its TALIGN; a team that a fault has ended takes no part. -/
def State.aligned (s : State) (tr : Nat) : Bool :=
  let t := s.train tr
  let asked := (s.residentTeams tr).filter fun tk => (s.team tk).conductors != 0 && !(s.team tk).halting
  t.alignWho.any (fun w => (s.talignOf w.1).isSome) &&
    asked.all fun tk => t.alignWho.any fun w => teamKey tr (s.group w.1).team == tk

/-- Lines of a store buffer that end a quantum. -/
def bufferLines : Nat := 128
/-- Vc of a quantum, the last one its boundary. -/
def quantumLength : Nat := 512

def State.boundaryDue (s : State) (tr : Nat) : Bool :=
  let t := s.train tr
  t.live && !t.parked && !t.boundary && !t.finished && t.qstart ≤ t.clk &&
  (t.clk ≥ t.qstart + (quantumLength - 1) || s.aligned tr ||
   s.grid.teams.any fun p => p.2.train == tr && p.2.live && bufferLines ≤ p.2.lines.length)

/-! ### The consumption of an error (R432 to R437) -/

/-- Whether no replay can restore a consumed page: the launch lap holds no copy of it from before its poisoning. -/
def State.hopeless (s : State) (tr : Nat) (page : Option Nat) : Bool :=
  match page with
  | none => false
  | some p =>
    let held := (s.mem.laps.filter fun l => l.number == 0 && l.launch == (s.train tr).launch).flatMap (·.held)
    pePsn (s.page p) && !(held.any fun h => h.1 == p && !h.2)

/-- The attempt of a train ends and its launch is replayed. `error` says whether the attempt consumed an error: three that did end the
launch, as does a page that no replay restores (R436). A pod launch announces its replay by a NOTE and waits for it (R437). -/
def State.endAttempt (s : State) (tr : Nat) (error : Bool) (page : Option Nat) : State :=
  let l := s.launch (s.train tr).launch
  let n := l.attempts + error.toNat
  let h := s.hopeless tr page
  let s := s.modLaunch (s.train tr).launch fun x => { x with attempts := n }
  if h || (error && 3 ≤ n) then s.failReplay tr
  else if !l.pod then s.replay tr
  else (s.offer 7 1 0 0 [l.recSeq]).modTrain tr fun t => { t with holds := t.holds ++ [(t.clk, Hold.replay)], bad := [], faults := [] }

/-- Consumed data: counter 3 of the owner's bank, and the end of the attempt. The page of bad DRAM data is poisoned (R432). -/
def State.consume (s : State) (tr : Nat) (page : Option Nat) : State :=
  let s := match page with
    | some p => if pePsn (s.page p) then s else s.poison p
    | none => s
  (s.bumpOwner (s.train tr).owner 3).endAttempt tr true page

/-! ### Waits (R63, R64, R159, R162, R297) -/

/-- The value of a counter at the home point of a scope. -/
def State.counterAt (s : State) (owner cluster scope x : Nat) : Nat :=
  if scope < 4 && tagLevel x != 0 then Memory.nat s.mem.cview (viewKey cluster (tagAddr x)) 8
  else leNat (s.homeBytes owner (tagAddr x) 8)

/-- Die scope on another die is device scope (R149). -/
def scopeFor (core scope ia : Nat) : Nat := if scope = 4 && dieOf ia != core / 64 then 5 else scope

/-- Whether the counters of a team's yielded groups are still to be satisfied, the team resident or not (R64, R294): they are read at every
boundary, whether or not other groups, commands or atomic results still hold back its save. -/
def Team.readsYields (t : Team) : Bool := t.live && !t.ended && !t.twin && !t.parked && t.ready.isNone
/-- Whether such a team waits whole, so that it becomes ready when all its counters are satisfied at one boundary (R64). -/
def State.yieldWaits (s : State) (tk : Nat) : Bool := s.allYield tk && (s.team tk).readsYields

/-- The counters that a train's boundary reads for its waits: the group's cluster, the scope, and the tagged address. -/
def State.waitReads (s : State) (tr : Nat) : List (Nat × Nat × Nat) :=
  s.grid.groups.filterMap fun g =>
    if g.1 < 16 || g.2.train != tr || g.2.ended then none
    else match g.2.block, g.2.wake with
      | .waitc scope _ x _, none => if g.2.resident then some (s.readCore g.2 / 8, scopeFor (s.readCore g.2) scope (tagAddr x), x) else none
      | .yield scope _ x _, none =>
        if (s.team (teamKey tr g.2.team)).readsYields then some (g.2.core / 8, scopeFor (s.readCore g.2) scope (tagAddr x), x) else none
      | _, _ => none

/-- The pages that a boundary reads: for its atomics, its counter adds and its waits. -/
def State.boundaryReads (s : State) (tr : Nat) : List Nat :=
  (s.grid.acts.filter fun a => a.train == tr && a.team < 2 ^ 21).flatMap (fun a => match a.what with
    | .atomic _ _ _ lanes _ _ => lanes.map fun l => pageOf (tagAddr l.2.1)
    | .count _ ia _ _ => [pageOf (tagAddr ia)]
    | _ => []) ++
  (s.waitReads tr).map fun r => pageOf (tagAddr r.2.2)

/-- The waits of a boundary that read a counter at its home: a page that fails its checks counts (R394). -/
def State.countWaitMisses (s : State) (tr : Nat) : State :=
  s.countMisses (s.train tr).owner
    (((s.waitReads tr).filter fun r => !(r.2.1 < 4 && tagLevel r.2.2 != 0)).map fun r => pageOf (tagAddr r.2.2))

/-! ### Signatures of twins (R442) -/

/-- The 24-byte records of the words that some bytes touch. -/
def sigRecords (kind a : Nat) (bs : List Byte) : List Byte :=
  let n := if bs.isEmpty then 0 else (a + bs.length - 1) / 8 - a / 8 + 1
  (List.range n).flatMap fun i =>
    let w := 8 * (a / 8 + i)
    let inside (j : Nat) : Bool := a ≤ w + j && w + j < a + bs.length
    let mask := ((List.range 8).map fun j => if inside j then 2 ^ j else 0).foldl (· + ·) 0
    leBytes 8 w ++ leBytes 8 (mask + 256 * kind) ++ (List.range 8).map fun j => if inside j then nth 0 bs (w + j - a) else 0

/-- The records of a synchronising action with their order in the quantum. -/
def Act.signed (a : Act) : List (List Nat × List Byte) :=
  let row (pos kind ia : Nat) (bs : List Byte) : List Nat × List Byte := ([a.group, pos, a.ord], sigRecords kind ia bs)
  match a.what with
  | .atomic op q _ lanes _ _ =>
    let n := if q then 8 else 4
    lanes.flatMap fun l => [row l.1 (1 + 256 * op) (tagAddr l.2.1) (leBytes n l.2.2.1)] ++
      (if op = 0x0D then [row l.1 (1 + 256 * op) (tagAddr l.2.1) (leBytes n l.2.2.2)] else [])
  | .count _ ia n _ => [row 0 3 (tagAddr ia) (leBytes 8 n)]
  | .cell bs => [row 0 4 0 bs]
  | .drec _ _ daddr _ ws => [row 0 5 (8 * daddr) (wordBytes ws)]
  | .fence _ _ _ => []
  | .lapOpen _ _ _ _ _ _ _ => []
  | .lapRel _ _ _ => []

def State.signature (s : State) (tk : Nat) : Nat :=
  let t := s.team tk
  let stores := (s.grid.stores.filter fun b => b.train == t.train && b.team == t.keyIdx).map fun b =>
    (b.key.drop 1, sigRecords (if b.pos < 64 then 0 else 2) b.ia b.data)
  let acts := (s.grid.acts.filter fun a => a.train == t.train && a.team == t.keyIdx).flatMap Act.signed
  crc64 ((sortBy (fun a b => lexLe a.1 b.1) (stores ++ acts)).flatMap (·.2))

/-- Whether some primary's signature differs from its twin's. -/
def State.twinsDiffer (s : State) (tr : Nat) : Bool :=
  (s.train tr).desc.twin && s.grid.teams.any fun p =>
    p.2.train == tr && p.2.live && !p.2.saved && !p.2.twin && s.signature p.1 != s.signature (p.1 + 2 ^ 21)

/-- A mismatch of twins: counter 5, and the replay of the launch. -/
def State.twinMismatch (s : State) (tr : Nat) : State :=
  (s.bumpOwner (s.train tr).owner 5).endAttempt tr false none

/-! ### Phase 1 (R56, R145, R156) -/

def State.commitStore (s : State) (b : BufStore) : State :=
  let tk := teamKey b.train b.team
  let t := s.team tk
  if b.level = 3 then s.compPut b.ia b.data
  else s.commit (s.train b.train).owner tk (t.core / 8) t.cores b.level b.ia b.data

def State.commitStores (s : State) (tr : Nat) : State :=
  let mine := s.grid.stores.filter fun b => b.train == tr
  let s := { s with grid := { s.grid with stores := s.grid.stores.filter fun b => b.train != tr } }
  (sortBy (fun a b => lexLe a.key b.key) (mine.filter fun b => b.team < 2 ^ 21)).foldl State.commitStore s

/-! ### Phase 2 (R153, R154, R287) -/

/-- Own bytes of a cluster within a word pushed, whichever team they are of. -/
def State.pushWord (s : State) (owner cluster ia n : Nat) : State :=
  let k := viewKey cluster ia
  let mine := (List.range n).filter fun i => Sp.get 0 s.mem.own (k + i) != 0
  let s := mine.foldl (fun s i => s.homeWrite owner (ia + i) [Memory.byte s.mem.cview (k + i)]) s
  { s with mem := { s.mem with own := Sp.clear s.mem.own k n } }

/-- A read, change and write of `n` bytes at the point where a scope performs it; the old value. -/
def State.rmw (s : State) (tk scope x n : Nat) (f : Nat → Nat) : State × Nat :=
  let t := s.team tk
  let owner := (s.train t.train).owner
  let ia := tagAddr x
  let cl := t.core / 8
  if tagLevel x = 0 then
    let old := leNat (s.homeBytes owner ia n)
    (s.homeWrite owner ia (leBytes n (f old)), old)
  else if scope < 4 then
    let old := Memory.nat s.mem.cview (viewKey cl ia) n
    (s.makeOwn tk cl t.cores ia (leBytes n (f old)), old)
  else
    let s := s.pushWord owner cl ia n
    let old := leNat (s.homeBytes owner ia n)
    let s := s.homeWrite owner ia (leBytes n (f old))
    let bs := s.homeBytes owner ia n
    (({ s with mem := { s.mem with cview := Memory.put s.mem.cview (viewKey cl ia) bs } }).putCores t.cores ia bs, old)

/-- One lane of an atomic in R56 key order. -/
structure AtomLane where
  act : Act
  op : Nat
  q : Bool
  scope : Nat
  lane : Nat
  addr : Nat
  c0 : Nat
  c1 : Nat
deriving DecidableEq, Repr

def Act.atomLanes (a : Act) : List AtomLane :=
  match a.what with
  | .atomic op q scope lanes _ _ => lanes.map fun l =>
      { act := a, op := op, q := q, scope := scope, lane := l.1, addr := l.2.1, c0 := l.2.2.1, c1 := l.2.2.2 }
  | _ => []

/-- The old values land in every lane of the atomic. -/
def State.landAtomic (s : State) (a : Act) (olds : List (Nat × Nat)) : State :=
  let clk := (s.train a.train).clk
  match a.what with
  | .atomic _ q _ _ (some r) lat =>
    let s := s.landFor a.key (clk + lat) (0, r) (.vec r (olds.map fun p => (p.1, BitVec.ofNat 32 p.2)))
    if q then s.landFor a.key (clk + lat) (0, r + 1) (.vec (r + 1) (olds.map fun p => (p.1, BitVec.ofNat 32 (p.2 / 2 ^ 32)))) else s
  | _ => s

/-- The actions of a train's primaries. -/
def State.actsOf (s : State) (tr : Nat) : List Act := s.grid.acts.filter fun a => a.train == tr && a.team < 2 ^ 21

def State.performAtomics (s : State) (tr : Nat) : State :=
  let acts := s.actsOf tr
  let lanes := sortBy (fun a b => lexLe [a.act.team, a.act.group, a.lane, a.act.ord] [b.act.team, b.act.group, b.lane, b.act.ord])
    (acts.flatMap Act.atomLanes)
  let one (acc : State × List (Nat × Nat × Nat)) (x : AtomLane) : State × List (Nat × Nat × Nat) :=
    let n := if x.q then 8 else 4
    let r := acc.1.rmw (teamKey tr x.act.team) x.scope x.addr n fun old => atomicNew x.op (8 * n) old x.c0 x.c1
    (r.1, acc.2 ++ [(x.act.ord, x.lane, r.2)])
  let r := lanes.foldl one (s, [])
  acts.foldl (fun s a => s.landAtomic a ((r.2.filter fun o => o.1 == a.ord).map (·.2))) r.1

/-! ### Phase 3 (R66, R150, R158, R160, R297, R333) -/

def Act.isDrec (a : Act) : Bool :=
  match a.what with
  | .drec _ _ _ _ _ => true
  | _ => false

/-- The group of a DREC with .w and its twin's learn the offer tag. -/
def State.tellTag (s : State) (key otag : Nat) : State :=
  (s.withTwin key).foldl (fun s k => s.modGroup k fun g => match g.block with
    | .drecw t dst q => if t = noTag then { g with block := .drecw otag dst q } else g
    | _ => g) s

/-- What the fences of an action's team in the quantum are together: the union of their kinds, release and acquire, which each has at
its scope (R290). -/
def State.fenceKinds (s : State) (tr team : Nat) : Bool × Bool :=
  (s.actsOf tr).foldl (fun k a => match a.what with
    | .fence rel acq _ => if a.team = team then (k.1 || rel, k.2 || acq) else k
    | _ => k) (false, false)

/-- What an action does in phase 3. A hall operation that failed makes no add, and so no release (R158, R330). -/
def State.phase3 (s : State) (tr : Nat) (a : Act) : State :=
  let tk := teamKey tr a.team
  match a.what with
  | .fence _ _ scope => if (s.fenceKinds tr a.team).1 then s.release tk scope else s
  | .count scope _ n err => if n = 0 && err.isSome then s else s.release tk scope
  | .lapOpen _ _ _ _ _ _ _ => s.release tk 5
  | .drec op len daddr _ ws =>
    let s := (s.release tk 6).offerFrom tr op len daddr (s.train tr).owner ws
    if s.grid.acts.any fun b => b.key == a.key && b.isDrec && a.ord < b.ord then s
    else s.tellTag a.key ((s.pod.nextTag - 1) % 2 ^ 16)
  | _ => s

/-- The release that a TRIG promises, made where a launch names this one as producer; in a launch that none names it has no effect (R66,
R243). Where the dependant is admitted later, it is made at the first boundary after that (DEDUCED, notes/assumptions/54.md). -/
def State.trigRelease (s : State) (tr tk : Nat) : State :=
  let t := s.train tr
  if t.trigs.contains tk && s.isProducer t.launch then
    (s.pushTeam t.owner tk fun ia => pkgOf ia == s.pkg).modTrain tr fun t => { t with trigs := t.trigs.filter fun x => x != tk }
  else s

/-- Phase 3, by teams: those that have ended may have a TRIG to release. -/
def State.releases (s : State) (tr : Nat) : State :=
  let teams := (s.grid.teams.filter fun p => p.2.train == tr && p.2.live && !p.2.twin).map (·.1)
  (sortBy (fun a b => a ≤ b) (teams ++ (s.train tr).trigs).eraseDups).foldl (fun s tk =>
    let mine := sortBy (fun a b => a.ord ≤ b.ord) ((s.actsOf tr).filter fun a => teamKey tr a.team == tk)
    (mine.foldl (fun s a => s.phase3 tr a) s).trigRelease tr tk) s

/-! ### Phase 4 (R158, R292, R330) -/

/-- A counter add at the home point of its scope, with the status word of a hall operation; one that failed adds nothing (R330). The status
word lies beside the counter's intermediate address and is written where the add is made, with no translation or lease check of its own
(DESIGN CHOICE, notes/assumptions/115.md). -/
def State.addCount (s : State) (tr : Nat) (a : Act) : State :=
  match a.what with
  | .count scope x n err =>
    let tk := teamKey tr a.team
    let t := s.team tk
    let owner := (s.train tr).owner
    let s :=
      match err with
      | none => s
      | some st => s.commit owner tk (t.core / 8) t.cores (if scope < 4 then tagLevel x else 0) (tagAddr x + 8) (leBytes 8 st.toNat)
    if n = 0 && err.isSome then s
    else if scope < 4 then (s.rmw tk scope x 8 fun old => (old + n) % 2 ^ 64).1
    else s.homeWrite owner (tagAddr x) (leBytes 8 ((leNat (s.homeBytes owner (tagAddr x) 8) + n) % 2 ^ 64))
  | _ => s

def State.addCounts (s : State) (tr : Nat) : State :=
  (sortBy (fun a b => lexLe [a.team, a.group, a.ord] [b.team, b.group, b.ord]) (s.actsOf tr)).foldl (fun s a => s.addCount tr a) s

/-! ### Phases 5 and 6 (R147, R151, R159, R162, R297) -/

/-- A satisfied wait: its group, latency, acquire scope, and the value that lands in DST. -/
structure Wake where
  key : Nat
  lat : Nat
  scope : Option Nat
  lands : Option (Nat × W64)
deriving DecidableEq, Repr

/-- The wait of a group that this boundary satisfies. -/
def State.satisfied (s : State) (tr key : Nat) (g : Group) : Option Wake :=
  let t := s.train tr
  match g.block, g.wake with
  | .waitc scope _ x n, none =>
    let sc := scopeFor (s.readCore g) scope (tagAddr x)
    if n ≤ s.counterAt t.owner (s.readCore g / 8) sc x then
      some { key := key, lat := opLat sc (tagLevel x), scope := some sc, lands := none }
    else none
  | .dwait n, none => if n ≤ t.seq.toNat then some { key := key, lat := 4096, scope := some 6, lands := none } else none
  | .drecw otag dst _, none =>
    let q := Sp.get 0 s.pod.applied otag
    if otag != noTag && q != 0 && q.toNat ≤ t.seq.toNat then
      some { key := key, lat := latDial, scope := none, lands := some (dst, q) }
    else none
  | _, _ => none

def State.wakes (s : State) (tr : Nat) : List Wake :=
  s.grid.groups.filterMap fun p =>
    if 16 ≤ p.1 && p.2.train == tr && p.2.resident && !p.2.ended then s.satisfied tr p.1 p.2 else none

def State.addAcquire (s : State) (tr key due core : Nat) : State :=
  { s with grid := { s.grid with acquires := s.grid.acquires ++ [{ train := tr, key := key, due := due, core := core }] } }

/-- A satisfied group becomes eligible; its core's acquire completes then. -/
def State.wakeGroup (s : State) (tr : Nat) (w : Wake) : State :=
  let clk := (s.train tr).clk
  let core := s.readCore (s.group w.key)
  let s := s.modGroup w.key fun g => { g with wake := some (clk + w.lat) }
  let s := match w.lands with
    | none => s
    | some (dst, x) => s.landOwedScalar tr w.key (clk + w.lat) dst x
  match w.scope with
  | none => s
  | some _ => s.addAcquire tr w.key (clk + w.lat) core

/-- The acquire of a fence that has one by the union of its team's kinds: its action and scope. -/
def State.fenceAcquire (s : State) (tr : Nat) (a : Act) : Option (Act × Nat) :=
  match a.what with
  | .fence _ _ scope => if (s.fenceKinds tr a.team).2 then some (a, scope) else none
  | _ => none

/-- The groups of a team that waits whole at YIELD, with the scopes of their counters, once every counter is
satisfied (R64, R294). A saved team's counter of a narrow scope is read in the view of the cluster that it left: R159 names no other
(DESIGN CHOICE, notes/assumptions/91.md). -/
def State.yieldScopes (s : State) (tr tk : Nat) : Option (List (Nat × Nat × Nat)) :=
  let t := s.team tk
  if !s.yieldWaits tk then none
  else
    let each (k : Nat) : Option (Option (Nat × Nat × Nat)) :=
      let g := s.group k
      match g.block with
      | .yield scope _ x n =>
        let sc := scopeFor (s.readCore g) scope (tagAddr x)
        if n ≤ s.counterAt (s.train tr).owner (t.core / 8) sc x then some (some (k, sc, opLat sc (tagLevel x))) else none
      | _ => if g.ended then some none else none
    let rs := (s.teamGroups tk).map each
    if rs.all Option.isSome then some (rs.filterMap fun r => r.getD none) else none

/-- Phases 5 and 6: what the boundary reads, wakes and acquires. Every counter is read before any view is refreshed. -/
def State.waitsAndAcquires (s : State) (tr : Nat) : State :=
  let s := (s.countWaitMisses tr).modTrain tr fun t => { t with seq := s.pod.top, dial := s.pod.dial }
  let t := s.train tr
  let ws := s.wakes tr
  let ready := (s.liveTeams tr).filterMap fun tk => (s.yieldScopes tr tk).map fun gs => (tk, gs)
  let yields := ready.flatMap fun p => p.2
  let acqs := (s.actsOf tr).filterMap (s.fenceAcquire tr)
  let wide := (ws.filterMap fun w => match w.scope with
      | some sc => if 4 ≤ sc then some (s.readCore (s.group w.key) / 8) else none
      | none => none) ++
    (acqs.filterMap fun a => if 4 ≤ a.2 then some (a.1.core / 8) else none) ++
    (yields.filterMap fun y => if 4 ≤ y.2.1 then some (s.readCore (s.group y.1) / 8) else none)
  let s := ws.foldl (fun s w => s.wakeGroup tr w) s
  let s := acqs.foldl (fun s a => s.addAcquire tr a.1.key (t.clk + scopeLat a.2) a.1.core) s
  let s := yields.foldl (fun s y => s.addAcquire tr y.1 (t.clk + y.2.2) (s.readCore (s.group y.1))) s
  let s := ready.foldl (fun s p => s.modTeam p.1 fun x => { x with ready := some t.clk }) s
  wide.eraseDups.foldl (fun s k => s.refreshCluster t k) s

/-! ### After the phases (R55, R127, R240, R325, R374, R401) -/

/-- What keeps a team from being discarded (R374). -/
def Act.commits (a : Act) : Bool :=
  match a.what with
  | .fence _ _ _ => false
  | .cell _ => false
  | _ => true

def State.markCommitted (s : State) (tr : Nat) : State :=
  let teams := ((s.grid.stores.filter fun b => b.train == tr).map (·.team) ++
    (s.grid.acts.filter fun a => a.train == tr && a.commits).map (·.team) ++
    (s.pod.hallOps.filter fun o => o.train == tr).map (·.team)).eraseDups
  let s := teams.foldl (fun s i => s.modTeam (teamKey tr i) fun t => { t with committed := true }) s
  if teams.isEmpty then s else s.modTrain tr fun t => { t with committed := true }

/-- A command with global writes completes 96 vc after the boundary that commits its last one (R325). -/
def Cmd.afterBoundary (clk : Nat) (c : Cmd) : Cmd :=
  let copies := match c.op with
    | .cpy _ _ => true
    | .cpyr _ _ => true
    | .cpyk _ _ => true
    | .esp _ _ => true
    | _ => false
  if c.waits && copies && c.land ≤ clk then { c with waits := false, land := clk + 96 } else c

/-- The next quantum. -/
def State.nextQuantum (s : State) (tr : Nat) : State :=
  let clk := (s.train tr).clk
  let g := s.grid
  let s := { s with grid := { g with
      stores := g.stores.filter fun b => b.train != tr
      acts := g.acts.filter fun a => a.train != tr
      cmds := g.cmds.map fun c : Cmd => if c.train = tr then c.afterBoundary clk else c
      teams := g.teams.map fun p : Nat × Team => if p.2.train = tr then (p.1, { p.2 with lines := [] }) else p } }
  let s := s.modTrain tr fun t =>
    { t with qt := t.qt + 1, qstart := clk + 1, pod := fieldOf (s.hpol t.owner) 62 1 == 1, boundary := true }
  s.snapLaps tr

/-- The alignment takes place at this boundary. -/
def State.startAlign (s : State) (tr : Nat) : State :=
  let t := s.train tr
  match t.alignWho.findSome? fun w => s.talignOf w.1 with
  | none => s
  | some (x, v) => s.setTrain tr { t with align := some (t.clk + 1, x, v) }

/-- The last boundary of a launch: no team is left (R418 w2). -/
def State.lastBoundary (s : State) (tr : Nat) : State :=
  let t := s.train tr
  let idle := (s.liveTeams tr).isEmpty && t.requeue.isEmpty && t.nextTeam ≥ t.desc.grid
  if t.live && !t.parked && idle then
    (s.setTrain tr { t with finished := true }).modLaunch t.launch fun l => { l with endVc := t.vc }
  else s

/-- HALT .pkg ends the train as END ends it (R392): its started commands complete, and its launch completes as failed. -/
def State.haltTrain (s : State) (tr : Nat) : State :=
  if (s.train tr).endAll && !(s.train tr).failing then s.endTrain tr 0 0 else s

/-- Single teams whose restore was requested join the train (R376). -/
def State.serveTeamRestores (s : State) (tr : Nat) : State :=
  (s.fw.pre.filter fun r => !r.done && r.train == tr && r.restore.isSome && r.team.isSome).foldl (fun s r => s.serveRestore r.id) s

/-- What a boundary adds to its quantum before anything of it commits: the replies and completions of hall operations, and the counter adds
of laps. -/
def State.gather (s : State) (tr : Nat) : State := ((s.landHall tr).completeHall tr).boundaryLaps tr

/-- The page whose bad data a boundary consumes: one that it reads, or the source of a copy whose bytes it commits (R432, R433). -/
def State.boundaryError (s : State) (tr : Nat) : Option Nat :=
  match (s.boundaryReads tr).find? fun p => pePsn (s.page p) with
  | some p => some p
  | none => (s.grid.stores.filter fun b => b.train == tr && b.team < 2 ^ 21).findSome? (·.bad)

/-- LAP .rel, which completes at its boundary + 640 (R325). -/
def Act.lapRelease (a : Act) : Bool :=
  match a.what with
  | .lapRel _ _ _ => true
  | _ => false

/-- Whether a team has ended: its groups have, its commands of every kind are complete, and no atomic result is awaited (R240, R325). -/
def State.teamDone (s : State) (tk : Nat) : Bool :=
  let t := s.team tk
  let keys := s.teamGroups tk
  t.live && !t.ended && (!t.saved || t.halting) && keys.all (fun k => (s.group k).ended) &&
  (s.teamCmds tk).all (fun c => c.complete (s.train t.train).clk) && t.busyUntil ≤ (s.train t.train).clk &&
  !(s.grid.acts.any fun a => a.lapRelease && keys.contains a.key) && !(s.grid.owed.any fun o => o.kind == awaited && keys.contains o.key)

/-- The end of a team; its claims end with it (R309). -/
def State.endTeam (s : State) (tk : Nat) : State :=
  if s.teamDone tk then s.modTeam tk fun t => { t with ended := true, claims := [] } else s

/-- The teams that end at this boundary's vc, those whose last command its counter add completes among them (R240, R325). -/
def State.endTeams (s : State) (tr : Nat) : State := (s.liveTeams tr).foldl State.endTeam s

/-- The boundary of a quantum: revoked leases go, teams that stand on removed clusters are asked for, those of a replayed launch among them
(R405), then the discards that were asked for; then replay where errors are consumed or twins
differ, else the six phases, the next quantum, the restores that were asked for, and the saves. A save's release (R164) so falls after
phase 6, and the boundary's own acquires do not see it: R147 lists no phase for it (DESIGN CHOICE, notes/assumptions/75.md). No other
train sees a part of what a team writes here (R152). -/
def State.boundary (s : State) (tr : Nat) : State :=
  let align := s.aligned tr
  let s := ((s.removeRevoked tr).vacateTrain (Sp.get 0 s.fw.removals (s.train tr).owner) tr).serveDiscards tr
  if !(s.train tr).live then s
  else
    let s := (s.gather tr).markCommitted tr
    if s.twinsDiffer tr then s.twinMismatch tr
    else
    match s.boundaryError tr with
    | some p => s.consume tr (some p)
    | none =>
      let s := (s.commitStores tr).performAtomics tr
      let s := s.releases tr
      let s := (s.addCounts tr).moveLaps tr
      let s := ((s.waitsAndAcquires tr).nextQuantum tr).serveTeamRestores tr
      let s := if align then s.startAlign tr else s
      ((s.endTeams tr).saveYields tr).servePre tr

/-- Whether a boundary is due that must wait for a frame: a write that it makes finds none for a copy set aside (R434). -/
def State.boundaryShort (s : State) (tr : Nat) : Bool := s.boundaryDue tr && !s.mem.starved && (s.boundary tr).mem.starved

/-- Whether the end of a launch must wait for a frame: its implicit release, its counter add and its status record write too (R163,
R434). -/
def State.endShort (s : State) (tr : Nat) : Bool := (s.train tr).finished && !s.mem.starved && (s.endLaunch tr).mem.starved

/-- Whether a ready yielded team has room at this boundary (R64). -/
def State.restorableYield (s : State) (tr : Nat) : Bool :=
  (s.train tr).boundary && (s.liveTeams tr).any fun tk => (s.team tk).returns && !s.leaving (s.team tk) &&
    (s.findRoom tr fun c => s.slotsFree tk c).isSome

/-- The end of a boundary's vc: the requests whose targets have ended, and the places of ended teams, whose room appears in the next
vc. -/
def State.afterBoundary (s : State) (tr : Nat) : State :=
  (((s.endPre tr).clearEnded tr).haltTrain tr).lastBoundary tr

/-! ### The release of an alignment (R58, R248) -/

/-- Whether the aligned train is at its next vc and bc has reached T. -/
def State.alignDue (s : State) (tr : Nat) : Bool :=
  match (s.train tr).align with
  | none => false
  | some (c, t, _) => c ≤ (s.train tr).clk && t.toNat ≤ s.bc.toNat

/-- vc becomes V, every timetable moves with it, one that a TBASE has yet to write too; the lateness lands and the groups are
eligible; a team that was saved at the alignment's own boundary takes the lateness with it. Lateness counts from T to the bc in which vc is
V, the one after the last TALIGN's (DEDUCED, notes/assumptions/112.md). -/
def State.releaseAlign (s : State) (tr : Nat) : State :=
  let x := s.train tr
  match x.align with
  | none => s
  | some (_, t, v) =>
    let move := v - x.vc
    let late : W64 := s.bc - t
    let aim (w : Landing) : Landing := match w with
      | .tb b => .tb (b + move)
      | w => w
    let s := { s with grid := { s.grid with
        teams := s.grid.teams.map fun p : Nat × Team => if p.2.train = tr then (p.1, { p.2 with tb := p.2.tb + move }) else p
        pend := s.grid.pend.map fun p : Pend => if p.train = tr then { p with what := aim p.what } else p } }
    let s := x.alignWho.foldl (fun s w =>
      match (s.group w.1).block with
      | .talign _ _ dst =>
        if (s.group w.1).resident then s.endTalign tr w.1 x.clk dst late
        else s.modTeam (teamKey tr (s.group w.1).team) fun y => { y with late := some late }
      | _ => s) s
    s.modTrain tr fun t => { t with vc := v, align := none, alignWho := [] }

end Sys2Proof.Machine
end

