-- ==== Sys2Proof/Machine/SysRegs.lean ====
section
/-!
DEFINITION. System registers as firmware, programs and the companion's port reach them, with the effects of their writes: HPOL
and partition changes, FANS, slot tables, hall paths and leaf management (spec/17_privilege_traps_preemption.md R367, R370,
R383, R384, spec/18_translation_leases_partitions.md R403 to R405, R407, spec/08_time_pod_and_fabric.md R169, R184, R190, R194).
-/

namespace Sys2Proof.Machine

/-! ### Answers of S-level (R367, R425) -/

/-- Word `k` of the fault-ring record with index `i`. -/
def State.ringWord (s : State) (i k : Nat) : W64 := s.sysWord (ringAt s.fw.fring i + 8 * k)

/-- Questions of a train that need no answer any more, and their holds. -/
def State.dropAsks (s : State) (tr : Nat) : State :=
  let s := s.modTrain tr fun t => { t with holds := t.holds.filter fun h => match h.2 with
    | .answer _ => false
    | _ => true }
  { s with fw := { s.fw with
      asked := s.fw.asked.filter fun a => a.train != tr
      posts := s.fw.posts.map fun p => if p.train = some tr then { p with ask := none } else p } }

/-- END: the launch ends at the fault's point and will complete with STATE 4. -/
def State.answerEnd (s : State) (a : Ask) : State :=
  (s.dropAsks a.train).endTrain a.train a.code (fieldOf (s.ringWord a.ix 4) 0 21)

/-- The first question with a record index. -/
def State.askOf (s : State) (ix : Nat) : Option Ask := s.fw.asked.find? fun a => a.ix % 2 ^ 16 == ix

/-- A question answered: its hold goes. -/
def State.settleAsk (s : State) (a : Ask) : State :=
  let s := s.modTrain a.train fun t => { t with holds := t.holds.filter fun h => h.2 != Hold.answer a.ix }
  { s with fw := { s.fw with asked := s.fw.asked.filter fun x => x.ix != a.ix } }

/-- RESUME: the slot goes on at the record's t1 from p + 8; a watchdog's count starts again. -/
def State.answerResume (s : State) (a : Ask) : State :=
  if !a.resumable then s.answerEnd a
  else
    let s := s.settleAsk a
    match a.key with
    | none => s.modTeam (teamKey a.train (fieldOf (s.ringWord a.ix 4) 0 21)) fun t => { t with wdBase := (s.train a.train).clk }
    | some k =>
      let pc : Addr48 := BitVec.ofNat 48 (fieldOf (s.ringWord a.ix 1) 0 48)
      (s.withTwin k).foldl (fun s k => s.modGroup k fun g =>
        { g.setSlot a.alt { g.slot a.alt with pc := pc } with halted := false, hold := max g.hold (a.p + 8) }) s

/-- A write of FANS: ACT 0 END, 1 RESUME. -/
def State.answerEndIx (s : State) (ix : Nat) : State :=
  match s.askOf ix with
  | none => s
  | some a => s.answerEnd a
def State.answerResumeIx (s : State) (ix : Nat) : State :=
  match s.askOf ix with
  | none => s
  | some a => s.answerResume a
def State.writeFans (s : State) (v : W64) : State :=
  if fieldOf v 16 1 = 0 then s.answerEndIx (fieldOf v 0 16) else s.answerResumeIx (fieldOf v 0 16)

/-! ### HPOL and the partition (R403 to R405, R377) -/

/-- HPOL's writable bits. -/
def hpolMask : W64 := ~~~(BitVec.ofNat 64 (2 ^ 59))
/-- The bits of CL. -/
def clMask : W64 := BitVec.ofNat 64 (2 ^ 32 - 1)

/-- Whether another tenant holds a cluster of a mask: a valid one's CL names it, or it is not yet scrubbed of another's (R403, R405). -/
def State.clusterTaken (s : State) (owner : Nat) (cl : W64) : Bool :=
  (s.sys.hpol.any fun p => p.1 != owner && fieldOf p.2 63 1 == 1 && (p.2 &&& cl) != 0) ||
  s.fw.removals.any fun p => p.1 != owner && (p.2 &&& cl) != 0

/-- Teams saved for a resize wait for their restore. -/
def State.requestRestores (s : State) (owner : Nat) : State :=
  { s with fw := { s.fw with pre := s.fw.pre.map fun r =>
      if r.done && !r.ring && r.handle = 0 && (s.train r.train).owner = owner then { r with done := false, restore := some anyCore }
      else r } }

/-- Clusters whose removal a later write takes back: what has been saved for it waits for its restore (R377), and what has not been saved and
stands on no other removed cluster stays. -/
def State.keepClusters (s : State) (owner : Nat) (removed : W64) : State :=
  let needed (r : PreReq) : Bool := match r.team with
    | none => s.boundTo removed r.train
    | some tk => s.standsOn removed tk
  let idle (r : PreReq) : Bool :=
    !r.done && !r.ring && r.handle == 0 && r.restore.isNone && (s.train r.train).owner == owner && !needed r
  { s with fw := { s.fw with pre := s.fw.pre.filter fun r => !idle r } }.requestRestores owner

/-- A write of a tenant's HPOL: ignored where its CL meets another tenant's; additions take effect at once, removed
clusters stay in CL until they are empty. -/
def State.writeHpol (s : State) (owner : Nat) (v : W64) : State :=
  let cl := v &&& clMask
  if owner = 0 || 4096 ≤ owner || s.clusterTaken owner cl then s
  else
    let removed := s.hpol owner &&& clMask &&& ~~~cl
    let x := (v &&& hpolMask) ||| removed
    let back := Sp.get 0 s.fw.removals owner &&& cl
    let s := { s with
      sys := { s.sys with hpol := Sp.set 0 s.sys.hpol owner x }
      fw := { s.fw with removals := Sp.set 0 s.fw.removals owner removed } }
    let s := s.assignBank owner (x &&& clMask != 0)
    let s := if back = 0 then s else s.keepClusters owner removed
    if removed = 0 then s else s.vacate owner removed

/-- What an ended team has still to land or to start on a cluster of a mask: pool writes, acquires, and entries of column S. A parked train's
moves with its restore. -/
def State.landsOn (s : State) (mask : W64) : Bool :=
  let on (tr core : Nat) : Bool := bitAt mask (core / 8) && !(s.train tr).parked
  (s.grid.stps.any fun w => on w.train w.core) || (s.grid.acquires.any fun a => on a.train a.core) ||
  s.grid.sfu.any fun e => on e.train e.core

/-- Whether every removed cluster of a tenant is empty. A train that moves only whole keeps its cores until it is saved, dropped or ends:
where its later teams go depends on virtual time only (R36, R67). What an ended team has still to land there lands first (R405). -/
def State.vacated (s : State) (owner : Nat) : Bool :=
  let mask := Sp.get 0 s.fw.removals owner
  mask != 0 && !s.landsOn mask && !(s.grid.trains.any fun p => p.2.live && p.2.owner == owner && !p.2.parked &&
    (s.boundTo mask p.1 || (s.concerned p.1 none).any fun tk => s.standsOn mask tk))

/-- A cluster's cache, L1s, operand slots and pools discarded (R405), and the cells that its link columns have received: no byte of one
tenant is visible to the next (DEDUCED, notes/assumptions/124.md). -/
def State.scrubCluster (s : State) (k : Nat) : State :=
  let m := s.mem
  let s := { s with mem := { m with
      cview := Sp.clear m.cview (viewKey k 0) viewSpan
      own := Sp.clear m.own (viewKey k 0) viewSpan
      pview := Sp.clear m.pview (viewKey (8 * k) 0) (8 * viewSpan) } }
  ((List.range 8).map fun i => 8 * k + i).foldl (fun s c => (s.clearCore c).modCore c fun x => { x with rx := [] }) s

/-- A train without the cores of some clusters, nor those of their twins' clusters (R440). One that is saved whole has none, and keeps
its pairs of clusters for the placement of its restore (R376). -/
def Train.without (t : Train) (mask : W64) : Train :=
  let gone (k : Nat) : Bool := bitAt mask k || t.mates.any fun m => (m.1 == k && bitAt mask m.2) || (m.2 == k && bitAt mask m.1)
  let left := t.cores.filter fun c => !gone (c / 8)
  if t.parked then t
  else { t with cores := left, mates := t.mates.filter (fun m => !gone m.1), lost := t.lost + (t.cores.length - left.length) }

/-- The end of a removal: bytes there that are still own, those of ended teams of a launch that runs on, are pushed (R145; DEDUCED,
notes/assumptions/124.md), and the clusters are scrubbed and leave CL. The tenant's trains take the home values there before they stand on
them again (R144; DEDUCED, notes/assumptions/99.md). -/
def State.completeRemoval (s : State) (owner : Nat) : State :=
  if !s.vacated owner then s
  else
    let mask := Sp.get 0 s.fw.removals owner
    let gone := (List.range 32).filter fun k => bitAt mask k
    let s := gone.foldl (fun s k => (s.pushCluster owner k).scrubCluster k) s
    let x := s.hpol owner &&& ~~~mask
    let leave (t : Train) : Train :=
      if t.live && t.owner = owner then { t.without mask with stale := (t.stale ++ gone).eraseDups } else t
    let s := { s with
      sys := { s.sys with hpol := Sp.set 0 s.sys.hpol owner x }
      fw := { s.fw with removals := Sp.set 0 s.fw.removals owner 0 }
      grid := { s.grid with trains := s.grid.trains.map fun p : Nat × Train => (p.1, leave p.2) } }
    (s.assignBank owner (x &&& clMask != 0)).requestRestores owner

/-! ### Reads and writes of registers -/

/-- BAL (R169). -/
def State.bal (s : State) : W64 :=
  BitVec.ofNat 64 (2 ^ 63 * s.pod.out.toNat + 2 ^ 32 * wrapOf 18 s.pod.trm + wrapOf 32 s.pod.ofs)

/-- A firmware register as command core `k` reads it. -/
def State.readReg (s : State) (k n : Nat) : W64 :=
  let c := s.cmdCore k
  if n = 0x11 then s.bal
  else if n = 0x12 then s.fw.fring
  else if n = 0x14 then c.svec
  else if n = 0x15 then c.mvec
  else if 0x18 ≤ n && n ≤ 0x27 then
    (if n % 2 = 0 then Sp.get 0 c.pmpA ((n - 0x18) / 2) else Sp.get 0 c.pmpB ((n - 0x18) / 2))
  else if n = 0x30 then s.pod.lmgt
  else if n = 0x31 then s.pod.lmgd
  else if 0x100 ≤ n && n ≤ 0x4FF then Sp.get 0 s.pod.slottab (n - 0x100)
  else if 0x1000 ≤ n && n ≤ 0x1FFF then s.hpol (n - 0x1000)
  else if 0x2000 ≤ n && n ≤ 0x2FFF then Sp.get 0 s.sys.counters (n - 0x2000)
  else if 0x3000 ≤ n && n ≤ 0x37FF then Sp.get 0 s.pod.hpath (n - 0x3000)
  else 0

/-- Bits `lo` to `lo + n - 1` of a word. -/
def bitsMask (lo n : Nat) : W64 := BitVec.ofNat 64 ((2 ^ n - 1) * 2 ^ lo)

def slotTabMask : W64 := bitsMask 63 1 ||| bitsMask 26 12 ||| bitsMask 8 18 ||| bitsMask 0 7
def hpathMask : W64 := bitsMask 63 1 ||| bitsMask 8 16 ||| bitsMask 0 7
def pmpBMask : W64 := bitsMask 60 4 ||| bitsMask 0 40
def fringMask : W64 := bitsMask 12 52 ||| bitsMask 0 4

/-- A SLOTTAB entry that a launch has locked keeps its value. KIND 3, which R190 says no entry accepts, is stored as written, and no command
matches it (DESIGN CHOICE, notes/assumptions/95.md). -/
def State.writeSlotTab (s : State) (i : Nat) (v : W64) : State :=
  if slotLocked (Sp.get 0 s.pod.slottab i) then s
  else { s with pod := { s.pod with slottab := Sp.set 0 s.pod.slottab i (v &&& slotTabMask) } }

/-- A write of a firmware register by command core `k`. -/
def State.writeReg (s : State) (k n : Nat) (v : W64) : State :=
  if n = 0x12 then
    let s := { s with fw := { s.fw with fring := v &&& fringMask } }
    s.flushPosts s.fw.posts.length
  else if n = 0x13 then s.writeFans v
  else if n = 0x14 then s.modCmdCore k fun c => { c with svec := v }
  else if n = 0x15 then s.modCmdCore k fun c => { c with mvec := v }
  else if 0x18 ≤ n && n ≤ 0x27 then
    (if n % 2 = 0 then s.modCmdCore k fun c => { c with pmpA := Sp.set 0 c.pmpA ((n - 0x18) / 2) (v &&& bitsMask 12 52) }
     else s.modCmdCore k fun c => { c with pmpB := Sp.set 0 c.pmpB ((n - 0x18) / 2) (v &&& pmpBMask) })
  else if n = 0x30 then s.writeLmgt v
  else if n = 0x31 then { s with pod := { s.pod with lmgd := v } }
  else if 0x100 ≤ n && n ≤ 0x4FF then s.writeSlotTab (n - 0x100) v
  else if 0x1000 ≤ n && n ≤ 0x1FFF then s.writeHpol (n - 0x1000) v
  else if 0x3000 ≤ n && n ≤ 0x37FF then
    { s with pod := { s.pod with hpath := Sp.set 0 s.pod.hpath (n - 0x3000) (v &&& hpathMask) } }
  else s

/-! ### Access rights (R384) -/

/-- Registers that programs may read. -/
def programReads (n : Nat) : Bool := n ≤ 0x10 || (0x2000 ≤ n && n < 0x2020)
/-- The level from which firmware reads a register; 3 for none. -/
def readLevel (n : Nat) : Nat := if n < 0x10 then 3 else if n = 0x15 || (0x18 ≤ n && n ≤ 0x27) then 2 else 1
/-- The level from which firmware writes a register; 3 for none. -/
def writeLevel (n : Nat) : Nat := if n = 0x11 || (0x2000 ≤ n && n ≤ 0x2FFF) then 3 else readLevel n

/-- A register as a program of the issuing train reads it. -/
def State.programReg (s : State) (n : Nat) : W64 :=
  let t := s.myTrain
  if n < 0x10 then let w := nth (0, 0) t.desc.windows (n / 2); if n % 2 = 0 then w.1 else w.2
  else if n = 0x10 then s.hpol t.owner
  else
    let b := s.bankOf t.owner
    if b = 0 then 0 else Sp.get 0 s.sys.counters (32 * b + n - 0x2000)

end Sys2Proof.Machine
end

