-- ==== Sys2Proof/Machine/Aperture.lean ====
section
/-!
DEFINITION. Bring-up, the aperture as the companion writes it, the system-register port, fuses, attestation, the device window
and trip points (spec/21_host_link_and_bringup.md R443 to R459, spec/00_scope.md R10).
-/

namespace Sys2Proof.Machine

/-! ### Power and the image (R447, R449) -/

/-- The package without power: every register and memory of its own is at its reset value (logs 4 and 5). What outlasts it are the fuses;
companion memory, which is the companion's (R141, R445); the homes and page entries that `mem` holds (log 24); and the model's own clock
and inputs. -/
def State.dark (s : State) : State :=
  { State.reset with
    time := s.time, inputs := s.inputs, fresh := s.fresh, sys := { fuses := s.sys.fuses }
    mem := { comp := s.mem.comp, home := s.mem.home, pages := s.mem.pages } }

/-- This package's homes and page entries without power: other packages' stay (log 24). -/
def State.loseMemory (s : State) : State :=
  let away (a : Nat) : Bool := pkgOf a != s.pkg
  { s with mem := { s.mem with
      home := s.mem.home.filter fun c => away c.1, pages := s.mem.pages.filter fun p => away (p.1 * 65536) } }

def State.powerRemove (s : State) : State := s.loseMemory.dark

def State.powerOn (s : State) : State := if s.sys.boot = 0 then { s.dark with sys := { s.dark.sys with boot := bootLoader } } else s

/-- SRAM's offset in the private space, and its length without the mailbox. -/
def sramBase : Nat := 0x10000000
def imageMax : Nat := mboxBase - sramBase

def headerBytes : Nat := 64
def rsaBytes : Nat := 384
def slhBytes : Nat := 16224

/-- The fused words `i` to `i + n - 1` as bytes. -/
def State.fuseBytes (s : State) (i n : Nat) : List Byte :=
  (List.range n).flatMap fun j => leBytes 8 (Sp.get 0 s.sys.fuses (i + j)).toNat

/-- The fused minimum SVN: the set bits of words 12 and 13. -/
def State.minSvn (s : State) : Nat := popCount 64 (Sp.get 0 s.sys.fuses 12).toNat + popCount 64 (Sp.get 0 s.sys.fuses 13).toNat

/-- The image's length, version and magic number are as its header must state, and its first 64 bytes end in zeros. -/
def State.headerOk (s : State) : Bool :=
  let w (o n : Nat) : Nat := Memory.nat s.mem.priv (sramBase + o) n
  let len := w 0 8
  headerBytes + rsaBytes + slhBytes ≤ len && len ≤ imageMax && w 12 4 == 0x4E424944 && w 16 48 == 0

/-- Whether the loader accepts the image. -/
def State.imageOk (s : State) : Bool :=
  let len := Memory.nat s.mem.priv sramBase 8
  let signed := len - rsaBytes - slhBytes
  let bytes (o n : Nat) : List Byte := Memory.bytes s.mem.priv (sramBase + o) n
  s.headerOk && s.minSvn ≤ Memory.nat s.mem.priv (sramBase + 8) 4 &&
  Config.rsaOk (s.fuseBytes 0 6) (bytes 0 signed) (bytes signed rsaBytes) &&
  Config.slhOk (s.fuseBytes 6 6) (bytes 0 signed) (bytes (signed + rsaBytes) slhBytes)

/-- The first byte of the firmware body, as a command core's 48-bit PC counts it. -/
def firmwareEntry : Addr48 := BitVec.ofNat 48 (sramBase + headerBytes)

/-- Registers of a command core: a 16-lane group with v0 to v31. -/
def commandGroup (k : Nat) : Group :=
  { resident := true, core := k, width := 16, allot := 32, pri := { pc := firmwareEntry, mask := laneMask 16 } }

/-- RELEASE: command cores 0 to 15 start at M-level. -/
def State.releaseCores (s : State) : State :=
  (List.range 16).foldl (fun s k => (s.setGroup k (commandGroup k)).setCmdCore k { on := true, level := 2 }) s

/-- GO, in DOWNLOAD only: VERIFY begins. -/
def State.bootGo (s : State) : State := if s.sys.boot = bootDownload then { s with sys := { s.sys with boot := 3 } } else s

/-- VERIFY: the image is accepted, or bring-up fails with cause 1. -/
def State.verifyImage (s : State) : State :=
  let s := { s with sys := { s.sys with imgSvn := BitVec.ofNat 32 (Memory.nat s.mem.priv (sramBase + 8) 4) } }
  if s.imageOk then { s with sys := { s.sys with boot := 4 } } else s.failBoot 1 0

/-- MEASURE: the image's hash; RELEASE follows. -/
def State.measureImage (s : State) : State :=
  let image := Memory.bytes s.mem.priv sramBase (Memory.nat s.mem.priv sramBase 8)
  { s with sys := { s.sys with meas := sha384 image, boot := 5, released := true } }

/-- The resets of RELEASE (R10): the event ring's counts and reserved words (R423), the fuse registers (R455) and the event
counters (R407). DEDUCED (log 104): these are the fields that may have changed before and whose Reset column gives a value. -/
def State.releaseResets (s : State) : State :=
  let hd := s.sys.evring.toNat
  let w1 := Memory.nat s.mem.comp (hd + 8) 1 % 32
  { s with
    sys := { s.sys with fusea := 0, fused := 0, fuseErr := false, fuseBusy := false, counters := [] }
    mem := { s.mem with comp := Memory.put s.mem.comp (hd + 8) (leBytes 8 w1 ++ List.replicate 48 0) } }

/-- RELEASE: the command cores start, and TRAINING begins. -/
def State.releaseImage (s : State) : State :=
  let s := s.releaseResets
  { s with sys := { s.sys with boot := 6 } }.releaseCores

/-- The states of bring-up that end of themselves, each after one period (R447). DESIGN CHOICE (log 63): the spec gives no duration. -/
def State.bootStage (s : State) : State :=
  match s.sys.boot with
  | 1 => { s with sys := { s.sys with boot := bootDownload } }
  | 3 => s.verifyImage
  | 4 => s.measureImage
  | 5 => s.releaseImage
  | _ => s

/-- The end of TRAINING: JOIN, or the failure of a part with its die or port. -/
def State.trained (s : State) (fail : Option (Nat × Nat)) : State :=
  if s.sys.boot != 6 then s
  else
    match fail with
    | some (cause, die) => if 2 ≤ cause && cause ≤ 4 then s.failBoot cause die else s
    | none =>
      let s := { s with sys := { s.sys with boot := 7, joinEntry := s.time, joinStep := 0 } }
      if s.psize = 0 then s.failJoin else s

/-! ### Attestation (R450, R456) -/

def reportBytes : Nat := 16800

/-- The report's bytes that both signatures cover. -/
def State.reportBody (s : State) : List Byte :=
  leBytes 8 (1 + 65536 * reportBytes) ++ ((List.range 32).map fun i => Sp.get 0 s.sys.nonce i) ++
  ((List.range 48).map fun i => nth 0 s.sys.meas i) ++ leBytes 4 s.minSvn ++ leBytes 4 s.sys.imgSvn.toNat ++
  leBytes 8 s.sys.modew.toNat ++ s.fuseBytes 14 2 ++ leBytes 8 s.bootst ++ leBytes 8 s.sys.podcfg.toNat ++ List.replicate 56 0

/-- NONCE: the report's contents are taken and its version word is cleared. The loader writes the report, or M-level after RELEASE; in
HALTED neither runs (R459), and a report in progress is not begun again. -/
def State.attest (s : State) : State :=
  if s.sys.boot = 0 || s.sys.boot = 15 || !s.sys.attesting.isEmpty then s
  else { s with sys := { s.sys with report := Memory.put s.sys.report 0 (List.replicate 8 0), attesting := s.reportBody } }

/-- The report in progress is complete, with its signatures (R456). -/
def State.finishReport (s : State) : State :=
  if s.sys.attesting.isEmpty || s.sys.boot = 15 then s
  else
    let body := s.sys.attesting
    let sigs := (Config.sign body ++ List.replicate (rsaBytes + slhBytes) 0).take (rsaBytes + slhBytes)
    { s with sys := { s.sys with report := Memory.put s.sys.report 0 (body ++ sigs), attesting := [] } }

/-! ### Fuses (R451, R455) -/

/-- Whether fuses may be written: in LOADER and DOWNLOAD. -/
def State.fusesOpen (s : State) : Bool := s.sys.boot == bootLoader || s.sys.boot == bootDownload

def State.fuseIndex (s : State) : Nat := fieldOf s.sys.fusea 0 6

/-- FUSEC: FUSED's bits are set in the word, unless the key hashes are locked or a program is in progress. -/
def State.programFuse (s : State) : State :=
  let i := s.fuseIndex
  let locked := i < 12 && bitOf (Sp.get 0 s.sys.fuses 16).toNat 0
  if s.sys.boot = 0 then s
  else if s.sys.fuseBusy || !s.fusesOpen || locked then { s with sys := { s.sys with fuseErr := true } }
  else
    { s with sys := { s.sys with
        fuses := Sp.set 0 s.sys.fuses i (Sp.get 0 s.sys.fuses i ||| s.sys.fused), fuseBusy := true, fuseErr := false } }

def State.fuseDone (s : State) (failed : Bool) : State :=
  if s.sys.fuseBusy then { s with sys := { s.sys with fuseBusy := false, fuseErr := s.sys.fuseErr || failed } } else s

/-! ### The system-register port (R429, R454) -/

/-- Whether the port grants an access. -/
def State.portGrants (s : State) (write : Bool) (n : Nat) : Bool :=
  s.portsOpen &&
  ((s.assisted 2 && (if write then n == 0x13 else n == 0x12)) ||
   (s.assisted 3 && ((0x100 ≤ n && n ≤ 0x4FF) || (0x3000 ≤ n && n ≤ 0x37FF) || n == 0x30 || n == 0x31)) ||
   ((s.assisted 4 || s.assisted 5) && !write && n == 0x11))

/-- SRADDR as it reads after an access. -/
def sraddrAfter (write granted : Bool) (n : Nat) : W64 :=
  BitVec.ofNat 64 (n % 65536 + 2 ^ 62 * write.toNat + 2 ^ 61 * (!granted).toNat)

def State.portRead (s : State) (n : Nat) : State :=
  let ok := s.portGrants false n
  let data := if ok then s.readReg 0 n else s.sys.srdata
  { s with sys := { s.sys with sraddr := sraddrAfter false ok n, srdata := data } }

def State.portWrite (s : State) (n : Nat) : State :=
  let ok := s.portGrants true n
  let s := if ok then s.writeReg 0 n s.sys.srdata else s
  { s with sys := { s.sys with sraddr := sraddrAfter true ok n } }

/-! ### Writes of the aperture (R10, R453) -/

def podcfgMask : W64 := bitsMask 24 1 ||| bitsMask 16 7 ||| bitsMask 8 6 ||| bitsMask 0 6

/-- An aligned 64-bit write by the companion. -/
def State.aperWrite (s : State) (offset : Nat) (v : W64) : State :=
  let o := offset / 8 * 8
  let config := s.fusesOpen
  let unreleased := !s.sys.released
  let put (x : Sys) : State := { s with sys := x }
  if s.sys.boot = 0 then s
  else if o = 0x08 then
    let s := if fieldOf v 1 1 = 1 then s.attest else s
    if fieldOf v 0 1 = 1 then s.bootGo else s
  else if o = 0x10 then (if config then put { s.sys with podcfg := v &&& podcfgMask } else s)
  else if o = 0x18 then (if unreleased then put { s.sys with modew := v &&& bitsMask 0 6 } else s)
  else if o = 0x20 then (if unreleased then put { s.sys with evring := v &&& bitsMask 6 58 } else s)
  else if o = 0x28 then (if config then put { s.sys with loopc := v &&& bitsMask 0 16 } else s)
  else if o = 0x30 then
    if fieldOf v 63 1 = 0 then put { s.sys with sraddr := v &&& (bitsMask 62 1 ||| bitsMask 0 16) }
    else if fieldOf v 62 1 = 0 then s.portRead (fieldOf v 0 16) else s.portWrite (fieldOf v 0 16)
  else if o = 0x38 then put { s.sys with srdata := v }
  else if 0x80 ≤ o && o < 0x100 then
    (if config then put { s.sys with tapdly := Sp.set 0 s.sys.tapdly ((o - 0x80) / 8) (if o = 0x80 then v &&& bitsMask 16 48 else v) }
     else s)
  else if 0x100 ≤ o && o < 0x120 then put { s.sys with nonce := Sp.put 0 s.sys.nonce (o - 0x100) (leBytes 8 v.toNat) }
  else if 0x8000 ≤ o && o < 0x9000 then
    (if s.portsOpen then { s with mem := { s.mem with priv := Memory.put s.mem.priv (mboxBase + o - 0x8000) (leBytes 8 v.toNat) } }
     else s)
  else if o = 0xF000 then put { s.sys with fusea := v &&& bitsMask 0 6 }
  else if o = 0xF008 then put { s.sys with fused := v }
  else if o = 0xF010 then (if fieldOf v 0 1 = 1 then s.programFuse else s)
  else s

/-! ### The companion's reads and writes (R444, R446, R447) -/

/-- A device-window address as an intermediate one. -/
def State.windowIa (s : State) (a : Nat) : Nat := s.pkg * 2 ^ 50 + a % 2 ^ 50

/-- A read through the device window: home values, whose lines the companion may now hold; through the aperture for an
address of its region in the private space. -/
def State.companionRead (s : State) (owner a n : Nat) : State :=
  if s.sys.boot = 0 then s
  else if 2 ^ 63 ≤ a then
    let o := a - 2 ^ 63 - 0x20000000
    let bs := (List.range n).map fun i => if 2 ^ 63 + 0x20000000 ≤ a && o + i < 0x10000 then s.aperByte true (o + i) else 0
    { s with sys := { s.sys with response := bs } }
  else
    let ia := s.windowIa a
    let lines := (List.range ((ia + n + 63) / 64 - ia / 64)).map fun i => ((ia / 64 + i) * 64, true)
    let s := s.countMisses owner ((pieces ia n).map fun q => pageOf q.1)
    { s with
      sys := { s.sys with response := s.homeBytes owner ia n }
      mem := { s.mem with snoop := Sp.puts false s.mem.snoop lines } }

/-- A write through the device window, performed at the home; in DOWNLOAD, of the image into SRAM. -/
def State.companionWrite (s : State) (owner a : Nat) (bs : List Byte) : State :=
  if s.sys.boot = 0 then s
  else if 2 ^ 63 ≤ a then
    let o := a - 2 ^ 63
    if s.sys.boot = bootDownload && sramBase ≤ o && o + bs.length ≤ sramBase + 0x2000000 then
      { s with mem := { s.mem with priv := Memory.put s.mem.priv o bs } }
    else s
  else s.homeWrite owner (s.windowIa a) bs

/-! ### Trip points (R458) -/

/-- Whether the package has power and is neither in FAIL nor in HALTED, which only DARK leaves (R447). -/
def State.powered (s : State) : Bool := s.sys.boot != 0 && s.sys.boot != 14 && s.sys.boot != 15

def State.trip (s : State) (cause : Nat) : State := if s.powered then s.haltPackage (some cause) else s

/-! ### The governor (R31, R32) -/

/-- The envelope in watts, and the bc between two checks. -/
def envelopeWatts : Nat := 2400
def governorPeriod : Nat := 1024

/-- A check of package power: over the envelope one more train pauses, the one with the highest draw first; otherwise every
governor pause ends. DESIGN CHOICE (log 60): among trains of the same draw the first that is listed pauses, and the spec orders them
by draw only. -/
def State.governor (s : State) (power : Nat) (draws : List (Nat × Nat)) : State :=
  let paused (t : Train) : Bool := t.holds.any fun h => h.2 == Hold.governor
  if power ≤ envelopeWatts then
    let go (t : Train) : Train := { t with holds := t.holds.filter fun h => h.2 != Hold.governor }
    { s with grid := { s.grid with trains := s.grid.trains.map fun p : Nat × Train => (p.1, go p.2) } }
  else
    let runs := draws.filter fun d => (s.train d.1).live && !paused (s.train d.1)
    match runs.foldl (fun (m : Option (Nat × Nat)) d => match m with
        | none => some d
        | some x => if x.2 < d.2 then some d else m) none with
    | none => s
    | some d => s.modTrain d.1 fun t => { t with holds := t.holds ++ [(t.clk, Hold.governor)] }

end Sys2Proof.Machine
end

