-- ==== Sys2Proof/Machine/Queue.lean ====
section
/-!
DEFINITION. Queues: mapping, entries, admission order, token buckets and watchdogs (spec/19_queues_firmware_scheduler.md R410 to
R416, R419, R421, R422, R425).
-/

namespace Sys2Proof.Machine

/-! ### Mapping (R410, R414 to R416) -/

/-- The causes of ECODE 2 on a QCB's ring. -/
def State.ringBad (s : State) (qcb owner : Nat) : Bool :=
  let base := fieldOf (s.qcbWord qcb 2) 0 56
  let log := fieldOf (s.qcbWord qcb 3) 0 5
  let size := 128 * 2 ^ log
  !(2 ≤ log && log ≤ 20) || base % size != 0 || qcb % 64 != 0 || !s.ownedLeased true owner qcb 64 || !s.ownedLeased true owner base size

/-- Whether the QCB's privileged fields differ from the shadow. -/
def State.tampered (s : State) (x : QSlot) : Bool :=
  let w := s.qcbWord x.qcb 3
  fieldOf w 10 12 != x.owner || fieldOf w 8 2 != x.rclass || fieldOf w 5 3 != x.prio

/-- Whether an owner has a policy record. -/
def State.limited (s : State) (owner : Nat) : Bool := s.fw.policy.any fun p => p.1 == owner

def Policy.levelOf (p : Policy) (b : Nat) : Int := Sp.get 0 p.level b
def Policy.setLevel (p : Policy) (b : Nat) (x : Int) : Policy := { p with level := Sp.set 0 p.level b x }

/-- Whether a bucket's LEVEL has reached 0 or less and not THRESH since, so that its queues are unmapped (R422). -/
def State.bucketDry (s : State) (owner b : Nat) : Bool := s.limited owner && (s.policy owner).dried.contains b

/-- The checks of R414 and what the engine caches. The queue of a dry bucket stays unmapped until the bucket is refilled. -/
def State.mapQueue (s : State) (q : Nat) (x : QSlot) : State :=
  let x := { x with listed := true, mapped := false, dry := false }
  let s := s.setQueue q x
  if s.tampered x then s.queueError q 1 0
  else if s.ringBad x.qcb x.owner then s.queueError q 2 0
  else if s.bucketDry x.owner x.rclass then s.setQueue q { x with dry := true }
  else
    s.setQueue q { x with mapped := true, base := fieldOf (s.qcbWord x.qcb 2) 0 56, log := fieldOf (s.qcbWord x.qcb 3) 0 5 }

def queueSlots : Nat := 4096

/-- S-level maps a queue by its queue-table entry. -/
def State.queueMap (s : State) (q : Nat) (x : QSlot) : State :=
  if s.sys.boot = bootReady && q < queueSlots then s.mapQueue q x else s

/-- A remap repeats the checks of R414 and clears the status word first, but an ECODE 1 stays until S-level clears it. -/
def State.queueRemap (s : State) (q : Nat) : State :=
  let x := s.queue q
  if s.sys.boot != bootReady || !x.listed then s
  else if fieldOf (s.qcbWord x.qcb 4) 0 8 = 1 then s.mapQueue q x
  else (s.homePut (x.qcb + 32) (leBytes 8 0)).mapQueue q x

/-! ### Entries (R411 to R413) -/

/-- RIDX. -/
def State.readIndex (s : State) (q : Nat) : Nat := (s.qcbWord (s.queue q).qcb 0).toNat
/-- Word `i` of the head entry. -/
def State.entryWord (s : State) (q i : Nat) : W64 :=
  let x := s.queue q
  s.sysWord (x.base + 128 * (s.readIndex q % 2 ^ x.log) + 8 * i)

/-- Whether the head entry is stamped. -/
def State.headReady (s : State) (q : Nat) : Bool := (s.queue q).mapped && s.readIndex q + 1 ≤ (s.entryWord q 0).toNat

def State.entryKind (s : State) (q : Nat) : Nat := fieldOf (s.entryWord q 1) 0 4

/-- Words marked 0 by kind, and the alignment of addresses. -/
def State.entryOk (s : State) (q : Nat) : Bool :=
  let w (i : Nat) : W64 := s.entryWord q i
  let zeros (l n : Nat) : Bool := (List.range n).all fun i => w (l + i) == 0
  fieldOf (w 1) 4 60 == 0 &&
  match s.entryKind q with
  | 0 => zeros 7 9 && (w 2).toNat % 64 == 0 && (w 3).toNat % 64 == 0
  | 1 => zeros 4 12 && (w 2).toNat % 8 == 0
  | 2 => zeros 4 12 && (w 2).toNat % 8 == 0
  | 3 => true
  | _ => false

/-- A counter of a queue entry: in pages that the owner owns and holds, a multiple of 8. -/
def State.counterOk (s : State) (owner : Nat) (a : W64) : Bool := a.toNat % 8 == 0 && s.ownedLeased false owner a.toNat 8

/-- The ECODE of a head entry; 0 for none (R416). -/
def State.entryError (s : State) (q : Nat) : Nat :=
  let owner := (s.queue q).owner
  let w (i : Nat) : W64 := s.entryWord q i
  if !s.entryOk q then 3
  else
    match s.entryKind q with
    | 0 =>
      if !s.ownedLeased false owner (w 2).toNat 0x740 || !s.ownedLeased false owner (w 3).toNat 64 then 4
      else if w 5 != 0 && !s.counterOk owner (w 5) then 5
      else 0
    | 3 => 0
    | _ => if s.counterOk owner (w 2) then 0 else 5

/-- A WAIT whose counter is below its target holds the queue. -/
def State.waitHolds (s : State) (q : Nat) : Bool :=
  s.entryKind q == 1 && s.entryError q == 0 && (s.sysWord (s.entryWord q 2).toNat).toNat < (s.entryWord q 3).toNat

/-- Whether the scheduler can take the head entry. -/
def State.admittable (s : State) (q : Nat) : Bool := s.headReady q && !s.waitHolds q

/-- Of two queues the one admitted first: the higher PRIO, then the older last admission. -/
def State.before (s : State) (a b : Nat) : Bool :=
  let x := s.queue a
  let y := s.queue b
  y.prio < x.prio || (x.prio == y.prio && x.last ≤ y.last)

/-- The queue whose head entry is admitted next (R419). -/
def State.nextQueue (s : State) : Option Nat :=
  ((s.fw.queues.map (·.1)).filter s.admittable).foldl (fun best q => match best with
    | none => some q
    | some b => if s.before b q then some b else some q) none

/-- Whether an entry may be taken: by R419's order, or as the companion chooses where it schedules (R429). -/
def State.mayAdmit (s : State) (q kind : Nat) : Bool :=
  s.sys.boot == bootReady && s.admittable q && (s.assisted 0 || s.nextQueue == some q) &&
  (s.entryKind q == kind || s.entryError q != 0)

/-- The entry is admitted: RIDX is written at its home. -/
def State.advanceQueue (s : State) (q : Nat) : State :=
  let x := s.queue q
  let s1 := s.homePut x.qcb (leBytes 8 (s.readIndex q + 1))
  let n := s1.fw.taken + 1
  { s1 with fw := { s1.fw with taken := n } }.setQueue q { x with last := n }

/-- What the entry events share: an erroneous entry halts the queue. -/
def State.takeEntry (s : State) (q kind : Nat) (effect : State → State) : State :=
  if !s.mayAdmit q kind then s
  else if s.entryError q != 0 then s.queueError q (s.entryError q) (s.readIndex q)
  else (effect s).advanceQueue q

/-- A LAUNCH entry: admitted here, or offered as a LAUNCH record. The record's Dial address is the firmware's choice. -/
def State.launchEntry (s : State) (q : Nat) : State :=
  let x := s.queue q
  let w (i : Nat) : W64 := s.entryWord q i
  let entry := s.readIndex q
  if w 4 = 0 then s.enrol q entry x.owner x.rclass (w 2).toNat (w 3).toNat (w 5).toNat (w 6) false 0
  else
    let e : PodEntry := { queue := q, entry := entry, qcb := x.qcb, rclass := x.rclass, status := (w 3).toNat, w5 := (w 5).toNat, w6 := w 6 }
    let daddr := (Config.value s.fresh).toNat % (2 ^ 20 - 4)
    let s := ({ s with fw := { s.fw with podEntries := s.fw.podEntries ++ [e] } }).spend
    s.offer 4 4 daddr 0 [w 2, BitVec.ofNat 64 (q + 65536 * x.owner), BitVec.ofNat 64 entry, w 4]

/-- An ADD entry waits for the launches admitted earlier from its queue, through whichever slot. -/
def State.addEntry (s : State) (q : Nat) : State :=
  let x := s.queue q
  let earlier := (s.fw.launches.filter fun p => p.2.qcb == x.qcb && p.2.away.isNone && p.2.unended).map (·.1)
  let away := (s.fw.podEntries.filter fun e => e.qcb == x.qcb).map fun e => (e.queue, e.entry)
  let a : QueueAdd :=
    { qcb := x.qcb, owner := x.owner, counter := (s.entryWord q 2).toNat, amount := s.entryWord q 3, waitFor := earlier, entries := away }
  { s with fw := { s.fw with adds := s.fw.adds ++ [a] } }.flushAdds

/-! ### Token buckets (R421, R422) -/

/-- A policy record from its eight words. -/
def policyOf (ws : List W64) : Policy :=
  let each {α : Type} (f : Nat → α) : List (Nat × α) := (List.range 4).map fun b => (b, f b)
  let w (i : Nat) : W64 := nth 0 ws i
  let level (b : Nat) : Int := 1024 * signedOf 32 (fieldOf (w (4 + b / 2)) (32 * (b % 2)) 32)
  { rate := Sp.puts 0 [] (each fun b => fieldOf (w b) 0 24)
    depth := Sp.puts 0 [] (each fun b => 1024 * fieldOf (w b) 24 24)
    thresh := Sp.puts 0 [] (each fun b => 1024 * fieldOf (w b) 48 16)
    level := Sp.puts 0 [] (each level), there := true
    pthr := fieldOf (w 6) 0 32, dl := fieldOf (w 6) 32 32 }

def State.setPolicy (s : State) (owner : Nat) (p : Policy) : State :=
  { s with fw := { s.fw with policy := Sp.set {} s.fw.policy owner p } }

/-- The queues of an owner's bucket. -/
def State.bucketQueues (s : State) (owner b : Nat) : List Nat :=
  (s.fw.queues.filter fun p => p.2.owner == owner && p.2.rclass == b).map (·.1)

/-- The running trains that a bucket pays for. -/
def State.bucketTrains (s : State) (owner b : Nat) : List Nat :=
  (s.grid.trains.filter fun p => p.2.live && p.2.owner == owner && (s.launch p.2.launch).rclass == b).map (·.1)

/-- A dry bucket: its queues are unmapped and their running launches pre-empted. -/
def State.runDry (s : State) (owner b : Nat) : State :=
  let p := s.policy owner
  let s := s.setPolicy owner { p with dried := if p.dried.contains b then p.dried else p.dried ++ [b] }
  let s := (s.bucketQueues owner b).foldl (fun s q =>
    let x := s.queue q
    if x.mapped then s.setQueue q { x with mapped := false, dry := true } else s) s
  (s.bucketTrains owner b).foldl (fun s tr =>
    if (s.train tr).parked || s.prePending tr none then s
    else s.requestPre tr none (trainHandle (s.trainLaunch tr).queue) (s.policy owner).dl 0 false false) s

/-- Launches pre-empted for a dry bucket wait for their restore. -/
def State.requestReturns (s : State) (owner b : Nat) : State :=
  let trains := s.bucketTrains owner b
  { s with fw := { s.fw with pre := s.fw.pre.map fun r =>
      if r.done && !r.ring && r.handle != 0 && trains.contains r.train then { r with done := false, restore := some anyCore } else r } }

/-- What a bucket's LEVEL brings about: at 0 or less it is dry; a dry one that has reached THRESH has its queues mapped again through R414,
and its launches return. A queue that has been halted meanwhile stays unmapped until S-level remaps it (DEDUCED,
notes/assumptions/111.md). -/
def State.levelActs (s : State) (owner b : Nat) : State :=
  let p := s.policy owner
  if p.levelOf b ≤ 0 then s.runDry owner b
  else if !p.dried.contains b || p.levelOf b < (Sp.get 0 p.thresh b : Nat) then s
  else
    let s := s.setPolicy owner { p with dried := p.dried.filter fun x => x != b }
    let dry := (s.bucketQueues owner b).filter fun q => (s.queue q).dry
    (dry.foldl (fun s q => s.mapQueue q (s.queue q)) s).requestReturns owner b

/-- S-level writes a policy record; its LEVELs act at once. -/
def State.writePolicy (s : State) (owner : Nat) (p : Policy) : State :=
  (List.range 4).foldl (fun s b => s.levelActs owner b) (s.setPolicy owner { p with dried := (s.policy owner).dried })

/-- A train's charge for one vc. -/
def State.charge (s : State) (tr : Nat) : State :=
  let t := s.train tr
  let b := (s.trainLaunch tr).rclass
  if !s.limited t.owner then s
  else
    let p := s.policy t.owner
    let old := p.levelOf b
    let new := old - t.cores.length
    let s := s.setPolicy t.owner (p.setLevel b new)
    if new ≤ 0 then s.runDry t.owner b else s

/-- One bucket's gain. -/
def State.refillOne (s : State) (owner b : Nat) : State :=
  let p := s.policy owner
  let old := p.levelOf b
  let new : Int := min (old + (Sp.get 0 p.rate b : Nat)) (max old (Sp.get 0 p.depth b : Nat))
  (s.setPolicy owner (p.setLevel b new)).levelActs owner b

def bucketPeriod : Nat := 1600

/-- The gain of every bucket, once in 1,600 bc. They count from reset, while the balance count runs; a load of the count is no bc (DESIGN
CHOICE, notes/assumptions/111.md). -/
def State.refill (s : State) : State :=
  if s.fw.refillBc < bucketPeriod then s
  else
    let s := { s with fw := { s.fw with refillBc := s.fw.refillBc - bucketPeriod } }
    (s.fw.policy.map (·.1)).foldl (fun s o => (List.range 4).foldl (fun s b => s.refillOne o b) s) s

/-! ### Watchdogs (R425) -/

/-- Whether a team's count has reached its limit. A saved team's goes on: its groups retire no run (R159). -/
def State.watchdogDue (s : State) (tr tk : Nat) : Bool :=
  let t := s.team tk
  t.live && t.train == tr && !t.twin && !t.ended && t.wdLimit != 0 && t.wdBase + t.wdLimit ≤ (s.train tr).clk

/-- Code 19: the record, and the hold of the train's next vc until the answer. -/
def State.watchdog (s : State) (tr tk : Nat) : State :=
  if !s.watchdogDue tr tk then s
  else
    let t := s.train tr
    let s := s.modTeam tk fun x => { x with wdBase := t.clk }
    s.plainPost 19 0 t.vc (handleOf (s.trainLaunch tr).queue (s.team tk).idx) t.owner (some tr)
      (some { train := tr, key := none, resumable := true, code := 19, p := t.clk + 1 })

/-! ### Starts (R420) -/

/-- Whether a launch waits for its token bucket: the bucket is dry, or the queue here that admitted it is unmapped for it (R422). -/
def State.waitsForBucket (s : State) (l : Launch) : Bool :=
  (l.away.isNone && (s.slotsOf l.qcb).any fun q => (s.queue q).dry) || s.bucketDry l.owner l.rclass

/-- The first admitted launch that can start, or that fails on one cluster (R440). -/
def State.nextLaunch (s : State) : Option Nat :=
  (s.fw.launches.find? fun p =>
    p.2.state < 2 && !s.waitsForBucket p.2 &&
    (s.canStart p.2 || (s.sys.boot == bootReady && p.2.desc.twin && (s.clusters p.2.owner).length == 1))).map (·.1)

end Sys2Proof.Machine
end

