-- ==== Sys2Proof/Machine/SystemOps.lean ====
section
/-!
DEFINITION. Class 7: system registers, TRET, TRIM, context save and load, leases, page owners, watchdogs and HALT
(spec/17_privilege_traps_preemption.md R363, R373, R382 to R392, spec/18_translation_leases_partitions.md R399 to R401).
-/

namespace Sys2Proof.Machine

/-- The latency of class 7 results (R383). -/
def latSystem : Nat := 2

/-! ### SYSR and SYSW (R383, R384) -/

/-- On a compute core the registers that programs read; on a command core by level. -/
def chkRegRead (s : State) (n : Nat) : Option Flt :=
  check (if s.cur.cmd then readLevel n ≤ (s.cmdCore s.cur.key).level else programReads n) { code := 5 }

def State.sysReg (s : State) (n : Nat) : W64 := if s.cur.cmd then s.readReg s.cur.key n else s.programReg n

def execSysr (h : Head) (dst srn : Nat) (s : State) : Host.Outcome State Fault Refusal :=
  attempt s [chkRegs s [], chkRegRead s srn, chkPend s [.scal dst]] fun s => s.landScalar h latSystem dst (s.sysReg srn)

def execSysw (h : Head) (sa srn : Nat) (s : State) : Host.Outcome State Fault Refusal :=
  attempt s [chkRegs s [], chkLevel s (writeLevel srn)] fun s =>
    if s.holds h then s.writeReg s.cur.key srn (s.scalar sa) else s

/-! ### TRET (R363, R373, R385) -/

/-- A register of the trap bank that the issuer's operands name. -/
def State.bankReg (s : State) (r : Nat) : W64 := Sp.get 0 s.me.treg (trapKey ((s.bank).getD 0) r)

/-- The level that t0 names. -/
def State.trapLevel (s : State) : Nat := fieldOf (s.bankReg 0) 62 2

def chkReturn (s : State) (runs : Bool) : Option Flt :=
  check (if s.cur.cmd then !runs || s.trapLevel ≤ (s.cmdCore s.cur.key).level else s.me.handler == some s.cur.alt) { code := 5 }

/-- The vc for which a group is ineligible after TRET. -/
def holdReturn : Nat := 8

def execTret (h : Head) (s : State) : Host.Outcome State Fault Refusal :=
  let runs := s.holds h
  attempt s [chkRegs s [], chkReturn s runs] fun s =>
    if !runs then s
    else
      let dest : Addr48 := (s.bankReg 1).truncate 48
      if s.cur.cmd then
        let level := s.trapLevel
        (s.jump dest).modCmdCore s.cur.key fun c => { c with level := level }
      else
        let before := s.me
        let now := s.now
        ((s.jump dest).modGroup s.cur.key fun g => { g with handler := none, hold := max g.hold (now + holdReturn) }).alternate before

/-! ### TRIM (R386) -/

def execTrim (h : Head) (x : VSrc) (s : State) : Host.Outcome State Fault Refusal :=
  let n : Int := match x with
    | .reg r => (s.scalar r).toInt
    | .imm d => d.toInt
  attempt s [chkRegs s [], chkLevel s 1] fun s =>
    if s.holds h then { s with pod := { s.pod with trm := trimSum s.pod.trm n } } else s

/-! ### CTXSV and CTXLD (R387, R388) -/

/-- The train and team that a handle names, resident. -/
def State.residentTarget (s : State) (x : W64) : Option (Nat × Option Nat) :=
  match s.trainNamed x with
  | some tr => if (s.train tr).parked then none else some (tr, none)
  | none =>
    match s.teamOfHandle x with
    | some (tr, tk) => if (s.team tk).saved then none else some (tr, some tk)
    | none => none

/-- A pre-emption request, with DST (R387). A team area too short for the save area counts as none: R140 and R387 speak only of a team
without a team area (DESIGN CHOICE, notes/assumptions/125.md). -/
def State.contextSave (s : State) (force : Bool) (handle image deadline : W64) : State × W64 :=
  match s.residentTarget handle with
  | none => (s, 0)
  | some (tr, team) =>
    let whole := if s.together tr then none else team
    let areas := (s.concerned tr whole).all fun tk => ((s.train tr).desc.saveArea (s.team tk).idx).isSome
    if s.prePending tr whole || (image = 0 && !areas) then (s, 0)
    else (s.requestPre tr team handle deadline.toNat image.toNat force true, 1)

def execCtxsv (h : Head) (force : Bool) (dst sa sb sc : Nat) (s : State) : Host.Outcome State Fault Refusal :=
  attempt s [chkRegs s [], chkLevel s 1] fun s =>
    if s.holds h then
      let r := s.contextSave force (s.scalar sa) (s.scalar sb) (s.scalar sc)
      r.1.landScalar h latSystem dst r.2
    else s

/-- The saved train or team whose image stands at an address, by the handle in its header. -/
def State.savedTarget (s : State) (image : Nat) : Option (Nat × Option Nat) :=
  match s.trainOfHandle (s.sysWord (image + 0x70)) with
  | none => none
  | some tr =>
    let tk := teamKey tr (fieldOf (s.sysWord (image + 0x70)) 0 21)
    if (s.train tr).parked then some (tr, none)
    else if (s.team tk).live && (s.team tk).saved && !(s.team tk).yielded then some (tr, some tk)
    else none

/-- Whether the target has room and its slots are unclaimed. -/
def State.restorable (s : State) (tr : Nat) (team : Option Nat) (want : Nat) : Bool :=
  match team with
  | none => (s.firstFor tr want).isSome
  | some tk => (s.findRoom tr fun c => (want == anyCore || c == want) && s.slotsFree tk c).isSome

/-- A restore request, with DST. -/
def State.contextLoad (s : State) (image where_ : W64) : State × W64 :=
  let want := if fieldOf where_ 63 1 = 1 then anyCore else fieldOf where_ 0 8
  match s.savedTarget image.toNat with
  | none => (s, 0)
  | some (tr, team) =>
    if s.prePending tr team || !s.restorable tr team want then (s, 0)
    else
      let r : PreReq :=
        { id := s.fw.nextPre, train := tr, team := team, handle := s.sysWord (image.toNat + 0x70), deadline := 0, image := image.toNat
          decision := 2, done := false, restore := some want, ring := true }
      ({ s with fw := { s.fw with pre := s.fw.pre ++ [r], nextPre := s.fw.nextPre + 1 } }, 1)

def execCtxld (h : Head) (dst sa sb : Nat) (s : State) : Host.Outcome State Fault Refusal :=
  attempt s [chkRegs s [], chkLevel s 1] fun s =>
    if s.holds h then
      let r := s.contextLoad (s.scalar sa) (s.scalar sb)
      r.1.landScalar h latSystem dst r.2
    else s

/-! ### Leases and owners (R389, R390, R399 to R401) -/

/-- LEASE by its op: whether it is accepted, and its effect. -/
def State.leaseOp (s : State) (op a : Nat) : State × W64 :=
  if !s.leaseAccepts a then (s, 0)
  else
    match op, s.granted a with
    | 0, _ => (s.requestGrant a, 1)
    | 1, some l => (s.endLease l, 1)
    | 2, some l => (s.requestRevoke l, 1)
    | _, _ => (s, 0)

/-- What the three LEASE instructions share. -/
def leaseInstr (op : Nat) (h : Head) (dst sa : Nat) (s : State) : Host.Outcome State Fault Refusal :=
  attempt s [chkRegs s [], chkLevel s 1] fun s =>
    if s.holds h then
      let r := s.leaseOp op (s.scalar sa).toNat
      r.1.landScalar h latSystem dst r.2
    else s

def execLeaseGrant (h : Head) (dst sa : Nat) (s : State) := leaseInstr 0 h dst sa s
def execLeaseRelease (h : Head) (dst sa : Nat) (s : State) := leaseInstr 1 h dst sa s
def execLeaseRevoke (h : Head) (dst sa : Nat) (s : State) := leaseInstr 2 h dst sa s

def execPown (h : Head) (dst sa sb : Nat) (s : State) : Host.Outcome State Fault Refusal :=
  attempt s [chkRegs s [], chkLevel s 2] fun s =>
    if s.holds h then
      let r := s.setOwner (pageOf (fieldOf (s.scalar sa) 0 56)) (fieldOf (s.scalar sb) 0 12)
      r.1.landScalar h latSystem dst r.2
    else s

/-! ### WDOG and HALT (R391, R392) -/

def execWdog (h : Head) (sa sb : Nat) (s : State) : Host.Outcome State Fault Refusal :=
  attempt s [chkRegs s [], chkLevel s 1] fun s =>
    if !s.holds h then s
    else
      match s.teamOfHandle (s.scalar sa) with
      | none => s
      | some (_, tk) => s.modTeam tk fun t => { t with wdLimit := (s.scalar sb).toNat }

def execHaltWait (h : Head) (s : State) : Host.Outcome State Fault Refusal :=
  attempt s [chkRegs s [], chkLevel s 1] fun s =>
    if s.holds h then s.modCmdCore s.cur.key fun c => { c with waiting := true } else s

def execHaltPkg (h : Head) (s : State) : Host.Outcome State Fault Refusal :=
  attempt s [chkRegs s [], chkLevel s 2] fun s => if s.holds h then s.haltPackage none else s

end Sys2Proof.Machine
end

