-- ==== Sys2Proof/Machine/Sched.lean ====
section
/-!
DEFINITION. The order of work within a vc: arbiters and runs, faults and their fates, late events, what each train and the package
has due, and the advance of time (spec/02_execution_model.md R36, R41, R45 to R54, spec/17_privilege_traps_preemption.md R363,
R366 to R372, spec/18_translation_leases_partitions.md R400, R401, spec/08_time_pod_and_fabric.md R167, R179, R186, R196).
-/

namespace Sys2Proof.Machine

/-! ### Issue slots (R46, R203) -/

def State.issueSlot (s : State) (k : Nat) : IssueSlot := Sp.get {} s.grid.issue k
def State.setIssue (s : State) (k : Nat) (x : IssueSlot) : State := { s with grid := { s.grid with issue := Sp.set {} s.grid.issue k x } }

/-- The issuer of an issue slot. -/
def State.context (s : State) (slot : Nat) : Cur :=
  let x := s.issueSlot slot
  let g := s.group x.key
  { key := x.key, train := g.train, team := g.team, slot := slot, alt := x.alt, addr := (g.slot x.alt).pc }

/-- A decoded instruction before its effect: the PC stands at the next address. -/
def State.fetched (s : State) (word len : Nat) : State :=
  let next := nextAddr s.cur.addr len
  let s := { s with cur := { s.cur with next := next, word := BitVec.ofNat 64 word } }
  s.modGroup s.cur.key fun g => g.setSlot s.cur.alt { g.slot s.cur.alt with pc := next }

/-- A run ends: its slot is free from a vc on, and its team has retired a run. -/
def State.retire (s : State) (free : Nat) : State :=
  let x := s.issueSlot s.cur.slot
  let now := s.now
  (s.setIssue s.cur.slot { x with busy := false, free := free, count := x.count + 1 }).modTeam s.myTeamKey fun t =>
    { t with retired := t.retired + 1, wdBase := now }

/-- After an instruction: a faulting one has not issued and frees its slot now; another is followed after 1 + D by the run's
next, or by nothing. -/
def State.issued (s : State) (d : Nat) (last : Bool) : State :=
  let now := s.now
  let x := s.issueSlot s.cur.slot
  let addr := s.cur.addr
  if s.cur.failed then
    (s.setIssue s.cur.slot { x with busy := false, free := now }).modGroup s.cur.key fun g =>
      g.setSlot s.cur.alt { g.slot s.cur.alt with pc := addr }
  else if last || s.cur.taken then s.retire (now + 1 + d)
  else s.setIssue s.cur.slot { x with count := x.count + 1, next := now + 1 + d }

/-- A slot whose instruction does not issue is free now (R368). -/
def State.dropIssue (s : State) (slot : Nat) : State :=
  let x := s.issueSlot slot
  s.setIssue slot { x with busy := false, free := (s.train (s.group x.key).train).clk }

/-- Check faults of a group that are due. -/
def State.dueChecks (s : State) (k : Nat) : List (Nat × Addr48) :=
  (s.group k).checks.filter fun c => c.1 ≤ (s.train (s.group k).train).clk

/-- A check fault taken at a run start (R324, R366). -/
def State.takeCheck (s : State) (slot : Nat) : State :=
  let x := s.issueSlot slot
  match sortBy (fun a b => a.1 ≤ b.1) (s.dueChecks x.key) with
  | [] => s
  | c :: _ =>
    let s := { s with cur := s.context slot }
    let s := s.modGroup x.key fun g => { g with checks := eraseFirst (fun y => y == c) g.checks }
    let s := (s.raise { code := 11, t2 := c.2.zeroExtend 64 }).issued 0 true
    { s with cur := {} }

/-! ### Eligibility and the arbiters (R41, R47, R372) -/

/-- The slots from which a group may issue a run. -/
def Group.runnable (g : Group) : List Bool :=
  match g.handler with
  | some a => if (g.slot a).issuable then [a] else []
  | none => [false, true].filter fun a => (g.slot a).issuable

/-- Whether what blocked a group has been satisfied. -/
def State.unblocked (s : State) (g : Group) : Bool :=
  let clk := (s.train g.train).clk
  match g.block with
  | .none => true
  | .twait c => c ≤ clk
  | _ => match (s.timed g).wake with
    | some w => w ≤ clk
    | none => false

/-- Whether a group is issuing a run, the slot of its last run is not yet free, or its restored run waits for a slot. -/
def State.issuing (s : State) (k : Nat) (g : Group) : Bool :=
  s.grid.resume.any (fun p => p.1 == k) || s.grid.issue.any fun p => p.1 / 8 == g.core && p.2.key == k && (p.2.busy || (s.train g.train).clk < p.2.free)

def State.eligible (s : State) (k : Nat) (g : Group) : Bool :=
  g.resident && !g.ended && !g.halted && g.hold ≤ (s.train g.train).clk && !g.runnable.isEmpty && s.unblocked g && !s.issuing k g

/-- Of several positions the lowest above the last winner's, else the lowest. `last` counts from 1, 0 for none. -/
def nextPosition (last : Nat) (ps : List (Nat × Group)) : Option (Nat × Group) :=
  let least (xs : List (Nat × Group)) : Option (Nat × Group) :=
    xs.foldl (fun m p => match m with
      | none => some p
      | some q => if p.2.pos < q.2.pos then some p else some q) none
  match least (ps.filter fun p => last ≤ p.2.pos) with
  | some p => some p
  | none => least ps

/-- A winner's slot and the next one of its alternation. -/
def Group.chosen (g : Group) : Bool × Bool :=
  match g.runnable with
  | [a] => (a, g.altNext)
  | _ => (g.altNext, !g.altNext)

/-- A restored run of a quadrant whose next instruction is due in the next vc, or overdue (R379). -/
def State.resumable (s : State) (core quad clk : Nat) : Option (Nat × IssueSlot) :=
  s.grid.resume.find? fun p => (s.group p.1).core == core && (s.group p.1).quad == quad && p.2.next ≤ clk + 1

/-- One decision for a free issue slot. A restored run goes on before the arbiter picks another; where no slot is free at its vc
it waits for the first (DESIGN CHOICE, notes/assumptions/74.md). -/
def State.decideSlot (s : State) (tr core quad slot : Nat) : State :=
  let x := s.issueSlot (issueKey core quad slot)
  let clk := (s.train tr).clk
  if x.busy || clk < x.free then s
  else match s.resumable core quad clk with
  | some p =>
    let s := { s with grid := { s.grid with resume := eraseFirst (fun q => q == p) s.grid.resume } }
    s.setIssue (issueKey core quad slot) { p.2 with next := clk + 1 }
  | none =>
    let mine := s.grid.groups.filter fun p => 16 ≤ p.1 && p.2.core == core && p.2.quad == quad && p.2.resident && p.2.train == tr
    let cands := mine.filter fun p => s.eligible p.1 p.2
    let fresh := cands.filter fun p => !p.2.served
    let s1 :=
      if fresh.isEmpty && !cands.isEmpty then mine.foldl (fun s p => s.modGroup p.1 fun g => { g with served := false }) s else s
    let pool := if fresh.isEmpty then cands else fresh
    let role := if pool.any fun p => p.2.conductor then pool.filter fun p => p.2.conductor else pool
    match nextPosition (Sp.get 0 (s.core core).lastWin quad) role with
    | none => s
    | some (k, g) =>
      let ch := g.chosen
      let s1 := s1.modGroup k fun g => { g with served := true, block := .none, wake := none, altNext := ch.2 }
      (s1.setIssue (issueKey core quad slot) { busy := true, key := k, next := clk + 1, count := 0, alt := ch.1 }).modCore core fun c =>
        { c with lastWin := Sp.set 0 c.lastWin quad (g.pos + 1) }

/-- The decisions of a train's arbiters at the end of a vc. -/
def State.decide (s : State) (tr : Nat) : State :=
  (s.train tr).cores.foldl (fun s c =>
    (List.range 4).foldl (fun s q => (s.decideSlot tr c q 0).decideSlot tr c q 1) s) s

/-! ### Faults at the end of a vc (R366 to R369, R371, R442) -/

/-- Records whose point has come. -/
def State.dueFaults (s : State) (tr : Nat) : List FaultRec :=
  let t := s.train tr
  t.faults.filter fun r => r.p ≤ t.clk

/-- Ended groups whose check faults are due (R324). Such a group has no run start for t1 to name: t1 is a free value. -/
def State.endedChecks (s : State) (tr : Nat) : List FaultRec :=
  let t := s.train tr
  (s.grid.groups.filter fun p => 16 ≤ p.1 && p.2.train == tr && p.2.ended && p.2.resident).flatMap fun p =>
    (s.dueChecks p.1).map fun c =>
      { team := p.2.team, group := p.2.idx, key := p.1, code := 11, lane := 255, tcode := 0, resume := (Config.value s.fresh).truncate 48,
        alt := bitAt (Config.value s.fresh) 48, t2 := c.2.zeroExtend 64, p := t.clk, pvc := t.vc }

def FaultRec.endsTeam (r : FaultRec) : Bool := r.code == 9 || r.code == 10

/-- A team-ending fault takes effect; the first of a team counts (R418). -/
def State.endByFault (s : State) (tr : Nat) (r : FaultRec) : State :=
  let tk := teamKey tr r.team
  if (s.team tk).halting then s
  else if (s.team tk).twin then s.stopTeam tk r.code
  else s.teamFault tk r.code

/-- A fault for S-level: the group stops, and the train holds the next vc until the answer. -/
def State.toScheduler (s : State) (tr : Nat) (r : FaultRec) : State :=
  let s := s.modGroup r.key fun g => { g with halted := true }
  if (s.team (teamKey tr r.team)).twin then s
  else
    s.post (s.faultPost tr r (some
      { train := tr, key := some r.key, alt := r.alt, resumable := r.code == 11 || r.code == 12 || r.code == 13, code := r.code, p := r.p }))

/-- Whether a fault enters its group's user handler: checks and breakpoints with a vector, outside a handler (R366). -/
def State.handled (s : State) (r : FaultRec) : Bool :=
  let g := s.group r.key
  (r.code == 11 || r.code == 12) && g.tvec != 0 && g.handler.isNone && !g.ended

/-- The record of a fault, or its handler: a lease fault posts nothing, a timing fault posts a record that asks nothing. A vector
that may not be fetched raises its fault where the handler would issue (R205, R250). -/
def State.recordFault (s : State) (tr : Nat) (r : FaultRec) (handled : Bool) : State :=
  let t := s.team (teamKey tr r.team)
  if r.code == 9 || (r.code == 10 && t.twin) then s
  else if r.code == 10 then s.post (s.faultPost tr r none)
  else if !handled then s.toScheduler tr r
  else if t.halting then s
  else s.enterHandler r (s.train tr).clk

/-- Whether a fault of one copy of a team has no counterpart in the other (R442). -/
def faultsDiffer (rs : List FaultRec) : Bool :=
  let sign (r : FaultRec) : Nat × Nat × Nat := (r.team % 2 ^ 21, r.group, r.code)
  let prim := (rs.filter fun r => r.team < 2 ^ 21).map sign
  let twin := (rs.filter fun r => 2 ^ 21 ≤ r.team).map sign
  prim.any (fun x => !twin.contains x) || twin.any fun x => !prim.contains x

/-- The faults of a vc take effect: the team-ending ones first, then every record in ascending (team, group) order (R369). The trap
point of a team that has ended before it is not reached. -/
def State.settleFaults (s : State) (tr : Nat) : State :=
  let clk := (s.train tr).clk
  let due := sortBy (fun a b => lexLe [a.team, a.group] [b.team, b.group]) (s.dueFaults tr ++ s.endedChecks tr)
  let rs := due.map fun r => { r with pvc := if r.p = clk then (s.train tr).vc else r.pvc }
  let s := s.spend.modTrain tr fun t => { t with faults := t.faults.filter fun r => clk < r.p }
  let s := { s with grid := { s.grid with groups := s.grid.groups.map fun p : Nat × Group =>
      if 16 ≤ p.1 && p.2.train = tr && p.2.ended then (p.1, { p.2 with checks := p.2.checks.filter fun c => clk < c.1 }) else p } }
  if (s.train tr).desc.twin && faultsDiffer rs then s.twinMismatch tr
  else
    let reached (r : FaultRec) : Bool := !((r.code == 12 || r.code == 13) && (s.team (teamKey tr r.team)).halting)
    let all := (rs.filter reached).map fun r => (r, s.handled r)
    let s := (rs.filter FaultRec.endsTeam).foldl (fun s r => s.endByFault tr r) s
    all.foldl (fun s p => s.recordFault tr p.1 p.2) s

/-! ### Placement (R36, R374) -/

def State.placeable (s : State) (tr : Nat) : Bool :=
  let t := s.train tr
  t.live && !t.parked && !t.boundary && !t.endAll && (!t.requeue.isEmpty || t.nextTeam < t.desc.grid) &&
  (s.findRoom tr fun _ => true).isSome

/-- The next team placed: the lowest discarded one first, whose index is the lower (R36). -/
def State.placeOne (s : State) (tr : Nat) : State :=
  if !s.placeable tr then s
  else
    let t := s.train tr
    match t.requeue with
    | [] => s.placeNext tr
    | i :: rest =>
      match s.findRoom tr fun _ => true with
      | none => s
      | some (core, carve) =>
        let s := s.placeTeam tr i core false carve
        let s := if t.desc.twin then
            s.placeTeam tr i (t.mateCore core) true (carve.map fun x => (t.mateCore x.1, x.2.1, x.2.2))
          else s
        s.modTrain tr fun t => { t with requeue := rest }

/-! ### Late events (R53, R54, R426, R458) -/

/-- Whether a train holds its vc; while the balance count holds, no bc passes (R167). -/
def State.late (s : State) (tr : Nat) : Bool :=
  let t := s.train tr
  t.holds.any (fun h => h.1 ≤ t.clk) || s.sys.thermal || s.bcHold != 0 ||
  (match t.align with
   | some (c, x, _) => c ≤ t.clk && s.bc.toNat < x.toNat
   | none => false) ||
  (s.dueCmds tr).any s.cmdLate || (s.dueReds tr).any fun c => !s.arrived c

/-- The pause threshold of a train's owner. -/
def State.pauseLimit (s : State) (tr : Nat) : Nat :=
  let p := (s.policy (s.train tr).owner).pthr
  if p = 0 then 80000 else p

def State.awaitsRecovering (s : State) (tr : Nat) : Bool := s.pod.recovering.any fun p => p.2 && s.awaits tr p.1

def State.overrunDue (s : State) (tr : Nat) : Bool :=
  let t := s.train tr
  t.live && !t.overrun && s.pauseLimit tr < t.pause && !s.awaitsRecovering tr

def State.reportOverrun (s : State) (tr : Nat) : State :=
  if s.overrunDue tr then ((s.modTrain tr fun t => { t with overrun := true }).note (.pauseOverrun tr)).wakeLevel 1 else s

/-! ### Issues due in a vc (R367, R368) -/

/-- Issue slots of a train due in this vc, ascending. -/
def State.dueSlots (s : State) (tr : Nat) : List Nat :=
  let t := s.train tr
  (s.grid.issue.filter fun p => p.2.busy && p.2.next ≤ t.clk && t.cores.contains (p.1 / 8)).map (·.1)

def State.faultsDue (s : State) (tr : Nat) : Bool := !(s.dueFaults tr).isEmpty || !(s.endedChecks tr).isEmpty

/-- Whether the faults of the vc must be known before a group issues: no group of a team that ends at p issues at p. -/
def State.needsSurvey (s : State) (tr : Nat) : Bool :=
  !(s.train tr).surveyed && ((s.dueSlots tr).length > 1 || (!(s.dueSlots tr).isEmpty && s.faultsDue tr))

/-! ### What is due -/

/-- A unit of work of one step. -/
inductive Work where
  | event (i : Instr)
  | issue (slot : Nat)
  | survey (tr : Nat)
  | settle (tr : Nat)
deriving DecidableEq, Repr

def Work.when (c : Bool) (w : Work) : Option Work := if c then some w else none

/-- The first live work of several. -/
def firstWork (ws : List (Unit → Option Work)) : Option Work := ws.findSome? fun f => f ()

/-- A slot whose run starts while a check fault of its group is due. -/
def State.checkedSlot (s : State) (tr : Nat) : Option Nat :=
  (s.dueSlots tr).find? fun k => (s.issueSlot k).count = 0 && !(s.dueChecks (s.issueSlot k).key).isEmpty

/-- What a train comes to next in its vc. An S-level fault at p holds what is left of p: the other groups issue at p only where the answer
is RESUME. Slots issue in the order of cores, quadrants and slots. -/
def State.nextWork (s : State) (tr : Nat) : Option Work :=
  let t := s.train tr
  let clk := t.clk
  if !t.live || t.parked then none
  else if t.finished then some (.event (.launchEnd tr))
  else if s.late tr then none
  else
    firstWork [
      fun _ => Work.when (s.alignDue tr) (.event (.alignmentRelease tr)),
      fun _ => Work.when (s.placeable tr) (.event (.teamPlacement tr)),
      fun _ => (t.bad.find? fun b => b.1 ≤ clk && (s.group b.2.2).resident).map fun b => .event (.errorConsumption tr (some b.2.1)),
      fun _ => Work.when (s.grid.pend.any (fun p => p.train == tr && p.due ≤ clk && (s.group p.key).resident) ||
        s.grid.acquires.any fun a => a.train == tr && a.due ≤ clk) (.event (.registerLanding tr)),
      fun _ => Work.when (s.grid.outs.any fun e => e.train == tr && e.due ≤ clk) (.event (.engineOutputLanding tr)),
      fun _ => Work.when (s.grid.stps.any fun p => p.train == tr && p.due ≤ clk) (.event (.poolWriteLanding tr)),
      fun _ => Work.when (!(s.dueReds tr).isEmpty) (.event (.lredReceive tr)),
      fun _ => Work.when (s.grid.sfu.any fun e => e.train == tr && e.start ≤ clk) (.event (.sfuEntryStart tr)),
      fun _ => Work.when (!(s.dueCmds tr).isEmpty) (.event (.columnEntryStart tr)),
      fun _ => Work.when (!(s.dueSteps tr).isEmpty) (.event (.matrixKstep tr)),
      fun _ => (s.checkedSlot tr).map fun k => .event (.checkFaultTaken k),
      fun _ => Work.when (s.needsSurvey tr) (.survey tr),
      fun _ => Work.when (s.faultsDue tr) (.settle tr),
      fun _ => (s.dueSlots tr).head?.map .issue,
      fun _ => (s.grid.teams.find? fun p => p.2.train == tr && s.teamDone p.1).map fun p => .event (.teamEnd tr p.2.keyIdx),
      fun _ => Work.when (s.boundaryDue tr) (.event (.quantumBoundary tr)),
      fun _ => Work.when (s.restorableYield tr) (.event (.yieldRestore tr)),
      fun _ => (s.grid.teams.find? fun p => s.watchdogDue tr p.1).map fun p => .event (.watchdogExpiry tr p.2.idx)]

/-- Whether a train's work must wait because one of its writes finds no frame for a copy set aside: a late event (R434). -/
def State.starves (s : State) (tr : Nat) : Work → Bool
  | .event (.quantumBoundary _) => s.boundaryShort tr
  | .event (.launchEnd _) => s.endShort tr
  | .event (.errorConsumption _ p) => (s.consume tr p).mem.starved
  | .settle _ => (s.settleFaults tr).mem.starved
  | _ => false

/-- Whether a train holds its vc: a late event, a copy-aside that finds no free frame among them (R53, R434). -/
def State.held (s : State) (tr : Nat) : Bool := s.late tr || (s.nextWork tr).any (s.starves tr)

/-- What a train has due in its vc; a train that holds it may be reported. -/
def State.trainWork (s : State) (tr : Nat) : Option Work :=
  let report : Option Work := Work.when (s.overrunDue tr) (.event (.pauseOverrun tr))
  match s.nextWork tr with
  | some w => if s.starves tr w then report else some w
  | none => if !(s.train tr).parked && s.late tr then report else none

/-- A port with a cell that may leave in this bc. -/
def State.dueCell (s : State) : Option Nat := (List.range 16).find? fun port => (s.cellFor port).isSome

/-- A plane whose port may send a hall frame. -/
def State.dueFrame (s : State) : Option Nat := (List.range 16).find? fun plane => (s.frameDue plane).isSome

/-- What the package may have due, in its order. -/
def State.packageWorks (s : State) : List (Unit → Option Work) :=
  [
    fun _ => (s.dueCell).map fun p => .event (.cellSend p),
    fun _ => (s.dueFrame).map fun p => .event (.hallFrameSend p),
    fun _ => (s.pod.tags.find? fun t => s.replyLate t.2).map fun t => .event (.hallRetryTimeout (t.1 / 4096) (t.1 % 4096)),
    fun _ => Work.when s.lossDue (.event .tokenLoss),
    fun _ => Work.when (s.regenerable && !s.assisted 4) (.event .tokenRegenerate),
    fun _ => Work.when (s.sys.boot == 7 && s.sys.joinStep == 0 && s.pod.listen == 0 && s.sys.joinEntry + 4096 ≤ s.time) (.event .joinTokenTimeout),
    fun _ => Work.when (s.sys.boot == 7 && s.sys.joinStep == 1 && s.pod.listen == 0 && s.sys.joinEntry + 1600000 ≤ s.time) (.event .joinFailTimeout),
    fun _ => (s.fw.pre.find? fun r => !r.done && r.restore.isNone && r.decision == 0 && r.deadline ≤ s.bc.toNat).map fun r =>
      .event (.drainDeadline r.id),
    fun _ => (s.fw.pre.find? fun r => !r.done && r.team.isNone && (match r.restore with
        | some want => (s.train r.train).parked && (s.firstFor r.train want).isSome
        | none => false)).map fun r => .event (.contextRestore r.id),
    fun _ => (s.fw.removals.find? fun r => s.vacated r.1).map fun r => .event (.clusterRemovalComplete r.1),
    fun _ => (s.mem.leases.find? fun l => l.state == 0 && (s.leaseCause l != 0 || s.framesFree l)).map fun l =>
      .event (.leaseGrantComplete l.desc),
    fun _ => (s.mem.leases.find? fun l =>
      l.state == 5 && (l.counter == 0 || l.target.toNat ≤ (s.sysWord l.counter).toNat) && !s.inFlight l).map fun l => .event (.revokeUnpin l.desc),
    fun _ => Work.when (bucketPeriod ≤ s.fw.refillBc) (.event .bucketRefill),
    fun _ => if s.sys.boot == bootReady && !s.assisted 0 then (s.nextQueue).map fun q => .event (match s.entryKind q with
      | 0 => .queueLaunchEntry q
      | 1 => .queueWaitEntry q
      | 2 => .queueAddEntry q
      | _ => .queueNopEntry q) else none,
    fun _ => (s.nextLaunch).map fun l => .event (.launchStart l)]

/-! ### The advance of time (R53, R167) -/

/-- Commands that have completed leave. -/
def State.pruneCmds (s : State) (tr : Nat) : State :=
  let clk := (s.train tr).clk
  { s with grid := { s.grid with cmds := s.grid.cmds.filter fun c => c.train != tr || !c.complete clk || !c.pages.isEmpty } }

/-- One vc of a train, which passes unless it is held (R53, R434): what ends with it, the arbiters' decisions, and the next vc. -/
def State.advanceTrain (s : State) (tr : Nat) : State :=
  let t := s.train tr
  if !t.live || t.parked then s
  else if s.held tr then s.modTrain tr fun t => { t with pause := t.pause + 1 }
  else
    let s := if t.boundary then (s.afterBoundary tr).modTrain tr fun t => { t with boundary := false } else s
    if !(s.train tr).live || (s.train tr).parked || (s.train tr).finished then s
    else
      let s := ((s.decide tr).pruneCmds tr).charge tr
      s.modTrain tr fun t =>
        { t with clk := t.clk + 1, vc := t.vc + 1, surveyed := false, pause := 0, overrun := false }

/-- The trains of the partitions' idle cores advance: one for each owner that has idle cores (R52). -/
def State.advanceIdle (s : State) : State :=
  if s.bcHold != 0 || s.sys.thermal then s
  else
    let busy := s.busyCores
    let idle (p : Nat × W64) : Bool := (s.clusters p.1).any fun k => (List.range 8).any fun i => !busy.contains (8 * k + i)
    (s.sys.hpol.filter idle).foldl (fun s p =>
      { s with grid := { s.grid with idleVc := Sp.set 0 s.grid.idleVc p.1 (Sp.get 0 s.grid.idleVc p.1 + 1) } }) s

/-- One bc of the package; bring-up goes on, and waiting fault records and ADD entries are written as places and frames become free. -/
def State.advance (s : State) : State :=
  let s := (s.grid.trains.map (·.1)).foldl State.advanceTrain ((s.grid.trains.map (·.1)).foldl State.extendTrain s.advanceIdle)
  let s : State :=
    if s.bcHold = 0 then { s with bc := s.bc + 1, fw := { s.fw with refillBc := s.fw.refillBc + 1 } } else { s with bcHold := s.bcHold - 1 }
  let s := s.finishReport.bootStage
  let s := (s.flushPosts s.fw.posts.length).flushAdds
  let s : State := { s with time := s.time + 1 }
  s.joinListened

/-! ### Command cores (R363) -/

/-- A command core that waits for its record: the sequence number lands once the record is applied. -/
def State.pollRecord (s : State) (k : Nat) : State :=
  let g := s.group k
  match g.block with
  | .drecw otag dst _ =>
    let q := Sp.get 0 s.pod.applied otag
    if q = 0 then s
    else
      let s := { s with cur := { key := k, cmd := true } }
      let s := (s.land k (s.scalarDst dst (some q))).modGroup k fun g => { g with block := .none }
      { s with cur := {} }
  | _ => s

/-- Whether a command core can execute. -/
def State.commandRuns (s : State) (k : Nat) : Bool :=
  let c := s.cmdCore k
  s.portsOpen && c.on && !c.waiting && !(s.group k).ended && (s.group k).block == .none

def State.commandContext (s : State) (k : Nat) : Cur := { key := k, cmd := true, addr := (s.group k).pri.pc }

end Sys2Proof.Machine
end

