-- ==== Sys2Proof/Machine/Events.lean ====
section
/-!
DEFINITION. One meaning for each event of spec/opcode_table.json. An event that finds nothing to do leaves the state as it is.
-/

namespace Sys2Proof.Machine

/-- An event that always completes. -/
def happens (s : State) : Host.Outcome State Fault Refusal := .next s

/-! ### Trains and vc (02, 10, 12, 13, 17) -/

def execVcAdvance (s : State) : Host.Outcome State Fault Refusal := happens s.advance

/-- Data that was physically late is present. -/
def execLateEventClear (tr : Nat) (s : State) : Host.Outcome State Fault Refusal :=
  happens (s.modTrain tr fun t => { t with holds := t.holds.filter fun h => match h.2 with
    | .physical _ => false
    | _ => true })

def execRegisterLanding (tr : Nat) (s : State) : Host.Outcome State Fault Refusal := happens (s.landRegisters tr)
def execPoolWriteLanding (tr : Nat) (s : State) : Host.Outcome State Fault Refusal := happens (s.landStps tr)
def execSfuEntryStart (tr : Nat) (s : State) : Host.Outcome State Fault Refusal := happens (s.startSfu tr)
def execColumnEntryStart (tr : Nat) (s : State) : Host.Outcome State Fault Refusal := happens (s.startColumns tr)
def execMatrixKstep (tr : Nat) (s : State) : Host.Outcome State Fault Refusal := happens (s.stepMatrices tr)
def execEngineOutputLanding (tr : Nat) (s : State) : Host.Outcome State Fault Refusal := happens (s.landOuts tr)
def execLredReceive (tr : Nat) (s : State) : Host.Outcome State Fault Refusal := happens (s.receiveReds tr)

/-- Only a run's first instruction takes a check fault. -/
def execCheckFaultTaken (slot : Nat) (s : State) : Host.Outcome State Fault Refusal :=
  let x := s.issueSlot slot
  happens (if x.busy && x.count == 0 then s.takeCheck slot else s)

def execAlignmentRelease (tr : Nat) (s : State) : Host.Outcome State Fault Refusal :=
  happens (if s.alignDue tr then s.releaseAlign tr else s)

def execQuantumBoundary (tr : Nat) (s : State) : Host.Outcome State Fault Refusal :=
  happens (if s.boundaryDue tr && !s.boundaryShort tr then s.boundary tr else s)

def execErrorConsumption (tr : Nat) (page : Option Nat) (s : State) : Host.Outcome State Fault Refusal :=
  happens (if (s.train tr).live then s.consume tr page else s)

def execPauseOverrun (tr : Nat) (s : State) : Host.Outcome State Fault Refusal := happens (s.reportOverrun tr)

/-- The governor looks at package power once in 1,024 bc. R32 gives the period and no bc in it: a check falls where the bc since reset are a
multiple of it (DESIGN CHOICE, notes/assumptions/60.md). Its pauses may end between the checks, as R360's run shows (DEDUCED, log 60). -/
def execGovernorCheck (power : Nat) (draws : List (Nat × Nat)) (s : State) : Host.Outcome State Fault Refusal :=
  happens (if s.time % governorPeriod = 0 || power ≤ envelopeWatts then s.governor power draws else s)

def execTeamPlacement (tr : Nat) (s : State) : Host.Outcome State Fault Refusal := happens (s.placeOne tr)

/-- Restores begin at boundaries only. -/
def execYieldRestore (tr : Nat) (s : State) : Host.Outcome State Fault Refusal :=
  happens (if (s.train tr).boundary then s.restoreYields tr else s)

def execTeamEnd (tr team : Nat) (s : State) : Host.Outcome State Fault Refusal := happens (s.endTeam (teamKey tr team))
def execWatchdogExpiry (tr team : Nat) (s : State) : Host.Outcome State Fault Refusal := happens (s.watchdog tr (teamKey tr team))
def execDrainDeadline (req : Nat) (s : State) : Host.Outcome State Fault Refusal := happens (s.drainLapsed req)
def execContextRestore (req : Nat) (s : State) : Host.Outcome State Fault Refusal :=
  happens (match s.fw.pre.find? fun r => r.id == req with
    | some r => if r.team.isNone && (s.train r.train).parked then s.serveRestore req else s
    | none => s)
def execFansEnd (ix : Nat) (s : State) : Host.Outcome State Fault Refusal := happens (s.answerEndIx ix)
def execFansResume (ix : Nat) (s : State) : Host.Outcome State Fault Refusal := happens (s.answerResumeIx ix)

/-! ### The loop and the Dial (08, 19) -/

def execLoopTokenArrival (pos : Nat) (tokenBc : W64) (malformed : Bool) (s : State) : Host.Outcome State Fault Refusal :=
  happens (s.tokenArrival pos tokenBc malformed)
def execRecordWrite (r : LoopRec) (crcOk : Bool) (s : State) : Host.Outcome State Fault Refusal := happens (s.receive 0 r crcOk)
def execRecordAdd (r : LoopRec) (crcOk : Bool) (s : State) : Host.Outcome State Fault Refusal := happens (s.receive 1 r crcOk)
def execRecordSetz (r : LoopRec) (crcOk : Bool) (s : State) : Host.Outcome State Fault Refusal := happens (s.receive 2 r crcOk)
def execRecordCas (r : LoopRec) (crcOk : Bool) (s : State) : Host.Outcome State Fault Refusal := happens (s.receive 3 r crcOk)
def execRecordLaunch (r : LoopRec) (crcOk : Bool) (s : State) : Host.Outcome State Fault Refusal := happens (s.receive 4 r crcOk)
def execRecordTmap (r : LoopRec) (crcOk : Bool) (s : State) : Host.Outcome State Fault Refusal := happens (s.receive 5 r crcOk)
def execRecordRecov (r : LoopRec) (crcOk : Bool) (s : State) : Host.Outcome State Fault Refusal := happens (s.receive 6 r crcOk)

/-- NOTE is OP 7; OPs 8 to 15 are stamped and not applied (R175). -/
def execRecordNote (op : Nat) (r : LoopRec) (crcOk : Bool) (s : State) : Host.Outcome State Fault Refusal :=
  happens (s.receive (max op 7) r crcOk)

def execTokenLoss (s : State) : Host.Outcome State Fault Refusal := happens s.loseToken
def execTokenRegenerate (s : State) : Host.Outcome State Fault Refusal := happens s.regenerateToken
def execRejoinRequest (member : Nat) (s : State) : Host.Outcome State Fault Refusal := happens (s.rejoinAsked member)
def execDialTransfer (m : W64) (dial : List (Nat × W64)) (s : State) : Host.Outcome State Fault Refusal := happens (s.takeDial m dial)

/-! ### Cells, leaf management and the hall (08) -/

def execCellSend (port : Nat) (s : State) : Host.Outcome State Fault Refusal := happens (s.sendCell port)
def execCellArrival (c : LinkCell) (crcOk : Bool) (s : State) : Host.Outcome State Fault Refusal := happens (s.cellArrives c crcOk)
def execLeafManagementWrite (v : W64) (s : State) : Host.Outcome State Fault Refusal := happens (s.writeLmgt v)
def execLeafAckArrival (err : Bool) (s : State) : Host.Outcome State Fault Refusal := happens (s.leafAck err)
def execHallFrameSend (plane : Nat) (s : State) : Host.Outcome State Fault Refusal := happens (s.sendFrame plane)
def execHallReplyArrival (f : HallFrame) (err : Bool) (s : State) : Host.Outcome State Fault Refusal := happens (s.hallReply f err)
def execHallRequestArrival (f : HallFrame) (s : State) : Host.Outcome State Fault Refusal := happens (s.hallRequest f)
def execHallRetryTimeout (plane tag : Nat) (s : State) : Host.Outcome State Fault Refusal := happens (s.hallTimeout plane tag)

/-! ### Queues, launches, leases and partitions (18, 19) -/

/-- S-level maps a queue by its queue-table entry: the QCB's address and the shadow of its privileged fields. -/
def execQueueMap (slot qcb prio rclass owner : Nat) (s : State) : Host.Outcome State Fault Refusal :=
  happens (s.queueMap slot { qcb := qcb, prio := prio % 8, rclass := rclass % 4, owner := owner % 4096 })
def execQueueRemap (slot : Nat) (s : State) : Host.Outcome State Fault Refusal := happens (s.queueRemap slot)
def execQueueLaunchEntry (slot : Nat) (s : State) : Host.Outcome State Fault Refusal :=
  happens (s.takeEntry slot 0 fun s => s.launchEntry slot)

/-- A WAIT entry is taken once its counter has reached the target. -/
def execQueueWaitEntry (slot : Nat) (s : State) : Host.Outcome State Fault Refusal := happens (s.takeEntry slot 1 id)
def execQueueAddEntry (slot : Nat) (s : State) : Host.Outcome State Fault Refusal :=
  happens (s.takeEntry slot 2 fun s => s.addEntry slot)
def execQueueNopEntry (slot : Nat) (s : State) : Host.Outcome State Fault Refusal := happens (s.takeEntry slot 3 id)
def execBucketRefill (s : State) : Host.Outcome State Fault Refusal := happens s.refill

def execLaunchStart (launch : Nat) (s : State) : Host.Outcome State Fault Refusal :=
  happens (if s.waitsForBucket (s.launch launch) then s
    else s.startLaunch launch)
def execLaunchEnd (tr : Nat) (s : State) : Host.Outcome State Fault Refusal :=
  happens (if (s.train tr).finished && !s.endShort tr then s.endLaunch tr else s)

def execLeaseGrantComplete (desc : Nat) (s : State) : Host.Outcome State Fault Refusal :=
  happens (match s.mem.leases.find? fun l => l.desc == desc && l.state == 0 with
    | some l => s.completeGrant l
    | none => s)
def execRevokeUnpin (desc : Nat) (s : State) : Host.Outcome State Fault Refusal :=
  happens (match s.mem.leases.find? fun l => l.desc == desc && l.state == 5 with
    | some l => s.completeRevoke l
    | none => s)
def execHpolWrite (owner : Nat) (v : W64) (s : State) : Host.Outcome State Fault Refusal := happens (s.writeHpol owner v)
def execClusterRemovalComplete (owner : Nat) (s : State) : Host.Outcome State Fault Refusal := happens (s.completeRemoval owner)
def execRemoteLeaseRequest (page count owner kind cls : Nat) (holder : W64) (s : State) : Host.Outcome State Fault Refusal :=
  happens (s.requestRemote page count owner kind cls holder)

/-! ### Laps and errors (20) -/

/-- The lap is named by its generation. -/
def execLapDrain (lap : Nat) (s : State) : Host.Outcome State Fault Refusal := happens (s.drain lap)

/-- A scrub counts its corrections in counter 2 of the pages' owners and poisons pages with uncorrectable words (R431, R433). -/
def execScrubPass (corrected poisoned : List Nat) (s : State) : Host.Outcome State Fault Refusal :=
  let s1 := corrected.foldl (fun s p => s.bumpOwner (peOwner (s.page p)) 2) s
  happens (poisoned.foldl State.poison s1)

/-! ### The companion and bring-up (21) -/

def execCompanionRead (owner addr len : Nat) (s : State) : Host.Outcome State Fault Refusal := happens (s.companionRead owner addr len)
def execCompanionWrite (owner addr : Nat) (data : List Byte) (s : State) : Host.Outcome State Fault Refusal :=
  happens (s.companionWrite owner addr data)
def execPowerOn (s : State) : Host.Outcome State Fault Refusal := happens s.powerOn
def execPowerRemove (s : State) : Host.Outcome State Fault Refusal := happens s.powerRemove
def execBootctlGo (s : State) : Host.Outcome State Fault Refusal := happens s.bootGo
def execBootctlNonce (s : State) : Host.Outcome State Fault Refusal := happens s.attest
def execTraining (fail : Option (Nat × Nat)) (s : State) : Host.Outcome State Fault Refusal := happens (s.trained fail)
def execJoinTokenTimeout (s : State) : Host.Outcome State Fault Refusal := happens s.joinTokenTimeout
def execJoinFailTimeout (s : State) : Host.Outcome State Fault Refusal := happens s.joinFailTimeout
def execSraddrRead (srn : Nat) (s : State) : Host.Outcome State Fault Refusal := happens (s.portRead srn)
def execSraddrWrite (srn : Nat) (s : State) : Host.Outcome State Fault Refusal := happens (s.portWrite srn)
def execFusecProgram (s : State) : Host.Outcome State Fault Refusal := happens s.programFuse
def execFuseProgramComplete (failed : Bool) (s : State) : Host.Outcome State Fault Refusal := happens (s.fuseDone failed)
def execThermalPause (s : State) : Host.Outcome State Fault Refusal :=
  happens (if s.powered then { s with sys := { s.sys with thermal := true } } else s)
def execThermalResume (s : State) : Host.Outcome State Fault Refusal := happens { s with sys := { s.sys with thermal := false } }
def execThermalTrip (s : State) : Host.Outcome State Fault Refusal := happens (s.trip 6)
def execPowerTrip (s : State) : Host.Outcome State Fault Refusal := happens (s.trip 7)
def execRegisterWrite (offset : Nat) (v : W64) (s : State) : Host.Outcome State Fault Refusal := happens (s.aperWrite offset v)

end Sys2Proof.Machine
end

