-- ==== Sys2Proof/Machine/Scalar.lean ====
section
/-!
DEFINITION. Class 0: scalar arithmetic (spec/10_scalar_and_control_instructions.md R228 to R234).
-/

namespace Sys2Proof.Machine

/-- Latencies of R229. -/
def latAlu : Nat := 2
def latMul : Nat := 4
def latDiv : Nat := 20

/-- A scalar instruction with two sources. -/
def scalar2 (h : Head) (o : S2) (lat : Nat) (f : W64 → W64 → W64) (s : State) : Host.Outcome State Fault Refusal :=
  attempt s [chkRegs s [], chkPend s [.scal o.dst]] fun s => s.landScalar h lat o.dst (f (s.scalar o.sa) (o.b.val s))

/-- A scalar instruction with one source. -/
def scalar1 (h : Head) (o : S1) (f : W64 → W64) (s : State) : Host.Outcome State Fault Refusal :=
  attempt s [chkRegs s [], chkPend s [.scal o.dst]] fun s => s.landScalar h latAlu o.dst (f (s.scalar o.sa))

/-- The shift amount b[5:0]. -/
def shamt (b : W64) : Nat := b.toNat % 64

/-- The high half of a signed product. -/
def mulHigh (a b : W64) : W64 := BitVec.ofInt 64 (a.toInt * b.toInt / 2 ^ 64)
/-- The high half of an unsigned product. -/
def mulHighU (a b : W64) : W64 := BitVec.ofNat 64 (a.toNat * b.toNat / 2 ^ 64)

/-- BFX and BFXU (R232). -/
def bitField (signed : Bool) (p wm1 : Nat) (a : W64) : W64 :=
  let f := fieldOf a p (wm1 + 1)
  if signed then BitVec.ofInt 64 (signedOf (wm1 + 1) f) else BitVec.ofNat 64 f
/-- BFI (R232). -/
def insertField (p wm1 : Nat) (a b : W64) : W64 := BitVec.ofNat 64 (putBits b.toNat p (wm1 + 1) a.toNat)

/-- DIVU and REMU with their results for b = 0 (R234). -/
def divU (a b : W64) : W64 := if b = 0 then -1 else a / b
def remU (a b : W64) : W64 := if b = 0 then a else a % b

def execAdd (h : Head) (o : S2) (s : State) := scalar2 h o latAlu (fun a b => a + b) s
def execSub (h : Head) (o : S2) (s : State) := scalar2 h o latAlu (fun a b => a - b) s
def execMul (h : Head) (o : S2) (s : State) := scalar2 h o latMul (fun a b => a * b) s
def execMulh (h : Head) (o : S2) (s : State) := scalar2 h o latMul mulHigh s
def execMulhu (h : Head) (o : S2) (s : State) := scalar2 h o latMul mulHighU s
def execMad (h : Head) (o : S3) (s : State) : Host.Outcome State Fault Refusal :=
  attempt s [chkRegs s [], chkPend s [.scal o.dst]] fun s =>
    s.landScalar h latMul o.dst (s.scalar o.sa * s.scalar o.sb + s.scalar o.sc)
def execAnd (h : Head) (o : S2) (s : State) := scalar2 h o latAlu (fun a b => a &&& b) s
def execOr (h : Head) (o : S2) (s : State) := scalar2 h o latAlu (fun a b => a ||| b) s
def execXor (h : Head) (o : S2) (s : State) := scalar2 h o latAlu (fun a b => a ^^^ b) s
def execAndn (h : Head) (o : S2) (s : State) := scalar2 h o latAlu (fun a b => a &&& ~~~b) s
def execShl (h : Head) (o : S2) (s : State) := scalar2 h o latAlu (fun a b => a <<< shamt b) s
def execShr (h : Head) (o : S2) (s : State) := scalar2 h o latAlu (fun a b => a >>> shamt b) s
def execSra (h : Head) (o : S2) (s : State) := scalar2 h o latAlu (fun a b => a.sshiftRight (shamt b)) s
def execRol (h : Head) (o : S2) (s : State) := scalar2 h o latAlu (fun a b => a.rotateLeft (shamt b)) s
def execMin (h : Head) (o : S2) (s : State) := scalar2 h o latAlu (fun a b => if b.toInt < a.toInt then b else a) s
def execMax (h : Head) (o : S2) (s : State) := scalar2 h o latAlu (fun a b => if b.toInt > a.toInt then b else a) s
def execMinu (h : Head) (o : S2) (s : State) := scalar2 h o latAlu (fun a b => if b.toNat < a.toNat then b else a) s
def execMaxu (h : Head) (o : S2) (s : State) := scalar2 h o latAlu (fun a b => if b.toNat > a.toNat then b else a) s

/-- CMP (R231). -/
def execCmp (h : Head) (cc : Nat) (o : S2) (s : State) : Host.Outcome State Fault Refusal :=
  attempt s [chkRegs s [], chkPend s [.cond o.dst]] fun s =>
    s.later latAlu (.cond o.dst
      (if s.holds h then some (related 64 cc (s.scalar o.sa).toNat (o.b.val s).toNat) else none))

/-- SEL (R231). -/
def execSel (h : Head) (cn : Nat) (neg : Bool) (o : S2) (s : State) :=
  scalar2 h o latAlu (fun a b => if s.me.readCond cn != neg then a else b) s

def execMov (h : Head) (o : S1) (s : State) := scalar1 h o (fun a => a) s

/-- MOVI (R233). -/
def execMovi (h : Head) (dst : Nat) (x : MovImm) (s : State) : Host.Outcome State Fault Refusal :=
  attempt s [chkRegs s [], chkPend s [.scal dst]] fun s => s.landScalar h latAlu dst x.val

def execClz (h : Head) (o : S1) (s : State) := scalar1 h o (fun a => BitVec.ofNat 64 (leadingZeros 64 a.toNat)) s
def execCtz (h : Head) (o : S1) (s : State) := scalar1 h o (fun a => BitVec.ofNat 64 (trailingZeros 64 a.toNat)) s
def execPopc (h : Head) (o : S1) (s : State) := scalar1 h o (fun a => BitVec.ofNat 64 (popCount 64 a.toNat)) s
def execBrev (h : Head) (o : S1) (s : State) := scalar1 h o (fun a => BitVec.ofNat 64 (reverseBits 64 a.toNat)) s
def execBfx (h : Head) (pos wm1 : Nat) (o : S1) (s : State) := scalar1 h o (bitField true pos wm1) s
def execBfxu (h : Head) (pos wm1 : Nat) (o : S1) (s : State) := scalar1 h o (bitField false pos wm1) s
def execBfi (h : Head) (pos wm1 : Nat) (o : S2) (s : State) := scalar2 h o latAlu (insertField pos wm1) s
def execLea (h : Head) (sh : Nat) (o : S2) (s : State) := scalar2 h o latAlu (fun a b => a + b <<< sh) s
def execDivu (h : Head) (o : S2) (s : State) := scalar2 h o latDiv divU s
def execRemu (h : Head) (o : S2) (s : State) := scalar2 h o latDiv remU s

end Sys2Proof.Machine
end

