-- ==== Sys2Proof/Machine/Dispatch.lean ====
section
/-!
DEFINITION. One arm for each instruction and event.
-/

namespace Sys2Proof.Machine

def exec (i : Instr) (s : State) : Host.Outcome State Fault Refusal :=
  match i with
  | .add h o => Sys2Proof.Machine.execAdd h o s
  | .sub h o => Sys2Proof.Machine.execSub h o s
  | .mul h o => Sys2Proof.Machine.execMul h o s
  | .mulh h o => Sys2Proof.Machine.execMulh h o s
  | .mulhu h o => Sys2Proof.Machine.execMulhu h o s
  | .mad h o => Sys2Proof.Machine.execMad h o s
  | .and h o => Sys2Proof.Machine.execAnd h o s
  | .or h o => Sys2Proof.Machine.execOr h o s
  | .xor h o => Sys2Proof.Machine.execXor h o s
  | .andn h o => Sys2Proof.Machine.execAndn h o s
  | .shl h o => Sys2Proof.Machine.execShl h o s
  | .shr h o => Sys2Proof.Machine.execShr h o s
  | .sra h o => Sys2Proof.Machine.execSra h o s
  | .rol h o => Sys2Proof.Machine.execRol h o s
  | .min h o => Sys2Proof.Machine.execMin h o s
  | .max h o => Sys2Proof.Machine.execMax h o s
  | .minu h o => Sys2Proof.Machine.execMinu h o s
  | .maxu h o => Sys2Proof.Machine.execMaxu h o s
  | .cmp h cc o => Sys2Proof.Machine.execCmp h cc o s
  | .sel h cn neg o => Sys2Proof.Machine.execSel h cn neg o s
  | .mov h o => Sys2Proof.Machine.execMov h o s
  | .movi h dst x => Sys2Proof.Machine.execMovi h dst x s
  | .clz h o => Sys2Proof.Machine.execClz h o s
  | .ctz h o => Sys2Proof.Machine.execCtz h o s
  | .popc h o => Sys2Proof.Machine.execPopc h o s
  | .brev h o => Sys2Proof.Machine.execBrev h o s
  | .bfx h pos wm1 o => Sys2Proof.Machine.execBfx h pos wm1 o s
  | .bfxu h pos wm1 o => Sys2Proof.Machine.execBfxu h pos wm1 o s
  | .bfi h pos wm1 o => Sys2Proof.Machine.execBfi h pos wm1 o s
  | .lea h sh o => Sys2Proof.Machine.execLea h sh o s
  | .divu h o => Sys2Proof.Machine.execDivu h o s
  | .remu h o => Sys2Proof.Machine.execRemu h o s
  | .iadd h o => Sys2Proof.Machine.execIadd h o s
  | .isub h o => Sys2Proof.Machine.execIsub h o s
  | .imul h o => Sys2Proof.Machine.execImul h o s
  | .imulh h o => Sys2Proof.Machine.execImulh h o s
  | .imad h o => Sys2Proof.Machine.execImad h o s
  | .iabs h o => Sys2Proof.Machine.execIabs h o s
  | .iabsd h o => Sys2Proof.Machine.execIabsd h o s
  | .imin h o => Sys2Proof.Machine.execImin h o s
  | .imax h o => Sys2Proof.Machine.execImax h o s
  | .iminu h o => Sys2Proof.Machine.execIminu h o s
  | .imaxu h o => Sys2Proof.Machine.execImaxu h o s
  | .imaxb h dec o => Sys2Proof.Machine.execImaxb h dec o s
  | .iadds h o => Sys2Proof.Machine.execIadds h o s
  | .isubs h o => Sys2Proof.Machine.execIsubs h o s
  | .iand h o => Sys2Proof.Machine.execIand h o s
  | .ior h o => Sys2Proof.Machine.execIor h o s
  | .ixor h o => Sys2Proof.Machine.execIxor h o s
  | .inot h o => Sys2Proof.Machine.execInot h o s
  | .ishl h o => Sys2Proof.Machine.execIshl h o s
  | .ishr h o => Sys2Proof.Machine.execIshr h o s
  | .isra h o => Sys2Proof.Machine.execIsra h o s
  | .icmp h cc el o => Sys2Proof.Machine.execIcmp h cc el o s
  | .isel h sm sn o => Sys2Proof.Machine.execIsel h sm sn o s
  | .imov h dst x => Sys2Proof.Machine.execImov h dst x s
  | .imovi h dst x => Sys2Proof.Machine.execImovi h dst x s
  | .ipopc h o => Sys2Proof.Machine.execIpopc h o s
  | .iclz h o => Sys2Proof.Machine.execIclz h o s
  | .ibrev h o => Sys2Proof.Machine.execIbrev h o s
  | .ibfx h u pos wm1 o => Sys2Proof.Machine.execIbfx h u pos wm1 o s
  | .ibfi h pos wm1 o => Sys2Proof.Machine.execIbfi h pos wm1 o s
  | .mand h o => Sys2Proof.Machine.execMand h o s
  | .mor h o => Sys2Proof.Machine.execMor h o s
  | .mxor h o => Sys2Proof.Machine.execMxor h o s
  | .mpop h dst sa => Sys2Proof.Machine.execMpop h dst sa s
  | .fadd h o => Sys2Proof.Machine.execFadd h o s
  | .fsub h o => Sys2Proof.Machine.execFsub h o s
  | .fmul h o => Sys2Proof.Machine.execFmul h o s
  | .fma h o => Sys2Proof.Machine.execFma h o s
  | .fmin h o => Sys2Proof.Machine.execFmin h o s
  | .fmax h o => Sys2Proof.Machine.execFmax h o s
  | .fcmp h cc o => Sys2Proof.Machine.execFcmp h cc o s
  | .fabs h neg dst sa => Sys2Proof.Machine.execFabs h neg dst sa s
  | .frnd h o => Sys2Proof.Machine.execFrnd h o s
  | .fcvt h o => Sys2Proof.Machine.execFcvt h o s
  | .fcvtToF32 h o => Sys2Proof.Machine.execFcvtToF32 h o s
  | .fcvti h o => Sys2Proof.Machine.execFcvti h o s
  | .icvtf h o => Sys2Proof.Machine.execIcvtf h o s
  | .fclass h dst sa => Sys2Proof.Machine.execFclass h dst sa s
  | .fscale h o => Sys2Proof.Machine.execFscale h o s
  | .fdot2 h fp16 o => Sys2Proof.Machine.execFdot2 h fp16 o s
  | .fadd2 h o => Sys2Proof.Machine.execFadd2 h o s
  | .fmul2 h o => Sys2Proof.Machine.execFmul2 h o s
  | .fma2 h o => Sys2Proof.Machine.execFma2 h o s
  | .qamax h sub8 dst sa => Sys2Proof.Machine.execQamax h sub8 dst sa s
  | .qscale h dst sa sb => Sys2Proof.Machine.execQscale h dst sa sb s
  | .qpack h part eot o => Sys2Proof.Machine.execQpack h part eot o s
  | .qunpack h qf part o => Sys2Proof.Machine.execQunpack h qf part o s
  | .shfl h dst sa sb => Sys2Proof.Machine.execShfl h dst sa sb s
  | .shflImm h dst sa imm => Sys2Proof.Machine.execShflImm h dst sa imm s
  | .shflx h dst sa b => Sys2Proof.Machine.execShflx h dst sa b s
  | .pushl h dst sa sb => Sys2Proof.Machine.execPushl h dst sa sb s
  | .bcast h dst sa b => Sys2Proof.Machine.execBcast h dst sa b s
  | .getln h dst sa b => Sys2Proof.Machine.execGetln h dst sa b s
  | .setln h dst sa b => Sys2Proof.Machine.execSetln h dst sa b s
  | .red h opk rm dst sa => Sys2Proof.Machine.execRed h opk rm dst sa s
  | .scan h opk rm exc dst sa => Sys2Proof.Machine.execScan h opk rm exc dst sa s
  | .vote h pk seg dst x => Sys2Proof.Machine.execVote h pk seg dst x s
  | .frcp h o => Sys2Proof.Machine.execFrcp h o s
  | .frsq h o => Sys2Proof.Machine.execFrsq h o s
  | .fsqrt h o => Sys2Proof.Machine.execFsqrt h o s
  | .fexp2 h o => Sys2Proof.Machine.execFexp2 h o s
  | .flog2 h o => Sys2Proof.Machine.execFlog2 h o s
  | .fsin h o => Sys2Proof.Machine.execFsin h o s
  | .fcos h o => Sys2Proof.Machine.execFcos h o s
  | .ftanh h o => Sys2Proof.Machine.execFtanh h o s
  | .fdiv h o => Sys2Proof.Machine.execFdiv h o s
  | .ldp h dst sx a => Sys2Proof.Machine.execLdp h dst sx a s
  | .stp h dst a => Sys2Proof.Machine.execStp h dst a s
  | .ldg h dst sx a => Sys2Proof.Machine.execLdg h dst sx a s
  | .stg h dst a => Sys2Proof.Machine.execStg h dst a s
  | .aadd h o => Sys2Proof.Machine.execAadd h o s
  | .aand h o => Sys2Proof.Machine.execAand h o s
  | .aor h o => Sys2Proof.Machine.execAor h o s
  | .axor h o => Sys2Proof.Machine.execAxor h o s
  | .amin h o => Sys2Proof.Machine.execAmin h o s
  | .amax h o => Sys2Proof.Machine.execAmax h o s
  | .aminu h o => Sys2Proof.Machine.execAminu h o s
  | .amaxu h o => Sys2Proof.Machine.execAmaxu h o s
  | .aexch h o => Sys2Proof.Machine.execAexch h o s
  | .acas h o => Sys2Proof.Machine.execAcas h o s
  | .afadd h o => Sys2Proof.Machine.execAfadd h o s
  | .ainc h o => Sys2Proof.Machine.execAinc h o s
  | .fenceAcq h scope => Sys2Proof.Machine.execFenceAcq h scope s
  | .fenceRel h scope => Sys2Proof.Machine.execFenceRel h scope s
  | .fenceAr h scope => Sys2Proof.Machine.execFenceAr h scope s
  | .waitc h o => Sys2Proof.Machine.execWaitc h o s
  | .cntadd h o => Sys2Proof.Machine.execCntadd h o s
  | .yield h o => Sys2Proof.Machine.execYield h o s
  | .dld h dst sa imm => Sys2Proof.Machine.execDld h dst sa imm s
  | .drec h o => Sys2Proof.Machine.execDrec h o s
  | .drecWait h dst o => Sys2Proof.Machine.execDrecWait h dst o s
  | .dwait h b => Sys2Proof.Machine.execDwait h b s
  | .bra h t => Sys2Proof.Machine.execBra h t s
  | .brc h cn neg t => Sys2Proof.Machine.execBrc h cn neg t s
  | .brd h m neg tgt rcv => Sys2Proof.Machine.execBrd h m neg tgt rcv s
  | .join h => Sys2Proof.Machine.execJoin h s
  | .call h dst t => Sys2Proof.Machine.execCall h dst t s
  | .ret h sa => Sys2Proof.Machine.execRet h sa s
  | .loop h dst t => Sys2Proof.Machine.execLoop h dst t s
  | .exit h => Sys2Proof.Machine.execExit h s
  | .nop h len => Sys2Proof.Machine.execNop h len s
  | .bar h n => Sys2Proof.Machine.execBar h n s
  | .trig h => Sys2Proof.Machine.execTrig h s
  | .setfmt h fsel x => Sys2Proof.Machine.execSetfmt h fsel x s
  | .setfmtStatus h x => Sys2Proof.Machine.execSetfmtStatus h x s
  | .getfmt h dst => Sys2Proof.Machine.execGetfmt h dst s
  | .tbase h sa imm => Sys2Proof.Machine.execTbase h sa imm s
  | .twait h o => Sys2Proof.Machine.execTwait h o s
  | .talign h dst sa sb => Sys2Proof.Machine.execTalign h dst sa sb s
  | .trap h code => Sys2Proof.Machine.execTrap h code s
  | .brk h code => Sys2Proof.Machine.execBrk h code s
  | .tvec h x => Sys2Proof.Machine.execTvec h x s
  | .mma h o => Sys2Proof.Machine.execMma h o s
  | .mmas h o => Sys2Proof.Machine.execMmas h o s
  | .tclaim h dst mask => Sys2Proof.Machine.execTclaim h dst mask s
  | .trel h mask => Sys2Proof.Machine.execTrel h mask s
  | .tfill h o => Sys2Proof.Machine.execTfill h o s
  | .accz h tile ofs => Sys2Proof.Machine.execAccz h tile ofs s
  | .accrd h o => Sys2Proof.Machine.execAccrd h o s
  | .accwr h o => Sys2Proof.Machine.execAccwr h o s
  | .cpy h o => Sys2Proof.Machine.execCpy h o s
  | .cpyr h o => Sys2Proof.Machine.execCpyr h o s
  | .cpyk h o => Sys2Proof.Machine.execCpyk h o s
  | .cbatch h dst => Sys2Proof.Machine.execCbatch h dst s
  | .cwait h sa => Sys2Proof.Machine.execCwait h sa s
  | .esp h o => Sys2Proof.Machine.execEsp h o s
  | .lsend h o => Sys2Proof.Machine.execLsend h o s
  | .lrecv h spkg flow sa ofs => Sys2Proof.Machine.execLrecv h spkg flow sa ofs s
  | .lput h o => Sys2Proof.Machine.execLput h o s
  | .lputAtomic h o => Sys2Proof.Machine.execLputAtomic h o s
  | .lget h o => Sys2Proof.Machine.execLget h o s
  | .lred h o => Sys2Proof.Machine.execLred h o s
  | .lmcast h o => Sys2Proof.Machine.execLmcast h o s
  | .lap h dst sa sb eng => Sys2Proof.Machine.execLap h dst sa sb eng s
  | .lapRel h dst sa => Sys2Proof.Machine.execLapRel h dst sa s
  | .lapq h dst sa => Sys2Proof.Machine.execLapq h dst sa s
  | .sysr h dst srn => Sys2Proof.Machine.execSysr h dst srn s
  | .sysw h sa srn => Sys2Proof.Machine.execSysw h sa srn s
  | .tret h => Sys2Proof.Machine.execTret h s
  | .trim h x => Sys2Proof.Machine.execTrim h x s
  | .ctxsv h force dst sa sb sc => Sys2Proof.Machine.execCtxsv h force dst sa sb sc s
  | .ctxld h dst sa sb => Sys2Proof.Machine.execCtxld h dst sa sb s
  | .leaseGrant h dst sa => Sys2Proof.Machine.execLeaseGrant h dst sa s
  | .leaseRelease h dst sa => Sys2Proof.Machine.execLeaseRelease h dst sa s
  | .leaseRevoke h dst sa => Sys2Proof.Machine.execLeaseRevoke h dst sa s
  | .pown h dst sa sb => Sys2Proof.Machine.execPown h dst sa sb s
  | .wdog h sa sb => Sys2Proof.Machine.execWdog h sa sb s
  | .haltWait h => Sys2Proof.Machine.execHaltWait h s
  | .haltPkg h => Sys2Proof.Machine.execHaltPkg h s
  | .lateEventClear tr => Sys2Proof.Machine.execLateEventClear tr s
  | .registerLanding tr => Sys2Proof.Machine.execRegisterLanding tr s
  | .poolWriteLanding tr => Sys2Proof.Machine.execPoolWriteLanding tr s
  | .sfuEntryStart tr => Sys2Proof.Machine.execSfuEntryStart tr s
  | .columnEntryStart tr => Sys2Proof.Machine.execColumnEntryStart tr s
  | .matrixKstep tr => Sys2Proof.Machine.execMatrixKstep tr s
  | .engineOutputLanding tr => Sys2Proof.Machine.execEngineOutputLanding tr s
  | .lredReceive tr => Sys2Proof.Machine.execLredReceive tr s
  | .checkFaultTaken slot => Sys2Proof.Machine.execCheckFaultTaken slot s
  | .alignmentRelease tr => Sys2Proof.Machine.execAlignmentRelease tr s
  | .quantumBoundary tr => Sys2Proof.Machine.execQuantumBoundary tr s
  | .errorConsumption tr page => Sys2Proof.Machine.execErrorConsumption tr page s
  | .pauseOverrun tr => Sys2Proof.Machine.execPauseOverrun tr s
  | .governorCheck power draws => Sys2Proof.Machine.execGovernorCheck power draws s
  | .teamPlacement tr => Sys2Proof.Machine.execTeamPlacement tr s
  | .yieldRestore tr => Sys2Proof.Machine.execYieldRestore tr s
  | .teamEnd tr team => Sys2Proof.Machine.execTeamEnd tr team s
  | .watchdogExpiry tr team => Sys2Proof.Machine.execWatchdogExpiry tr team s
  | .drainDeadline req => Sys2Proof.Machine.execDrainDeadline req s
  | .contextRestore req => Sys2Proof.Machine.execContextRestore req s
  | .fansEnd ix => Sys2Proof.Machine.execFansEnd ix s
  | .fansResume ix => Sys2Proof.Machine.execFansResume ix s
  | .loopTokenArrival pos tokenBc malformed => Sys2Proof.Machine.execLoopTokenArrival pos tokenBc malformed s
  | .recordWrite r crcOk => Sys2Proof.Machine.execRecordWrite r crcOk s
  | .recordAdd r crcOk => Sys2Proof.Machine.execRecordAdd r crcOk s
  | .recordSetz r crcOk => Sys2Proof.Machine.execRecordSetz r crcOk s
  | .recordCas r crcOk => Sys2Proof.Machine.execRecordCas r crcOk s
  | .recordLaunch r crcOk => Sys2Proof.Machine.execRecordLaunch r crcOk s
  | .recordTmap r crcOk => Sys2Proof.Machine.execRecordTmap r crcOk s
  | .recordRecov r crcOk => Sys2Proof.Machine.execRecordRecov r crcOk s
  | .recordNote op r crcOk => Sys2Proof.Machine.execRecordNote op r crcOk s
  | .rejoinRequest member => Sys2Proof.Machine.execRejoinRequest member s
  | .dialTransfer m dial => Sys2Proof.Machine.execDialTransfer m dial s
  | .cellSend port => Sys2Proof.Machine.execCellSend port s
  | .cellArrival c crcOk => Sys2Proof.Machine.execCellArrival c crcOk s
  | .leafManagementWrite v => Sys2Proof.Machine.execLeafManagementWrite v s
  | .leafAckArrival err => Sys2Proof.Machine.execLeafAckArrival err s
  | .hallFrameSend plane => Sys2Proof.Machine.execHallFrameSend plane s
  | .hallReplyArrival f err => Sys2Proof.Machine.execHallReplyArrival f err s
  | .hallRequestArrival f => Sys2Proof.Machine.execHallRequestArrival f s
  | .hallRetryTimeout plane tag => Sys2Proof.Machine.execHallRetryTimeout plane tag s
  | .queueMap slot qcb prio rclass owner => Sys2Proof.Machine.execQueueMap slot qcb prio rclass owner s
  | .queueRemap slot => Sys2Proof.Machine.execQueueRemap slot s
  | .queueLaunchEntry slot => Sys2Proof.Machine.execQueueLaunchEntry slot s
  | .queueWaitEntry slot => Sys2Proof.Machine.execQueueWaitEntry slot s
  | .queueAddEntry slot => Sys2Proof.Machine.execQueueAddEntry slot s
  | .queueNopEntry slot => Sys2Proof.Machine.execQueueNopEntry slot s
  | .launchStart launch => Sys2Proof.Machine.execLaunchStart launch s
  | .launchEnd tr => Sys2Proof.Machine.execLaunchEnd tr s
  | .leaseGrantComplete desc => Sys2Proof.Machine.execLeaseGrantComplete desc s
  | .revokeUnpin desc => Sys2Proof.Machine.execRevokeUnpin desc s
  | .hpolWrite owner v => Sys2Proof.Machine.execHpolWrite owner v s
  | .clusterRemovalComplete owner => Sys2Proof.Machine.execClusterRemovalComplete owner s
  | .lapDrain lap => Sys2Proof.Machine.execLapDrain lap s
  | .scrubPass corrected poisoned => Sys2Proof.Machine.execScrubPass corrected poisoned s
  | .companionRead owner addr len => Sys2Proof.Machine.execCompanionRead owner addr len s
  | .companionWrite owner addr data => Sys2Proof.Machine.execCompanionWrite owner addr data s
  | .training fail => Sys2Proof.Machine.execTraining fail s
  | .sraddrRead srn => Sys2Proof.Machine.execSraddrRead srn s
  | .sraddrWrite srn => Sys2Proof.Machine.execSraddrWrite srn s
  | .registerWrite offset v => Sys2Proof.Machine.execRegisterWrite offset v s
  | .fuseProgramComplete failed => Sys2Proof.Machine.execFuseProgramComplete failed s
  | .remoteLeaseRequest page count owner kind cls holder => Sys2Proof.Machine.execRemoteLeaseRequest page count owner kind cls holder s
  | .vcAdvance => Sys2Proof.Machine.execVcAdvance s
  | .tokenLoss => Sys2Proof.Machine.execTokenLoss s
  | .tokenRegenerate => Sys2Proof.Machine.execTokenRegenerate s
  | .bucketRefill => Sys2Proof.Machine.execBucketRefill s
  | .powerOn => Sys2Proof.Machine.execPowerOn s
  | .powerRemove => Sys2Proof.Machine.execPowerRemove s
  | .bootctlGo => Sys2Proof.Machine.execBootctlGo s
  | .bootctlNonce => Sys2Proof.Machine.execBootctlNonce s
  | .joinTokenTimeout => Sys2Proof.Machine.execJoinTokenTimeout s
  | .joinFailTimeout => Sys2Proof.Machine.execJoinFailTimeout s
  | .fusecProgram => Sys2Proof.Machine.execFusecProgram s
  | .thermalPause => Sys2Proof.Machine.execThermalPause s
  | .thermalResume => Sys2Proof.Machine.execThermalResume s
  | .thermalTrip => Sys2Proof.Machine.execThermalTrip s
  | .powerTrip => Sys2Proof.Machine.execPowerTrip s

end Sys2Proof.Machine
end

