-- ==== Sys2Proof/Machine/Drive.lean ====
section
/-!
DEFINITION. One step's work around `exec`: inputs, issues of compute groups, instructions of command cores, and the search for
team-ending faults of a vc (spec/00_scope.md R1, spec/02_execution_model.md R45 to R49, spec/17_privilege_traps_preemption.md R363,
R368, spec/20_reliability_laps_replay.md R432).
-/

namespace Sys2Proof.Machine

/-- An outcome with a further change of the next state. -/
def thenDo (o : Host.Outcome State Fault Refusal) (f : State → State) : Host.Outcome State Fault Refusal :=
  match o with
  | .next s => .next (f s)
  | .fault r => .fault r
  | .refused r => .refused r

/-- The state of an outcome, or a given one where there is none. -/
def stateOf (o : Host.Outcome State Fault Refusal) (s : State) : State :=
  match o with
  | .next s' => s'
  | .fault _ => s
  | .refused _ => s

/-- No issuer. -/
def State.idle (s : State) : State := { s with cur := {} }

/-! ### Issues of compute groups -/

/-- The poisoned page that an issue would fetch from, where the address, its window and its lease allow the fetch. -/
def State.poisonedCode (s : State) : Option Nat :=
  let a := s.cur.addr.toNat
  if badTarget s.cur.addr then none
  else match translate s.myTrain.desc [permX] false a 8 with
  | none => none
  | some x =>
    if pePsn (s.page (pageOf x.ia)) && leaseOk s.myTrain s.myTeam.idx .load a 8 x.ia then some (pageOf x.ia) else none

/-- The fetch of a page that fails its checks counts as an owner mismatch (R394). -/
def State.countFetch (s : State) : State :=
  let a := s.cur.addr.toNat
  if badTarget s.cur.addr then s
  else match translate s.myTrain.desc [permX] false a 8 with
  | none => s
  | some x => if leaseOk s.myTrain s.myTeam.idx .load a 8 x.ia then s.countMisses s.myTrain.owner [pageOf x.ia] else s

/-- After a fetched instruction's effect: its post-issue delay and the end of its run. -/
def State.afterIssue (i : Instr) (w : Nat) (s : State) : State :=
  (s.issued (Raw.ofNat w).d ((Raw.ofNat w).e || i.endsRun)).idle

/-- An issue from a slot: poisoned code is consumed; an instruction that cannot be fetched or decoded faults; any other executes. -/
def State.issueFrom (s : State) (slot : Nat) : Host.Outcome State Fault Refusal :=
  let s := { s with cur := s.context slot }
  match s.poisonedCode with
  | some p => .next (s.modTrain s.cur.train fun t => { t with bad := t.bad ++ [(t.clk, p, s.cur.key)] }).idle
  | none =>
    let s := s.countFetch
    match s.decodeAt s.cur.addr with
    | .error f => .next ((s.raise f).issued 0 true).idle
    | .ok (i, w, n) => thenDo (exec i (s.fetched w n)) (State.afterIssue i w)

/-- Every given slot issues, one after another. -/
def State.tryIssues (s : State) (slots : List Nat) : State := slots.foldl (fun x k => stateOf (x.issueFrom k) x) s

def State.slotTeam (s : State) (slot : Nat) : Nat := (s.group (s.issueSlot slot).key).team

/-- The faults that the issues of a vc raise in it, found in copies of the state. The slots of a team that ends issue in no later
copy; `ended` holds the teams found so far. TALIGNs that fault together are looked at last: they fault only where each of them would
have issued. -/
def State.issueFaults (s : State) (tr : Nat) : Nat → List Nat → List Nat → List FaultRec
  | 0, _, _ => []
  | n + 1, ended, slots =>
    let t := s.train tr
    let new := (((s.tryIssues slots).train tr).faults.drop t.faults.length).filter fun r => r.p ≤ t.clk && !ended.contains r.team
    match new.find? fun r => r.endsTeam && !r.align with
    | none => new
    | some f =>
      new.filter (fun r => r.team == f.team && !r.align) ++
      State.issueFaults s tr n (f.team :: ended) (slots.filter fun k => s.slotTeam k != f.team)

/-- The faults of a vc's issues are raised, and the slots of the faulting groups and of the teams that end issue nothing. -/
def State.survey (s : State) (tr : Nat) : State :=
  let slots := s.dueSlots tr
  let old := ((s.dueFaults tr).filter FaultRec.endsTeam).map (·.team)
  let new := s.issueFaults tr (slots.length + 2) old (slots.filter fun k => !old.contains (s.slotTeam k))
  let ended := old ++ (new.filter FaultRec.endsTeam).map (·.team)
  let stops (k : Nat) : Bool := ended.contains (s.slotTeam k) || new.any fun r => r.key == (s.issueSlot k).key
  let s := s.modTrain tr fun t => { t with surveyed := true, faults := t.faults ++ new }
  (slots.filter stops).foldl State.dropIssue s

/-! ### Instructions of command cores -/

/-- One instruction of a command core, where it can execute. -/
def State.runCommand (s : State) (k : Nat) : Host.Outcome State Fault Refusal :=
  let s := s.pollRecord k
  if s.commandRuns k then
    let s := { s with cur := s.commandContext k }
    match s.decodeAt s.cur.addr with
    | .error f => .next (s.raise f).idle
    | .ok (i, w, n) => thenDo (exec i (s.fetched w n)) State.idle
  else .next s

/-! ### Inputs and work -/

/-- A corrected error is counted for the tenant whose structure it is in, in bank 0 where it belongs to no tenant (R408, R409, R431). -/
def State.countCorrected (s : State) (kind core : Nat) : State :=
  match kind with
  | 0 => s.bumpOwner (s.tenantOf (core / 8)) 0
  | 1 => s.bumpOwner (s.tenantOf (core / 8)) 1
  | 2 => s.bump 0 2
  | _ => s.bump 0 10

/-- An uncorrectable error in a Dial word: it is counted, and a member leaves the pod and rebuilds its Dial (R432). -/
def State.dialWordError (s : State) : State :=
  let s := s.bump 0 10
  if s.pod.inPod then s.leavePod else s

def State.perform (s : State) : Input → Host.Outcome State Fault Refusal
  | .op i => exec i s
  | .late tr pkg => .next (s.modTrain tr fun t => { t with holds := t.holds ++ [(t.clk, Hold.physical pkg)] })
  | .command k => if k < 16 then s.runCommand k else .fault (.noCommandCore k)
  | .remote owner a bs => .next (s.homeWrite owner a bs)
  | .remoteGrant q page n cls entry => .next (s.remoteGrant q page n cls (BitVec.ofNat 64 entry))
  | .policy o ws => .next (s.writePolicy o (policyOf ws))
  | .companion a bs => .next (s.compPut a bs)
  | .sponsor pos => .next { s with pod := { s.pod with chosen := pos } }
  | .record bs => .next (s.receive (recordOf bs).op (recordOf bs).rcd (recordOk bs))
  | .cell bs => .next (s.cellArrives (cellOf bs) (cellOk bs))
  | .reduced k cells => .next (s.reducedArrives k cells)
  | .payloadLate port slot n => .next (s.delayPayload port slot n)
  | .frame bs err => .next (s.frameArrives bs err)
  | .corrected kind core => .next (s.countCorrected kind core)
  | .dialError => .next s.dialWordError
  | .asideError gen p => .next (s.spoilAside gen p)

/-- An input is consumed. -/
def State.takeInput (s : State) (p : Nat × Input) : Host.Outcome State Fault Refusal :=
  { s with inputs := eraseFirst (fun q => q == p) s.inputs }.perform p.2

def State.doWork (s : State) : Work → Host.Outcome State Fault Refusal
  | .event i => exec i s
  | .issue slot => s.issueFrom slot
  | .survey tr => .next (s.survey tr)
  | .settle tr => .next (s.settleFaults tr)

/-- Whether an outcome leaves a write without a frame for a copy set aside (R434): only where a lap is open. -/
def State.lacksFrame (s : State) (o : Host.Outcome State Fault Refusal) : Bool := !s.mem.laps.isEmpty && (stateOf o s).mem.starved

/-- The first input whose time has come; one whose write finds no frame waits until a frame frees (DESIGN CHOICE,
notes/assumptions/100.md). -/
def State.dueInput (s : State) : Option (Nat × Input) := s.inputs.find? fun p => p.1 ≤ s.time && !s.lacksFrame (s.takeInput p)

/-- The first work that is due now: of a train, else of the package, whose work waits likewise for the frame that a write of it needs. -/
def State.dueWork (s : State) : Option Work :=
  match s.grid.trains.findSome? fun p => s.trainWork p.1 with
  | some w => some w
  | none => firstWork (s.packageWorks.map fun f => fun _ => (f ()).filter fun w => !s.lacksFrame (s.doWork w))

/-! ### An instruction placed where the next step fetches -/

/-- The bytes of a word of the opcode table. -/
def tableBytes (nbits w : Nat) : List Byte := leBytes 16 (w % 2 ^ nbits)

/-- The address of the placed code, and the package's intermediate page 1, which holds it. -/
def placedVa : Nat := 0x8000
def placedPage (s : State) : Nat := s.pkg * 2 ^ 34 + 1

/-- A launch of one conductor group of 64 lanes and 256 registers, whose first 16 pages are code and data. -/
def placedDesc (s : State) : Desc :=
  { nc := 1, centry := BitVec.ofNat 48 placedVa, callot := 256, code := BitVec.ofNat 48 placedVa, part := 0x0404
    windows := [(BitVec.ofNat 64 (2 ^ 32 * 16), BitVec.ofNat 64 (placedPage s + 2 ^ 41 * 31 + 2 ^ 46 * 2))]
    foots := [{ vbase := 0, size := 1048576, kind := 3, cls := 0, stride := 0 }] }

/-- The grid while only that launch runs, its group about to issue. -/
def placedGrid (s : State) : Grid :=
  let d := placedDesc s
  let t : Train := { live := true, launch := 1, owner := 1, desc := d, cores := [0], clk := 1, vc := 0, qstart := 1, nextTeam := 1 }
  let tm : Team := { live := true, train := 0, groups := 1, conductors := 1, carve := [(0, 140, 4)] }
  { trains := [(0, t)], teams := [(teamKey 0 0, tm)], groups := [(groupKey 0 0 0, newGroup d 0 0 0 0 0)]
    issue := [(issueKey 0 0 0, { busy := true, key := groupKey 0 0 0, next := 1 })], nextTrain := 1 }

/-- The sixteen pages are resident and owned by tenant 1. -/
def placedPages (s : State) : List (Nat × W64) :=
  (List.range 16).map fun i => (placedPage s + i, BitVec.ofNat 64 (2 ^ 52 + 2 ^ 45 * 2 + 2 ^ 41 + 2 ^ 16 * (i + 1)))

/-- The instruction stands where a compute group issues next. -/
def State.placeCompute (s : State) (bs : List Byte) : State :=
  let ia := placedPage s * 65536 + placedVa
  { s with
    inputs := [], cur := {}, grid := placedGrid s, sys := { s.sys with thermal := false }
    mem := { s.mem with
      home := Memory.put s.mem.home ia bs
      cview := Memory.put s.mem.cview (viewKey 0 ia) bs
      pview := Memory.put s.mem.pview (viewKey 0 ia) bs
      pages := Sp.puts 0 s.mem.pages (placedPages s) } }

/-- The instruction stands at the start of SRAM, where command core 0, at M-level, executes next. -/
def State.placeCommand (s : State) (bs : List Byte) : State :=
  let start : PcSlot := { pc := BitVec.ofNat 48 sramBase, mask := laneMask 16 }
  let g := { commandGroup 0 with pri := start }
  let s := (s.setGroup 0 g).setCmdCore 0 { (s.cmdCore 0) with on := true, level := 2, waiting := false }
  { s with
    inputs := [(s.time, .command 0)], cur := {}, sys := { s.sys with boot := bootReady }
    pod := { s.pod with stopped := false }
    mem := { s.mem with priv := Memory.put s.mem.priv sramBase bs } }

/-- Class 7 instructions stand on command core 0, but for SYSR of a register that programs read; all others on a compute core. -/
def State.placeWord (s : State) (bs : List Byte) : State :=
  let r := Raw.ofNat (leNat bs)
  if r.cls = 7 && !(r.op = 0 && programReads r.mod) then s.placeCommand bs else s.placeCompute bs

end Sys2Proof.Machine
end

