-- ==== Sys2Proof/Machine/Step.lean ====
section
/-!
DEFINITION. One step: the first input whose time has come, else the first work that is due, else one bc and one vc pass
(spec/00_scope.md R1, spec/02_execution_model.md R46, R53).
-/

namespace Sys2Proof.Machine

def step (s : State) : Host.Outcome State Fault Refusal :=
  match s.dueInput with
  | some p => s.takeInput p
  | none =>
    match s.dueWork with
    | some w => s.doWork w
    | none => exec .vcAdvance s

/-- The state with an instruction of the opcode table where the next step fetches it (DESIGN CHOICE,
notes/assumptions/1.md). -/
def State.withFetchWord (s : State) (nbits w : Nat) : State := s.placeWord (tableBytes nbits w)

end Sys2Proof.Machine
end

