-- ==== Sys2Proof/Safety.lean ====
section
/-!
DEFINITION. The terms of the claims: when an instruction may issue, where its result lands, a lane's value, and what stays true of
every state.
-/

namespace Sys2Proof.Machine

/-- Nothing that an instruction itself names stops it: vector registers `vs` within the allotment (R71), a place in its run (R45), and
no pending write of a destination `ds` (R50); the last two do not bind a command core (R363). -/
def State.ready (s : State) (vs : List Nat) (ds : List Dst) : Prop :=
  (∀ v ∈ vs, v < s.me.allot) ∧ (s.cur.cmd = true ∨ (s.issueSlot s.cur.slot).count < 24) ∧
  (s.cur.cmd = true ∨ ∀ d ∈ ds, s.isPending d = false)

/-- The results `ws` of one instruction: they land `lat` vc after issue (R49), and at once on a command core (R363). Nothing else
changes. -/
def State.result (s : State) (lat : Nat) (ws : List Landing) : State :=
  if s.cur.cmd then ws.foldl (fun t w => t.land s.cur.key w) s
  else
    { s with grid := { s.grid with
        pend := s.grid.pend ++ ws.map fun w => { train := s.cur.train, due := s.now + lat, key := s.cur.key, what := w } } }

/-- A value for every active lane (R73). -/
def State.perLane {α : Type} (s : State) (h : Head) (f : Nat → α) : List (Nat × α) :=
  (lanesOf s.me.width (s.active h)).map fun l => (l, f l)

/-- A lane of a vector register of the issuing group. -/
def State.v (s : State) (r l : Nat) : W32 := s.me.readVec r l

/-- Element `j` of a lane of a vector register, `w` bits wide (R251). -/
def State.elem (s : State) (w r l j : Nat) : Nat := bitsOf (s.v r l).toNat (w * j) w

/-- A scalar result of an instruction predicated by a condition: written only where it executes (R73). -/
def State.scalarResult (s : State) (h : Head) (lat dst : Nat) (x : W64) : State :=
  s.result lat [s.scalarDst dst (if s.holds h then some x else none)]

/-- An access of a compute core that passes R130 and R139: aligned, inside a window with the permission, and leased for its use. -/
def State.reaches (s : State) (u : Use) (perm va n align : Nat) : Prop :=
  va % align = 0 ∧ (s.xlat [perm] va n).isSome = true ∧ s.leased u va n = true

/-- An access of a command core that its level, PMP and address map allow (R364, R446). -/
def State.cmdReaches (s : State) (perm a n align : Nat) : Prop := s.cmdAccess perm a n = none ∧ a % align = 0

/-- The results of a load or atomic, per active lane: a register, or a pair for 64 bits (R282). -/
def State.loadLandings (s : State) (h : Head) (sz dst : Nat) (f : Nat → Nat) : List Landing :=
  .vec dst (s.perLane h fun l => BitVec.ofNat 32 (f l)) ::
    if sz = 3 then [.vec (dst + 1) (s.perLane h fun l => BitVec.ofNat 32 (f l / 2 ^ 32))] else []

/-- Lane `l` of a store's or atomic's data (R280). -/
def State.dataLane (s : State) (sz r l : Nat) : Nat :=
  (s.v r l).toNat + if sz = 3 then 2 ^ 32 * (s.v (r + 1) l).toNat else 0

/-- The active lanes, ascending. -/
def State.live (s : State) (h : Head) : List Nat := lanesOf s.me.width (s.active h)

/-- The range of BAL.TRM (R169, R386). -/
def State.trimmed (s : State) : Prop := -100000 ≤ s.pod.trm ∧ s.pod.trm ≤ 100000

/-- The byte memories and views are in canonical form, and so are the copies that laps set aside and the pools and slots that saved trains
left behind. -/
def State.canonical (s : State) : Prop :=
  Memory.wf s.mem.home ∧ Memory.wf s.mem.comp ∧ Memory.wf s.mem.priv ∧ Memory.wf s.mem.cview ∧ Memory.wf s.mem.pview ∧
  Memory.wf s.grid.pool ∧ Memory.wf s.grid.slots ∧ (∀ l ∈ s.mem.laps, Memory.wf l.aside) ∧
  ∀ p ∈ s.grid.trains, Memory.wf p.2.left.pool ∧ Memory.wf p.2.left.slots

/-- An instruction that writes element `j` of every active lane `l` of `dst` with `f l j`, `lat` vc after issue, and does nothing
else. -/
def Elementwise (i : Instr) (s : State) (h : Head) (lat pk dst : Nat) (f : Nat → Nat → Nat) : Prop :=
  ∃ v : Nat → W32, exec i s = .next (s.result lat [.vec dst (s.perLane h v)]) ∧
    ∀ l < s.me.width, ∀ j < elems pk, bitsOf (v l).toNat (elemWidth pk * j) (elemWidth pk) = f l j

/-- The GSTAT landing of the flags that the active lanes raise; none where they raise none (R84). -/
def State.flagLanding (s : State) (h : Head) (f : Nat → Nat) : List Landing :=
  let u := (lanesOf s.me.width (s.active h)).foldl (fun acc l => orFlags acc (f l)) 0
  if u = 0 then [] else [.gstatSet (BitVec.ofNat 32 u)]

/-- The results of a float instruction: a value and its flags for every active lane. -/
def State.floatLandings (s : State) (h : Head) (dst : Nat) (f : Nat → Nat × Nat) : List Landing :=
  .vec dst (s.perLane h fun l => BitVec.ofNat 32 (f l).1) :: s.flagLanding h fun l => (f l).2

end Sys2Proof.Machine

namespace Sys2Proof
open Machine

/-- A lane of the second source of a vector instruction (R255). -/
def VSrc.lane (s : State) (l : Nat) : VSrc → W32
  | .reg n => s.v n l
  | .imm x => x

/-- The address of lane `l` (R280). -/
def MAddr.lane (a : MAddr) (s : State) (l : Nat) : Nat :=
  let off : Int := if a.nov then 0 else if a.vs then (s.v a.sb l).toInt else (s.v a.sb l).toNat
  let imm : Int := match a.imm with
    | some x => x.toInt
    | none => 0
  (((s.scalar a.sa).toNat + off * (2 ^ a.sh : Nat) + imm) % (2 ^ 64 : Nat)).toNat

/-- An instruction word, not an event of the machine. -/
def Instr.isWord (i : Instr) : Bool := (encode i).isSome

end Sys2Proof
end

