-- ==== Sys2Proof/Laws/Maps.lean ====
section
/-!
SUPPORT. Laws of the sparse maps: read after write, and every operation keeps the canonical form.
-/

namespace Sys2Proof.Machine

variable {α : Type}

@[simp] theorem Sp.get_nil (d : α) (a : Nat) : Sp.get d [] a = d := rfl

theorem Sp.get_cons (d : α) (k : Nat) (x : α) (m : List (Nat × α)) (a : Nat) :
    Sp.get d ((k, x) :: m) a = if k = a then x else Sp.get d m a := rfl

theorem Sp.get_absent (d : α) (m : List (Nat × α)) (a : Nat) (h : ∀ p ∈ m, p.1 ≠ a) : Sp.get d m a = d := by
  induction m with
  | nil => rfl
  | cons p m ih =>
    rw [Sp.get_cons, if_neg (h p (by simp)), ih fun q hq => h q (by simp [hq])]

theorem Sp.get_append (d : α) (m n : List (Nat × α)) (a : Nat) (h : ∀ p ∈ m, p.1 ≠ a) :
    Sp.get d (m ++ n) a = Sp.get d n a := by
  induction m with
  | nil => rfl
  | cons p m ih =>
    rw [List.cons_append, Sp.get_cons, if_neg (h p (by simp)), ih fun q hq => h q (by simp [hq])]

theorem Sp.get_append_absent (d : α) (m n : List (Nat × α)) (a : Nat) (h : ∀ p ∈ n, p.1 ≠ a) :
    Sp.get d (m ++ n) a = Sp.get d m a := by
  induction m with
  | nil => simpa using Sp.get_absent d n a h
  | cons p m ih =>
    obtain ⟨k, x⟩ := p
    simp only [List.cons_append, Sp.get_cons, ih]

theorem Sp.get_filter (d : α) (m : List (Nat × α)) (f : Nat × α → Bool) (a : Nat) (h : ∀ x, f (a, x) = true) :
    Sp.get d (m.filter f) a = Sp.get d m a := by
  induction m with
  | nil => rfl
  | cons p m ih =>
    by_cases e : p.1 = a
    · have : f p = true := by rw [← h p.2, ← e]
      simp [this, Sp.get, e]
    · by_cases k : f p = true <;> simp [k, Sp.get, e, ih]

theorem Sp.entries_key [DecidableEq α] (d : α) (xs : List α) (base : Nat) :
    ∀ p ∈ Sp.entries d base xs, base ≤ p.1 ∧ p.1 < base + xs.length ∧ p.2 ≠ d := by
  induction xs generalizing base with
  | nil => simp [Sp.entries]
  | cons x xs ih =>
    intro p hp
    have step : p ∈ Sp.entries d (base + 1) xs → base ≤ p.1 ∧ p.1 < base + (x :: xs).length ∧ p.2 ≠ d := by
      intro k
      have := ih (base + 1) p k
      simp only [List.length_cons]
      exact ⟨by omega, by omega, this.2.2⟩
    by_cases e : x = d
    · simp only [Sp.entries, e, if_true] at hp
      exact step hp
    · simp only [Sp.entries, e, if_false, List.mem_cons] at hp
      rcases hp with rfl | hp
      · exact ⟨by simp, by simp, e⟩
      · exact step hp

theorem Sp.get_entries [DecidableEq α] (d : α) (xs : List α) (base i : Nat) (h : i < xs.length) :
    Sp.get d (Sp.entries d base xs) (base + i) = xs[i] := by
  induction xs generalizing base i with
  | nil => simp at h
  | cons x xs ih =>
    cases i with
    | zero =>
      by_cases e : x = d
      · simp only [Sp.entries, e, if_true, Nat.add_zero, List.getElem_cons_zero]
        exact Sp.get_absent d _ _ fun p hp => by have := Sp.entries_key d xs (base + 1) p hp; omega
      · simp [Sp.entries, e, Sp.get]
    | succ i =>
      have k := ih (base + 1) i (by simpa using h)
      have r : base + (i + 1) = base + 1 + i := by omega
      by_cases e : x = d
      · simp only [Sp.entries, e, if_true, r, k, List.getElem_cons_succ]
      · simp only [Sp.entries, e, if_false, Sp.get, r, k, List.getElem_cons_succ]
        rw [if_neg (by omega)]

/-- A value outside the written range reads as before. -/
theorem Sp.get_put_other [DecidableEq α] (d : α) (m : List (Nat × α)) (base : Nat) (xs : List α) (a : Nat)
    (h : a < base ∨ base + xs.length ≤ a) : Sp.get d (Sp.put d m base xs) a = Sp.get d m a := by
  unfold Sp.put
  rcases h with h | h
  · rw [List.append_assoc, Sp.get_append_absent, Sp.get_filter]
    · intro x; simpa using h
    · intro p hp
      rcases List.mem_append.1 hp with hp | hp
      · have := Sp.entries_key d xs base p hp; omega
      · have := (List.mem_filter.1 hp).2; simp at this; omega
  · rw [Sp.get_append, Sp.get_filter]
    · intro x; simpa using h
    · intro p hp
      rcases List.mem_append.1 hp with hp | hp
      · have := (List.mem_filter.1 hp).2; simp at this; omega
      · have := Sp.entries_key d xs base p hp; omega

/-- A written value reads back. -/
theorem Sp.get_put_same [DecidableEq α] (d : α) (m : List (Nat × α)) (base : Nat) (xs : List α) (i : Nat) (h : i < xs.length) :
    Sp.get d (Sp.put d m base xs) (base + i) = xs[i] := by
  unfold Sp.put
  rw [Sp.get_append_absent, Sp.get_append, Sp.get_entries d xs base i h]
  · intro p hp
    have := (List.mem_filter.1 hp).2
    simp at this; omega
  · intro p hp
    have := (List.mem_filter.1 hp).2
    simp at this; omega

@[simp] theorem Sp.get_set [DecidableEq α] (d : α) (m : List (Nat × α)) (k : Nat) (x : α) (a : Nat) :
    Sp.get d (Sp.set d m k x) a = if a = k then x else Sp.get d m a := by
  unfold Sp.set
  by_cases e : a = k
  · subst e
    simpa using Sp.get_put_same d m a [x] 0 (by simp)
  · rw [if_neg e, Sp.get_put_other]
    simp only [List.length_singleton]; omega

theorem Sp.get_window (d : α) (m : List (Nat × α)) (base n a : Nat) (h : base ≤ a) (k : a < base + n) :
    Sp.get d (Sp.window m base n) a = Sp.get d m a := by
  unfold Sp.window
  rw [Sp.get_filter]
  simp [h, k]

theorem Sp.range_eq (d : α) (m : List (Nat × α)) (base n : Nat) :
    Sp.range d m base n = (List.range n).map fun i => Sp.get d m (base + i) := by
  unfold Sp.range
  apply List.map_congr_left
  intro i hi
  exact Sp.get_window d m base n (base + i) (by omega) (by have := List.mem_range.1 hi; omega)

@[simp] theorem Sp.range_length (d : α) (m : List (Nat × α)) (base n : Nat) : (Sp.range d m base n).length = n := by
  simp [Sp.range_eq]

/-! ### The canonical form -/

theorem Sp.wf_nil (d : α) : Sp.Wf d ([] : List (Nat × α)) := ⟨List.Pairwise.nil, fun _ h => nomatch h⟩

theorem Sp.wf_filter (d : α) (m : List (Nat × α)) (f : Nat × α → Bool) (h : Sp.Wf d m) : Sp.Wf d (m.filter f) :=
  ⟨h.1.filter f, fun p hp => h.2 p (List.mem_filter.1 hp).1⟩

theorem Sp.wf_append (d : α) (m n : List (Nat × α)) (c : Nat) (hm : Sp.Wf d m) (hn : Sp.Wf d n) (lo : ∀ p ∈ m, p.1 < c)
    (hi : ∀ p ∈ n, c ≤ p.1) : Sp.Wf d (m ++ n) := by
  refine ⟨List.pairwise_append.2 ⟨hm.1, hn.1, fun p hp q hq => ?_⟩, fun p hp => ?_⟩
  · have := lo p hp
    have := hi q hq
    omega
  · rcases List.mem_append.1 hp with hp | hp
    · exact hm.2 p hp
    · exact hn.2 p hp

theorem Sp.wf_entries [DecidableEq α] (d : α) (xs : List α) (base : Nat) : Sp.Wf d (Sp.entries d base xs) := by
  induction xs generalizing base with
  | nil => exact Sp.wf_nil d
  | cons x xs ih =>
    by_cases e : x = d
    · simpa only [Sp.entries, e, if_true] using ih (base + 1)
    · simp only [Sp.entries, e, if_false]
      refine ⟨List.pairwise_cons.2 ⟨fun q hq => ?_, (ih (base + 1)).1⟩, fun p hp => ?_⟩
      · have := Sp.entries_key d xs (base + 1) q hq; simp only; omega
      · rcases List.mem_cons.1 hp with rfl | hp
        · exact e
        · exact (ih (base + 1)).2 p hp

/-- A range replaced by canonical entries within it. -/
theorem Sp.wf_graft (d : α) (m w : List (Nat × α)) (base n : Nat) (hm : Sp.Wf d m) (hw : Sp.Wf d w)
    (within : ∀ p ∈ w, base ≤ p.1 ∧ p.1 < base + n) : Sp.Wf d (Sp.graft m w base n) := by
  unfold Sp.graft
  refine Sp.wf_append d _ _ (base + n) (Sp.wf_append d _ _ base (Sp.wf_filter d m _ hm) hw ?_ ?_) (Sp.wf_filter d m _ hm) ?_ ?_
  · intro p hp; simpa using (List.mem_filter.1 hp).2
  · intro p hp; exact (within p hp).1
  · intro p hp
    rcases List.mem_append.1 hp with hp | hp
    · have := (List.mem_filter.1 hp).2
      simp at this; omega
    · exact (within p hp).2
  · intro p hp; simpa using (List.mem_filter.1 hp).2

theorem Sp.wf_put [DecidableEq α] (d : α) (m : List (Nat × α)) (base : Nat) (xs : List α) (h : Sp.Wf d m) :
    Sp.Wf d (Sp.put d m base xs) :=
  Sp.wf_graft d m (Sp.entries d base xs) base xs.length h (Sp.wf_entries d xs base)
    fun p hp => ⟨(Sp.entries_key d xs base p hp).1, (Sp.entries_key d xs base p hp).2.1⟩

theorem Sp.wf_set [DecidableEq α] (d : α) (m : List (Nat × α)) (k : Nat) (x : α) (h : Sp.Wf d m) : Sp.Wf d (Sp.set d m k x) :=
  Sp.wf_put d m k [x] h

theorem Sp.wf_mod [DecidableEq α] (d : α) (m : List (Nat × α)) (k : Nat) (f : α → α) (h : Sp.Wf d m) : Sp.Wf d (Sp.mod d m k f) :=
  Sp.wf_set d m k _ h

theorem Sp.wf_window (d : α) (m : List (Nat × α)) (base n : Nat) (h : Sp.Wf d m) : Sp.Wf d (Sp.window m base n) :=
  Sp.wf_filter d m _ h

theorem Sp.wf_clear (d : α) (m : List (Nat × α)) (base n : Nat) (h : Sp.Wf d m) : Sp.Wf d (Sp.clear m base n) :=
  Sp.wf_filter d m _ h

theorem Sp.wf_puts [DecidableEq α] (d : α) (ps : List (Nat × α)) (m : List (Nat × α)) (h : Sp.Wf d m) :
    Sp.Wf d (Sp.puts d m ps) := by
  unfold Sp.puts
  induction ps generalizing m with
  | nil => exact h
  | cons p ps ih => exact ih _ (Sp.wf_set d m p.1 p.2 h)

theorem Sp.get_puts_other [DecidableEq α] (d : α) (ps : List (Nat × α)) (m : List (Nat × α)) (a : Nat) (h : ∀ p ∈ ps, p.1 ≠ a) :
    Sp.get d (Sp.puts d m ps) a = Sp.get d m a := by
  unfold Sp.puts
  induction ps generalizing m with
  | nil => rfl
  | cons p ps ih =>
    rw [List.foldl_cons, ih _ fun q hq => h q (by simp [hq]), Sp.get_set, if_neg (h p (by simp)).symm]

/-- With distinct keys a listed value reads back. -/
theorem Sp.get_puts_same [DecidableEq α] (d : α) (ps : List (Nat × α)) (m : List (Nat × α)) (a : Nat) (x : α)
    (nd : (ps.map (·.1)).Nodup) (h : (a, x) ∈ ps) : Sp.get d (Sp.puts d m ps) a = x := by
  induction ps generalizing m with
  | nil => simp at h
  | cons p ps ih =>
    simp only [List.map_cons, List.nodup_cons] at nd
    rcases List.mem_cons.1 h with rfl | h
    · have := Sp.get_puts_other d ps (Sp.set d m a x) a fun q hq e => nd.1 (by simpa using ⟨q.2, by rwa [← e]⟩)
      simpa [Sp.puts] using this
    · exact ih (Sp.set d m p.1 p.2) nd.2 h

theorem Sp.mem_merge (n : Nat) (xs ys : List (Nat × α)) (p : Nat × α) : p ∈ Sp.merge n xs ys ↔ p ∈ xs ∨ p ∈ ys := by
  induction n generalizing xs ys with
  | zero => simp [Sp.merge]
  | succ n ih =>
    cases xs with
    | nil => simp [Sp.merge]
    | cons x xs =>
      cases ys with
      | nil => simp [Sp.merge]
      | cons y ys =>
        simp only [Sp.merge]
        split
        · rw [List.mem_cons, ih]; simp only [List.mem_cons]; tauto
        · rw [List.mem_cons, ih]; simp only [List.mem_cons]; tauto

/-- Two canonical maps with no common key, merged with enough fuel. -/
theorem Sp.wf_merge (d : α) (n : Nat) (xs ys : List (Nat × α)) (hx : Sp.Wf d xs) (hy : Sp.Wf d ys)
    (apart : ∀ p ∈ xs, ∀ q ∈ ys, p.1 ≠ q.1) (fuel : xs.length + ys.length ≤ n) : Sp.Wf d (Sp.merge n xs ys) := by
  refine ⟨?_, fun p hp => ?_⟩
  · induction n generalizing xs ys with
    | zero =>
      have a : xs = [] := List.eq_nil_of_length_eq_zero (by omega)
      have b : ys = [] := List.eq_nil_of_length_eq_zero (by omega)
      subst a b; simp [Sp.merge]
    | succ n ih =>
      cases xs with
      | nil => exact hy.1
      | cons x xs =>
        cases ys with
        | nil => exact hx.1
        | cons y ys =>
          have px := List.pairwise_cons.1 hx.1
          have py := List.pairwise_cons.1 hy.1
          simp only [List.length_cons] at fuel
          simp only [Sp.merge]
          split
          · rename_i lt
            refine List.pairwise_cons.2 ⟨fun q hq => ?_, ?_⟩
            · rcases (Sp.mem_merge _ _ _ _).1 hq with hq | hq
              · exact px.1 q hq
              · rcases List.mem_cons.1 hq with rfl | hq
                · exact lt
                · have := py.1 q hq; omega
            · exact ih xs (y :: ys) ⟨px.2, fun p hp => hx.2 p (by simp [hp])⟩ hy
                (fun p hp => apart p (by simp [hp])) (by simp only [List.length_cons]; omega)
          · rename_i ge
            have ne := apart x (by simp) y (by simp)
            refine List.pairwise_cons.2 ⟨fun q hq => ?_, ?_⟩
            · rcases (Sp.mem_merge _ _ _ _).1 hq with hq | hq
              · rcases List.mem_cons.1 hq with rfl | hq
                · omega
                · have := px.1 q hq; omega
              · exact py.1 q hq
            · exact ih (x :: xs) ys hx ⟨py.2, fun p hp => hy.2 p (by simp [hp])⟩
                (fun p hp q hq => apart p hp q (by simp [hq])) (by simp only [List.length_cons]; omega)
  · rcases (Sp.mem_merge _ _ _ _).1 hp with hp | hp
    · exact hx.2 p hp
    · exact hy.2 p hp

/-! ### Bytes -/

theorem Memory.byte_put_other (m : Memory) (base : Nat) (bs : List Byte) (a : Nat) (h : a < base ∨ base + bs.length ≤ a) :
    (Memory.put m base bs).byte a = m.byte a := Sp.get_put_other 0 m base bs a h

theorem Memory.byte_put_same (m : Memory) (base : Nat) (bs : List Byte) (i : Nat) (h : i < bs.length) :
    (Memory.put m base bs).byte (base + i) = bs[i] := Sp.get_put_same 0 m base bs i h

theorem Memory.wf_put (m : Memory) (base : Nat) (bs : List Byte) (h : m.wf) : (Memory.put m base bs).wf :=
  Sp.wf_put 0 m base bs h

theorem Memory.bytes_put (m : Memory) (base : Nat) (bs : List Byte) : (Memory.put m base bs).bytes base bs.length = bs := by
  unfold Memory.bytes Memory.put
  rw [Sp.range_eq]
  apply List.ext_getElem (by simp)
  intro i h₁ h₂
  simp only [List.getElem_map, List.getElem_range]
  exact Sp.get_put_same 0 m base bs i h₂

/-! ### Lists -/

@[simp] theorem nth_nil (d : α) (i : Nat) : nth d [] i = d := by cases i <;> rfl

theorem nth_getElem (d : α) (xs : List α) (i : Nat) (h : i < xs.length) : nth d xs i = xs[i] := by
  induction xs generalizing i with
  | nil => simp at h
  | cons x xs ih =>
    cases i with
    | zero => rfl
    | succ i => simpa [nth] using ih i (by simpa using h)

end Sys2Proof.Machine
end

