-- ==== Sys2Proof/Laws/State.lean ====
section
/-!
SUPPORT. What each update of the state leaves as it was: one law per field and update, and reading back what an update writes.
-/

namespace Sys2Proof.Machine

/-! ### setGroup -/

@[simp] theorem State.setGroup_time (s : State) (k : Nat) (x : Group) : (s.setGroup k x).time = s.time := rfl
@[simp] theorem State.setGroup_inputs (s : State) (k : Nat) (x : Group) : (s.setGroup k x).inputs = s.inputs := rfl
@[simp] theorem State.setGroup_fresh (s : State) (k : Nat) (x : Group) : (s.setGroup k x).fresh = s.fresh := rfl
@[simp] theorem State.setGroup_bc (s : State) (k : Nat) (x : Group) : (s.setGroup k x).bc = s.bc := rfl
@[simp] theorem State.setGroup_bcHold (s : State) (k : Nat) (x : Group) : (s.setGroup k x).bcHold = s.bcHold := rfl
@[simp] theorem State.setGroup_cur (s : State) (k : Nat) (x : Group) : (s.setGroup k x).cur = s.cur := rfl
@[simp] theorem State.setGroup_mem (s : State) (k : Nat) (x : Group) : (s.setGroup k x).mem = s.mem := rfl
@[simp] theorem State.setGroup_pod (s : State) (k : Nat) (x : Group) : (s.setGroup k x).pod = s.pod := rfl
@[simp] theorem State.setGroup_fw (s : State) (k : Nat) (x : Group) : (s.setGroup k x).fw = s.fw := rfl
@[simp] theorem State.setGroup_sys (s : State) (k : Nat) (x : Group) : (s.setGroup k x).sys = s.sys := rfl
@[simp] theorem State.setGroup_trains (s : State) (k : Nat) (x : Group) : (s.setGroup k x).grid.trains = s.grid.trains := rfl
@[simp] theorem State.setGroup_teams (s : State) (k : Nat) (x : Group) : (s.setGroup k x).grid.teams = s.grid.teams := rfl
@[simp] theorem State.setGroup_cores (s : State) (k : Nat) (x : Group) : (s.setGroup k x).grid.cores = s.grid.cores := rfl
@[simp] theorem State.setGroup_issue (s : State) (k : Nat) (x : Group) : (s.setGroup k x).grid.issue = s.grid.issue := rfl
@[simp] theorem State.setGroup_pool (s : State) (k : Nat) (x : Group) : (s.setGroup k x).grid.pool = s.grid.pool := rfl
@[simp] theorem State.setGroup_slots (s : State) (k : Nat) (x : Group) : (s.setGroup k x).grid.slots = s.grid.slots := rfl
@[simp] theorem State.setGroup_tiles (s : State) (k : Nat) (x : Group) : (s.setGroup k x).grid.tiles = s.grid.tiles := rfl
@[simp] theorem State.setGroup_pend (s : State) (k : Nat) (x : Group) : (s.setGroup k x).grid.pend = s.grid.pend := rfl
@[simp] theorem State.setGroup_owed (s : State) (k : Nat) (x : Group) : (s.setGroup k x).grid.owed = s.grid.owed := rfl
@[simp] theorem State.setGroup_stps (s : State) (k : Nat) (x : Group) : (s.setGroup k x).grid.stps = s.grid.stps := rfl
@[simp] theorem State.setGroup_cmds (s : State) (k : Nat) (x : Group) : (s.setGroup k x).grid.cmds = s.grid.cmds := rfl
@[simp] theorem State.setGroup_outs (s : State) (k : Nat) (x : Group) : (s.setGroup k x).grid.outs = s.grid.outs := rfl
@[simp] theorem State.setGroup_sfu (s : State) (k : Nat) (x : Group) : (s.setGroup k x).grid.sfu = s.grid.sfu := rfl
@[simp] theorem State.setGroup_stores (s : State) (k : Nat) (x : Group) : (s.setGroup k x).grid.stores = s.grid.stores := rfl
@[simp] theorem State.setGroup_acts (s : State) (k : Nat) (x : Group) : (s.setGroup k x).grid.acts = s.grid.acts := rfl
@[simp] theorem State.setGroup_acquires (s : State) (k : Nat) (x : Group) : (s.setGroup k x).grid.acquires = s.grid.acquires := rfl
@[simp] theorem State.setGroup_ord (s : State) (k : Nat) (x : Group) : (s.setGroup k x).grid.ord = s.grid.ord := rfl
@[simp] theorem State.setGroup_nextTrain (s : State) (k : Nat) (x : Group) : (s.setGroup k x).grid.nextTrain = s.grid.nextTrain := rfl
@[simp] theorem State.setGroup_resume (s : State) (k : Nat) (x : Group) : (s.setGroup k x).grid.resume = s.grid.resume := rfl
@[simp] theorem State.setGroup_idleVc (s : State) (k : Nat) (x : Group) : (s.setGroup k x).grid.idleVc = s.grid.idleVc := rfl

/-! ### setTrain -/

@[simp] theorem State.setTrain_time (s : State) (k : Nat) (x : Train) : (s.setTrain k x).time = s.time := rfl
@[simp] theorem State.setTrain_inputs (s : State) (k : Nat) (x : Train) : (s.setTrain k x).inputs = s.inputs := rfl
@[simp] theorem State.setTrain_fresh (s : State) (k : Nat) (x : Train) : (s.setTrain k x).fresh = s.fresh := rfl
@[simp] theorem State.setTrain_bc (s : State) (k : Nat) (x : Train) : (s.setTrain k x).bc = s.bc := rfl
@[simp] theorem State.setTrain_bcHold (s : State) (k : Nat) (x : Train) : (s.setTrain k x).bcHold = s.bcHold := rfl
@[simp] theorem State.setTrain_cur (s : State) (k : Nat) (x : Train) : (s.setTrain k x).cur = s.cur := rfl
@[simp] theorem State.setTrain_mem (s : State) (k : Nat) (x : Train) : (s.setTrain k x).mem = s.mem := rfl
@[simp] theorem State.setTrain_pod (s : State) (k : Nat) (x : Train) : (s.setTrain k x).pod = s.pod := rfl
@[simp] theorem State.setTrain_fw (s : State) (k : Nat) (x : Train) : (s.setTrain k x).fw = s.fw := rfl
@[simp] theorem State.setTrain_sys (s : State) (k : Nat) (x : Train) : (s.setTrain k x).sys = s.sys := rfl
@[simp] theorem State.setTrain_teams (s : State) (k : Nat) (x : Train) : (s.setTrain k x).grid.teams = s.grid.teams := rfl
@[simp] theorem State.setTrain_groups (s : State) (k : Nat) (x : Train) : (s.setTrain k x).grid.groups = s.grid.groups := rfl
@[simp] theorem State.setTrain_cores (s : State) (k : Nat) (x : Train) : (s.setTrain k x).grid.cores = s.grid.cores := rfl
@[simp] theorem State.setTrain_issue (s : State) (k : Nat) (x : Train) : (s.setTrain k x).grid.issue = s.grid.issue := rfl
@[simp] theorem State.setTrain_pool (s : State) (k : Nat) (x : Train) : (s.setTrain k x).grid.pool = s.grid.pool := rfl
@[simp] theorem State.setTrain_slots (s : State) (k : Nat) (x : Train) : (s.setTrain k x).grid.slots = s.grid.slots := rfl
@[simp] theorem State.setTrain_tiles (s : State) (k : Nat) (x : Train) : (s.setTrain k x).grid.tiles = s.grid.tiles := rfl
@[simp] theorem State.setTrain_pend (s : State) (k : Nat) (x : Train) : (s.setTrain k x).grid.pend = s.grid.pend := rfl
@[simp] theorem State.setTrain_owed (s : State) (k : Nat) (x : Train) : (s.setTrain k x).grid.owed = s.grid.owed := rfl
@[simp] theorem State.setTrain_stps (s : State) (k : Nat) (x : Train) : (s.setTrain k x).grid.stps = s.grid.stps := rfl
@[simp] theorem State.setTrain_cmds (s : State) (k : Nat) (x : Train) : (s.setTrain k x).grid.cmds = s.grid.cmds := rfl
@[simp] theorem State.setTrain_outs (s : State) (k : Nat) (x : Train) : (s.setTrain k x).grid.outs = s.grid.outs := rfl
@[simp] theorem State.setTrain_sfu (s : State) (k : Nat) (x : Train) : (s.setTrain k x).grid.sfu = s.grid.sfu := rfl
@[simp] theorem State.setTrain_stores (s : State) (k : Nat) (x : Train) : (s.setTrain k x).grid.stores = s.grid.stores := rfl
@[simp] theorem State.setTrain_acts (s : State) (k : Nat) (x : Train) : (s.setTrain k x).grid.acts = s.grid.acts := rfl
@[simp] theorem State.setTrain_acquires (s : State) (k : Nat) (x : Train) : (s.setTrain k x).grid.acquires = s.grid.acquires := rfl
@[simp] theorem State.setTrain_ord (s : State) (k : Nat) (x : Train) : (s.setTrain k x).grid.ord = s.grid.ord := rfl
@[simp] theorem State.setTrain_nextTrain (s : State) (k : Nat) (x : Train) : (s.setTrain k x).grid.nextTrain = s.grid.nextTrain := rfl
@[simp] theorem State.setTrain_resume (s : State) (k : Nat) (x : Train) : (s.setTrain k x).grid.resume = s.grid.resume := rfl
@[simp] theorem State.setTrain_idleVc (s : State) (k : Nat) (x : Train) : (s.setTrain k x).grid.idleVc = s.grid.idleVc := rfl

/-! ### setTeam -/

@[simp] theorem State.setTeam_time (s : State) (k : Nat) (x : Team) : (s.setTeam k x).time = s.time := rfl
@[simp] theorem State.setTeam_inputs (s : State) (k : Nat) (x : Team) : (s.setTeam k x).inputs = s.inputs := rfl
@[simp] theorem State.setTeam_fresh (s : State) (k : Nat) (x : Team) : (s.setTeam k x).fresh = s.fresh := rfl
@[simp] theorem State.setTeam_bc (s : State) (k : Nat) (x : Team) : (s.setTeam k x).bc = s.bc := rfl
@[simp] theorem State.setTeam_bcHold (s : State) (k : Nat) (x : Team) : (s.setTeam k x).bcHold = s.bcHold := rfl
@[simp] theorem State.setTeam_cur (s : State) (k : Nat) (x : Team) : (s.setTeam k x).cur = s.cur := rfl
@[simp] theorem State.setTeam_mem (s : State) (k : Nat) (x : Team) : (s.setTeam k x).mem = s.mem := rfl
@[simp] theorem State.setTeam_pod (s : State) (k : Nat) (x : Team) : (s.setTeam k x).pod = s.pod := rfl
@[simp] theorem State.setTeam_fw (s : State) (k : Nat) (x : Team) : (s.setTeam k x).fw = s.fw := rfl
@[simp] theorem State.setTeam_sys (s : State) (k : Nat) (x : Team) : (s.setTeam k x).sys = s.sys := rfl
@[simp] theorem State.setTeam_trains (s : State) (k : Nat) (x : Team) : (s.setTeam k x).grid.trains = s.grid.trains := rfl
@[simp] theorem State.setTeam_groups (s : State) (k : Nat) (x : Team) : (s.setTeam k x).grid.groups = s.grid.groups := rfl
@[simp] theorem State.setTeam_cores (s : State) (k : Nat) (x : Team) : (s.setTeam k x).grid.cores = s.grid.cores := rfl
@[simp] theorem State.setTeam_issue (s : State) (k : Nat) (x : Team) : (s.setTeam k x).grid.issue = s.grid.issue := rfl
@[simp] theorem State.setTeam_pool (s : State) (k : Nat) (x : Team) : (s.setTeam k x).grid.pool = s.grid.pool := rfl
@[simp] theorem State.setTeam_slots (s : State) (k : Nat) (x : Team) : (s.setTeam k x).grid.slots = s.grid.slots := rfl
@[simp] theorem State.setTeam_tiles (s : State) (k : Nat) (x : Team) : (s.setTeam k x).grid.tiles = s.grid.tiles := rfl
@[simp] theorem State.setTeam_pend (s : State) (k : Nat) (x : Team) : (s.setTeam k x).grid.pend = s.grid.pend := rfl
@[simp] theorem State.setTeam_owed (s : State) (k : Nat) (x : Team) : (s.setTeam k x).grid.owed = s.grid.owed := rfl
@[simp] theorem State.setTeam_stps (s : State) (k : Nat) (x : Team) : (s.setTeam k x).grid.stps = s.grid.stps := rfl
@[simp] theorem State.setTeam_cmds (s : State) (k : Nat) (x : Team) : (s.setTeam k x).grid.cmds = s.grid.cmds := rfl
@[simp] theorem State.setTeam_outs (s : State) (k : Nat) (x : Team) : (s.setTeam k x).grid.outs = s.grid.outs := rfl
@[simp] theorem State.setTeam_sfu (s : State) (k : Nat) (x : Team) : (s.setTeam k x).grid.sfu = s.grid.sfu := rfl
@[simp] theorem State.setTeam_stores (s : State) (k : Nat) (x : Team) : (s.setTeam k x).grid.stores = s.grid.stores := rfl
@[simp] theorem State.setTeam_acts (s : State) (k : Nat) (x : Team) : (s.setTeam k x).grid.acts = s.grid.acts := rfl
@[simp] theorem State.setTeam_acquires (s : State) (k : Nat) (x : Team) : (s.setTeam k x).grid.acquires = s.grid.acquires := rfl
@[simp] theorem State.setTeam_ord (s : State) (k : Nat) (x : Team) : (s.setTeam k x).grid.ord = s.grid.ord := rfl
@[simp] theorem State.setTeam_nextTrain (s : State) (k : Nat) (x : Team) : (s.setTeam k x).grid.nextTrain = s.grid.nextTrain := rfl
@[simp] theorem State.setTeam_resume (s : State) (k : Nat) (x : Team) : (s.setTeam k x).grid.resume = s.grid.resume := rfl
@[simp] theorem State.setTeam_idleVc (s : State) (k : Nat) (x : Team) : (s.setTeam k x).grid.idleVc = s.grid.idleVc := rfl

/-! ### setCore -/

@[simp] theorem State.setCore_time (s : State) (k : Nat) (x : Core) : (s.setCore k x).time = s.time := rfl
@[simp] theorem State.setCore_inputs (s : State) (k : Nat) (x : Core) : (s.setCore k x).inputs = s.inputs := rfl
@[simp] theorem State.setCore_fresh (s : State) (k : Nat) (x : Core) : (s.setCore k x).fresh = s.fresh := rfl
@[simp] theorem State.setCore_bc (s : State) (k : Nat) (x : Core) : (s.setCore k x).bc = s.bc := rfl
@[simp] theorem State.setCore_bcHold (s : State) (k : Nat) (x : Core) : (s.setCore k x).bcHold = s.bcHold := rfl
@[simp] theorem State.setCore_cur (s : State) (k : Nat) (x : Core) : (s.setCore k x).cur = s.cur := rfl
@[simp] theorem State.setCore_mem (s : State) (k : Nat) (x : Core) : (s.setCore k x).mem = s.mem := rfl
@[simp] theorem State.setCore_pod (s : State) (k : Nat) (x : Core) : (s.setCore k x).pod = s.pod := rfl
@[simp] theorem State.setCore_fw (s : State) (k : Nat) (x : Core) : (s.setCore k x).fw = s.fw := rfl
@[simp] theorem State.setCore_sys (s : State) (k : Nat) (x : Core) : (s.setCore k x).sys = s.sys := rfl
@[simp] theorem State.setCore_trains (s : State) (k : Nat) (x : Core) : (s.setCore k x).grid.trains = s.grid.trains := rfl
@[simp] theorem State.setCore_teams (s : State) (k : Nat) (x : Core) : (s.setCore k x).grid.teams = s.grid.teams := rfl
@[simp] theorem State.setCore_groups (s : State) (k : Nat) (x : Core) : (s.setCore k x).grid.groups = s.grid.groups := rfl
@[simp] theorem State.setCore_issue (s : State) (k : Nat) (x : Core) : (s.setCore k x).grid.issue = s.grid.issue := rfl
@[simp] theorem State.setCore_pool (s : State) (k : Nat) (x : Core) : (s.setCore k x).grid.pool = s.grid.pool := rfl
@[simp] theorem State.setCore_slots (s : State) (k : Nat) (x : Core) : (s.setCore k x).grid.slots = s.grid.slots := rfl
@[simp] theorem State.setCore_tiles (s : State) (k : Nat) (x : Core) : (s.setCore k x).grid.tiles = s.grid.tiles := rfl
@[simp] theorem State.setCore_pend (s : State) (k : Nat) (x : Core) : (s.setCore k x).grid.pend = s.grid.pend := rfl
@[simp] theorem State.setCore_owed (s : State) (k : Nat) (x : Core) : (s.setCore k x).grid.owed = s.grid.owed := rfl
@[simp] theorem State.setCore_stps (s : State) (k : Nat) (x : Core) : (s.setCore k x).grid.stps = s.grid.stps := rfl
@[simp] theorem State.setCore_cmds (s : State) (k : Nat) (x : Core) : (s.setCore k x).grid.cmds = s.grid.cmds := rfl
@[simp] theorem State.setCore_outs (s : State) (k : Nat) (x : Core) : (s.setCore k x).grid.outs = s.grid.outs := rfl
@[simp] theorem State.setCore_sfu (s : State) (k : Nat) (x : Core) : (s.setCore k x).grid.sfu = s.grid.sfu := rfl
@[simp] theorem State.setCore_stores (s : State) (k : Nat) (x : Core) : (s.setCore k x).grid.stores = s.grid.stores := rfl
@[simp] theorem State.setCore_acts (s : State) (k : Nat) (x : Core) : (s.setCore k x).grid.acts = s.grid.acts := rfl
@[simp] theorem State.setCore_acquires (s : State) (k : Nat) (x : Core) : (s.setCore k x).grid.acquires = s.grid.acquires := rfl
@[simp] theorem State.setCore_ord (s : State) (k : Nat) (x : Core) : (s.setCore k x).grid.ord = s.grid.ord := rfl
@[simp] theorem State.setCore_nextTrain (s : State) (k : Nat) (x : Core) : (s.setCore k x).grid.nextTrain = s.grid.nextTrain := rfl
@[simp] theorem State.setCore_resume (s : State) (k : Nat) (x : Core) : (s.setCore k x).grid.resume = s.grid.resume := rfl
@[simp] theorem State.setCore_idleVc (s : State) (k : Nat) (x : Core) : (s.setCore k x).grid.idleVc = s.grid.idleVc := rfl

/-! ### modGroup -/

@[simp] theorem State.modGroup_time (s : State) (k : Nat) (f : Group → Group) : (s.modGroup k f).time = s.time := rfl
@[simp] theorem State.modGroup_inputs (s : State) (k : Nat) (f : Group → Group) : (s.modGroup k f).inputs = s.inputs := rfl
@[simp] theorem State.modGroup_fresh (s : State) (k : Nat) (f : Group → Group) : (s.modGroup k f).fresh = s.fresh := rfl
@[simp] theorem State.modGroup_bc (s : State) (k : Nat) (f : Group → Group) : (s.modGroup k f).bc = s.bc := rfl
@[simp] theorem State.modGroup_bcHold (s : State) (k : Nat) (f : Group → Group) : (s.modGroup k f).bcHold = s.bcHold := rfl
@[simp] theorem State.modGroup_cur (s : State) (k : Nat) (f : Group → Group) : (s.modGroup k f).cur = s.cur := rfl
@[simp] theorem State.modGroup_mem (s : State) (k : Nat) (f : Group → Group) : (s.modGroup k f).mem = s.mem := rfl
@[simp] theorem State.modGroup_pod (s : State) (k : Nat) (f : Group → Group) : (s.modGroup k f).pod = s.pod := rfl
@[simp] theorem State.modGroup_fw (s : State) (k : Nat) (f : Group → Group) : (s.modGroup k f).fw = s.fw := rfl
@[simp] theorem State.modGroup_sys (s : State) (k : Nat) (f : Group → Group) : (s.modGroup k f).sys = s.sys := rfl
@[simp] theorem State.modGroup_trains (s : State) (k : Nat) (f : Group → Group) : (s.modGroup k f).grid.trains = s.grid.trains := rfl
@[simp] theorem State.modGroup_teams (s : State) (k : Nat) (f : Group → Group) : (s.modGroup k f).grid.teams = s.grid.teams := rfl
@[simp] theorem State.modGroup_cores (s : State) (k : Nat) (f : Group → Group) : (s.modGroup k f).grid.cores = s.grid.cores := rfl
@[simp] theorem State.modGroup_issue (s : State) (k : Nat) (f : Group → Group) : (s.modGroup k f).grid.issue = s.grid.issue := rfl
@[simp] theorem State.modGroup_pool (s : State) (k : Nat) (f : Group → Group) : (s.modGroup k f).grid.pool = s.grid.pool := rfl
@[simp] theorem State.modGroup_slots (s : State) (k : Nat) (f : Group → Group) : (s.modGroup k f).grid.slots = s.grid.slots := rfl
@[simp] theorem State.modGroup_tiles (s : State) (k : Nat) (f : Group → Group) : (s.modGroup k f).grid.tiles = s.grid.tiles := rfl
@[simp] theorem State.modGroup_pend (s : State) (k : Nat) (f : Group → Group) : (s.modGroup k f).grid.pend = s.grid.pend := rfl
@[simp] theorem State.modGroup_owed (s : State) (k : Nat) (f : Group → Group) : (s.modGroup k f).grid.owed = s.grid.owed := rfl
@[simp] theorem State.modGroup_stps (s : State) (k : Nat) (f : Group → Group) : (s.modGroup k f).grid.stps = s.grid.stps := rfl
@[simp] theorem State.modGroup_cmds (s : State) (k : Nat) (f : Group → Group) : (s.modGroup k f).grid.cmds = s.grid.cmds := rfl
@[simp] theorem State.modGroup_outs (s : State) (k : Nat) (f : Group → Group) : (s.modGroup k f).grid.outs = s.grid.outs := rfl
@[simp] theorem State.modGroup_sfu (s : State) (k : Nat) (f : Group → Group) : (s.modGroup k f).grid.sfu = s.grid.sfu := rfl
@[simp] theorem State.modGroup_stores (s : State) (k : Nat) (f : Group → Group) : (s.modGroup k f).grid.stores = s.grid.stores := rfl
@[simp] theorem State.modGroup_acts (s : State) (k : Nat) (f : Group → Group) : (s.modGroup k f).grid.acts = s.grid.acts := rfl
@[simp] theorem State.modGroup_acquires (s : State) (k : Nat) (f : Group → Group) : (s.modGroup k f).grid.acquires = s.grid.acquires := rfl
@[simp] theorem State.modGroup_ord (s : State) (k : Nat) (f : Group → Group) : (s.modGroup k f).grid.ord = s.grid.ord := rfl
@[simp] theorem State.modGroup_nextTrain (s : State) (k : Nat) (f : Group → Group) : (s.modGroup k f).grid.nextTrain = s.grid.nextTrain := rfl
@[simp] theorem State.modGroup_resume (s : State) (k : Nat) (f : Group → Group) : (s.modGroup k f).grid.resume = s.grid.resume := rfl
@[simp] theorem State.modGroup_idleVc (s : State) (k : Nat) (f : Group → Group) : (s.modGroup k f).grid.idleVc = s.grid.idleVc := rfl

/-! ### modTrain -/

@[simp] theorem State.modTrain_time (s : State) (k : Nat) (f : Train → Train) : (s.modTrain k f).time = s.time := rfl
@[simp] theorem State.modTrain_inputs (s : State) (k : Nat) (f : Train → Train) : (s.modTrain k f).inputs = s.inputs := rfl
@[simp] theorem State.modTrain_fresh (s : State) (k : Nat) (f : Train → Train) : (s.modTrain k f).fresh = s.fresh := rfl
@[simp] theorem State.modTrain_bc (s : State) (k : Nat) (f : Train → Train) : (s.modTrain k f).bc = s.bc := rfl
@[simp] theorem State.modTrain_bcHold (s : State) (k : Nat) (f : Train → Train) : (s.modTrain k f).bcHold = s.bcHold := rfl
@[simp] theorem State.modTrain_cur (s : State) (k : Nat) (f : Train → Train) : (s.modTrain k f).cur = s.cur := rfl
@[simp] theorem State.modTrain_mem (s : State) (k : Nat) (f : Train → Train) : (s.modTrain k f).mem = s.mem := rfl
@[simp] theorem State.modTrain_pod (s : State) (k : Nat) (f : Train → Train) : (s.modTrain k f).pod = s.pod := rfl
@[simp] theorem State.modTrain_fw (s : State) (k : Nat) (f : Train → Train) : (s.modTrain k f).fw = s.fw := rfl
@[simp] theorem State.modTrain_sys (s : State) (k : Nat) (f : Train → Train) : (s.modTrain k f).sys = s.sys := rfl
@[simp] theorem State.modTrain_teams (s : State) (k : Nat) (f : Train → Train) : (s.modTrain k f).grid.teams = s.grid.teams := rfl
@[simp] theorem State.modTrain_groups (s : State) (k : Nat) (f : Train → Train) : (s.modTrain k f).grid.groups = s.grid.groups := rfl
@[simp] theorem State.modTrain_cores (s : State) (k : Nat) (f : Train → Train) : (s.modTrain k f).grid.cores = s.grid.cores := rfl
@[simp] theorem State.modTrain_issue (s : State) (k : Nat) (f : Train → Train) : (s.modTrain k f).grid.issue = s.grid.issue := rfl
@[simp] theorem State.modTrain_pool (s : State) (k : Nat) (f : Train → Train) : (s.modTrain k f).grid.pool = s.grid.pool := rfl
@[simp] theorem State.modTrain_slots (s : State) (k : Nat) (f : Train → Train) : (s.modTrain k f).grid.slots = s.grid.slots := rfl
@[simp] theorem State.modTrain_tiles (s : State) (k : Nat) (f : Train → Train) : (s.modTrain k f).grid.tiles = s.grid.tiles := rfl
@[simp] theorem State.modTrain_pend (s : State) (k : Nat) (f : Train → Train) : (s.modTrain k f).grid.pend = s.grid.pend := rfl
@[simp] theorem State.modTrain_owed (s : State) (k : Nat) (f : Train → Train) : (s.modTrain k f).grid.owed = s.grid.owed := rfl
@[simp] theorem State.modTrain_stps (s : State) (k : Nat) (f : Train → Train) : (s.modTrain k f).grid.stps = s.grid.stps := rfl
@[simp] theorem State.modTrain_cmds (s : State) (k : Nat) (f : Train → Train) : (s.modTrain k f).grid.cmds = s.grid.cmds := rfl
@[simp] theorem State.modTrain_outs (s : State) (k : Nat) (f : Train → Train) : (s.modTrain k f).grid.outs = s.grid.outs := rfl
@[simp] theorem State.modTrain_sfu (s : State) (k : Nat) (f : Train → Train) : (s.modTrain k f).grid.sfu = s.grid.sfu := rfl
@[simp] theorem State.modTrain_stores (s : State) (k : Nat) (f : Train → Train) : (s.modTrain k f).grid.stores = s.grid.stores := rfl
@[simp] theorem State.modTrain_acts (s : State) (k : Nat) (f : Train → Train) : (s.modTrain k f).grid.acts = s.grid.acts := rfl
@[simp] theorem State.modTrain_acquires (s : State) (k : Nat) (f : Train → Train) : (s.modTrain k f).grid.acquires = s.grid.acquires := rfl
@[simp] theorem State.modTrain_ord (s : State) (k : Nat) (f : Train → Train) : (s.modTrain k f).grid.ord = s.grid.ord := rfl
@[simp] theorem State.modTrain_nextTrain (s : State) (k : Nat) (f : Train → Train) : (s.modTrain k f).grid.nextTrain = s.grid.nextTrain := rfl
@[simp] theorem State.modTrain_resume (s : State) (k : Nat) (f : Train → Train) : (s.modTrain k f).grid.resume = s.grid.resume := rfl
@[simp] theorem State.modTrain_idleVc (s : State) (k : Nat) (f : Train → Train) : (s.modTrain k f).grid.idleVc = s.grid.idleVc := rfl

/-! ### modTeam -/

@[simp] theorem State.modTeam_time (s : State) (k : Nat) (f : Team → Team) : (s.modTeam k f).time = s.time := rfl
@[simp] theorem State.modTeam_inputs (s : State) (k : Nat) (f : Team → Team) : (s.modTeam k f).inputs = s.inputs := rfl
@[simp] theorem State.modTeam_fresh (s : State) (k : Nat) (f : Team → Team) : (s.modTeam k f).fresh = s.fresh := rfl
@[simp] theorem State.modTeam_bc (s : State) (k : Nat) (f : Team → Team) : (s.modTeam k f).bc = s.bc := rfl
@[simp] theorem State.modTeam_bcHold (s : State) (k : Nat) (f : Team → Team) : (s.modTeam k f).bcHold = s.bcHold := rfl
@[simp] theorem State.modTeam_cur (s : State) (k : Nat) (f : Team → Team) : (s.modTeam k f).cur = s.cur := rfl
@[simp] theorem State.modTeam_mem (s : State) (k : Nat) (f : Team → Team) : (s.modTeam k f).mem = s.mem := rfl
@[simp] theorem State.modTeam_pod (s : State) (k : Nat) (f : Team → Team) : (s.modTeam k f).pod = s.pod := rfl
@[simp] theorem State.modTeam_fw (s : State) (k : Nat) (f : Team → Team) : (s.modTeam k f).fw = s.fw := rfl
@[simp] theorem State.modTeam_sys (s : State) (k : Nat) (f : Team → Team) : (s.modTeam k f).sys = s.sys := rfl
@[simp] theorem State.modTeam_trains (s : State) (k : Nat) (f : Team → Team) : (s.modTeam k f).grid.trains = s.grid.trains := rfl
@[simp] theorem State.modTeam_groups (s : State) (k : Nat) (f : Team → Team) : (s.modTeam k f).grid.groups = s.grid.groups := rfl
@[simp] theorem State.modTeam_cores (s : State) (k : Nat) (f : Team → Team) : (s.modTeam k f).grid.cores = s.grid.cores := rfl
@[simp] theorem State.modTeam_issue (s : State) (k : Nat) (f : Team → Team) : (s.modTeam k f).grid.issue = s.grid.issue := rfl
@[simp] theorem State.modTeam_pool (s : State) (k : Nat) (f : Team → Team) : (s.modTeam k f).grid.pool = s.grid.pool := rfl
@[simp] theorem State.modTeam_slots (s : State) (k : Nat) (f : Team → Team) : (s.modTeam k f).grid.slots = s.grid.slots := rfl
@[simp] theorem State.modTeam_tiles (s : State) (k : Nat) (f : Team → Team) : (s.modTeam k f).grid.tiles = s.grid.tiles := rfl
@[simp] theorem State.modTeam_pend (s : State) (k : Nat) (f : Team → Team) : (s.modTeam k f).grid.pend = s.grid.pend := rfl
@[simp] theorem State.modTeam_owed (s : State) (k : Nat) (f : Team → Team) : (s.modTeam k f).grid.owed = s.grid.owed := rfl
@[simp] theorem State.modTeam_stps (s : State) (k : Nat) (f : Team → Team) : (s.modTeam k f).grid.stps = s.grid.stps := rfl
@[simp] theorem State.modTeam_cmds (s : State) (k : Nat) (f : Team → Team) : (s.modTeam k f).grid.cmds = s.grid.cmds := rfl
@[simp] theorem State.modTeam_outs (s : State) (k : Nat) (f : Team → Team) : (s.modTeam k f).grid.outs = s.grid.outs := rfl
@[simp] theorem State.modTeam_sfu (s : State) (k : Nat) (f : Team → Team) : (s.modTeam k f).grid.sfu = s.grid.sfu := rfl
@[simp] theorem State.modTeam_stores (s : State) (k : Nat) (f : Team → Team) : (s.modTeam k f).grid.stores = s.grid.stores := rfl
@[simp] theorem State.modTeam_acts (s : State) (k : Nat) (f : Team → Team) : (s.modTeam k f).grid.acts = s.grid.acts := rfl
@[simp] theorem State.modTeam_acquires (s : State) (k : Nat) (f : Team → Team) : (s.modTeam k f).grid.acquires = s.grid.acquires := rfl
@[simp] theorem State.modTeam_ord (s : State) (k : Nat) (f : Team → Team) : (s.modTeam k f).grid.ord = s.grid.ord := rfl
@[simp] theorem State.modTeam_nextTrain (s : State) (k : Nat) (f : Team → Team) : (s.modTeam k f).grid.nextTrain = s.grid.nextTrain := rfl
@[simp] theorem State.modTeam_resume (s : State) (k : Nat) (f : Team → Team) : (s.modTeam k f).grid.resume = s.grid.resume := rfl
@[simp] theorem State.modTeam_idleVc (s : State) (k : Nat) (f : Team → Team) : (s.modTeam k f).grid.idleVc = s.grid.idleVc := rfl

/-! ### modCore -/

@[simp] theorem State.modCore_time (s : State) (k : Nat) (f : Core → Core) : (s.modCore k f).time = s.time := rfl
@[simp] theorem State.modCore_inputs (s : State) (k : Nat) (f : Core → Core) : (s.modCore k f).inputs = s.inputs := rfl
@[simp] theorem State.modCore_fresh (s : State) (k : Nat) (f : Core → Core) : (s.modCore k f).fresh = s.fresh := rfl
@[simp] theorem State.modCore_bc (s : State) (k : Nat) (f : Core → Core) : (s.modCore k f).bc = s.bc := rfl
@[simp] theorem State.modCore_bcHold (s : State) (k : Nat) (f : Core → Core) : (s.modCore k f).bcHold = s.bcHold := rfl
@[simp] theorem State.modCore_cur (s : State) (k : Nat) (f : Core → Core) : (s.modCore k f).cur = s.cur := rfl
@[simp] theorem State.modCore_mem (s : State) (k : Nat) (f : Core → Core) : (s.modCore k f).mem = s.mem := rfl
@[simp] theorem State.modCore_pod (s : State) (k : Nat) (f : Core → Core) : (s.modCore k f).pod = s.pod := rfl
@[simp] theorem State.modCore_fw (s : State) (k : Nat) (f : Core → Core) : (s.modCore k f).fw = s.fw := rfl
@[simp] theorem State.modCore_sys (s : State) (k : Nat) (f : Core → Core) : (s.modCore k f).sys = s.sys := rfl
@[simp] theorem State.modCore_trains (s : State) (k : Nat) (f : Core → Core) : (s.modCore k f).grid.trains = s.grid.trains := rfl
@[simp] theorem State.modCore_teams (s : State) (k : Nat) (f : Core → Core) : (s.modCore k f).grid.teams = s.grid.teams := rfl
@[simp] theorem State.modCore_groups (s : State) (k : Nat) (f : Core → Core) : (s.modCore k f).grid.groups = s.grid.groups := rfl
@[simp] theorem State.modCore_issue (s : State) (k : Nat) (f : Core → Core) : (s.modCore k f).grid.issue = s.grid.issue := rfl
@[simp] theorem State.modCore_pool (s : State) (k : Nat) (f : Core → Core) : (s.modCore k f).grid.pool = s.grid.pool := rfl
@[simp] theorem State.modCore_slots (s : State) (k : Nat) (f : Core → Core) : (s.modCore k f).grid.slots = s.grid.slots := rfl
@[simp] theorem State.modCore_tiles (s : State) (k : Nat) (f : Core → Core) : (s.modCore k f).grid.tiles = s.grid.tiles := rfl
@[simp] theorem State.modCore_pend (s : State) (k : Nat) (f : Core → Core) : (s.modCore k f).grid.pend = s.grid.pend := rfl
@[simp] theorem State.modCore_owed (s : State) (k : Nat) (f : Core → Core) : (s.modCore k f).grid.owed = s.grid.owed := rfl
@[simp] theorem State.modCore_stps (s : State) (k : Nat) (f : Core → Core) : (s.modCore k f).grid.stps = s.grid.stps := rfl
@[simp] theorem State.modCore_cmds (s : State) (k : Nat) (f : Core → Core) : (s.modCore k f).grid.cmds = s.grid.cmds := rfl
@[simp] theorem State.modCore_outs (s : State) (k : Nat) (f : Core → Core) : (s.modCore k f).grid.outs = s.grid.outs := rfl
@[simp] theorem State.modCore_sfu (s : State) (k : Nat) (f : Core → Core) : (s.modCore k f).grid.sfu = s.grid.sfu := rfl
@[simp] theorem State.modCore_stores (s : State) (k : Nat) (f : Core → Core) : (s.modCore k f).grid.stores = s.grid.stores := rfl
@[simp] theorem State.modCore_acts (s : State) (k : Nat) (f : Core → Core) : (s.modCore k f).grid.acts = s.grid.acts := rfl
@[simp] theorem State.modCore_acquires (s : State) (k : Nat) (f : Core → Core) : (s.modCore k f).grid.acquires = s.grid.acquires := rfl
@[simp] theorem State.modCore_ord (s : State) (k : Nat) (f : Core → Core) : (s.modCore k f).grid.ord = s.grid.ord := rfl
@[simp] theorem State.modCore_nextTrain (s : State) (k : Nat) (f : Core → Core) : (s.modCore k f).grid.nextTrain = s.grid.nextTrain := rfl
@[simp] theorem State.modCore_resume (s : State) (k : Nat) (f : Core → Core) : (s.modCore k f).grid.resume = s.grid.resume := rfl
@[simp] theorem State.modCore_idleVc (s : State) (k : Nat) (f : Core → Core) : (s.modCore k f).grid.idleVc = s.grid.idleVc := rfl

/-! ### setCmdCore -/

@[simp] theorem State.setCmdCore_time (s : State) (k : Nat) (x : CmdCore) : (s.setCmdCore k x).time = s.time := rfl
@[simp] theorem State.setCmdCore_inputs (s : State) (k : Nat) (x : CmdCore) : (s.setCmdCore k x).inputs = s.inputs := rfl
@[simp] theorem State.setCmdCore_fresh (s : State) (k : Nat) (x : CmdCore) : (s.setCmdCore k x).fresh = s.fresh := rfl
@[simp] theorem State.setCmdCore_bc (s : State) (k : Nat) (x : CmdCore) : (s.setCmdCore k x).bc = s.bc := rfl
@[simp] theorem State.setCmdCore_bcHold (s : State) (k : Nat) (x : CmdCore) : (s.setCmdCore k x).bcHold = s.bcHold := rfl
@[simp] theorem State.setCmdCore_cur (s : State) (k : Nat) (x : CmdCore) : (s.setCmdCore k x).cur = s.cur := rfl
@[simp] theorem State.setCmdCore_grid (s : State) (k : Nat) (x : CmdCore) : (s.setCmdCore k x).grid = s.grid := rfl
@[simp] theorem State.setCmdCore_mem (s : State) (k : Nat) (x : CmdCore) : (s.setCmdCore k x).mem = s.mem := rfl
@[simp] theorem State.setCmdCore_pod (s : State) (k : Nat) (x : CmdCore) : (s.setCmdCore k x).pod = s.pod := rfl
@[simp] theorem State.setCmdCore_sys (s : State) (k : Nat) (x : CmdCore) : (s.setCmdCore k x).sys = s.sys := rfl

/-! ### setLaunch -/

@[simp] theorem State.setLaunch_time (s : State) (k : Nat) (x : Launch) : (s.setLaunch k x).time = s.time := rfl
@[simp] theorem State.setLaunch_inputs (s : State) (k : Nat) (x : Launch) : (s.setLaunch k x).inputs = s.inputs := rfl
@[simp] theorem State.setLaunch_fresh (s : State) (k : Nat) (x : Launch) : (s.setLaunch k x).fresh = s.fresh := rfl
@[simp] theorem State.setLaunch_bc (s : State) (k : Nat) (x : Launch) : (s.setLaunch k x).bc = s.bc := rfl
@[simp] theorem State.setLaunch_bcHold (s : State) (k : Nat) (x : Launch) : (s.setLaunch k x).bcHold = s.bcHold := rfl
@[simp] theorem State.setLaunch_cur (s : State) (k : Nat) (x : Launch) : (s.setLaunch k x).cur = s.cur := rfl
@[simp] theorem State.setLaunch_grid (s : State) (k : Nat) (x : Launch) : (s.setLaunch k x).grid = s.grid := rfl
@[simp] theorem State.setLaunch_mem (s : State) (k : Nat) (x : Launch) : (s.setLaunch k x).mem = s.mem := rfl
@[simp] theorem State.setLaunch_pod (s : State) (k : Nat) (x : Launch) : (s.setLaunch k x).pod = s.pod := rfl
@[simp] theorem State.setLaunch_sys (s : State) (k : Nat) (x : Launch) : (s.setLaunch k x).sys = s.sys := rfl

/-! ### modCmdCore -/

@[simp] theorem State.modCmdCore_time (s : State) (k : Nat) (f : CmdCore → CmdCore) : (s.modCmdCore k f).time = s.time := rfl
@[simp] theorem State.modCmdCore_inputs (s : State) (k : Nat) (f : CmdCore → CmdCore) : (s.modCmdCore k f).inputs = s.inputs := rfl
@[simp] theorem State.modCmdCore_fresh (s : State) (k : Nat) (f : CmdCore → CmdCore) : (s.modCmdCore k f).fresh = s.fresh := rfl
@[simp] theorem State.modCmdCore_bc (s : State) (k : Nat) (f : CmdCore → CmdCore) : (s.modCmdCore k f).bc = s.bc := rfl
@[simp] theorem State.modCmdCore_bcHold (s : State) (k : Nat) (f : CmdCore → CmdCore) : (s.modCmdCore k f).bcHold = s.bcHold := rfl
@[simp] theorem State.modCmdCore_cur (s : State) (k : Nat) (f : CmdCore → CmdCore) : (s.modCmdCore k f).cur = s.cur := rfl
@[simp] theorem State.modCmdCore_grid (s : State) (k : Nat) (f : CmdCore → CmdCore) : (s.modCmdCore k f).grid = s.grid := rfl
@[simp] theorem State.modCmdCore_mem (s : State) (k : Nat) (f : CmdCore → CmdCore) : (s.modCmdCore k f).mem = s.mem := rfl
@[simp] theorem State.modCmdCore_pod (s : State) (k : Nat) (f : CmdCore → CmdCore) : (s.modCmdCore k f).pod = s.pod := rfl
@[simp] theorem State.modCmdCore_sys (s : State) (k : Nat) (f : CmdCore → CmdCore) : (s.modCmdCore k f).sys = s.sys := rfl

/-! ### modLaunch -/

@[simp] theorem State.modLaunch_time (s : State) (k : Nat) (f : Launch → Launch) : (s.modLaunch k f).time = s.time := rfl
@[simp] theorem State.modLaunch_inputs (s : State) (k : Nat) (f : Launch → Launch) : (s.modLaunch k f).inputs = s.inputs := rfl
@[simp] theorem State.modLaunch_fresh (s : State) (k : Nat) (f : Launch → Launch) : (s.modLaunch k f).fresh = s.fresh := rfl
@[simp] theorem State.modLaunch_bc (s : State) (k : Nat) (f : Launch → Launch) : (s.modLaunch k f).bc = s.bc := rfl
@[simp] theorem State.modLaunch_bcHold (s : State) (k : Nat) (f : Launch → Launch) : (s.modLaunch k f).bcHold = s.bcHold := rfl
@[simp] theorem State.modLaunch_cur (s : State) (k : Nat) (f : Launch → Launch) : (s.modLaunch k f).cur = s.cur := rfl
@[simp] theorem State.modLaunch_grid (s : State) (k : Nat) (f : Launch → Launch) : (s.modLaunch k f).grid = s.grid := rfl
@[simp] theorem State.modLaunch_mem (s : State) (k : Nat) (f : Launch → Launch) : (s.modLaunch k f).mem = s.mem := rfl
@[simp] theorem State.modLaunch_pod (s : State) (k : Nat) (f : Launch → Launch) : (s.modLaunch k f).pod = s.pod := rfl
@[simp] theorem State.modLaunch_sys (s : State) (k : Nat) (f : Launch → Launch) : (s.modLaunch k f).sys = s.sys := rfl

/-! ### spend -/

@[simp] theorem State.spend_time (s : State) : (s.spend).time = s.time := rfl
@[simp] theorem State.spend_inputs (s : State) : (s.spend).inputs = s.inputs := rfl
@[simp] theorem State.spend_bc (s : State) : (s.spend).bc = s.bc := rfl
@[simp] theorem State.spend_bcHold (s : State) : (s.spend).bcHold = s.bcHold := rfl
@[simp] theorem State.spend_cur (s : State) : (s.spend).cur = s.cur := rfl
@[simp] theorem State.spend_grid (s : State) : (s.spend).grid = s.grid := rfl
@[simp] theorem State.spend_mem (s : State) : (s.spend).mem = s.mem := rfl
@[simp] theorem State.spend_pod (s : State) : (s.spend).pod = s.pod := rfl
@[simp] theorem State.spend_fw (s : State) : (s.spend).fw = s.fw := rfl
@[simp] theorem State.spend_sys (s : State) : (s.spend).sys = s.sys := rfl

/-! ### note -/

@[simp] theorem State.note_time (s : State) (e : Event) : (s.note e).time = s.time := rfl
@[simp] theorem State.note_inputs (s : State) (e : Event) : (s.note e).inputs = s.inputs := rfl
@[simp] theorem State.note_fresh (s : State) (e : Event) : (s.note e).fresh = s.fresh := rfl
@[simp] theorem State.note_bc (s : State) (e : Event) : (s.note e).bc = s.bc := rfl
@[simp] theorem State.note_bcHold (s : State) (e : Event) : (s.note e).bcHold = s.bcHold := rfl
@[simp] theorem State.note_cur (s : State) (e : Event) : (s.note e).cur = s.cur := rfl
@[simp] theorem State.note_grid (s : State) (e : Event) : (s.note e).grid = s.grid := rfl
@[simp] theorem State.note_mem (s : State) (e : Event) : (s.note e).mem = s.mem := rfl
@[simp] theorem State.note_pod (s : State) (e : Event) : (s.note e).pod = s.pod := rfl
@[simp] theorem State.note_sys (s : State) (e : Event) : (s.note e).sys = s.sys := rfl

/-! ### bump -/

@[simp] theorem State.bump_time (s : State) (b c : Nat) : (s.bump b c).time = s.time := rfl
@[simp] theorem State.bump_inputs (s : State) (b c : Nat) : (s.bump b c).inputs = s.inputs := rfl
@[simp] theorem State.bump_fresh (s : State) (b c : Nat) : (s.bump b c).fresh = s.fresh := rfl
@[simp] theorem State.bump_bc (s : State) (b c : Nat) : (s.bump b c).bc = s.bc := rfl
@[simp] theorem State.bump_bcHold (s : State) (b c : Nat) : (s.bump b c).bcHold = s.bcHold := rfl
@[simp] theorem State.bump_cur (s : State) (b c : Nat) : (s.bump b c).cur = s.cur := rfl
@[simp] theorem State.bump_grid (s : State) (b c : Nat) : (s.bump b c).grid = s.grid := rfl
@[simp] theorem State.bump_mem (s : State) (b c : Nat) : (s.bump b c).mem = s.mem := rfl
@[simp] theorem State.bump_pod (s : State) (b c : Nat) : (s.bump b c).pod = s.pod := rfl
@[simp] theorem State.bump_fw (s : State) (b c : Nat) : (s.bump b c).fw = s.fw := rfl

/-! ### bumpOwner and countMisses -/

/-- What bumpOwner is: one counter of some bank, or nothing. -/
theorem State.bumpOwner_cases (s : State) (o c : Nat) : s.bumpOwner o c = s ∨ ∃ b k, s.bumpOwner o c = s.bump b k := by
  unfold State.bumpOwner
  split
  · exact .inr ⟨_, _, rfl⟩
  · split
    · exact .inr ⟨_, _, rfl⟩
    · exact .inl rfl

@[simp] theorem State.bumpOwner_time (s : State) (o c : Nat) : (s.bumpOwner o c).time = s.time := by
  obtain h | ⟨b, k, h⟩ := s.bumpOwner_cases o c <;> simp [h]
@[simp] theorem State.bumpOwner_inputs (s : State) (o c : Nat) : (s.bumpOwner o c).inputs = s.inputs := by
  obtain h | ⟨b, k, h⟩ := s.bumpOwner_cases o c <;> simp [h]
@[simp] theorem State.bumpOwner_fresh (s : State) (o c : Nat) : (s.bumpOwner o c).fresh = s.fresh := by
  obtain h | ⟨b, k, h⟩ := s.bumpOwner_cases o c <;> simp [h]
@[simp] theorem State.bumpOwner_bc (s : State) (o c : Nat) : (s.bumpOwner o c).bc = s.bc := by
  obtain h | ⟨b, k, h⟩ := s.bumpOwner_cases o c <;> simp [h]
@[simp] theorem State.bumpOwner_bcHold (s : State) (o c : Nat) : (s.bumpOwner o c).bcHold = s.bcHold := by
  obtain h | ⟨b, k, h⟩ := s.bumpOwner_cases o c <;> simp [h]
@[simp] theorem State.bumpOwner_cur (s : State) (o c : Nat) : (s.bumpOwner o c).cur = s.cur := by
  obtain h | ⟨b, k, h⟩ := s.bumpOwner_cases o c <;> simp [h]
@[simp] theorem State.bumpOwner_grid (s : State) (o c : Nat) : (s.bumpOwner o c).grid = s.grid := by
  obtain h | ⟨b, k, h⟩ := s.bumpOwner_cases o c <;> simp [h]
@[simp] theorem State.bumpOwner_mem (s : State) (o c : Nat) : (s.bumpOwner o c).mem = s.mem := by
  obtain h | ⟨b, k, h⟩ := s.bumpOwner_cases o c <;> simp [h]
@[simp] theorem State.bumpOwner_pod (s : State) (o c : Nat) : (s.bumpOwner o c).pod = s.pod := by
  obtain h | ⟨b, k, h⟩ := s.bumpOwner_cases o c <;> simp [h]
@[simp] theorem State.bumpOwner_fw (s : State) (o c : Nat) : (s.bumpOwner o c).fw = s.fw := by
  obtain h | ⟨b, k, h⟩ := s.bumpOwner_cases o c <;> simp [h]

@[simp] theorem State.countMisses_time (s : State) (o : Nat) (ps : List Nat) : (s.countMisses o ps).time = s.time := by
  suffices h : ∀ (xs : List Nat) (u : State), (xs.foldl (fun u _ => u.bump 0 9) u).time = u.time from h _ s
  intro xs
  induction xs with
  | nil => intro u; rfl
  | cons x xs ih => intro u; simpa using ih (u.bump 0 9)
@[simp] theorem State.countMisses_inputs (s : State) (o : Nat) (ps : List Nat) : (s.countMisses o ps).inputs = s.inputs := by
  suffices h : ∀ (xs : List Nat) (u : State), (xs.foldl (fun u _ => u.bump 0 9) u).inputs = u.inputs from h _ s
  intro xs
  induction xs with
  | nil => intro u; rfl
  | cons x xs ih => intro u; simpa using ih (u.bump 0 9)
@[simp] theorem State.countMisses_fresh (s : State) (o : Nat) (ps : List Nat) : (s.countMisses o ps).fresh = s.fresh := by
  suffices h : ∀ (xs : List Nat) (u : State), (xs.foldl (fun u _ => u.bump 0 9) u).fresh = u.fresh from h _ s
  intro xs
  induction xs with
  | nil => intro u; rfl
  | cons x xs ih => intro u; simpa using ih (u.bump 0 9)
@[simp] theorem State.countMisses_bc (s : State) (o : Nat) (ps : List Nat) : (s.countMisses o ps).bc = s.bc := by
  suffices h : ∀ (xs : List Nat) (u : State), (xs.foldl (fun u _ => u.bump 0 9) u).bc = u.bc from h _ s
  intro xs
  induction xs with
  | nil => intro u; rfl
  | cons x xs ih => intro u; simpa using ih (u.bump 0 9)
@[simp] theorem State.countMisses_bcHold (s : State) (o : Nat) (ps : List Nat) : (s.countMisses o ps).bcHold = s.bcHold := by
  suffices h : ∀ (xs : List Nat) (u : State), (xs.foldl (fun u _ => u.bump 0 9) u).bcHold = u.bcHold from h _ s
  intro xs
  induction xs with
  | nil => intro u; rfl
  | cons x xs ih => intro u; simpa using ih (u.bump 0 9)
@[simp] theorem State.countMisses_cur (s : State) (o : Nat) (ps : List Nat) : (s.countMisses o ps).cur = s.cur := by
  suffices h : ∀ (xs : List Nat) (u : State), (xs.foldl (fun u _ => u.bump 0 9) u).cur = u.cur from h _ s
  intro xs
  induction xs with
  | nil => intro u; rfl
  | cons x xs ih => intro u; simpa using ih (u.bump 0 9)
@[simp] theorem State.countMisses_grid (s : State) (o : Nat) (ps : List Nat) : (s.countMisses o ps).grid = s.grid := by
  suffices h : ∀ (xs : List Nat) (u : State), (xs.foldl (fun u _ => u.bump 0 9) u).grid = u.grid from h _ s
  intro xs
  induction xs with
  | nil => intro u; rfl
  | cons x xs ih => intro u; simpa using ih (u.bump 0 9)
@[simp] theorem State.countMisses_mem (s : State) (o : Nat) (ps : List Nat) : (s.countMisses o ps).mem = s.mem := by
  suffices h : ∀ (xs : List Nat) (u : State), (xs.foldl (fun u _ => u.bump 0 9) u).mem = u.mem from h _ s
  intro xs
  induction xs with
  | nil => intro u; rfl
  | cons x xs ih => intro u; simpa using ih (u.bump 0 9)
@[simp] theorem State.countMisses_pod (s : State) (o : Nat) (ps : List Nat) : (s.countMisses o ps).pod = s.pod := by
  suffices h : ∀ (xs : List Nat) (u : State), (xs.foldl (fun u _ => u.bump 0 9) u).pod = u.pod from h _ s
  intro xs
  induction xs with
  | nil => intro u; rfl
  | cons x xs ih => intro u; simpa using ih (u.bump 0 9)
@[simp] theorem State.countMisses_fw (s : State) (o : Nat) (ps : List Nat) : (s.countMisses o ps).fw = s.fw := by
  suffices h : ∀ (xs : List Nat) (u : State), (xs.foldl (fun u _ => u.bump 0 9) u).fw = u.fw from h _ s
  intro xs
  induction xs with
  | nil => intro u; rfl
  | cons x xs ih => intro u; simpa using ih (u.bump 0 9)

/-! ### Reading back -/

@[simp] theorem State.group_setGroup (s : State) (k : Nat) (x : Group) (a : Nat) :
    (s.setGroup k x).group a = if a = k then x else s.group a := Sp.get_set _ _ _ _ _
@[simp] theorem State.group_modGroup (s : State) (k : Nat) (f : Group → Group) (a : Nat) :
    (s.modGroup k f).group a = if a = k then f (s.group k) else s.group a := Sp.get_set _ _ _ _ _
@[simp] theorem State.group_setTrain (s : State) (k : Nat) (x : Train) (a : Nat) : (s.setTrain k x).group a = s.group a := rfl
@[simp] theorem State.group_modTrain (s : State) (k : Nat) (f : Train → Train) (a : Nat) : (s.modTrain k f).group a = s.group a := rfl
@[simp] theorem State.group_setTeam (s : State) (k : Nat) (x : Team) (a : Nat) : (s.setTeam k x).group a = s.group a := rfl
@[simp] theorem State.group_modTeam (s : State) (k : Nat) (f : Team → Team) (a : Nat) : (s.modTeam k f).group a = s.group a := rfl
@[simp] theorem State.group_setCore (s : State) (k : Nat) (x : Core) (a : Nat) : (s.setCore k x).group a = s.group a := rfl
@[simp] theorem State.group_modCore (s : State) (k : Nat) (f : Core → Core) (a : Nat) : (s.modCore k f).group a = s.group a := rfl
@[simp] theorem State.group_setCmdCore (s : State) (k : Nat) (x : CmdCore) (a : Nat) : (s.setCmdCore k x).group a = s.group a := rfl
@[simp] theorem State.group_modCmdCore (s : State) (k : Nat) (f : CmdCore → CmdCore) (a : Nat) : (s.modCmdCore k f).group a = s.group a := rfl
@[simp] theorem State.group_setLaunch (s : State) (k : Nat) (x : Launch) (a : Nat) : (s.setLaunch k x).group a = s.group a := rfl
@[simp] theorem State.group_modLaunch (s : State) (k : Nat) (f : Launch → Launch) (a : Nat) : (s.modLaunch k f).group a = s.group a := rfl
@[simp] theorem State.train_setTrain (s : State) (k : Nat) (x : Train) (a : Nat) :
    (s.setTrain k x).train a = if a = k then x else s.train a := Sp.get_set _ _ _ _ _
@[simp] theorem State.train_modTrain (s : State) (k : Nat) (f : Train → Train) (a : Nat) :
    (s.modTrain k f).train a = if a = k then f (s.train k) else s.train a := Sp.get_set _ _ _ _ _
@[simp] theorem State.train_setGroup (s : State) (k : Nat) (x : Group) (a : Nat) : (s.setGroup k x).train a = s.train a := rfl
@[simp] theorem State.train_modGroup (s : State) (k : Nat) (f : Group → Group) (a : Nat) : (s.modGroup k f).train a = s.train a := rfl
@[simp] theorem State.train_setTeam (s : State) (k : Nat) (x : Team) (a : Nat) : (s.setTeam k x).train a = s.train a := rfl
@[simp] theorem State.train_modTeam (s : State) (k : Nat) (f : Team → Team) (a : Nat) : (s.modTeam k f).train a = s.train a := rfl
@[simp] theorem State.train_setCore (s : State) (k : Nat) (x : Core) (a : Nat) : (s.setCore k x).train a = s.train a := rfl
@[simp] theorem State.train_modCore (s : State) (k : Nat) (f : Core → Core) (a : Nat) : (s.modCore k f).train a = s.train a := rfl
@[simp] theorem State.train_setCmdCore (s : State) (k : Nat) (x : CmdCore) (a : Nat) : (s.setCmdCore k x).train a = s.train a := rfl
@[simp] theorem State.train_modCmdCore (s : State) (k : Nat) (f : CmdCore → CmdCore) (a : Nat) : (s.modCmdCore k f).train a = s.train a := rfl
@[simp] theorem State.train_setLaunch (s : State) (k : Nat) (x : Launch) (a : Nat) : (s.setLaunch k x).train a = s.train a := rfl
@[simp] theorem State.train_modLaunch (s : State) (k : Nat) (f : Launch → Launch) (a : Nat) : (s.modLaunch k f).train a = s.train a := rfl
@[simp] theorem State.team_setTeam (s : State) (k : Nat) (x : Team) (a : Nat) :
    (s.setTeam k x).team a = if a = k then x else s.team a := Sp.get_set _ _ _ _ _
@[simp] theorem State.team_modTeam (s : State) (k : Nat) (f : Team → Team) (a : Nat) :
    (s.modTeam k f).team a = if a = k then f (s.team k) else s.team a := Sp.get_set _ _ _ _ _
@[simp] theorem State.team_setGroup (s : State) (k : Nat) (x : Group) (a : Nat) : (s.setGroup k x).team a = s.team a := rfl
@[simp] theorem State.team_modGroup (s : State) (k : Nat) (f : Group → Group) (a : Nat) : (s.modGroup k f).team a = s.team a := rfl
@[simp] theorem State.team_setTrain (s : State) (k : Nat) (x : Train) (a : Nat) : (s.setTrain k x).team a = s.team a := rfl
@[simp] theorem State.team_modTrain (s : State) (k : Nat) (f : Train → Train) (a : Nat) : (s.modTrain k f).team a = s.team a := rfl
@[simp] theorem State.team_setCore (s : State) (k : Nat) (x : Core) (a : Nat) : (s.setCore k x).team a = s.team a := rfl
@[simp] theorem State.team_modCore (s : State) (k : Nat) (f : Core → Core) (a : Nat) : (s.modCore k f).team a = s.team a := rfl
@[simp] theorem State.team_setCmdCore (s : State) (k : Nat) (x : CmdCore) (a : Nat) : (s.setCmdCore k x).team a = s.team a := rfl
@[simp] theorem State.team_modCmdCore (s : State) (k : Nat) (f : CmdCore → CmdCore) (a : Nat) : (s.modCmdCore k f).team a = s.team a := rfl
@[simp] theorem State.team_setLaunch (s : State) (k : Nat) (x : Launch) (a : Nat) : (s.setLaunch k x).team a = s.team a := rfl
@[simp] theorem State.team_modLaunch (s : State) (k : Nat) (f : Launch → Launch) (a : Nat) : (s.modLaunch k f).team a = s.team a := rfl
@[simp] theorem State.core_setCore (s : State) (k : Nat) (x : Core) (a : Nat) :
    (s.setCore k x).core a = if a = k then x else s.core a := Sp.get_set _ _ _ _ _
@[simp] theorem State.core_modCore (s : State) (k : Nat) (f : Core → Core) (a : Nat) :
    (s.modCore k f).core a = if a = k then f (s.core k) else s.core a := Sp.get_set _ _ _ _ _
@[simp] theorem State.core_setGroup (s : State) (k : Nat) (x : Group) (a : Nat) : (s.setGroup k x).core a = s.core a := rfl
@[simp] theorem State.core_modGroup (s : State) (k : Nat) (f : Group → Group) (a : Nat) : (s.modGroup k f).core a = s.core a := rfl
@[simp] theorem State.core_setTrain (s : State) (k : Nat) (x : Train) (a : Nat) : (s.setTrain k x).core a = s.core a := rfl
@[simp] theorem State.core_modTrain (s : State) (k : Nat) (f : Train → Train) (a : Nat) : (s.modTrain k f).core a = s.core a := rfl
@[simp] theorem State.core_setTeam (s : State) (k : Nat) (x : Team) (a : Nat) : (s.setTeam k x).core a = s.core a := rfl
@[simp] theorem State.core_modTeam (s : State) (k : Nat) (f : Team → Team) (a : Nat) : (s.modTeam k f).core a = s.core a := rfl
@[simp] theorem State.core_setCmdCore (s : State) (k : Nat) (x : CmdCore) (a : Nat) : (s.setCmdCore k x).core a = s.core a := rfl
@[simp] theorem State.core_modCmdCore (s : State) (k : Nat) (f : CmdCore → CmdCore) (a : Nat) : (s.modCmdCore k f).core a = s.core a := rfl
@[simp] theorem State.core_setLaunch (s : State) (k : Nat) (x : Launch) (a : Nat) : (s.setLaunch k x).core a = s.core a := rfl
@[simp] theorem State.core_modLaunch (s : State) (k : Nat) (f : Launch → Launch) (a : Nat) : (s.modLaunch k f).core a = s.core a := rfl
@[simp] theorem State.cmdCore_setCmdCore (s : State) (k : Nat) (x : CmdCore) (a : Nat) :
    (s.setCmdCore k x).cmdCore a = if a = k then x else s.cmdCore a := Sp.get_set _ _ _ _ _
@[simp] theorem State.cmdCore_modCmdCore (s : State) (k : Nat) (f : CmdCore → CmdCore) (a : Nat) :
    (s.modCmdCore k f).cmdCore a = if a = k then f (s.cmdCore k) else s.cmdCore a := Sp.get_set _ _ _ _ _
@[simp] theorem State.cmdCore_setGroup (s : State) (k : Nat) (x : Group) (a : Nat) : (s.setGroup k x).cmdCore a = s.cmdCore a := rfl
@[simp] theorem State.cmdCore_modGroup (s : State) (k : Nat) (f : Group → Group) (a : Nat) : (s.modGroup k f).cmdCore a = s.cmdCore a := rfl
@[simp] theorem State.cmdCore_setTrain (s : State) (k : Nat) (x : Train) (a : Nat) : (s.setTrain k x).cmdCore a = s.cmdCore a := rfl
@[simp] theorem State.cmdCore_modTrain (s : State) (k : Nat) (f : Train → Train) (a : Nat) : (s.modTrain k f).cmdCore a = s.cmdCore a := rfl
@[simp] theorem State.cmdCore_setTeam (s : State) (k : Nat) (x : Team) (a : Nat) : (s.setTeam k x).cmdCore a = s.cmdCore a := rfl
@[simp] theorem State.cmdCore_modTeam (s : State) (k : Nat) (f : Team → Team) (a : Nat) : (s.modTeam k f).cmdCore a = s.cmdCore a := rfl
@[simp] theorem State.cmdCore_setCore (s : State) (k : Nat) (x : Core) (a : Nat) : (s.setCore k x).cmdCore a = s.cmdCore a := rfl
@[simp] theorem State.cmdCore_modCore (s : State) (k : Nat) (f : Core → Core) (a : Nat) : (s.modCore k f).cmdCore a = s.cmdCore a := rfl
@[simp] theorem State.cmdCore_setLaunch (s : State) (k : Nat) (x : Launch) (a : Nat) : (s.setLaunch k x).cmdCore a = s.cmdCore a := rfl
@[simp] theorem State.cmdCore_modLaunch (s : State) (k : Nat) (f : Launch → Launch) (a : Nat) : (s.modLaunch k f).cmdCore a = s.cmdCore a := rfl
@[simp] theorem State.launch_setLaunch (s : State) (k : Nat) (x : Launch) (a : Nat) :
    (s.setLaunch k x).launch a = if a = k then x else s.launch a := Sp.get_set _ _ _ _ _
@[simp] theorem State.launch_modLaunch (s : State) (k : Nat) (f : Launch → Launch) (a : Nat) :
    (s.modLaunch k f).launch a = if a = k then f (s.launch k) else s.launch a := Sp.get_set _ _ _ _ _
@[simp] theorem State.launch_setGroup (s : State) (k : Nat) (x : Group) (a : Nat) : (s.setGroup k x).launch a = s.launch a := rfl
@[simp] theorem State.launch_modGroup (s : State) (k : Nat) (f : Group → Group) (a : Nat) : (s.modGroup k f).launch a = s.launch a := rfl
@[simp] theorem State.launch_setTrain (s : State) (k : Nat) (x : Train) (a : Nat) : (s.setTrain k x).launch a = s.launch a := rfl
@[simp] theorem State.launch_modTrain (s : State) (k : Nat) (f : Train → Train) (a : Nat) : (s.modTrain k f).launch a = s.launch a := rfl
@[simp] theorem State.launch_setTeam (s : State) (k : Nat) (x : Team) (a : Nat) : (s.setTeam k x).launch a = s.launch a := rfl
@[simp] theorem State.launch_modTeam (s : State) (k : Nat) (f : Team → Team) (a : Nat) : (s.modTeam k f).launch a = s.launch a := rfl
@[simp] theorem State.launch_setCore (s : State) (k : Nat) (x : Core) (a : Nat) : (s.setCore k x).launch a = s.launch a := rfl
@[simp] theorem State.launch_modCore (s : State) (k : Nat) (f : Core → Core) (a : Nat) : (s.modCore k f).launch a = s.launch a := rfl
@[simp] theorem State.launch_setCmdCore (s : State) (k : Nat) (x : CmdCore) (a : Nat) : (s.setCmdCore k x).launch a = s.launch a := rfl
@[simp] theorem State.launch_modCmdCore (s : State) (k : Nat) (f : CmdCore → CmdCore) (a : Nat) : (s.modCmdCore k f).launch a = s.launch a := rfl

end Sys2Proof.Machine
end

