-- ==== Sys2Proof/Laws/Ops.lean ====
section
/-!
SUPPORT. What the shared operations do: checks, landings, lanes.
-/

namespace Sys2Proof.Machine

/-! ### Checks -/

theorem check_pass (c : Bool) (f : Flt) (h : c = true) : check c f = none := by simp [check, h]

theorem check_fail (c : Bool) (f : Flt) (h : c = false) : check c f = some f := by simp [check, h]

/-- Every check passes: the effect. -/
theorem attempt_pass (s : State) (cs : List (Option Flt)) (e : State → State) (h : ∀ c ∈ cs, c = none) :
    attempt s cs e = .next (e s) := by
  have : cs.findSome? id = none := List.findSome?_eq_none_iff.2 fun c hc => h c hc
  simp [attempt, this]

/-- The first failing check raises its fault. -/
theorem attempt_fail (s : State) (cs : List (Option Flt)) (e : State → State) (f : Flt) (h : cs.findSome? id = some f) :
    attempt s cs e = .next (s.raise f) := by simp [attempt, h]

theorem chkRegs_ready (s : State) (vs : List Nat) (ds : List Dst) (h : s.ready vs ds) : chkRegs s vs = none := by
  obtain ⟨a, b, _⟩ := h
  apply check_pass
  simp only [Bool.and_eq_true, List.all_eq_true, decide_eq_true_eq, Bool.not_eq_true', Bool.and_eq_false_iff, Bool.not_eq_false']
  refine ⟨a, b.imp id fun b => ?_⟩
  simpa [State.issueSlot] using b

theorem chkPend_ready (s : State) (vs : List Nat) (ds : List Dst) (h : s.ready vs ds) : chkPend s ds = none := by
  apply check_pass
  simp only [Bool.or_eq_true, List.all_eq_true, Bool.not_eq_true']
  exact h.2.2

/-- The two checks that every register instruction makes. -/
theorem attempt_ready (s : State) (vs : List Nat) (ds : List Dst) (e : State → State) (h : s.ready vs ds) :
    attempt s [chkRegs s vs, chkPend s ds] e = .next (e s) :=
  attempt_pass s _ e (by simp [chkRegs_ready s vs ds h, chkPend_ready s vs ds h])

/-! ### Landings -/

theorem State.later_result (s : State) (lat : Nat) (w : Landing) : s.later lat w = s.result lat [w] := by
  unfold State.later State.result
  split <;> simp

theorem State.land_cur (s : State) (k : Nat) (w : Landing) : (s.land k w).cur = s.cur := by
  cases w <;> simp [State.land]
  split <;> simp

theorem State.lands_cur (ws : List Landing) (s : State) (k : Nat) : (ws.foldl (fun s w => s.land k w) s).cur = s.cur := by
  induction ws generalizing s with
  | nil => rfl
  | cons w ws ih => simp only [List.foldl_cons, ih, State.land_cur]

@[simp] theorem State.result_cur (s : State) (lat : Nat) (ws : List Landing) : (s.result lat ws).cur = s.cur := by
  unfold State.result
  split
  · exact State.lands_cur ws s _
  · rfl

theorem State.result_result (s : State) (lat : Nat) (ws ws' : List Landing) :
    (s.result lat ws).result lat ws' = s.result lat (ws ++ ws') := by
  cases h : s.cur.cmd
  case true =>
    have k := State.lands_cur ws s s.cur.key
    simp only [State.result, h, if_true, List.foldl_append, k]
  case false => simp [State.result, h, State.now, State.myTrain, State.train]

theorem State.later_later (s : State) (lat : Nat) (w w' : Landing) : (s.later lat w).later lat w' = s.result lat [w, w'] := by
  rw [State.later_result, State.later_result, State.result_result]; rfl

theorem State.result_nil (s : State) (lat : Nat) : s.result lat [] = s := by simp [State.result]

theorem State.landScalar_result (s : State) (h : Head) (lat dst : Nat) (x : W64) :
    s.landScalar h lat dst x = s.scalarResult h lat dst x := State.later_result _ _ _

/-! ### Lanes -/

theorem Group.vec_eq (g : Group) (r : Nat) : g.vec r = (List.range g.width).map (g.readVec r) := Sp.range_eq _ _ _ _

theorem pick_map {α : Type} (w : Nat) (m : W64) (f : Nat → α) :
    pick w m ((List.range w).map f) = (lanesOf w m).map fun l => (l, f l) := by
  have z : (List.range w).zip ((List.range w).map f) = (List.range w).map fun l => (l, f l) := by
    rw [List.zip_eq_zipWith, List.zipWith_map_right, List.zipWith_self]
  simp only [pick, lanesOf, z, List.filter_map]
  rfl

theorem State.landVec_lanes (s : State) (h : Head) (lat dst : Nat) (f : Nat → W32) :
    s.landVec h lat dst ((List.range s.me.width).map f) = s.result lat [.vec dst (s.perLane h f)] := by
  simp only [State.landVec, State.later_result, pick_map, State.perLane]

theorem VSrc.vec_lanes (s : State) (b : VSrc) : b.vec s = (List.range s.me.width).map (fun l => b.lane s l) := by
  cases b with
  | reg n => exact Group.vec_eq _ _
  | imm x => simp [VSrc.vec, VSrc.lane, List.map_const']

theorem zipWith_lanes {α β γ : Type} (f : α → β → γ) (g : Nat → α) (k : Nat → β) (n : Nat) :
    ((List.range n).map g).zipWith f ((List.range n).map k) = (List.range n).map fun l => f (g l) (k l) := by
  simp [List.zipWith_map, List.zipWith_self]

theorem zip_lanes {β γ : Type} (g : Nat → β) (k : Nat → γ) (n : Nat) :
    ((List.range n).map g).zip ((List.range n).map k) = (List.range n).map fun l => (g l, k l) := by
  rw [List.zip_eq_zipWith, zipWith_lanes]

theorem State.laned_lanes {β : Type} (s : State) (g : Nat → β) :
    s.laned ((List.range s.me.width).map g) = (List.range s.me.width).map fun l => (l, g l) := by
  have := zip_lanes id g s.me.width
  simpa [State.laned] using this

end Sys2Proof.Machine
end

