-- ==== Sys2Proof/Certificates/Slice0/Obligations.lean ====
section
/-!
DEFINITION. The statements for the provers, family by family.
-/

open Sys2Proof Sys2Proof.Machine

/-! ### Class 0: scalar instructions -/

/-- R230's results of the instructions that compute with two or three scalars, with R229's latencies. -/
def Obligations.ScalarArithmeticResults : Prop :=
  ∀ (h : Head) (o : S2) (o3 : S3) (sh : Nat) (s : State),
    let a := s.scalar o.sa
    let b := o.b.val s
    let n := b.toNat % 64
    (s.ready [] [.scal o.dst] →
      exec (.add h o) s = .next (s.scalarResult h 2 o.dst (BitVec.ofNat 64 (a.toNat + b.toNat))) ∧
      exec (.sub h o) s = .next (s.scalarResult h 2 o.dst (BitVec.ofInt 64 ((a.toNat : Int) - b.toNat))) ∧
      exec (.mul h o) s = .next (s.scalarResult h 4 o.dst (BitVec.ofNat 64 (a.toNat * b.toNat))) ∧
      exec (.mulh h o) s = .next (s.scalarResult h 4 o.dst (BitVec.ofInt 64 (a.toInt * b.toInt / 2 ^ 64))) ∧
      exec (.mulhu h o) s = .next (s.scalarResult h 4 o.dst (BitVec.ofNat 64 (a.toNat * b.toNat / 2 ^ 64))) ∧
      exec (.and h o) s = .next (s.scalarResult h 2 o.dst (a &&& b)) ∧
      exec (.or h o) s = .next (s.scalarResult h 2 o.dst (a ||| b)) ∧
      exec (.xor h o) s = .next (s.scalarResult h 2 o.dst (a ^^^ b)) ∧
      exec (.andn h o) s = .next (s.scalarResult h 2 o.dst (a &&& ~~~b)) ∧
      exec (.shl h o) s = .next (s.scalarResult h 2 o.dst (BitVec.ofNat 64 (a.toNat * 2 ^ n))) ∧
      exec (.shr h o) s = .next (s.scalarResult h 2 o.dst (BitVec.ofNat 64 (a.toNat / 2 ^ n))) ∧
      exec (.sra h o) s = .next (s.scalarResult h 2 o.dst (BitVec.ofInt 64 (a.toInt / (2 ^ n : Nat)))) ∧
      exec (.rol h o) s = .next (s.scalarResult h 2 o.dst (BitVec.ofNat 64 (a.toNat * 2 ^ n + a.toNat / 2 ^ (64 - n)))) ∧
      exec (.min h o) s = .next (s.scalarResult h 2 o.dst (BitVec.ofInt 64 (min a.toInt b.toInt))) ∧
      exec (.max h o) s = .next (s.scalarResult h 2 o.dst (BitVec.ofInt 64 (max a.toInt b.toInt))) ∧
      exec (.minu h o) s = .next (s.scalarResult h 2 o.dst (BitVec.ofNat 64 (min a.toNat b.toNat))) ∧
      exec (.maxu h o) s = .next (s.scalarResult h 2 o.dst (BitVec.ofNat 64 (max a.toNat b.toNat))) ∧
      exec (.lea h sh o) s = .next (s.scalarResult h 2 o.dst (BitVec.ofNat 64 (a.toNat + b.toNat * 2 ^ sh)))) ∧
    (s.ready [] [.scal o3.dst] →
      exec (.mad h o3) s = .next (s.scalarResult h 4 o3.dst
        (BitVec.ofNat 64 ((s.scalar o3.sa).toNat * (s.scalar o3.sb).toNat + (s.scalar o3.sc).toNat))))

/-- R234. -/
def Obligations.ScalarDivisionNeverFaults : Prop :=
  ∀ (h : Head) (o : S2) (s : State), s.ready [] [.scal o.dst] →
    let a := s.scalar o.sa
    let b := o.b.val s
    exec (.divu h o) s = .next (s.scalarResult h 20 o.dst (if b.toNat = 0 then 0xFFFFFFFFFFFFFFFF else BitVec.ofNat 64 (a.toNat / b.toNat))) ∧
    exec (.remu h o) s = .next (s.scalarResult h 20 o.dst
      (if b.toNat = 0 then a else BitVec.ofNat 64 (a.toNat - b.toNat * (a.toNat / b.toNat))))

/-- R230's bit counts and R232's bit fields. -/
def Obligations.ScalarBitResults : Prop :=
  ∀ (h : Head) (o : S1) (o2 : S2) (p wm1 : Nat) (s : State), p + wm1 < 64 →
    let a := s.scalar o.sa
    let w := wm1 + 1
    let f := a.toNat / 2 ^ p % 2 ^ w
    (s.ready [] [.scal o.dst] →
      (∃ n, exec (.clz h o) s = .next (s.scalarResult h 2 o.dst (BitVec.ofNat 64 n)) ∧ n ≤ 64 ∧ a.toNat < 2 ^ (64 - n) ∧
        (a.toNat ≠ 0 → n < 64 ∧ 2 ^ (63 - n) ≤ a.toNat) ∧ (a.toNat = 0 → n = 64)) ∧
      (∃ n, exec (.ctz h o) s = .next (s.scalarResult h 2 o.dst (BitVec.ofNat 64 n)) ∧ n ≤ 64 ∧ (∀ i < n, a.getLsbD i = false) ∧
        (a.toNat ≠ 0 → n < 64 ∧ a.getLsbD n = true) ∧ (a.toNat = 0 → n = 64)) ∧
      exec (.popc h o) s = .next (s.scalarResult h 2 o.dst (BitVec.ofNat 64 ((List.range 64).countP fun i => a.getLsbD i))) ∧
      (∃ r, exec (.brev h o) s = .next (s.scalarResult h 2 o.dst r) ∧ ∀ i < 64, r.getLsbD i = a.getLsbD (63 - i)) ∧
      exec (.bfxu h p wm1 o) s = .next (s.scalarResult h 2 o.dst (BitVec.ofNat 64 f)) ∧
      exec (.bfx h p wm1 o) s = .next (s.scalarResult h 2 o.dst
        (BitVec.ofInt 64 (if f < 2 ^ wm1 then (f : Int) else (f : Int) - (2 ^ w : Nat))))) ∧
    (s.ready [] [.scal o2.dst] → ∃ r, exec (.bfi h p wm1 o2) s = .next (s.scalarResult h 2 o2.dst r) ∧
      ∀ i < 64, r.getLsbD i = if p ≤ i ∧ i < p + w then (s.scalar o2.sa).getLsbD (i - p) else (o2.b.val s).getLsbD i)

/-- R231 and R233: comparisons into a condition, selection, copies and immediates. -/
def Obligations.ScalarCompareSelectMove : Prop :=
  ∀ (h : Head) (o : S2) (u : S1) (cc cn dst : Nat) (neg : Bool) (x : MovImm) (s : State), cc < 10 →
    let a := s.scalar o.sa
    let b := o.b.val s
    let rel : Bool := match cc with
      | 0 => a = b
      | 1 => a ≠ b
      | 2 => a.toInt < b.toInt
      | 3 => a.toInt ≤ b.toInt
      | 4 => a.toInt > b.toInt
      | 5 => a.toInt ≥ b.toInt
      | 6 => a.toNat < b.toNat
      | 7 => a.toNat ≤ b.toNat
      | 8 => a.toNat > b.toNat
      | _ => a.toNat ≥ b.toNat
    (s.ready [] [.cond o.dst] →
      exec (.cmp h cc o) s = .next (s.result 2 [.cond o.dst (if s.holds h then some rel else none)])) ∧
    (s.ready [] [.scal o.dst] →
      exec (.sel h cn neg o) s = .next (s.scalarResult h 2 o.dst (if s.me.readCond cn = !neg then a else b))) ∧
    (s.ready [] [.scal u.dst] → exec (.mov h u) s = .next (s.scalarResult h 2 u.dst (s.scalar u.sa))) ∧
    (s.ready [] [.scal dst] → exec (.movi h dst x) s = .next (s.scalarResult h 2 dst (match x with
      | .imm16 k => BitVec.ofInt 64 k.toInt
      | .imm32 k => BitVec.ofInt 64 k.toInt
      | .imm64 k => k)))

/-! ### Class 1: vector integers and masks -/

/-- R257's element arithmetic, comparisons and shifts: every element of every active lane, at every packing. -/
def Obligations.IntegerElementResults : Prop :=
  ∀ (h : Head) (o : V2) (o1 : V1) (o3 : V3) (s : State), o.pk < 3 → o1.pk < 3 → o3.pk < 3 →
    let w := elemWidth o.pk
    let x (l j : Nat) : Nat := s.elem w o.sa l j
    let y (l j : Nat) : Nat := bitsOf (o.b.lane s l).toNat (w * j) w
    let sg (n : Nat) : Int := if 2 * n < 2 ^ w then n else (n : Int) - (2 ^ w : Nat)
    let i (n : Nat) : Int := if o.u then n else sg n
    let word (k : Int) : Nat := (k % (2 ^ w : Nat)).toNat
    let low : Int := if o.u then 0 else -(2 ^ (w - 1) : Nat)
    let high : Int := if o.u then (2 ^ w - 1 : Nat) else (2 ^ (w - 1) - 1 : Nat)
    let w1 := elemWidth o1.pk
    let x1 (l j : Nat) : Nat := s.elem w1 o1.sa l j
    let w3 := elemWidth o3.pk
    (s.ready ([o.dst, o.sa] ++ o.b.vregs) [.vec o.dst] →
      Elementwise (.iadd h o) s h 4 o.pk o.dst (fun l j => (x l j + y l j) % 2 ^ w) ∧
      Elementwise (.isub h o) s h 4 o.pk o.dst (fun l j => word ((x l j : Int) - y l j)) ∧
      Elementwise (.imul h o) s h 6 o.pk o.dst (fun l j => x l j * y l j % 2 ^ w) ∧
      Elementwise (.imulh h o) s h 6 o.pk o.dst (fun l j => word (i (x l j) * i (y l j) / (2 ^ w : Nat))) ∧
      Elementwise (.iabsd h o) s h 4 o.pk o.dst (fun l j => (i (x l j) - i (y l j)).natAbs) ∧
      Elementwise (.imin h o) s h 4 o.pk o.dst (fun l j => if sg (y l j) < sg (x l j) then y l j else x l j) ∧
      Elementwise (.imax h o) s h 4 o.pk o.dst (fun l j => if sg (y l j) > sg (x l j) then y l j else x l j) ∧
      Elementwise (.iminu h o) s h 4 o.pk o.dst (fun l j => min (x l j) (y l j)) ∧
      Elementwise (.imaxu h o) s h 4 o.pk o.dst (fun l j => max (x l j) (y l j)) ∧
      Elementwise (.iadds h o) s h 4 o.pk o.dst (fun l j => word (max low (min high (i (x l j) + i (y l j))))) ∧
      Elementwise (.isubs h o) s h 4 o.pk o.dst (fun l j => word (max low (min high (i (x l j) - i (y l j))))) ∧
      Elementwise (.ishl h o) s h 4 o.pk o.dst (fun l j => x l j * 2 ^ (y l j % w) % 2 ^ w) ∧
      Elementwise (.ishr h o) s h 4 o.pk o.dst (fun l j => x l j / 2 ^ (y l j % w)) ∧
      Elementwise (.isra h o) s h 4 o.pk o.dst (fun l j => word (sg (x l j) / (2 ^ (y l j % w) : Nat)))) ∧
    (s.ready [o1.dst, o1.sa] [.vec o1.dst] →
      Elementwise (.iabs h o1) s h 4 o1.pk o1.dst (fun l j => if 2 * x1 l j < 2 ^ w1 then x1 l j else 2 ^ w1 - x1 l j) ∧
      Elementwise (.ipopc h o1) s h 4 o1.pk o1.dst (fun l j => (List.range w1).countP fun k => bitOf (x1 l j) k) ∧
      Elementwise (.iclz h o1) s h 4 o1.pk o1.dst (fun l j => w1 - (if x1 l j = 0 then 0 else Nat.log2 (x1 l j) + 1)) ∧
      Elementwise (.ibrev h o1) s h 4 o1.pk o1.dst
        (fun l j => ((List.range w1).map fun k => if bitOf (x1 l j) k then 2 ^ (w1 - 1 - k) else 0).sum)) ∧
    (s.ready [o3.dst, o3.sa, o3.sb, o3.sc] [.vec o3.dst] →
      Elementwise (.imad h o3) s h 6 o3.pk o3.dst
        (fun l j => (s.elem w3 o3.sa l j * s.elem w3 o3.sb l j + s.elem w3 o3.sc l j) % 2 ^ w3))

/-- R258: the larger of each pair of elements, a tie keeping the first operand's, and which operand won, in a mask or a scalar. -/
def Obligations.IntegerMaximumWithDecision : Prop :=
  ∀ (h : Head) (dec : Decision) (o : V2) (s : State), o.pk < 3 → dec.ok o.pk = true →
    s.ready ([o.dst, o.sa] ++ o.b.vregs) [.vec o.dst, match dec with | .mask m _ => .mask m | .scalar n _ => .scal n] →
    let e := elems o.pk
    let w := elemWidth o.pk
    let x (l j : Nat) : Nat := s.elem w o.sa l j
    let y (l j : Nat) : Nat := bitsOf (o.b.lane s l).toNat (w * j) w
    let i (n : Nat) : Int := if o.u then n else if 2 * n < 2 ^ w then n else (n : Int) - (2 ^ w : Nat)
    let won (l j : Nat) : Bool := i (y l j) > i (x l j)
    ∃ (v : Nat → W32) (d : W64),
      exec (.imaxb h dec o) s = .next (s.result 4 [.vec o.dst (s.perLane h v), match dec with
        | .mask m _ => .mask m (s.active h) d
        | .scalar n _ => s.scalarDst n (if s.active h ≠ 0 then some d else none)]) ∧
      (∀ l < s.me.width, ∀ j < e, bitsOf (v l).toNat (w * j) w = if won l j then y l j else x l j) ∧
      (match dec with
        | .mask _ el => ∀ l < s.me.width, l < 64 → d.getLsbD l = won l el
        | .scalar _ seg => ∀ k < 64, d.getLsbD k =
            let l := (64 * seg + k) / e
            (decide (l < s.me.width) && bitAt (s.active h) l && won l ((64 * seg + k) % e)))

/-- R257 and R259 on whole lanes: bitwise operations, selection, copies, immediates and bit fields. -/
def Obligations.IntegerLaneResults : Prop :=
  ∀ (h : Head) (o : V2) (o1 : V1) (sm dst p wm1 n : Nat) (sn u : Bool) (x : MovImm) (s : State), p + wm1 < 32 →
    let a (l : Nat) : W32 := s.v o.sa l
    let b (l : Nat) : W32 := o.b.lane s l
    let w := wm1 + 1
    (s.ready ([o.dst, o.sa] ++ o.b.vregs) [.vec o.dst] →
      exec (.iand h o) s = .next (s.result 4 [.vec o.dst (s.perLane h fun l => a l &&& b l)]) ∧
      exec (.ior h o) s = .next (s.result 4 [.vec o.dst (s.perLane h fun l => a l ||| b l)]) ∧
      exec (.ixor h o) s = .next (s.result 4 [.vec o.dst (s.perLane h fun l => a l ^^^ b l)]) ∧
      exec (.isel h sm sn o) s = .next (s.result 4 [.vec o.dst (s.perLane h fun l =>
        if bitAt (s.me.readMask sm) l = !sn then a l else b l)]) ∧
      ∃ r : Nat → W32, exec (.ibfi h p wm1 o) s = .next (s.result 4 [.vec o.dst (s.perLane h r)]) ∧
        ∀ l < s.me.width, ∀ k < 32, (r l).getLsbD k = if p ≤ k ∧ k < p + w then (a l).getLsbD (k - p) else (b l).getLsbD k) ∧
    (s.ready [o1.dst, o1.sa] [.vec o1.dst] →
      exec (.inot h o1) s = .next (s.result 4 [.vec o1.dst (s.perLane h fun l => ~~~(s.v o1.sa l))]) ∧
      exec (.ibfx h u p wm1 o1) s = .next (s.result 4 [.vec o1.dst (s.perLane h fun l =>
        let f := (s.v o1.sa l).toNat / 2 ^ p % 2 ^ w
        BitVec.ofInt 32 (if u ∨ f < 2 ^ wm1 then (f : Int) else (f : Int) - (2 ^ w : Nat)))])) ∧
    (s.ready [dst, n] [.vec dst] →
      exec (.imov h dst (.vec n)) s = .next (s.result 4 [.vec dst (s.perLane h fun l => s.v n l)])) ∧
    (s.ready [dst] [.vec dst] →
      exec (.imov h dst (.other n)) s = .next (s.result 4 [.vec dst (s.perLane h fun l =>
        if n = 128 then BitVec.ofNat 32 l else (s.scalar n).truncate 32)]) ∧
      exec (.imovi h dst x) s = .next (s.result 4 [.vec dst (s.perLane h fun _ => match x with
        | .imm16 k => BitVec.ofInt 32 k.toInt
        | .imm32 k => k
        | .imm64 k => k.truncate 32)]))

/-- R257's comparisons into a mask, mask operations and population count. -/
def Obligations.MaskResults : Prop :=
  ∀ (h : Head) (cc el dst sa : Nat) (o : V2) (m : M2) (s : State), o.pk < 3 → el < elems o.pk → cc < 10 →
    let w := elemWidth o.pk
    let x (l : Nat) : Nat := s.elem w o.sa l el
    let y (l : Nat) : Nat := bitsOf (o.b.lane s l).toNat (w * el) w
    let sg (n : Nat) : Int := if 2 * n < 2 ^ w then n else (n : Int) - (2 ^ w : Nat)
    let rel (l : Nat) : Bool := match cc with
      | 0 => x l = y l
      | 1 => x l ≠ y l
      | 2 => sg (x l) < sg (y l)
      | 3 => sg (x l) ≤ sg (y l)
      | 4 => sg (x l) > sg (y l)
      | 5 => sg (x l) ≥ sg (y l)
      | 6 => x l < y l
      | 7 => x l ≤ y l
      | 8 => x l > y l
      | _ => x l ≥ y l
    let ma := s.me.readMask m.sa
    let mb := if m.nb then ~~~(s.me.readMask m.sb) else s.me.readMask m.sb
    (s.ready (o.sa :: o.b.vregs) [.mask o.dst] → ∃ d : W64,
      exec (.icmp h cc el o) s = .next (s.result 4 [.mask o.dst (s.active h) d]) ∧
        ∀ l < s.me.width, l < 64 → d.getLsbD l = rel l) ∧
    (s.ready [] [.mask m.dst] →
      exec (.mand h m) s = .next (s.result 4 [.mask m.dst (s.active h) (ma &&& mb)]) ∧
      exec (.mor h m) s = .next (s.result 4 [.mask m.dst (s.active h) (ma ||| mb)]) ∧
      exec (.mxor h m) s = .next (s.result 4 [.mask m.dst (s.active h) (ma ^^^ mb)])) ∧
    (s.ready [] [.scal dst] →
      exec (.mpop h dst sa) s = .next (s.result 4 [s.scalarDst dst (if s.active h ≠ 0 then
        some (BitVec.ofNat 64 ((List.range s.me.width).countP fun l => bitAt (s.active h) l && bitAt (s.me.readMask sa) l)) else none)]))

/-! ### Class 2: floating point and quantisation -/

/-- R87, R107, R108 and R112: the neighbour of an exact quotient that each mode chooses and whether the result is inexact, and a
representable value of every format, which rounds to its own encoding in every mode and raises no flag. -/
def Obligations.RoundingChoosesNeighbour : Prop :=
  (∀ (r : Rounding) (neg : Bool) (m k : Nat),
    let q := m / 2 ^ k
    let rem := m % 2 ^ k
    let away : Bool := match r.mode with
      | 0 => 2 ^ k < 2 * rem || (2 * rem == 2 ^ k && q % 2 == 1)
      | 1 => false
      | 2 => !neg
      | 3 => neg
      | _ => r.d < 32 * rem / 2 ^ k || (32 * rem / 2 ^ k == r.d && 32 * rem % 2 ^ k != 0)
    roundShift r neg m k = if rem = 0 then (q, false) else (if away then q + 1 else q, true)) ∧
  ∀ t ∈ [fp32, bf16, fp16, e4m3, e5m2, e3m2, e2m3, e2m1], ∀ (r : Rounding) (x : Nat), x < 2 ^ t.w → t.value x ≠ .nan →
    t.round r (t.value x) = (x, 0)

/-- The encodings of binary32 NaNs (R87, R89). -/
def Sys2Proof.Machine.nanBits (x : Nat) : Bool := 0x7F800000 < x % 2 ^ 31

/-- The order of R116 on binary32 encodings that are no NaN: −0 lies below +0. -/
def Sys2Proof.Machine.numberOrder (x : Nat) : Int := if x < 2 ^ 31 then x else 2 ^ 31 - 1 - x

/-- minimumNumber and maximumNumber of two binary32 encodings (R116). -/
def Sys2Proof.Machine.chosenNumber (wantMax : Bool) (a b : Nat) : Nat :=
  if nanBits a && nanBits b then 0x7FC00000
  else if nanBits a then b
  else if nanBits b then a
  else if wantMax then (if numberOrder a < numberOrder b then b else a)
  else if numberOrder b < numberOrder a then b else a

/-- R261's operations on binary32 lanes: the exact result rounded once (R107), with the union of the active lanes' flags (R84); R116's
smaller and larger number; the integral value that `roundShift`, which RoundingChoosesNeighbour describes, chooses (FRND); and R264's nine
classes. -/
def Obligations.FloatResults : Prop :=
  ∀ (h : Head) (o : F2) (o1 : F1) (o3 : F3) (half neg : Bool) (dst sa : Nat) (s : State),
    let a (l : Nat) : W32 := s.v o.sa l
    let b (l : Nat) : W32 := o.b.lane s l
    let R (l : Nat) : Rounding := roundingOf s.fmt o.rm o.sat (l % 32)
    let a3 (l : Nat) : W32 := s.v o3.sa l
    let b3 (l : Nat) : W32 := s.v o3.sb l
    let c3 (l : Nat) : W32 := s.v o3.sc l
    let R3 (l : Nat) : Rounding := roundingOf s.fmt o3.rm o3.sat (l % 32)
    (s.ready (o.dst :: o.sa :: o.b.vregs) [.vec o.dst] →
      exec (.fadd h o) s = .next (s.result 6 (s.floatLandings h o.dst fun l =>
        round32 (R l) (sumVals ((R l).mode == 3) [val32 (a l), val32 (b l)]))) ∧
      exec (.fsub h o) s = .next (s.result 6 (s.floatLandings h o.dst fun l =>
        round32 (R l) (sumVals ((R l).mode == 3) [val32 (a l), (val32 (b l)).neg]))) ∧
      exec (.fmul h o) s = .next (s.result 6 (s.floatLandings h o.dst fun l =>
        round32 (R l) (mulVal (val32 (a l)) (val32 (b l))))) ∧
      exec (.fscale h o) s = .next (s.result 6 (s.floatLandings h o.dst fun l =>
        fp32.round (R l) ((val32 (a l)).scale (b l).toInt))) ∧
      exec (.fmin h o) s = .next (s.result 6 [.vec o.dst (s.perLane h fun l =>
        BitVec.ofNat 32 (chosenNumber false (a l).toNat (b l).toNat))]) ∧
      exec (.fmax h o) s = .next (s.result 6 [.vec o.dst (s.perLane h fun l =>
        BitVec.ofNat 32 (chosenNumber true (a l).toNat (b l).toNat))])) ∧
    (s.ready [o3.dst, o3.sa, o3.sb, o3.sc] [.vec o3.dst] →
      exec (.fma h o3) s = .next (s.result 6 (s.floatLandings h o3.dst fun l =>
        round32 (R3 l) (fmaVal ((R3 l).mode == 3) (val32 (a3 l)) (val32 (b3 l)) (val32 (c3 l))))) ∧
      exec (.fdot2 h half o3) s = .next (s.result 6 (s.floatLandings h o3.dst fun l =>
        let el (x : W32) (j : Nat) : Val := (if half then fp16 else bf16).value (x.toNat / 2 ^ (16 * j) % 2 ^ 16)
        let p0 := mulVal (el (a3 l) 0) (el (b3 l) 0)
        let p1 := mulVal (el (a3 l) 1) (el (b3 l) 1)
        round32 (R3 l) (if p0.2 ≠ 0 ∨ p1.2 ≠ 0 then (.nan, flagNV)
          else sumVals ((R3 l).mode == 3) [p0.1, p1.1, val32 (c3 l)])))) ∧
    (s.ready [o1.dst, o1.sa] [.vec o1.dst] →
      exec (.frnd h o1) s = .next (s.result 6 (s.floatLandings h o1.dst fun l =>
        let x := (s.v o1.sa l).toNat
        let e := x / 2 ^ 23 % 2 ^ 8
        let n := roundShift (roundingOf s.fmt o1.rm false (l % 32)) (2 ^ 31 ≤ x) (x % 2 ^ 23 + if e = 0 then 0 else 2 ^ 23) (150 - max e 1)
        let top := Nat.log2 n.1
        if nanBits x then (0x7FC00000, 0)
        else if 150 ≤ e then (x, 0)
        else (x / 2 ^ 31 * 2 ^ 31 + (if n.1 = 0 then 0 else (top + 126) * 2 ^ 23 + n.1 * 2 ^ (23 - top)), if n.2 then flagNX else 0)))) ∧
    (s.ready [dst, sa] [.vec dst] →
      exec (.fabs h neg dst sa) s = .next (s.result 6 [.vec dst (s.perLane h fun l =>
        let x := s.v sa l
        if val32 x = .nan then 0x7FC00000 else if neg then x ^^^ 0x80000000 else x &&& 0x7FFFFFFF)]) ∧
      exec (.fclass h dst sa) s = .next (s.result 6 [.vec dst (s.perLane h fun l =>
        let x := (s.v sa l).toNat
        let mag := x % 2 ^ 31
        let row := if mag = 0x7F800000 then 0 else if 2 ^ 23 ≤ mag then 1 else if mag ≠ 0 then 2 else 3
        BitVec.ofNat 32 (2 ^ if nanBits x then 8 else if 2 ^ 31 ≤ x then row else 7 - row))]))

/-- R262: each register of a pair on its own, with both destinations' results. -/
def Obligations.FloatPairResults : Prop :=
  ∀ (h : Head) (o : F2) (o3 : F3) (n : Nat) (s : State), o.b = .reg n →
    let R (j l : Nat) : Rounding := roundingOf s.fmt o.rm o.sat ((2 * l + j) % 32)
    let a (j l : Nat) : Val := val32 (s.v (o.sa + j) l)
    let b (j l : Nat) : Val := val32 (s.v (n + j) l)
    let R3 (j l : Nat) : Rounding := roundingOf s.fmt o3.rm o3.sat ((2 * l + j) % 32)
    let sum (j l : Nat) : Nat × Nat := round32 (R j l) (sumVals ((R j l).mode == 3) [a j l, b j l])
    let prod (j l : Nat) : Nat × Nat := round32 (R j l) (mulVal (a j l) (b j l))
    let f (j l : Nat) : Nat × Nat := round32 (R3 j l)
      (fmaVal ((R3 j l).mode == 3) (val32 (s.v (o3.sa + j) l)) (val32 (s.v (o3.sb + j) l)) (val32 (s.v (o3.sc + j) l)))
    (s.ready [o.dst, o.dst + 1, o.sa, o.sa + 1, n, n + 1] [.vec o.dst, .vec (o.dst + 1)] →
      exec (.fadd2 h o) s = .next (s.result 6 (s.floatLandings h o.dst (sum 0) ++ s.floatLandings h (o.dst + 1) (sum 1))) ∧
      exec (.fmul2 h o) s = .next (s.result 6 (s.floatLandings h o.dst (prod 0) ++ s.floatLandings h (o.dst + 1) (prod 1)))) ∧
    (s.ready [o3.dst, o3.dst + 1, o3.sa, o3.sa + 1, o3.sb, o3.sb + 1, o3.sc, o3.sc + 1] [.vec o3.dst, .vec (o3.dst + 1)] →
      exec (.fma2 h o3) s = .next (s.result 6 (s.floatLandings h o3.dst (f 0) ++ s.floatLandings h (o3.dst + 1) (f 1))))

/-- R264: comparisons into a mask. -/
def Obligations.FloatCompareResults : Prop :=
  ∀ (h : Head) (cc : Nat) (o : F2) (s : State), cc < 8 → s.ready (o.sa :: o.b.vregs) [.mask o.dst] →
    let a (l : Nat) : Val := val32 (s.v o.sa l)
    let b (l : Nat) : Val := val32 (o.b.lane s l)
    let un (l : Nat) : Bool := (a l).isNan || (b l).isNan
    let c (l : Nat) : Ordering := cmpVal (a l) (b l)
    let rel (l : Nat) : Bool := match cc with
      | 0 => !un l && c l = .eq
      | 1 => un l || c l ≠ .eq
      | 2 => !un l && c l = .lt
      | 3 => !un l && c l ≠ .gt
      | 4 => !un l && c l = .gt
      | 5 => !un l && c l ≠ .lt
      | 6 => un l
      | _ => !un l
    ∃ d : W64, exec (.fcmp h cc o) s = .next (s.result 6 (.mask o.dst (s.active h) d ::
        s.flagLanding h fun l => if un l ∧ 2 ≤ cc ∧ cc ≤ 5 then flagNV else 0)) ∧
      ∀ l < s.me.width, l < 64 → d.getLsbD l = rel l

/-- R265 and R266: conversions of one element of each active lane; the lane's other elements keep their bits. -/
def Obligations.FloatConversions : Prop :=
  ∀ (h : Head) (o : Cvt) (s : State), s.ready [o.dst, o.sa] [.vec o.dst] →
    let a (l : Nat) : W32 := s.v o.sa l
    let one (i : Instr) (e : Nat) (f : Nat → Nat × Nat) : Prop :=
      ∃ v : Nat → W32, exec i s = .next (s.result 6 (.vec o.dst (s.perLane h v) :: s.flagLanding h fun l => (f l).2)) ∧
        ∀ l < s.me.width, ∀ k < e, bitsOf (v l).toNat (32 / e * k) (32 / e) =
          if k = o.j then (f l).1 % 2 ^ (32 / e) else bitsOf (s.v o.dst l).toNat (32 / e * k) (32 / e)
    (o.fmtOk = true →
      let e := if o.f < 2 then 2 else if o.f < 6 then 4 else 8
      one (.fcvt h o) e (fun l => (fmtOf o.f).round (roundingOf s.fmt o.rm o.sat ((l * e + o.j) % 32)) (val32 (a l))) ∧
      exec (.fcvtToF32 h o) s = .next (s.result 6 (s.floatLandings h o.dst fun l =>
        fp32.round rne ((fmtOf o.f).value ((a l).toNat / 2 ^ (32 / e * o.j) % 2 ^ (fmtOf o.f).w))))) ∧
    (o.intOk = true →
      let e := 2 ^ (o.f / 2)
      let w := 32 / e
      one (.fcvti h o) e (fun l =>
        let lo : Int := if o.f % 2 = 0 then -(2 ^ (w - 1) : Nat) else 0
        let hi : Int := if o.f % 2 = 0 then (2 ^ (w - 1) - 1 : Nat) else (2 ^ w - 1 : Nat)
        let k := toInt (roundingOf s.fmt o.rm false ((l * e + o.j) % 32)) lo hi (val32 (a l))
        ((k.1 % (2 ^ w : Nat)).toNat, k.2)) ∧
      exec (.icvtf h o) s = .next (s.result 6 (s.floatLandings h o.dst fun l =>
        let x := (a l).toNat / 2 ^ (w * o.j) % 2 ^ w
        fp32.round (roundingOf s.fmt o.rm false (l % 32))
          (Val.ofInt (if o.f % 2 = 0 ∧ 2 ^ w ≤ 2 * x then (x : Int) - (2 ^ w : Nat) else x)))))

/-- R267, R268 and R270: block records, the scales of R118 and R120 (`k` is floor(log2(amax)); a sub-block fits a shift where its largest
magnitude is at most (2^M − 1) × 2^(E − 127 − M + 1 − s), both sides taken times 2^149), and unpacked values (R87, R92, R94, R96). QSCALE takes a quarter's maximum over the lanes'
bit patterns, so that a NaN counts as larger than every number: that clause is the model's choice (log 73). -/
def Obligations.BlockScaleResults : Prop :=
  ∀ (h : Head) (sub8 : Bool) (dst sa sb qf part : Nat) (o : F2) (s : State),
    let live := lanesOf s.me.width (s.active h)
    let code := fmtQ s.fmt
    let signed (w x : Nat) : Val := Val.ofInt (BitVec.ofNat w x).toInt
    let el (t : Fmt) (x : Nat) : Val := t.value (x % 2 ^ t.w)
    let element (x c sigma : Nat) : Val :=
      if qf < 7 then el (nth fp32 [bf16, fp16, e4m3, e5m2, e3m2, e2m3, e2m1] qf) x
      else if qf = 7 then signed 8 x
      else if qf = 8 then Val.ofInt (x % 2 ^ 8 : Nat)
      else if qf = 24 then signed 2 x
      else if c = 255 then .nan
      else if qf = 16 then (signed 8 x).scale (-6 + (c - 127))
      else if qf ≤ 15 then (el (nth fp32 [e4m3, e5m2, e3m2, e2m3, e2m1] (qf - 11)) x).scale (c - 127)
      else
        let M := nth 7 [7, 4, 2] (qf - 17)
        (signed (M + 1) x).scale (c - 127 - sigma - M + 1)
    (s.ready [dst, sa] [.vec dst] →
      exec (.qamax h sub8 dst sa) s = .next (s.result 8 [.vec dst (s.perLane h fun l =>
        let B := if sub8 then 8 else 32
        let xs := (live.filter fun l' => l' / B = l / B).map fun l' => (s.v sa l').toNat
        BitVec.ofNat 32 (if xs.any fun x => (fp32.value x).isNan then 0x7FC00000
          else ((xs.filter fun x => !(fp32.value x).isInf).map (· % 2 ^ 31)).foldl max 0 +
            (if xs.any fun x => (fp32.value x).isInf then 2 ^ 31 else 0)))])) ∧
    (s.ready [dst, sa, sb] [.vec dst] → 11 ≤ code → code ≤ 19 →
      exec (.qscale h dst sa sb) s = .next (s.result 6 (s.floatLandings h dst fun l =>
        let block := live.filter fun l' => l' / 32 = l / 32
        match block.head? with
        | none => (0, 0)
        | some l0 =>
          let rec_ := (s.v sa l0).toNat
          let mag := rec_ % 2 ^ 31
          let amax := if mag = 0x7F800000 then 0 else mag
          let anyInf : Bool := 2 ^ 31 ≤ rec_ || mag = 0x7F800000
          let k : Int := if amax / 2 ^ 23 = 0 then (Nat.log2 amax : Int) - 149 else (amax / 2 ^ 23 : Nat) - 127
          if code ≤ 16 then
            let e := k - nth 0 [8, 15, 4, 2, 2, 0] (code - 11)
            if nanBits rec_ then (255, 0)
            else if anyInf ∧ code ≠ 12 then (255, flagNV)
            else if amax = 0 then (0, 0)
            else if e < -127 then (0, flagSCU) else ((min e 127 + 127).toNat, 0)
          else
            let M := nth 7 [7, 4, 2] (code - 17)
            let E := (k + 127).toNat
            let mx (q : Nat) : Nat := ((block.filter fun l' => l' % 32 / 8 = q).map fun l' => (s.v sb l').toNat % 2 ^ 31).foldl max 0
            let mant (y : Nat) : Nat := y % 2 ^ 23 + if y / 2 ^ 23 = 0 then 0 else 2 ^ 23
            let fits (q i : Nat) : Bool := mant (mx q) * 2 ^ (max (mx q / 2 ^ 23) 1 - 1) ≤ (2 ^ M - 1) * 2 ^ (E + 23 - M - i)
            let sigma (q : Nat) : Nat := ((List.range 4).filter (fits q)).foldl max 0
            if nanBits rec_ ∨ anyInf then (255, if anyInf then flagNV else 0)
            else if amax = 0 then (256 * 255, 0)
            else (E + 256 * (sigma 0 + 4 * sigma 1 + 16 * sigma 2 + 64 * sigma 3), if k + 127 < 0 then flagSCU else 0)))) ∧
    (∀ n, o.b = .reg n → s.ready [o.dst, o.sa, n] [.vec o.dst] → quantOk qf = true →
      exec (.qunpack h qf part o) s = .next (s.result 6 (s.floatLandings h o.dst fun l =>
        let e := quantElems qf
        let t := part % e * (s.me.width / e) + l / e
        let x := if t < s.me.width then (s.v o.sa t).toNat / 2 ^ (32 / e * (l % e)) % 2 ^ (32 / e) else 0
        let c := s.v n l
        fp32.round (roundingOf s.fmt o.rm o.sat (l % 32)) (element x (c.toNat % 2 ^ 8) (c.toNat / 2 ^ (8 + 2 * (l % 32 / 8)) % 4)))))

/-- R269: QPACK puts each active lane's quantised value into its element, keeps every other element, and with `.eot` advances PH
under dither. -/
def Obligations.QuantisedPacking : Prop :=
  ∀ (h : Head) (part n : Nat) (eot : Bool) (o : F2) (s : State), o.b = .reg n → s.ready [o.dst, o.sa, n] [.vec o.dst] →
    quantOk (fmtQ s.fmt) = true →
    let q := fmtQ s.fmt
    let e := quantElems q
    let W := s.me.width
    let place (l : Nat) : Nat := part % e * (W / e) + l / e
    let live := lanesOf W (s.active h)
    let whole (r : Rounding) (neg : Bool) (m : Nat) (e : Int) : Nat × Bool :=
      if 0 ≤ e then (m * 2 ^ e.toNat, false) else roundShift r neg m (-e).toNat
    let clamped (r : Rounding) (w : Nat) (lo hi : Int) (fl : Nat) (v : Val) : Nat × Nat :=
      let y : Int × Nat := match v with
        | .nan => (0, flagNV)
        | .inf neg => (if neg then lo else hi, flagNV)
        | .fin neg m e =>
          let n := whole r neg m e
          let i : Int := if neg then -(n.1 : Int) else n.1
          if i < lo then (lo, fl) else if hi < i then (hi, fl) else (i, if n.2 then flagNX else 0)
      ((y.1 % (2 ^ w : Nat)).toNat, y.2)
    let packed (r : Rounding) (v : Val) (c sigma : Nat) : Nat × Nat :=
      if q < 7 then (nth fp32 [bf16, fp16, e4m3, e5m2, e3m2, e2m3, e2m1] q).round r v
      else if q = 7 then clamped r 8 (-128) 127 flagNV v
      else if q = 8 then clamped r 8 0 255 flagNV v
      else if q = 24 then clamped r 2 (-2) 1 flagNV v
      else if c = 255 then (if q = 11 then 0x7F else if q = 12 then 0x7E else 0, 0)
      else if q = 16 then clamped r 8 (-128) 127 (orFlags flagOF flagNX) (v.scale (6 - (c - 127)))
      else if q ≤ 15 then (nth fp32 [e4m3, e5m2, e3m2, e2m3, e2m1] (q - 11)).round r (v.scale (127 - c))
      else
        let M := nth 7 [7, 4, 2] (q - 17)
        clamped r (M + 1) (-(2 ^ M : Nat)) (2 ^ M - 1 : Nat) flagNX (v.scale (127 + sigma + M - 1 - c))
    let value (l : Nat) : Nat × Nat :=
      let dither := if 11 ≤ q ∧ q ≤ 19 then l % 32 else (place l * e + l % e) % 32
      let c := s.v n l
      packed (roundingOf s.fmt o.rm o.sat dither) (val32 (s.v o.sa l)) (c.toNat % 2 ^ 8) (c.toNat / 2 ^ (8 + 2 * (l % 32 / 8)) % 4)
    let mode := if o.rm = 0 then fmtRnd s.fmt else o.rm - 1
    ∃ out : List (Nat × W32),
      exec (.qpack h part eot o) s = .next (s.result 8 (.vec o.dst out :: (s.flagLanding h fun l => (value l).2) ++
        if eot = true ∧ mode = 4 ∧ s.active h ≠ 0 then [.ph s.cur.alt] else [])) ∧
      let after (t : Nat) : W32 := ((out.find? fun p => p.1 = t).map (·.2)).getD (s.v o.dst t)
      (∀ l ∈ live, place l < W → bitsOf (after (place l)).toNat (32 / e * (l % e)) (32 / e) = (value l).1 % 2 ^ (32 / e)) ∧
      (∀ t < W, ∀ j < e, (∀ l ∈ live, ¬(place l = t ∧ l % e = j)) →
        bitsOf (after t).toNat (32 / e * j) (32 / e) = bitsOf (s.v o.dst t).toNat (32 / e * j) (32 / e))

/-! ### Class 3: cross-lane instructions and the SFU -/

/-- R271, R272 and R274: moves between lanes, single lanes and ballots. -/
def Obligations.CrossLaneResults : Prop :=
  ∀ (h : Head) (dst sa sb pk seg : Nat) (imm : W32) (b : VSrc) (x : MixSrc) (s : State),
    let W := s.me.width
    let a (l : Nat) : W32 := s.v sa (l % W)
    let low : Nat := match b with
      | .reg n => (s.scalar n).toNat % 2 ^ 32
      | .imm k => k.toNat
    0 < W →
    (s.ready [dst, sa, sb] [.vec dst] →
      exec (.shfl h dst sa sb) s = .next (s.result 8 [.vec dst (s.perLane h fun l => a (s.v sb l).toNat)]) ∧
      ∃ base : Nat → W32, exec (.pushl h dst sa sb) s = .next (s.result 8 [.vec dst
          (if s.active h ≠ 0 then (List.range W).map fun t => (t, base t) else [])]) ∧
        ∀ t < W, let writers := (lanesOf W (s.active h)).filter fun l => (s.v sb l).toNat % W = t
          base t = match writers.getLast? with
            | some l => s.v sa l
            | none => s.v dst t) ∧
    (s.ready (dst :: sa :: b.vregs) [.vec dst] →
      exec (.shflx h dst sa b) s = .next (s.result 8 [.vec dst (s.perLane h fun l => a (BitVec.ofNat 32 l ^^^ b.lane s l).toNat)])) ∧
    (s.ready [dst, sa] [.vec dst] →
      exec (.shflImm h dst sa imm) s = .next (s.result 8 [.vec dst (s.perLane h fun l => a (l + imm.toNat))]) ∧
      exec (.bcast h dst sa b) s = .next (s.result 8 [.vec dst (s.perLane h fun _ => a low)])) ∧
    (s.ready [sa] [.scal dst] →
      exec (.getln h dst sa b) s = .next (s.result 8 [s.scalarDst dst
        (if s.active h ≠ 0 then some (BitVec.ofNat 64 (a low).toNat) else none)])) ∧
    (s.ready [dst] [.vec dst] →
      exec (.setln h dst sa b) s = .next (s.result 8 [.vec dst
        (if s.active h ≠ 0 then [(low % W, (s.scalar sa).truncate 32)] else [])])) ∧
    (pk < 3 → s.ready (match x with | .vec n => [n] | .other _ => []) [.scal dst] →
      ∃ d : W64, exec (.vote h pk seg dst x) s = .next (s.result 8 [s.scalarDst dst (if s.active h ≠ 0 then some d else none)]) ∧
        ∀ k < 64, d.getLsbD k = match x with
          | .vec n =>
            let l := (64 * seg + k) / elems pk
            decide (l < W) && bitAt (s.active h) l && s.elem (elemWidth pk) n l ((64 * seg + k) % elems pk) != 0
          | .other m => bitAt (s.me.readMask m) k && bitAt (s.active h) k)

/-- R273: RED and SCAN combine the active lanes in ascending order, under its eleven operations and with their identities. That SCAN .excl raises the flags of only those steps whose results it
writes is the model's choice (log 13). -/
def Obligations.ReductionsAscend : Prop :=
  ∀ (h : Head) (opk rm dst sa : Nat) (exc : Bool) (s : State), opk < 11 → s.active h ≠ 0 →
    let live := lanesOf s.me.width (s.active h)
    let x (l : Nat) : Nat := (s.v sa l).toNat
    let signed (x : Nat) : Int := (BitVec.ofNat 32 x).toInt
    let op (r : Rounding) (x y : Nat) : Nat × Nat := match opk with
      | 0 => ((x + y) % 2 ^ 32, 0)
      | 1 => (if signed y < signed x then y else x, 0)
      | 2 => (if signed x < signed y then y else x, 0)
      | 3 => (if y < x then y else x, 0)
      | 4 => (if x < y then y else x, 0)
      | 5 => (x &&& y, 0)
      | 6 => (x ||| y, 0)
      | 7 => (x ^^^ y, 0)
      | 8 => round32 r (sumVals (r.mode == 3) [fp32.value x, fp32.value y])
      | k => (chosenNumber (k == 10) x y, 0)
    let identity : Nat :=
      nth 0 [0, 0x7FFFFFFF, 0x80000000, 0xFFFFFFFF, 0, 0xFFFFFFFF, 0, 0, 0x80000000, 0x7F800000, 0xFF800000] opk
    let step (acc : Nat × Nat) (l : Nat) : Nat × Nat :=
      let k := op (roundingOf s.fmt rm false (l % 32)) acc.1 (x l)
      (k.1, orFlags acc.2 k.2)
    let upTo (n : Nat) : Nat × Nat := (live.tail.take n).foldl step (x (live.headD 0), 0)
    let out (y : Nat) : Nat := if 8 ≤ opk ∧ nanBits y then 0x7FC00000 else y
    let gst (f : Nat) : List Landing := if f = 0 then [] else [.gstatSet (BitVec.ofNat 32 f)]
    let n := live.length
    (s.ready [sa] [.scal dst] →
      exec (.red h opk rm dst sa) s = .next (s.result 8 (s.scalarDst dst (some (BitVec.ofNat 64 (out (upTo (n - 1)).1))) ::
        gst (upTo (n - 1)).2))) ∧
    (s.ready [dst, sa] [.vec dst] →
      exec (.scan h opk rm exc dst sa) s = .next (s.result 8
        (.vec dst ((List.range n).map fun i => (nth 0 live i,
            BitVec.ofNat 32 (if exc then (if i = 0 then identity else out (upTo (i - 1)).1) else out (upTo i).1))) ::
          gst (if exc then (upTo (n - 2)).2 else (upTo (n - 1)).2))))

/-- R275 and R276: an SFU instruction on a compute core enters column S at the first vc at which no earlier entry of its core starts; its
register has a pending write, and its value is rounded once. What that value is, where the rules print no result, is the model's reading of
R275 (log 12): `SfuOp.value`, a fixed-point series with a sticky bit, and the cases beside a tie or the end of the range that it decides by
themselves. The special operands of R275 and the invalid ones of R115 have the words and flags printed for them, in every rounding. On a
command core, which has no column, the result lands at once (the model's reading of R363, log 16). That the entries of teams whose restore
has begun count among the 64 is the model's choice (log 106). -/
def Obligations.SfuEntries : Prop :=
  (∀ (h : Head) (o : F1) (d : F2) (n start : Nat) (s : State), d.b = .reg n →
    (s.cur.cmd = true ∨ (s.grid.sfu.filter fun e => e.core = s.me.core ∧ e.train = s.cur.train).length < 64) →
    let taken (v : Nat) : Prop := (s.core s.me.core).lastSfu = some v ∨ ∃ e ∈ s.grid.sfu, e.core = s.me.core ∧ e.train = s.cur.train ∧ e.start = v
    s.now ≤ start → ¬ taken start → (∀ v, s.now ≤ v → v < start → taken v) →
    let entered (dst : Nat) (f : Nat → Nat × Nat) : State :=
      let flags := (lanesOf s.me.width (s.active h)).foldl (fun acc l => orFlags acc (f l).2) 0
      let e : SfuEntry :=
        { train := s.cur.train, core := s.me.core, start := start, key := s.cur.key, dst := dst
          lanes := s.perLane h fun l => BitVec.ofNat 32 (f l).1
          flags := BitVec.ofNat 32 flags }
      let t := s.owe (.vec dst)
      if s.cur.cmd then s.result 24 (s.floatLandings h dst f) else { t with grid := { t.grid with sfu := s.grid.sfu ++ [e] } }
    let value (op : SfuOp) (l : Nat) : Nat × Nat := round32 (roundingOf s.fmt o.rm o.sat (l % 32)) (op.value (val32 (s.v o.sa l)))
    (s.ready [o.dst, o.sa] [.vec o.dst] →
      exec (.frcp h o) s = .next (entered o.dst (value .rcp)) ∧ exec (.frsq h o) s = .next (entered o.dst (value .rsq)) ∧
      exec (.fsqrt h o) s = .next (entered o.dst (value .sqrt)) ∧ exec (.fexp2 h o) s = .next (entered o.dst (value .exp2)) ∧
      exec (.flog2 h o) s = .next (entered o.dst (value .log2)) ∧ exec (.fsin h o) s = .next (entered o.dst (value .sin)) ∧
      exec (.fcos h o) s = .next (entered o.dst (value .cos)) ∧ exec (.ftanh h o) s = .next (entered o.dst (value .tanh))) ∧
    (s.ready [d.dst, d.sa, n] [.vec d.dst] →
      exec (.fdiv h d) s = .next (entered d.dst fun l =>
        round32 (roundingOf s.fmt d.rm d.sat (l % 32)) (divVal (val32 (s.v d.sa l)) (val32 (s.v n l)))))) ∧
  ∀ (r : Rounding) (x y : W32),
    let f (op : SfuOp) (x : W32) : Nat × Nat := round32 r (op.value (val32 x))
    let div (x y : W32) : Nat × Nat := round32 r (divVal (val32 x) (val32 y))
    let sign (x : W32) : Nat := x.toNat / 2 ^ 31 * 2 ^ 31
    let size (x : W32) : Nat := x.toNat % 2 ^ 31
    let inf : Nat := 0x7F800000
    let one : Nat := 0x3F800000
    let nan : Nat × Nat := (0x7FC00000, 0)
    let invalid : Nat × Nat := (0x7FC00000, flagNV)
    (inf < size x → (∀ op, f op x = nan) ∧ div x y = nan ∧ div y x = nan) ∧
    (size x = 0 → f .rcp x = (sign x + inf, 0) ∧ f .rsq x = (sign x + inf, 0) ∧ f .sqrt x = (sign x, 0) ∧ f .log2 x = (2 ^ 31 + inf, 0) ∧
      f .sin x = (sign x, 0) ∧ f .tanh x = (sign x, 0) ∧ f .cos x = (one, 0)) ∧
    (size x = inf → f .rcp x = (sign x, 0) ∧ f .tanh x = (sign x + one, 0) ∧ f .sin x = invalid ∧ f .cos x = invalid ∧
      (sign x = 0 → f .rsq x = (0, 0) ∧ f .sqrt x = (inf, 0) ∧ f .exp2 x = (inf, 0) ∧ f .log2 x = (inf, 0)) ∧
      (sign x ≠ 0 → f .exp2 x = (0, 0))) ∧
    (sign x ≠ 0 → 0 < size x → size x ≤ inf → f .rsq x = invalid ∧ f .sqrt x = invalid ∧ f .log2 x = invalid) ∧
    f .log2 (BitVec.ofNat 32 one) = (0, 0) ∧
    (0 < size x → size x < inf → size y = 0 → div x y = (sign (x ^^^ y) + inf, 0)) ∧
    (size x = 0 → size y = 0 → div x y = invalid) ∧ (size x = inf → size y = inf → div x y = invalid) ∧
    (size x = inf → size y < inf → div x y = (sign (x ^^^ y) + inf, 0)) ∧
    (size x < inf → size y = inf → div x y = (sign (x ^^^ y), 0)) ∧
    (size x = 0 → 0 < size y → size y < inf → div x y = (sign (x ^^^ y), 0))

/-- Lane `l` is the lowest active lane that a test fails: the one that raises the fault of the whole instruction (R281). -/
def Sys2Proof.Machine.State.lowest (s : State) (h : Head) (l : Nat) (bad : Nat → Prop) : Prop :=
  l ∈ s.live h ∧ bad l ∧ ∀ k ∈ s.live h, k < l → ¬ bad k

/-! ### Class 4: memory and synchronisation -/

/-- R280 to R283: pool loads read the core's own pool at issue, and pool stores enter it six vc later; a lane beyond the scratchpad raises a
window fault. The model's choices are that t2 of that fault is the pool address, since a pool access has no virtual address (log 43), and
that LDP and STP of a command core, which has no pool, raise it (log 29). -/
def Obligations.PoolAccesses : Prop :=
  ∀ (h : Head) (dst : Nat) (sx : Bool) (a : MAddr) (s : State), sxOk sx a.sz = true →
    let n := nth 8 [4, 2, 1] a.sz
    let regs := dataRegs a.sz dst ++ a.vregs
    let inside : Prop := ∀ l ∈ s.live h, a.lane s l + n ≤ s.scratch
    (s.ready regs [] → ∀ l, s.lowest h l (fun k => s.scratch < a.lane s k + n) →
      let f : Flt := { code := 8, lane := l, t2 := BitVec.ofNat 64 (a.lane s l) }
      exec (.ldp h dst sx a) s = .next (s.raise f) ∧ exec (.stp h dst a) s = .next (s.raise f)) ∧
    (inside → s.ready regs ((dataRegs a.sz dst).map Dst.vec) →
      exec (.ldp h dst sx a) s = .next (s.result 10 (s.loadLandings h a.sz dst fun l =>
        let x := leNat ((List.range n).map fun i => s.grid.pool.byte (s.me.core * 2 ^ 32 + a.lane s l + i))
        if sx ∧ 2 ^ (8 * n) ≤ 2 * x then x + 2 ^ 32 - 2 ^ (8 * n) else x))) ∧
    (inside → s.ready regs [] →
      let w (l : Nat) : PoolWrite :=
        { train := s.cur.train, due := s.now + 6, team := s.cur.team, group := s.me.idx, lane := l, core := s.me.core
          addr := a.lane s l
          data := leBytes n (s.dataLane a.sz dst l) }
      exec (.stp h dst a) s = .next { s with grid := { s.grid with stps := s.grid.stps ++ (s.live h).map w } })

/-- R281, R282, R137 and R146: a compute core's global load samples, page by page at each page's caching level, its view and its team's
buffered stores at issue; the result lands after the near or far latency, and its home notes the pages it read for that vc. R130, R139
and R281: the lowest active lane outside the windows raises a window fault, and then the lowest one without a lease a lease fault. -/
def Obligations.GlobalLoads : Prop :=
  ∀ (h : Head) (dst : Nat) (sx : Bool) (a : MAddr) (s : State), sxOk sx a.sz = true → s.cur.cmd = false →
    let n := nth 8 [4, 2, 1] a.sz
    let parts (l : Nat) : List (Nat × Nat) := (pieces (a.lane s l) n).map fun q => (s.place q.1 q.2, q.2)
    let all := (s.live h).flatMap parts
    let lat := if all.any fun q => pkgOf (q.1 % 2 ^ 56) != s.pkg then 4096 else 640
    let regs := dataRegs a.sz dst ++ a.vregs
    let mapped (l : Nat) : Prop := (s.xlat [permR] (a.lane s l) n).isSome = true
    let fault (code l : Nat) : Prop :=
      exec (.ldg h dst sx a) s = .next (s.raise { code := code, lane := l, t2 := BitVec.ofNat 64 (a.lane s l) })
    (s.ready regs [] → (∀ l, s.lowest h l (fun k => ¬ mapped k) → fault 8 l) ∧
      ((∀ l ∈ s.live h, mapped l) → ∀ l, s.lowest h l (fun k => s.leased .load (a.lane s k) n = false) → fault 9 l)) ∧
    (s.ready regs ((dataRegs a.sz dst).map Dst.vec) → (∀ l ∈ s.live h, s.reaches .load permR (a.lane s l) n 1) →
      exec (.ldg h dst sx a) s = .next ((s.result lat (s.loadLandings h a.sz dst fun l =>
          let x := leNat ((parts l).flatMap fun q => s.sample (q.1 / 2 ^ 56) (q.1 % 2 ^ 56) q.2)
          if sx ∧ 2 ^ (8 * n) ≤ 2 * x then x + 2 ^ 32 - 2 ^ (8 * n) else x)).noteLoad lat
        (all.map fun q => q.1 % 2 ^ 56 / 65536)))

/-- R55, R56, R137, R145 and R285: a compute core's global store enters the team's buffer, lane by lane and page by page at each page's
caching level; every byte of memory stays as it was. R130, R139 and R281: the lowest active lane outside the windows raises a window
fault, and then the lowest one without a lease a lease fault. -/
def Obligations.GlobalStoresAreBuffered : Prop :=
  ∀ (h : Head) (dst : Nat) (a : MAddr) (s : State), s.cur.cmd = false →
    let n := nth 8 [4, 2, 1] a.sz
    let parts := (s.live h).flatMap fun l => (pieces (a.lane s l) n).map fun q => (l, q)
    let mapped (l : Nat) : Prop := (s.xlat [permW] (a.lane s l) n).isSome = true
    let fault (code l : Nat) : Prop := exec (.stg h dst a) s = .next (s.raise { code := code, lane := l, t2 := BitVec.ofNat 64 (a.lane s l) })
    s.ready (dataRegs a.sz dst ++ a.vregs) [] →
    (∀ l, s.lowest h l (fun k => ¬ mapped k) → fault 8 l) ∧
    ((∀ l ∈ s.live h, mapped l) → ∀ l, s.lowest h l (fun k => s.leased .store (a.lane s k) n = false) → fault 9 l) ∧
    ((∀ l ∈ s.live h, s.reaches .store permW (a.lane s l) n 1) → ∃ t : State, exec (.stg h dst a) s = .next t ∧ t.mem = s.mem ∧ t.pod = s.pod ∧ t.fw = s.fw ∧ t.sys = s.sys ∧ t.bc = s.bc ∧
      t.grid.groups = s.grid.groups ∧ t.grid.pend = s.grid.pend ∧ t.grid.pool = s.grid.pool ∧ t.grid.cores = s.grid.cores ∧
      t.grid.trains = s.grid.trains ∧ (∀ k, k ≠ s.myTeamKey → t.team k = s.team k) ∧
      (∃ ls, t.myTeam = { s.myTeam with lines := ls }) ∧
      t.grid.stores = s.grid.stores ++ parts.mapIdx fun i p =>
        { train := s.cur.train, team := s.cur.team, group := s.me.idx, pos := p.1, ord := s.grid.ord + i, clk := s.now
          level := s.place p.2.1 p.2.2 / 2 ^ 56, ia := s.place p.2.1 p.2.2 % 2 ^ 56
          data := ((leBytes n (s.dataLane a.sz dst p.1)).drop (p.2.1 - a.lane s p.1)).take p.2.2 })

/-- R146: each byte that a load samples is that of the last store in R56's order (group, position, issue) among its own team's stores issued
before this vc that cover it, and where there is none that of its core's view: a store of another team, or of this vc, is not seen. -/
def Obligations.BufferedStoreIsRead : Prop :=
  ∀ (s : State) (level ia n i : Nat), i < n →
    let own (b : BufStore) : Prop := b ∈ s.grid.stores ∧ b.train = s.cur.train ∧ b.team = s.cur.team ∧ b.clk < s.now ∧ b.pos < 64 ∧
      b.ia ≤ ia + i ∧ ia + i < b.ia + b.data.length
    let before (c b : BufStore) : Prop :=
      c.group < b.group ∨ (c.group = b.group ∧ (c.pos < b.pos ∨ (c.pos = b.pos ∧ c.ord < b.ord)))
    let read := nth 0 (s.sample level ia n) i
    (s.sample level ia n).length = n ∧
    (∀ b, own b → (∀ c, own c → c ≠ b → before c b) → read = nth 0 b.data (ia + i - b.ia)) ∧
    ((∀ b, ¬ own b) → read = nth 0 (s.viewBytes s.myTrain.owner (s.readCore s.me) level ia n) i)

/-- R363: a command core loads and stores; a store changes only the bytes it stores to. That each access is performed at once, and that
bytes stored to a page without a frame are lost, is the model's choice (logs 9 and 29). -/
def Obligations.CommandCoreAccesses : Prop :=
  ∀ (h : Head) (dst : Nat) (sx : Bool) (a : MAddr) (s : State), sxOk sx a.sz = true → s.cur.cmd = true →
    let n := nth 8 [4, 2, 1] a.sz
    s.ready (dataRegs a.sz dst ++ a.vregs) [] →
    ((∀ l ∈ s.live h, s.cmdReaches pmpLoad (a.lane s l) n 1) →
      exec (.ldg h dst sx a) s = .next (s.result 640 (s.loadLandings h a.sz dst fun l =>
        let x := leNat (s.cmdBytes (a.lane s l) n)
        if sx ∧ 2 ^ (8 * n) ≤ 2 * x then x + 2 ^ 32 - 2 ^ (8 * n) else x))) ∧
    ((∀ l ∈ s.live h, s.cmdReaches pmpStore (a.lane s l) n 1) →
      ∃ t : State, exec (.stg h dst a) s = .next t ∧
        t = (s.live h).foldl (fun t l => t.cmdPut (a.lane s l) (leBytes n (s.dataLane a.sz dst l))) s ∧
        t.grid = s.grid ∧ t.fw = s.fw ∧ t.pod = s.pod ∧ t.mem.comp = s.mem.comp ∧
        ((∀ l ∈ s.live h, a.lane s l + n ≤ 2 ^ 63 + keySlotBase ∨ 2 ^ 63 + keySlotBase + 0x4000 ≤ a.lane s l) →
          ∀ ia, (∀ l ∈ s.live h, ia < a.lane s l ∨ a.lane s l + n ≤ ia) → t.mem.home.byte ia = s.mem.home.byte ia) ∧
        ((∀ l ∈ s.live h, 2 ^ 63 + 0x10000000 ≤ a.lane s l ∧ a.lane s l + n ≤ 2 ^ 63 + 0x12000000) →
          t.mem.home = s.mem.home ∧ t.sys = s.sys ∧
          ∀ o, (∀ l ∈ s.live h, 2 ^ 63 + o < a.lane s l ∨ a.lane s l + n ≤ 2 ^ 63 + o) → t.mem.priv.byte o = s.mem.priv.byte o))

/-- R286 to R289: an atomic of a compute core waits for its quantum's boundary with its lanes' addresses and operands, and owes its
destination; one of scope 7, which has no active lane, owes it for the widest scope's latency by the model's choice (log 114). R149 and
R288, in their order: the faults of a scope, of an address outside the windows or not aligned, of an address on another package at die or
device scope, and of a page without a lease. -/
def Obligations.AtomicsWaitForTheirBoundary : Prop :=
  ∀ p ∈ [(Instr.aadd, 4), (.aand, 5), (.aor, 6), (.axor, 7), (.amin, 8), (.amax, 9), (.aminu, 10), (.amaxu, 11), (.aexch, 12),
      (.acas, 13), (.afadd, 14), (.ainc, 15)],
    ∀ (h : Head) (o : Atom) (s : State), s.cur.cmd = false →
      let n := nth 8 [4, 2, 1] o.a.sz
      let w := if o.a.sz = 3 then 2 else 1
      let operands := if p.2 = 15 then 0 else if p.2 = 13 then 2 * w else w
      let dsts := if o.nr then [] else dataRegs o.a.sz o.dst
      let at_ (l : Nat) : Nat := s.place (o.a.lane s l) n
      let c0 (l : Nat) : Nat := if p.2 = 15 then 0 else s.dataLane o.a.sz o.sc l
      let c1 (l : Nat) : Nat := if p.2 = 13 then s.dataLane o.a.sz (o.sc + w) l else 0
      let lat := (s.live h).foldl (fun m l => max m (opLat (scopeAt s o.scope (at_ l % 2 ^ 56)) (at_ l / 2 ^ 56))) (scopeLat o.scope)
      let regs := dsts ++ (List.range operands).map (· + o.sc) ++ o.a.vregs
      let inScope : Prop := s.active h ≠ 0 → o.scope < 7 ∧ (o.scope = 6 → s.podAllowed = true)
      let mapped (l : Nat) : Prop := o.a.lane s l % n = 0 ∧ (s.xlat [permA] (o.a.lane s l) n).isSome = true
      let near (l : Nat) : Prop := ∀ x, s.xlat [] (o.a.lane s l) n = some x → (o.scope = 4 ∨ o.scope = 5) → pkgOf x.ia = s.pkg
      let leased (l : Nat) : Prop := s.leased .atomic (o.a.lane s l) n = true
      let every (ok : Nat → Prop) : Prop := ∀ l ∈ s.live h, ok l
      let fault (f : Flt) : Prop := exec (p.1 h o) s = .next (s.raise f)
      (s.ready regs [] → (¬ inScope → fault { code := 7 }) ∧
        (inScope → (∀ l, s.lowest h l (fun k => ¬ mapped k) → fault { code := 8, lane := l, t2 := BitVec.ofNat 64 (o.a.lane s l) }) ∧
          (every mapped → (∀ l, s.lowest h l (fun k => ¬ near k) → fault { code := 7, lane := l }) ∧
            (every near → ∀ l, s.lowest h l (fun k => ¬ leased k) →
              fault { code := 9, lane := l, t2 := BitVec.ofNat 64 (o.a.lane s l) })))) ∧
      (s.ready regs (dsts.map Dst.vec) → inScope → every mapped → every near → every leased → ∃ t : State, exec (p.1 h o) s = .next t ∧ t.mem = s.mem ∧ t.pod = s.pod ∧ t.fw = s.fw ∧ t.sys = s.sys ∧
        t.grid.groups = s.grid.groups ∧ t.grid.pend = s.grid.pend ∧ t.grid.stores = s.grid.stores ∧ t.grid.pool = s.grid.pool ∧
        t.grid.acts = s.grid.acts ++ [{ train := s.cur.train, team := s.cur.team, key := s.cur.key, group := s.me.idx
                                        core := s.me.core, ord := s.grid.ord, due := 0
                                        what := .atomic p.2 (o.a.sz == 3) o.scope
                                          ((s.live h).map fun l => (l, at_ l, c0 l, c1 l)) (if o.nr then none else some o.dst) lat }] ∧
        ∀ r ∈ dsts, t.isPending (.vec r) = true)

/-- R286, R287 and R363: on a command core an atomic takes its active lanes in ascending order, each reading the old value that the lanes
below it left, writing the new one, and delivering the old one; without an active lane it does nothing but land nothing. That the whole
is performed at once, at the home of each page, is the model's choice (logs 9 and 29). -/
def Obligations.CommandCoreAtomics : Prop :=
  ∀ (h : Head) (o : Atom) (s : State), s.cur.cmd = true → (s.active h ≠ 0 → o.scope < 7 ∧ (o.scope = 6 → s.podAllowed = true)) →
    let n := nth 8 [4, 2, 1] o.a.sz
    let b := 8 * n
    let w := if o.a.sz = 3 then 2 else 1
    let a (l : Nat) : Nat := o.a.lane s l
    (∀ l ∈ s.live h, s.cmdReaches pmpStore (a l) n n) →
    let near (l : Nat) : Prop := a l < 2 ^ 63 → o.scope = 4 ∨ o.scope = 5 → pkgOf (a l) = s.pkg
    let sg (x : Nat) : Int := if x % 2 ^ b < 2 ^ (b - 1) then (x % 2 ^ b : Nat) else (x % 2 ^ b : Nat) - (2 ^ b : Nat)
    let done (i : Instr) (new : Nat → Nat → Nat → Nat) : Prop :=
      let perform (t : State) (l : Nat) : State :=
        t.cmdPut (a l) (leBytes n (new (leNat (t.cmdBytes (a l) n)) (s.dataLane o.a.sz o.sc l) (s.dataLane o.a.sz (o.sc + w) l)))
      let before (k : Nat) : State := ((s.live h).take k).foldl perform s
      let old (k : Nat) : Nat := leNat ((before k).cmdBytes (a (nth 0 (s.live h) k)) n)
      let t := (s.live h).foldl perform s
      let lands (f : Nat → Nat) : List (Nat × W32) := (s.live h).mapIdx fun k l => (l, BitVec.ofNat 32 (f (old k)))
      exec i s = .next (if o.nr then t else t.result 640
        (.vec o.dst (lands id) :: if o.a.sz = 3 then [.vec (o.dst + 1) (lands fun x => x / 2 ^ 32)] else []))
    s.ready ((if o.nr then [] else dataRegs o.a.sz o.dst) ++ (List.range (2 * w)).map (· + o.sc) ++ o.a.vregs) [] →
    (∀ l, s.lowest h l (fun k => ¬ near k) →
      ∀ i ∈ [Instr.aadd, .aand, .aor, .axor, .amin, .amax, .aminu, .amaxu, .aexch, .acas, .afadd, .ainc],
        exec (i h o) s = .next (s.raise { code := 7, lane := l })) ∧
    ((∀ l ∈ s.live h, near l) → done (.aadd h o) (fun old c _ => (old + c) % 2 ^ b) ∧ done (.aand h o) (fun old c _ => old &&& c) ∧
    done (.aor h o) (fun old c _ => old ||| c) ∧ done (.axor h o) (fun old c _ => old ^^^ c) ∧
    done (.amin h o) (fun old c _ => if sg c < sg old then c else old) ∧
    done (.amax h o) (fun old c _ => if sg old < sg c then c else old) ∧ done (.aminu h o) (fun old c _ => min old c) ∧
    done (.amaxu h o) (fun old c _ => max old c) ∧ done (.aexch h o) (fun _ c _ => c) ∧
    done (.acas h o) (fun old c d => if old = c then d else old) ∧
    done (.afadd h o) (fun old c _ => (round32 rne (sumVals false [fp32.value old, fp32.value c])).1) ∧
    done (.ainc h o) (fun old _ _ => (old + 1) % 2 ^ b))

/-- R290 to R294: fences and counter adds wait for the boundary of their quantum; WAITC and YIELD block their group. The clauses for a
command core are the model's choice: a fence changes nothing and a counter add is made at once (log 9), and a wait that is not over is
executed again in its place (log 30). -/
def Obligations.FencesAndCounters : Prop :=
  ∀ (h : Head) (scope : Nat) (o : Cnt) (s : State), s.holds h = true → s.ready [] [] →
    let wait (w : ActWhat) : State :=
      let a : Act :=
        { train := s.cur.train, team := s.cur.team, key := s.cur.key, group := s.me.idx, core := s.me.core, ord := s.grid.ord
          due := 0
          what := w }
      { s with grid := { s.grid with acts := s.grid.acts ++ [a], ord := s.grid.ord + 1 } }
    let va := (s.scalar o.sa).toNat
    let x : Nat := match o.b with
      | .reg n => (s.scalar n).toNat
      | .imm32 k => k.toNat
      | .imm64 k => k.toNat
    let legal (scope : Nat) : Prop := scope < 7 ∧ (scope = 6 → s.podAllowed = true)
    let near : Prop := ∀ y, s.xlat [] va 8 = some y → (o.scope = 4 ∨ o.scope = 5) → pkgOf y.ia = s.pkg
    let here : Prop := va < 2 ^ 63 → o.scope = 4 ∨ o.scope = 5 → pkgOf va = s.pkg
    (legal scope →
      exec (.fenceAcq h scope) s = .next (if s.cur.cmd then s else wait (.fence false true scope)) ∧
      exec (.fenceRel h scope) s = .next (if s.cur.cmd then s else wait (.fence true false scope)) ∧
      exec (.fenceAr h scope) s = .next (if s.cur.cmd then s else wait (.fence true true scope))) ∧
    (s.cur.cmd = false → legal o.scope → near → s.reaches .counterWait permA va 8 8 →
      exec (.waitc h o) s = .next (s.modGroup s.cur.key fun g => { g with block := .waitc o.scope va (s.place va 8) x }) ∧
      ((s.myTrain.desc.saveArea s.myTeam.idx).isSome = true →
        exec (.yield h o) s = .next (s.modGroup s.cur.key fun g => { g with block := .yield o.scope va (s.place va 8) x }))) ∧
    (s.cur.cmd = false → legal o.scope → near → s.reaches .counterAdd permA va 8 8 →
      exec (.cntadd h o) s = .next (wait (.count o.scope (s.place va 8) x none))) ∧
    (s.cur.cmd = true → o.scope < 7 → here → s.cmdReaches pmpLoad va 8 8 →
      exec (.waitc h o) s = .next (if leNat (s.cmdBytes va 8) < x then s.jump s.cur.addr else s)) ∧
    (s.cur.cmd = true → o.scope < 7 → here → s.cmdReaches pmpStore va 8 8 →
      exec (.cntadd h o) s = .next (s.cmdPut va (leBytes 8 (leNat (s.cmdBytes va 8) + x)))) ∧
    (s.cur.cmd = true → o.scope < 7 → ¬ here →
      (s.cmdReaches pmpLoad va 8 8 → exec (.waitc h o) s = .next (s.raise { code := 7 })) ∧
      (s.cmdReaches pmpStore va 8 8 → exec (.cntadd h o) s = .next (s.raise { code := 7 })))

/-- R295 to R299: a Dial read gives the word of the issuer's region as of the last boundary; a train's record waits for its boundary, a
command core's is offered at once; DWAIT blocks until the sequence number. That a command core executes a DREC again while 64 records
wait, and an unfinished DWAIT again, is the model's choice of how they block (log 30). -/
def Obligations.DialInstructions : Prop :=
  ∀ (h : Head) (dst sa : Nat) (imm : Option W32) (o : Drec) (b : Src) (s : State), s.holds h = true →
    let w : Nat := match imm with
      | some k => (s.scalar sa + k.signExtend 64).toNat
      | none => (s.scalar sa).toNat
    let region : Nat × Nat := if s.cur.cmd then (0, 1048576) else dialRegion s.myTrain.dial s.myTrain.owner
    let dial : List (Nat × W64) := if s.cur.cmd then s.pod.dial else s.myTrain.dial
    let at_ := (s.scalar o.sa).toNat
    let words := (List.range o.rlen).map fun i => s.scalar (o.sb + i)
    let legal : Prop := (if s.cur.cmd then o.rop < 8 else o.rop < 4) ∧ lenOk o.rop o.rlen = true ∧ o.sb + o.rlen ≤ 128 ∧
      (s.cur.cmd = true → (if o.rop = 5 then 2 else 1) ≤ (s.cmdCore s.cur.key).level) ∧ s.podAllowed = true ∧
      at_ + max o.rlen 1 ≤ region.2
    let target : Nat := match b with
      | .reg n => (s.scalar n).toNat
      | .imm32 k => k.toNat
      | .imm64 k => k.toNat
    (s.ready [] [.scal dst] → w < region.2 →
      exec (.dld h dst sa imm) s = .next (s.scalarResult h 12 dst (Sp.get 0 dial (region.1 + w)))) ∧
    (s.ready [] [] → legal → s.cur.cmd = false →
      exec (.drec h o) s = .next (s.act (.drec o.rop o.rlen at_ 0 words))) ∧
    (s.ready [] [.scal dst] → legal → s.cur.cmd = false →
      exec (.drecWait h dst o) s = .next (((s.act (.drec o.rop o.rlen at_ 0 words)).owe (.scal dst)).block (.drecw (2 ^ 16) (s.boundDst dst) none))) ∧
    (s.ready [] [] → legal → s.cur.cmd = true →
      exec (.drec h o) s = .next (if s.pod.offers.length ≥ 64 then s.jump s.cur.addr else s.offer o.rop o.rlen at_ 0 words) ∧
      exec (.drecWait h dst o) s = .next (if s.pod.offers.length ≥ 64 then s.jump s.cur.addr
        else (s.offer o.rop o.rlen at_ 0 words).block (.drecw (s.pod.nextTag % 2 ^ 16) dst none))) ∧
    (s.ready [] [] → s.podAllowed = true →
      exec (.dwait h b) s = .next (if s.cur.cmd then (if s.pod.top.toNat < target then s.jump s.cur.addr else s)
        else s.modGroup s.cur.key fun g => { g with block := .dwait target }))

/-! ### Class 5: control and time -/

/-- R236 and R237: transfers. A taken one sets the issuing slot's PC and ends the run; CALL and LOOP write their scalar two vc later. -/
def Obligations.TransfersOfControl : Prop :=
  ∀ (h : Head) (t : Target) (cn dst sa : Nat) (neg : Bool) (s : State),
    let target : Addr48 := match t with
      | .reg n => (s.scalar n).truncate 48
      | .rel x => s.cur.addr + x.signExtend 48
      | .abs a => a
    let to_ (s : State) (a : Addr48) : State :=
      let u := s.modGroup s.cur.key fun g => g.setSlot s.cur.alt { g.slot s.cur.alt with pc := a }
      { u with cur := { u.cur with taken := true } }
    let n := s.scalar dst - 1
    (s.ready [] [] →
      exec (.bra h t) s = .next (if s.holds h then to_ s target else s) ∧
      exec (.brc h cn neg t) s = .next (if s.holds h ∧ s.me.readCond cn = !neg then to_ s target else s) ∧
      exec (.ret h sa) s = .next (if s.holds h then to_ s ((s.scalar sa).truncate 48) else s)) ∧
    (s.ready [] [.scal dst] →
      exec (.call h dst t) s = .next (let u := s.scalarResult h 2 dst (s.cur.next.zeroExtend 64)
        if s.holds h then to_ u target else u) ∧
      exec (.loop h dst t) s = .next (let u := s.scalarResult h 2 dst n
        if s.holds h ∧ n ≠ 0 then to_ u target else u))

/-- R38, R40 and R238: BRD takes the lanes of its mask; with none taken it does nothing, with all it transfers, and otherwise the issuing
slot keeps the rest and the other slot, pushed first if live, goes to the target with both formats and the reconvergence address. A push
beyond the group's share is a 32-byte store of the group and holds it for 640 vc; beyond its part of the spill area it is a lease fault.
That a pushed slot loses its wait at a JOIN, which it will issue again, is the model's choice (logs 26 and 45). -/
def Obligations.DivergenceSplitsLanes : Prop :=
  ∀ (h : Head) (m : Nat) (neg : Bool) (tgt rcv : W32) (s : State), s.cur.cmd = false → s.ready [] [] → s.holds h = true →
    let me := s.me.slot s.cur.alt
    let other := s.me.slot !s.cur.alt
    let taken := me.mask &&& (if neg then ~~~(s.me.readMask m) else s.me.readMask m)
    let target := s.cur.addr + tgt.signExtend 48
    let join := s.cur.addr + rcv.signExtend 48
    (taken = 0 → exec (.brd h m neg tgt rcv) s = .next s) ∧
    (taken ≠ 0 → taken = me.mask → exec (.brd h m neg tgt rcv) s = .next (s.jump target)) ∧
    (taken ≠ 0 → taken ≠ me.mask → other.mask = 0 → ∃ t : State, exec (.brd h m neg tgt rcv) s = .next t ∧
      t.me.slot s.cur.alt = { me with mask := me.mask &&& ~~~taken, rcv := some join, jfmt := me.fmt } ∧
      t.me.slot (!s.cur.alt) = { pc := target, mask := taken, rcv := some join, fmt := me.fmt, jfmt := me.fmt } ∧
      t.me.stack = s.me.stack ∧ t.mem = s.mem ∧ t.me.vreg = s.me.vreg ∧ t.me.sreg = s.me.sreg ∧ t.me.mreg = s.me.mreg ∧
      ∀ k, k ≠ s.cur.key → t.group k = s.group k) ∧
    (taken ≠ 0 → taken ≠ me.mask → other.mask ≠ 0 → s.me.stack.length < 8 * partDivg s.myTrain.desc.part →
      ∃ t : State, exec (.brd h m neg tgt rcv) s = .next t ∧
        t.me.slot s.cur.alt = { me with mask := me.mask &&& ~~~taken, rcv := some join, jfmt := me.fmt } ∧
        t.me.slot (!s.cur.alt) = { pc := target, mask := taken, rcv := some join, fmt := me.fmt, jfmt := me.fmt } ∧
        t.me.stack = .share { other with waiting := false } :: s.me.stack ∧ t.mem = s.mem) ∧
    (taken ≠ 0 → taken ≠ me.mask → other.mask ≠ 0 → 8 * partDivg s.myTrain.desc.part ≤ s.me.stack.length →
      let part := s.myTrain.desc.spillPart s.myTeam.idx s.me.idx
      let i := s.me.spills
      let x := s.place (part.1 + 32 * i) 32
      (part.2 < 32 * (i + 1) →
        exec (.brd h m neg tgt rcv) s = .next (s.raise { code := 9, t2 := BitVec.ofNat 64 (part.1 + 32 * i) })) ∧
      (32 * (i + 1) ≤ part.2 → ∃ t : State, exec (.brd h m neg tgt rcv) s = .next t ∧
        t.me.slot s.cur.alt = { me with mask := me.mask &&& ~~~taken, rcv := some join, jfmt := me.fmt } ∧
        t.me.slot (!s.cur.alt) = { pc := target, mask := taken, rcv := some join, fmt := me.fmt, jfmt := me.fmt } ∧
        t.me.stack = .spilled :: s.me.stack ∧ t.me.hold = max s.me.hold (s.now + 640) ∧ t.mem = s.mem ∧
        t.grid.stores = s.grid.stores ++ [{ train := s.cur.train, team := s.cur.team, group := s.me.idx, pos := 0, ord := s.grid.ord
                                            clk := s.now, level := x / 2 ^ 56, ia := x % 2 ^ 56
                                            data := leBytes 8 other.mask.toNat ++ leBytes 8 other.pc.toNat ++
                                              leBytes 8 (other.rcv.getD (BitVec.ofNat 48 (2 ^ 48 - 1))).toNat ++ leBytes 4 other.fmt.toNat ++
                                              leBytes 4 other.jfmt.toNat }]))

/-- R39, R40, R239, R240 and R372: JOIN outside a divergence does nothing, a slot that joins first waits, and the second merges both slots and
takes the top of the stack, if any, as its other slot. EXIT removes the issuing slot's lanes; a group with no live slot and an empty
stack ends, a stack gives its top entry, and the handler in whose slot it issues ends. An entry in the spill area is a 32-byte load that
holds the group for 640 vc. That a waiting slot's PC is its JOIN's address, and that slots merge where these are equal, is the model's
choice (log 45). -/
def Obligations.JoinAndExit : Prop :=
  ∀ (h : Head) (s : State),
    let me := s.me.slot s.cur.alt
    let other := s.me.slot !s.cur.alt
    let j := s.cur.addr
    let x := s.place ((s.spillAt (s.me.spills - 1)).getD 0) 32
    let word (o n : Nat) : Nat := leNat (((s.sample (x / 2 ^ 56) (x % 2 ^ 56) 32).drop o).take n)
    let filled (e : PcSlot) : Prop :=
      e.mask = BitVec.ofNat 64 (word 0 8) &&& laneMask s.me.width ∧ e.pc = BitVec.ofNat 48 (word 8 6) ∧
      e.rcv = (if word 16 6 = 2 ^ 48 - 1 then none else some (BitVec.ofNat 48 (word 16 6))) ∧ e.fmt = BitVec.ofNat 32 (word 24 4) ∧
      e.jfmt = BitVec.ofNat 32 (word 28 4) ∧ e.waiting = false
    (s.cur.cmd = false → s.ready [] [] → s.holds h = true →
      (me.rcv = none → exec (.join h) s = .next s) ∧
      (me.rcv = some j → other.mask ≠ 0 → other.waiting = false →
        exec (.join h) s = .next (s.modGroup s.cur.key fun g => g.setSlot s.cur.alt { me with pc := j, waiting := true })) ∧
      (me.rcv = some j → other.mask = 0 ∨ (other.waiting = true ∧ other.pc = j) → ∃ t : State, exec (.join h) s = .next t ∧
        t.me.pri.mask = s.me.pri.mask ||| s.me.alt.mask ∧ t.me.pri.pc = nextAddr j 8 ∧ t.me.pri.waiting = false ∧
        t.me.pri.fmt = (if s.cur.alt = false ∨ s.me.pri.waiting then s.me.pri.jfmt else s.me.alt.jfmt) ∧
        (s.me.stack = [] → t.me.pri.rcv = none ∧ t.me.alt.mask = 0 ∧ t.me.stack = []) ∧
        (∀ e rest, s.me.stack = .share e :: rest →
          t.me.alt = e ∧ t.me.pri.rcv = e.rcv ∧ t.me.pri.jfmt = e.jfmt ∧ t.me.stack = rest) ∧
        (∀ rest, s.me.stack = .spilled :: rest → filled t.me.alt ∧ t.me.pri.rcv = t.me.alt.rcv ∧ t.me.pri.jfmt = t.me.alt.jfmt ∧
          t.me.stack = rest ∧ t.me.hold = max s.me.hold (s.now + 640)) ∧
        t.mem = s.mem ∧ t.me.vreg = s.me.vreg ∧ t.me.sreg = s.me.sreg)) ∧
    (s.ready [] [] → s.me.handler = none ∨ s.me.handler = some s.cur.alt →
      (s.holds h = false → exec (.exit h) s = .next s) ∧
      (s.holds h = true → ∃ t : State, exec (.exit h) s = .next t ∧ t.mem = s.mem ∧ t.me.handler = none ∧
        (other.mask = 0 → s.me.stack = [] → t.me.ended = true ∧ (t.me.slot s.cur.alt).mask = 0) ∧
        (other.mask ≠ 0 → other.waiting = false →
          (t.me.slot s.cur.alt).mask = 0 ∧ t.me.slot (!s.cur.alt) = other ∧ t.me.ended = s.me.ended ∧ t.me.stack = s.me.stack) ∧
        (other.mask ≠ 0 → other.waiting = true → t.me.pri.mask = other.mask ∧ t.me.pri.pc = nextAddr other.pc 8) ∧
        (other.mask = 0 → ∀ e rest, s.me.stack = .share e :: rest →
          t.me.pri = e ∧ t.me.alt.mask = 0 ∧ t.me.stack = rest ∧ (e.mask ≠ 0 → t.me.ended = s.me.ended)) ∧
        (s.cur.cmd = false → other.mask = 0 → ∀ rest, s.me.stack = .spilled :: rest →
          filled t.me.pri ∧ t.me.alt.mask = 0 ∧ t.me.stack = rest ∧ t.me.hold = max s.me.hold (s.now + 640))))

/-- R242: a group blocks at its barrier until every group of its team that has not ended is blocked at one; a common number releases
them 2 vc later, 8 in a pair team; of two numbers each BAR raises a timing fault at that vc. An EXIT of the last other group completes
a barrier in the same way: that the release is then counted from the EXIT, and the fault made at it, is the model's choice (logs 97
and 44). -/
def Obligations.BarriersReleaseTogether : Prop :=
  ∀ (h : Head) (n : Nat) (s : State), s.cur.cmd = false → s.ready [] [] → s.holds h = true →
    let here := s.modGroup s.cur.key fun g => { g with block := .bar n s.cur.addr s.cur.alt, wake := none }
    let keys := (s.teamGroups s.myTeamKey).filter fun k => !(s.group k).ended
    let rest := keys.filter fun k => k != s.cur.key
    let clk := (s.train s.myTeam.train).clk
    let w := clk + (if s.myTeam.pair then 8 else 2)
    let faulted (t : State) (k : Nat) (also : FaultRec → Prop) : Prop :=
      ∃ r ∈ (t.train s.myTeam.train).faults, r.key = k ∧ r.code = 10 ∧ r.p = clk ∧ also r
    s.cur.key ∈ keys →
    ((∃ k ∈ rest, (s.group k).barrier = none) → exec (.bar h n) s = .next here) ∧
    ((∀ k ∈ rest, (s.group k).barrier = some n) → ∃ t : State, exec (.bar h n) s = .next t ∧ t.mem = s.mem ∧
      (∀ k ∈ keys, t.group k = { here.group k with wake := some w }) ∧ ∀ k, k ∉ keys → t.group k = s.group k) ∧
    ((∀ k ∈ rest, (s.group k).barrier ≠ none) → (∃ k ∈ rest, (s.group k).barrier ≠ some n) →
      ∃ t : State, exec (.bar h n) s = .next t ∧ t.mem = s.mem ∧
        ∀ k ∈ keys, faulted t k fun r => k = s.cur.key → r.resume = s.cur.addr ∧ r.alt = s.cur.alt) ∧
    ((s.me.slot !s.cur.alt).mask = 0 → s.me.stack = [] → rest ≠ [] →
      ((∀ k ∈ rest, (s.group k).barrier = some n) → ∃ t : State, exec (.exit h) s = .next t ∧ t.mem = s.mem ∧ t.me.ended = true ∧
        (∀ k ∈ rest, t.group k = { s.group k with wake := some w }) ∧
        ∀ k, k ∉ rest → k ≠ s.cur.key → t.group k = s.group k) ∧
      ((∀ k ∈ rest, (s.group k).barrier ≠ none) → (∃ k ∈ rest, (s.group k).barrier = some n) →
        (∃ k ∈ rest, (s.group k).barrier ≠ some n) → ∃ t : State, exec (.exit h) s = .next t ∧ t.mem = s.mem ∧
          ∀ k ∈ rest, faulted t k fun r => ∀ m a b, (s.group k).block = .bar m a b → r.resume = a ∧ r.alt = b))

/-- R241, R243 and R244: NOP and TRIG, and the formats, with SETFMT's format fault and the forms whose predicate does not hold. TRIG marks
the lanes of its slot in every launch, and notes its team where it marks a lane anew: what the note does, a release in a launch that another
names as its producer and nothing in any other, is the model's reading of R243's last sentence (log 54). -/
def Obligations.MarksAndFormats : Prop :=
  ∀ (h : Head) (len fsel : Nat) (x : VSrc) (s : State), s.ready [] [] →
    let v : W32 := match x with
      | .reg n => (s.scalar n).truncate 32
      | .imm k => k
    let fields : List Nat := [0x1F, 0x3E0, 0x7C00, 0x38000, 0x40000, 0xF80000, 0xF000000, 0xF0000000]
    let sel : Nat := if fsel = 0 then 0xFFFFFFFF else ((List.range 8).map fun i => if bitOf fsel i then nth 0 fields i else 0).sum
    let mask := (s.me.slot s.cur.alt).mask
    exec (.nop h len) s = .next s ∧
    (s.holds h = true →
      (s.cur.cmd = false → ∃ t : State, exec (.trig h) s = .next t ∧ t.me = { s.me with trig := s.me.trig ||| mask } ∧
        (mask &&& ~~~s.me.trig = 0 ∨ s.myTeamKey ∈ s.myTrain.trigs → t.myTrain = s.myTrain) ∧
        (mask &&& ~~~s.me.trig ≠ 0 → s.myTeamKey ∉ s.myTrain.trigs →
          t.myTrain = { s.myTrain with trigs := s.myTrain.trigs ++ [s.myTeamKey] }) ∧
        t.myTeam = s.myTeam ∧ t.mem = s.mem ∧ t.grid.pend = s.grid.pend) ∧
      ((bitOf sel 15 = true → bitsOf v.toNat 15 3 < 5) →
        exec (.setfmt h fsel x) s = .next (s.result 2 [.fmt s.cur.alt (BitVec.ofNat 32 sel) v])) ∧
      (bitOf sel 15 = true → 5 ≤ bitsOf v.toNat 15 3 → exec (.setfmt h fsel x) s = .next (s.raise { code := 6 })) ∧
      exec (.setfmtStatus h x) s = .next (s.result 2 [.gstatClear (v &&& 0x3F)])) ∧
    (s.holds h = false → (s.cur.cmd = false → exec (.trig h) s = .next s) ∧ exec (.setfmt h fsel x) s = .next s ∧
      exec (.setfmtStatus h x) s = .next s)

/-- R245: GETFMT writes the issuing slot's FMT, zero-extended, two vc after issue, and %gstat reads GSTAT. -/
def Obligations.FormatIsRead : Prop :=
  ∀ (h : Head) (dst : Nat) (s : State), s.ready [] [.scal dst] →
    exec (.getfmt h dst) s = .next (s.scalarResult h 2 dst ((s.me.slot s.cur.alt).fmt.zeroExtend 64)) ∧
    s.scalar 156 = s.me.gstat.zeroExtend 64

/-- R58, R246 to R248 and R250: the timetable base, waits for a time and for the alignment, which TALIGNs of other operands turn into timing
faults of all of them, the trap vector, and the forms whose predicate does not hold. When a TWAIT is due is the model's choice where TB + o
wraps or lies behind (log 105): the sum is taken modulo 2^64 and compared unsigned with vc, and one that has passed waits for nothing. -/
def Obligations.TimeAndVector : Prop :=
  ∀ (h : Head) (sa sb dst o : Nat) (imm : Option W32) (x : VSrc) (s : State), s.cur.cmd = false → s.ready [] [] →
    (s.holds h = false → (s.me.conductor = true → exec (.tbase h sa imm) s = .next s) ∧ exec (.twait h o) s = .next s ∧
      exec (.tvec h x) s = .next s ∧ exec (.talign h dst sa sb) s = .next s) ∧
    (s.holds h = true →
    let base : W64 := s.scalar sa + match imm with
      | some k => k.signExtend 64
      | none => 0
    let due := s.now + ((s.myTeam.tb + BitVec.ofNat 64 o).toNat - s.myTrain.vc.toNat)
    let vec : Addr48 := match x with
      | .reg n => (s.scalar n).truncate 48
      | .imm k => s.cur.addr + k.signExtend 48
    (s.me.conductor = true → exec (.tbase h sa imm) s = .next (s.result 1 [.tb base])) ∧
    exec (.twait h o) s = .next (s.modGroup s.cur.key fun g => { g with block := .twait due }) ∧
    exec (.tvec h x) s = .next (s.result 2 [.tvec vec]) ∧
    (s.ready [] [.scal dst] → s.me.conductor = true → (∀ w ∈ s.myTrain.alignWho, (s.group w.1).team ≠ s.cur.team) →
      s.myTrain.alignBad ≠ some s.now →
      (∀ w ∈ s.myTrain.alignWho, ∀ t v d, (s.group w.1).block = .talign t v d → t = s.scalar sa ∧ v = s.scalar sb) →
      ∃ t : State, exec (.talign h dst sa sb) s = .next t ∧ t.me.block = .talign (s.scalar sa) (s.scalar sb) (s.boundDst dst) ∧
        t.isPending (.scal dst) = true ∧ t.mem = s.mem ∧
        t.myTrain.alignWho = s.myTrain.alignWho ++ [(s.cur.key, s.cur.addr.toNat + 2 ^ 48 * s.cur.alt.toNat)]) ∧
    (s.ready [] [.scal dst] → s.me.conductor = true → (∀ w ∈ s.myTrain.alignWho, (s.group w.1).team ≠ s.cur.team) →
      (∃ w ∈ s.myTrain.alignWho, ∃ t v d, (s.group w.1).block = .talign t v d ∧ (t ≠ s.scalar sa ∨ v ≠ s.scalar sb)) →
      ∃ t : State, exec (.talign h dst sa sb) s = .next t ∧ t.cur.failed = true ∧ t.mem = s.mem ∧ t.grid.groups = s.grid.groups ∧
        t.myTrain.alignWho = [] ∧ t.myTrain.alignBad = some s.now ∧
        t.myTrain.faults.length = s.myTrain.faults.length + 1 + s.myTrain.alignWho.length ∧
        ∀ k, k = s.cur.key ∨ (∃ w ∈ s.myTrain.alignWho, w.1 = k) → ∃ f ∈ t.myTrain.faults, f.key = k ∧ f.code = 10 ∧ f.align = true))

/-! ### Class 6: engine commands -/

/-- R59, R301 and R304: what a command of class 6 that passes its checks leaves behind: its record with its column, start and landing,
a pending write of every destination, and with a timed link command the train's teams bound together (R68). -/
def Sys2Proof.Machine.State.commanded (s : State) (i : Instr) (ofs base : Nat) (batched : Bool) (dsts : List Dst) : State :=
  let vs := i.vals.map s.scalar
  let start := s.startOf s.me.core i.column ofs
  let c : Cmd :=
    { id := s.grid.ord, train := s.cur.train, team := s.cur.team, key := s.cur.key, group := s.me.idx, core := s.me.core
      col := i.column, untimed := ofs == 2 ^ 24 - 1, start := start, occ := i.occupancy s.fmt vs
      land := start + i.latency s.fmt vs base
      batch := if batched && ofs == 2 ^ 24 - 1 then s.myTeam.closed + 1 else 0
      op := i, addr := s.cur.addr, alt := s.cur.alt, fmt := s.fmt, vals := vs, bank := s.me.handler.isSome }
  let u : State := { s with grid := { s.grid with cmds := s.grid.cmds ++ [c], ord := s.grid.ord + 1 } }
  dsts.foldl State.owe (if i.column = 3 ∧ ofs ≠ 2 ^ 24 - 1 then u.modTrain s.cur.train fun t => { t with linked := true } else u)

/-- What every command of class 6 needs: a conductor of a compute core whose predicate holds, a start that meets R60 and R304 to R307,
and its vector registers and destinations. -/
def Sys2Proof.Machine.State.mayCommand (s : State) (h : Head) (i : Instr) (ofs : Nat) (vregs : List Nat) (dsts : List Dst) : Prop :=
  s.cur.cmd = false ∧ s.holds h = true ∧ s.me.conductor = true ∧ s.ready vregs dsts ∧
  s.mistimed i (i.vals.map s.scalar) s.fmt ofs (s.startOf s.me.core i.column ofs) = false

/-- R291 to R293 for the counter of a command: none, or one that the team may add to at the scope of CSEL. -/
def Sys2Proof.Machine.State.mayCount (s : State) (csel : Nat) (a : W64) : Prop :=
  csel = 0 ∨ (csel - 1 < 7 ∧ (csel - 1 = 6 → s.podAllowed = true) ∧ s.reaches .counterAdd permA a.toNat 8 8 ∧
    ∀ x, s.xlat [] a.toNat 8 = some x → (csel - 1 = 4 ∨ csel - 1 = 5) → pkgOf x.ia = s.pkg)

/-- R311 to R318: the matrix and accumulator commands and TFILL enter their columns where their tiles, rows, slots, formats and pool
bytes exist. -/
def Obligations.MatrixCommandsEnterTheirColumns : Prop :=
  ∀ (h : Head) (o : Mma) (a : Acc) (f : Tfill) (tile ofs : Nat) (s : State),
    let tiles := bitsOf s.myTrain.desc.part.toNat 8 8 / 4
    let A := fmtA s.fmt
    let B := fmtB s.fmt
    let held (ns : List Nat) : Prop := ∀ n ∈ ns, bitOf (s.myTeam.claimed s.me.core) n = true
    let fits (sparse : Bool) : Prop := (pairKind sparse A B).isSome = true ∧
      (o.k0 + o.nm1 + 1) * pairDepth sparse A B ≤ min (rowLen A) (rowLen B) ∧ o.tile < tiles ∧ held (o.slots s.fmt)
    let regs := if a.dk then (List.range (ceilDiv ((a.nrm1 + 1) * 128 * accWidth a.fmt) (4 * s.me.width))).map (· + a.reg) else []
    let pools (i : Instr) : Prop := chkMovePools s (i.moves (i.vals.map s.scalar)) = none
    (s.mayCommand h (.mma h o) o.ofs [] [] → fits false → exec (.mma h o) s = .next (s.commanded (.mma h o) o.ofs 0 false [])) ∧
    (s.mayCommand h (.mmas h o) o.ofs [] [] → fits true → exec (.mmas h o) s = .next (s.commanded (.mmas h o) o.ofs 0 false [])) ∧
    (s.mayCommand h (.accz h tile ofs) ofs [] [] → tile < tiles →
      exec (.accz h tile ofs) s = .next (s.commanded (.accz h tile ofs) ofs 0 false [])) ∧
    (s.mayCommand h (.accrd h a) a.ofs regs (regs.map Dst.vec) → a.tile < tiles → a.row0 + a.nrm1 + 1 ≤ 128 → pools (.accrd h a) →
      exec (.accrd h a) s = .next (s.commanded (.accrd h a) a.ofs 0 false (regs.map Dst.vec))) ∧
    (s.mayCommand h (.accwr h a) a.ofs [] [] → a.tile < tiles → a.row0 + a.nrm1 + 1 ≤ 128 → pools (.accwr h a) →
      exec (.accwr h a) s = .next (s.commanded (.accwr h a) a.ofs 0 false [])) ∧
    (s.mayCommand h (.tfill h f) f.ofs [] [] → f.row0 + f.nrm1 + 1 ≤ 128 → pools (.tfill h f) → held [f.slot] → fillOk f.f = true →
      (layoutOf (s.scalar f.sa) (s.scalar (f.sa + 1)) (s.scalar (f.sa + 2))).bad = false →
      exec (.tfill h f) s = .next (s.commanded (.tfill h f) f.ofs 0 true []))

/-- R320 to R324: the copies enter column C where their layout, box, addresses, leases and slots pass, with their status and CRC
scalars pending. That the latency of CPYR is chosen by its offset array and the first row's address (log 39), and which latency a copy without
a global byte has (log 120), are the model's choices. -/
def Obligations.CopyCommandsEnterTheirColumn : Prop :=
  ∀ (h : Head) (o : Copy) (s : State),
    let vs (i : Instr) : List W64 := i.vals.map s.scalar
    let sides (i : Instr) : List (Bool × Nat × Nat) := globalSides (cutMoves (copyMoves o (copyVals o (vs i))))
    let passes (i : Instr) (ragged : Bool) (ms : List Move) (gs : List (Bool × Nat × Nat)) : Prop :=
      (copyVals o (vs i)).lay.bad = false ∧ chkCopyForm o (copyVals o (vs i)) ragged = none ∧ chkGlobals s true gs = none ∧
      chkMovePools s ms = none ∧ chkSlots s o.fills = none ∧ chkLeases s true gs = none ∧ s.mayCount o.eng.csel (nth 0 (vs i) 4)
    let both := o.sk = 1 && o.dk = 1
    let array := nth 0 (copyVals o (vs (.cpyr h o))).rest 0
    let rows := globalSides (cutMoves
      [{ off := 0, n := 4 * ((copyVals o (vs (.cpyr h o))).box.n1 + 1), src := .global array.toNat, dst := .data [] }])
    let first := if (copyVals o (vs (.cpyr h o))).g < 2 ^ 48 then [(false, (copyVals o (vs (.cpyr h o))).g, 1)] else []
    (s.mayCommand h (.cpy h o) o.eng.ofs [] [.scal o.dst] →
      passes (.cpy h o) false (cutMoves (copyMoves o (copyVals o (vs (.cpy h o))))) (sides (.cpy h o)) →
      exec (.cpy h o) s = .next (s.commanded (.cpy h o) o.eng.ofs (s.copyBase both (sides (.cpy h o))) true [.scal o.dst])) ∧
    (s.mayCommand h (.cpyk h o) o.eng.ofs [] [.scal o.dst, .scal o.y] →
      passes (.cpyk h o) false (cutMoves (copyMoves o (copyVals o (vs (.cpyk h o))))) (sides (.cpyk h o)) →
      exec (.cpyk h o) s = .next (s.commanded (.cpyk h o) o.eng.ofs (s.copyBase both (sides (.cpyk h o))) true
        [.scal o.dst, .scal o.y])) ∧
    (s.mayCommand h (.cpyr h o) o.eng.ofs [] [.scal o.dst] → array.toNat % 4 = 0 →
      passes (.cpyr h o) true (raggedMoves o (copyVals o (vs (.cpyr h o))) []) rows →
      exec (.cpyr h o) s = .next (s.commanded (.cpyr h o) o.eng.ofs (s.copyBase false (rows ++ first)) true [.scal o.dst]))

/-- R326 to R331: espalier, link and hall commands enter their columns. That an untimed ESP waits for the cores of its own train only
(log 36), that the first timed link command binds the train at its issue (log 37), and that all bytes of an atomic's local side are checked as
a destination (log 117), are the model's choices. -/
def Obligations.LinkCommandsEnterTheirColumns : Prop :=
  ∀ (h : Head) (e : Esp) (o : Send) (l : Hall) (spkg flow sa ofs : Nat) (s : State),
    let vs (i : Instr) : List W64 := i.vals.map s.scalar
    let ev := espVals e (vs (.esp h e))
    let ms := cutMoves (espMoves e ev)
    let gs := globalSides ms
    let pools (i : Instr) : Prop := chkMovePools s (i.moves (vs i)) = none
    let entry := s.slotEntry o.port o.slot
    let slotted (kind : Nat) : Prop := fieldOf entry 63 1 = 1 ∧ fieldOf entry 26 12 = s.myTrain.owner ∧
      fieldOf entry 18 8 = s.readCore s.me ∧ fieldOf entry 8 2 = kind
    let len := (s.scalar l.lens).toNat
    let uses (ws : List Bool) : List (Bool × Nat × Nat) :=
      let pieces := if l.lk then cutMoves [{ off := 0, n := len, src := .global (s.scalar l.sa).toNat, dst := .data [] }] else []
      ws.flatMap fun w => (globalSides pieces).map fun g => (w, g.2)
    let hall (i : Instr) (ws : List Bool) : Prop := s.podAllowed = true ∧ chkGlobals s false (uses ws) = none ∧ pools i ∧
      chkLeases s false (uses ws) = none ∧ s.mayCount l.csel (s.scalar l.cnt)
    (s.mayCommand h (.esp h e) e.eng.ofs [] [.scal e.dst] → ev.lay.bad = false → ev.ok e = true → chkGlobals s false gs = none →
      chkMovePools s ms = none → chkEspSlots s ms = none → chkSlots s ((Instr.esp h e).slotsRead 0 ++ (Instr.esp h e).slotsFilled) = none →
      chkLeases s false gs = none → s.mayCount e.eng.csel (nth 0 (vs (.esp h e)) 3) →
      exec (.esp h e) s = .next (s.commanded (.esp h e) e.eng.ofs 0 true [.scal e.dst])) ∧
    (s.mayCommand h (.lsend h o) o.ofs [] [] → pools (.lsend h o) → slotted 0 →
      exec (.lsend h o) s = .next (s.commanded (.lsend h o) o.ofs 0 false [])) ∧
    (s.mayCommand h (.lred h o) o.ofs [] [] → pools (.lred h o) → slotted 1 →
      exec (.lred h o) s = .next (s.commanded (.lred h o) o.ofs 0 false [])) ∧
    (s.mayCommand h (.lmcast h o) o.ofs [] [] → pools (.lmcast h o) → slotted 2 →
      exec (.lmcast h o) s = .next (s.commanded (.lmcast h o) o.ofs 0 false [])) ∧
    (s.mayCommand h (.lrecv h spkg flow sa ofs) ofs [] [] → pools (.lrecv h spkg flow sa ofs) →
      exec (.lrecv h spkg flow sa ofs) s = .next (s.commanded (.lrecv h spkg flow sa ofs) ofs 0 false [])) ∧
    (s.mayCommand h (.lput h l) (2 ^ 24 - 1) [] [] → len ≤ 1048576 → hall (.lput h l) [false] →
      exec (.lput h l) s = .next (s.commanded (.lput h l) (2 ^ 24 - 1) 0 false [])) ∧
    (s.mayCommand h (.lputAtomic h l) (2 ^ 24 - 1) [] [] → len = (if l.aq then 8 else 4) * (if l.ac = 10 then 2 else 1) →
      hall (.lputAtomic h l) [false, true] →
      exec (.lputAtomic h l) s = .next (s.commanded (.lputAtomic h l) (2 ^ 24 - 1) 0 false [])) ∧
    (s.mayCommand h (.lget h l) (2 ^ 24 - 1) [] [] → len ≤ 1048576 → hall (.lget h l) [true] →
      exec (.lget h l) s = .next (s.commanded (.lget h l) (2 ^ 24 - 1) 0 false []))

/-- R309, R325 and R332 to R334: the commands that act at issue, when each is complete (R325), and what a claim does where it lands. That
TCLAIM is decided at the landing of its claim (log 38), which bytes of a LAP's drain target are checked (log 118), and what a LAPQ reads
before its train's first boundary (log 119), are the model's choices. -/
def Obligations.ImmediateCommands : Prop :=
  ∀ (h : Head) (dst mask sa sb : Nat) (g : Eng) (s : State), s.cur.cmd = false → s.holds h = true → s.me.conductor = true →
    let r := s.dstReg (.scal dst)
    let n := s.myTeam.closed + 1
    let number := fieldOf (s.scalar sa) 0 16
    let target := (s.scalar sa).toNat
    let counter := s.scalar g.cnt
    let busy (lat : Nat) (u : State) : State := u.modTeam s.myTeamKey fun t => { t with busyUntil := max t.busyUntil (s.now + lat) }
    (s.ready [] [.scal dst] →
      exec (.tclaim h dst mask) s = .next (busy 2 (s.result 2 [.claim mask r.1 r.2])) ∧
      (∃ t : State, exec (.cbatch h dst) s = .next t ∧ t.grid.pend = s.grid.pend ++
          [{ train := s.cur.train, due := s.now + 2, key := s.cur.key, what := s.scalarDst dst (some (BitVec.ofNat 64 n)) }] ∧
        t.myTeam = { s.myTeam with closed := n, busyUntil := max s.myTeam.busyUntil (s.now + 2) } ∧ t.mem = s.mem ∧
        t.grid.groups = s.grid.groups) ∧
      exec (.lapRel h dst sa) s = .next (busy 0 ((s.act (.lapRel number r.1 r.2)).owe (.scal dst))) ∧
      exec (.lapq h dst sa) s = .next (busy 12 (s.scalarResult h 12 dst (BitVec.ofNat 64
        ((match s.myTrain.laps.find? fun l => l.1 == number with
          | none => 0
          | some l => if l.2 then 2 else 1) + 65536 * s.myTrain.laps.length)))) ∧
      (∀ x, s.engineXlat true true target 64 = some x → s.mayCount g.csel counter →
        engineLeased s.myTrain s.myTeam.idx true target 64 x = true →
        (x.comp = true ∨ ∃ f ∈ s.myTrain.desc.foots, f.cls = 1 ∧ f.kind = 2 ∧ f.holds s.myTeam.idx (target / 65536) = true) →
        ∃ t : State, exec (.lap h dst sa sb g) s = .next t ∧ t.mem = s.mem ∧ t.isPending (.scal dst) = true ∧
          t.grid.acts = s.grid.acts ++ [{ train := s.cur.train, team := s.cur.team, key := s.cur.key, group := s.me.idx
                                          core := s.me.core, ord := s.grid.ord + 1, due := 0
                                          what := .lapOpen (tag (if x.comp then 3 else 0) x.ia) (s.scalar sb).toNat s.grid.ord r.1 r.2
                                            g.csel (if g.csel = 0 then 0 else s.place counter.toNat 8) }])) ∧
    (s.ready [] [] →
      ((∀ c ∈ s.grid.cmds, c.train = s.cur.train → c.team = s.cur.team → c.core = s.me.core → c.complete s.now = false →
          ∀ k ∈ c.op.slotsRead c.fmt ++ c.op.slotsFilled, bitOf (mask &&& s.myTeam.claimed s.me.core) k = false) →
        exec (.trel h mask) s = .next (busy 2 (s.result 2 [.unclaim mask]))) ∧
      ((s.scalar sa).toNat ≤ s.myTeam.closed →
        exec (.cwait h sa) s = .next (busy 2 (s.modGroup s.cur.key fun g => { g with block := .cwait (s.scalar sa).toNat }))))

/-- R134, R155, R185 to R187, R194, R313, R315 to R318, R322 to R324, R326, R328 to R331, R394, R397 and R402: what a command does at its
start vc, in the state as its issuer sees it. A matrix command takes its slots whole; the others read their inputs and have their outputs,
their status and their registers land together at their landing vc; a copy stops at its first failing piece; a send leaves its cell and a
hall operation its frames. The model's choices are these: an ESP into a slot writes every element before its failing piece (log 113); reserved
bits of a hall target's descriptor change nothing (log 116); a command pins its pieces' pages, each stay on the same pages once (log 77);
a hall operation of length 0, or with a frame that has no path, sends nothing and waits for a boundary; and one whose local pages fail ends
with its status (log 40). -/
def Obligations.EngineCommandStarts : Prop :=
  ∀ (tr : Nat) (c : Cmd) (s : State), s.dueCmds tr = [c] →
    let u := (s.asIssuer c).occupy c
    let owner := u.myTrain.owner
    let a := (nth 0 c.vals 0).toNat
    let mode := c.op.bpm c.vals
    let pool := Memory.bytes s.grid.pool (c.core * 2 ^ 32 + a)
    let tiled (tile k : Nat) : Nat := c.core * 2 ^ 32 + 16384 * tile + k
    let landing (w : Landing) : Pend := { train := c.train, due := c.land, key := c.key, what := w }
    let out (w : OutWhat) : EngOut :=
      { train := c.train, due := c.land, start := c.start, col := c.col, core := c.core, team := c.team, key := c.key, what := w }
    let starts (t : State) : Prop := exec (.columnEntryStart tr) s = .next t ∧ t.mem.home = s.mem.home ∧ t.grid.pool = s.grid.pool ∧
      t.grid.slots = s.grid.slots ∧ t.grid.stores = s.grid.stores ∧ t.fw = s.fw ∧ t.cur = s.cur ∧
      ∀ x ∈ t.grid.cmds, x.id = c.id → x.started = true
    let landsFrom (t : State) (outs : List (OutWhat × Option Nat)) (ws : List Landing) : Prop := starts t ∧
      t.grid.outs = s.grid.outs ++ (outs.map fun w => { out w.1 with bad := w.2 }) ∧ t.grid.pend = s.grid.pend ++ ws.map landing
    let lands (t : State) (outs : List OutWhat) (ws : List Landing) : Prop := landsFrom t (outs.map (·, none)) ws
    let still (t : State) : Prop := t.grid.tiles = s.grid.tiles ∧ t.pod = s.pod ∧ t.grid.groups = s.grid.groups ∧ t.mem = s.mem
    let scalar (n : Nat) (x : W64) : Landing :=
      if c.bank = true ∧ 112 ≤ n then .trapr (n - 112) (some x) else .scal n (some x)
    let taken (m : Memory) (slot : Nat) : Prop := ∀ i < 32768, m.byte i = s.grid.slots.byte (c.core * 2 ^ 32 + 32768 * slot + i)
    let flagged (n : Nat) : List Landing := if n = 0 then [] else [.gstatSet (BitVec.ofNat 32 n)]
    let moves (v t : State) (dst slot f ss : Nat) (stop : Option (Nat × Nat)) (ms : List Move) (crc : Option (Nat × Nat))
        (want : Option Nat) : Prop :=
      let r := v.pass owner (cutMoves ms)
      let end_ := if r.2.isSome then r.2 else stop
      let read := r.1.map fun m => (m, v.readSide mode slot m.n m.src)
      let sum := match crc with
        | some (_, x) => crc32c x (read.flatMap (·.2))
        | none => 0
      let wrong : Prop := end_ = none ∧ ∃ y, want = some y ∧ sum ≠ y
      let status : Nat → Prop := fun n => match end_ with
        | some (cause, off) => n = cause * 2 ^ 56 + off % 2 ^ 48
        | none => (wrong → n = 4 * 2 ^ 56) ∧ (¬ wrong → n = 0)
      let pages := (pieceRuns (r.1.map v.piecePages)).flatMap id
      let from_ (m : Move) : Option Nat := if m.dst.isGlobal then v.badSource m else none
      ∃ n, status n ∧ landsFrom t
          ((read.flatMap fun p : Move × List Byte => (v.outsTo mode slot p.2 p.1.dst).map fun w => (w, from_ p.1)) ++
            (fillOuts c.core slot ss f (read.filterMap fun p => p.1.dst.fillRow?.map fun k => (k, p.2)) ++ [OutWhat.finish c.id]).map (·, none))
          (scalar dst (BitVec.ofNat 64 n) :: match crc with
            | some (y, _) => [scalar y (BitVec.ofNat 64 sum)]
            | none => []) ∧
        (∀ x ∈ t.grid.cmds, x.id = c.id → x.failed = decide (n ≠ 0) ∧ x.pages = pages) ∧ (∀ q, t.pins q = s.pins q + pages.count q) ∧
        t.grid.tiles = s.grid.tiles ∧ t.pod = s.pod ∧
        (wrong → (t.group c.key).checks = (s.group c.key).checks ++ [(c.land, c.addr)]) ∧ (¬ wrong → t.grid.groups = s.grid.groups) ∧
        t.sys = match r.2 with
          | none => v.sys
          | some (cause, _) => ((if cause = 1 then v.bump 0 9 else v).bumpOwner owner 6).sys
    (∀ h o sp, c.op = (if sp = true then .mmas h o else .mma h o) → ∃ t : State, lands t [] [] ∧ t.pod = s.pod ∧
      t.grid.groups = s.grid.groups ∧ t.mem = s.mem ∧ Sp.get 0 (t.core c.core).kp o.tile = 0 ∧
      t.grid.tiles = (if o.z then Sp.clear s.grid.tiles (tiled o.tile 0) 16384 else s.grid.tiles) ∧
      ∀ x ∈ t.grid.cmds, x.id = c.id → taken x.slotA o.sa ∧ taken x.slotB o.sb ∧
        (scaled (fmtA c.fmt) = true → taken x.scaleA (fmtAs c.fmt)) ∧ (scaled (fmtB c.fmt) = true → taken x.scaleB (fmtBs c.fmt))) ∧
    (∀ h o, c.op = .accrd h o →
      let n := (o.nrm1 + 1) * 128
      let w := (s.group c.key).width
      let word (k : Nat) : List Byte × Nat := accOut o.fmt (modeOf c.fmt o.rm) (fmtPh c.fmt) o.sat (fmtE4n c.fmt) (k % 128)
        (Sp.get 0 s.grid.tiles (tiled o.tile (128 * o.row0 + k))).toNat
      let bytes := (List.range n).flatMap fun k => (word k).1
      let after := flagged ((List.range n).foldl (fun f k => orFlags f (word k).2) 0) ++
        if accDithers c.fmt o = true ∧ o.row0 + o.nrm1 = 127 then [.ph c.alt] else []
      let part (i : Nat) : List Byte := (bytes.drop (4 * w * i)).take (4 * w)
      let register (i r : Nat) : Landing :=
        .vec r ((List.range ((part i).length / 4)).map fun l => (l, BitVec.ofNat 32 (leNat (((part i).drop (4 * l)).take 4))))
      ∃ t : State, still t ∧ if o.dk then lands t [] ((accRegs w o).mapIdx register ++ after)
        else lands t [.pool c.core a bytes] after) ∧
    (∀ h o, c.op = .accwr h o →
      let w := accWidth o.fmt
      let word (k : Nat) : W32 := BitVec.ofNat 32 (accIn o.fmt (Memory.nat s.grid.pool (c.core * 2 ^ 32 + a + w * k) w))
      ∃ t : State, still t ∧ lands t [.tile c.core o.tile (128 * o.row0) ((List.range ((o.nrm1 + 1) * 128)).map word)]
        [.kp c.core o.tile 0]) ∧
    (∀ h o, c.op = .tfill h o → ∃ t : State, still t ∧
      lands t (fillOuts c.core o.slot o.ss o.f ((c.op.moves c.vals).map fun m => (m.dst.fillRow?.getD 0, u.readSide mode 0 m.n m.src))) []) ∧
    (∀ h o, c.op = .cpy h o → ∃ t : State,
      moves u t o.dst o.slot o.f o.ss none (copyMoves o (copyVals o c.vals)) none none) ∧
    (∀ h o, c.op = .cpyk h o → let v := copyVals o c.vals
      ∃ t : State, moves u t o.dst o.slot o.f o.ss none (copyMoves o v) (some (o.y, v.crcIn o))
        (if o.cmp then some (v.crcWant o) else none)) ∧
    (∀ h o, c.op = .cpyr h o →
      let v := copyVals o c.vals
      let array : Move := { off := 0, n := 4 * (v.box.n1 + 1), src := .global (nth 0 v.rest 0).toNat, dst := .data [] }
      let reads := cutMoves [array]
      let bytes := reads.flatMap u.arrayBytes
      let pages := reads.flatMap u.piecePages
      let rows := u.raggedRows (raggedMoves o v ((List.range (v.box.n1 + 1)).map fun i => leNat ((bytes.drop (4 * i)).take 4)))
      ∃ t : State, moves ((u.countMisses owner pages).poisoned c c.land pages) t o.dst o.slot o.f o.ss rows.2 rows.1 none none) ∧
    (∀ h o, c.op = .esp h o → ∃ t : State, moves u t o.dst o.slot 0 0 none (espMoves o (espVals o c.vals)) none none) ∧
    (∀ h o kind, (kind = 0 ∧ c.op = .lsend h o) ∨ (kind = 2 ∧ c.op = .lmcast h o) ∨ (kind = 1 ∧ c.op = .lred h o) →
      let e := s.slotEntry o.port o.slot
      let cell : LinkCell :=
        { kind := kind, dest := fieldOf e 0 7, dcore := fieldOf e 10 8, spkg := s.pkg, sslot := o.slot, flow := o.flow
          rop := if kind = 1 then o.rop else 0, payload := pool 128 }
      (s.pod.inPod = false → exec (.columnEntryStart tr) s = .next s) ∧
      (s.pod.inPod = true → ∃ t : State, lands t [] [] ∧ t.grid.groups = s.grid.groups ∧ t.mem = s.mem ∧
        t.grid.acts = s.grid.acts ++ [{ train := c.train, team := c.team, key := c.key, group := (s.group c.key).idx
                                        core := (s.group c.key).core, ord := s.grid.ord, due := 0, what := .cell (pool 128) }] ∧
        t.pod = if u.myTeam.twin then s.pod else { s.pod with
          cells := s.pod.cells ++ [{ port := o.port, slot := o.slot, ready := s.bc.toNat, cell := cell, train := some c.train }] })) ∧
    (∀ h spkg flow sa ofs, c.op = .lrecv h spkg flow sa ofs →
      let wanted (x : LinkCell) : Bool := x.spkg == spkg && x.flow == flow
      (s.pod.inPod = false ∨ (∀ x ∈ (s.core c.core).rx, wanted x = false) → exec (.columnEntryStart tr) s = .next s) ∧
      (∀ x, s.pod.inPod = true → (s.core c.core).rx.find? wanted = some x → ∃ t : State, still t ∧
        lands t [.pool c.core a x.payload] [] ∧ (t.core c.core).rx = eraseFirst wanted (s.core c.core).rx)) ∧
    (∀ h o op, (op = 0 ∧ c.op = .lput h o) ∨ (op = 3 ∧ c.op = .lputAtomic h o) ∨ (op = 1 ∧ c.op = .lget h o) →
      let len := (nth 0 c.vals 4).toNat
      let path (f : Nat × HallFrame) : Prop := fieldOf (s.hpath f.2.plane f.2.pod) 63 1 = 1
      let ms := if o.lk then cutMoves [{ off := 0, n := len, src := .global a, dst := .data [] }] else []
      let page (m : Move) : Option Nat := match m.src with
        | .global va => (u.engineXlat false (op == 1) va m.n).map fun x => x.ia / 65536
        | _ => none
      let cause (m : Move) : Nat := ((page m).map (u.localCause owner)).getD 0
      let bytes := if op = 1 then [] else if o.lk then ms.flatMap fun m => u.readSide 0 0 m.n m.src else pool len
      let sends := hallFrames op o c.vals bytes
      let sent (t : State) (status : W64) (frames : List (Nat × HallFrame)) : Prop :=
        t.pod = { s.pod with
          hallQ := queueFrames s.pod.hallQ (frames.map fun f =>
            (f.2.plane, { frame := f.2, attempts := 0, sent := 0, opId := c.id, first := f.1 }))
          hallOps := s.pod.hallOps ++ [{
            id := c.id, train := c.train, team := c.team, key := c.key, group := c.group, core := c.core, scope := o.csel - 1
            counterIa := u.place (nth 0 c.vals 3).toNat 8, left := frames.length, status := status, get := op == 1
            localGlobal := o.lk, localAddr := a, old := none, data := [], after := c.start }] }
      u.myTeam.twin = false → c.steps = 0 →
      (len = 0 ∨ (∃ f ∈ hallFrames op o c.vals [], ¬ path f) → ∃ t : State, still t ∧ lands t [] [] ∧
        ∀ x ∈ t.grid.cmds, x.id = c.id → x.waits = true ∧ (len = 0 → x.ends = some 0) ∧
          ∀ f, len ≠ 0 → (hallFrames op o c.vals []).find? (fun f => fieldOf (s.hpath f.2.plane f.2.pod) 63 1 == 0) = some f →
            x.ends = some (BitVec.ofNat 64 (7 * 2 ^ 56 + f.1))) ∧
      (len ≠ 0 → (∀ f ∈ hallFrames op o c.vals [], path f) → ∃ t : State, lands t [] [] ∧ t.grid.tiles = s.grid.tiles ∧
        t.grid.groups = s.grid.groups ∧ (∀ q, t.pins q = s.pins q + (ms.filterMap page).count q) ∧
        (∀ x ∈ t.grid.cmds, x.id = c.id → x.waits = true ∧ x.pages = ms.filterMap page) ∧
        ((∀ m ∈ ms, cause m = 0) → sent t 0 sends) ∧
        (∀ m, ms.find? (fun m => cause m != 0) = some m → sent t (BitVec.ofNat 64 (cause m * 2 ^ 56 + m.off)) [])))

/-! ### Class 7: system instructions -/

/-- R383, R384 and R407: system registers, read and written at the levels that may: a program reads its windows, its tenant's HPOL and its
own bank of counters, 0 where its tenant has none. That a command core, which has no tenant, reads 0 at SRN 0x10 is the model's choice
(log 70). -/
def Obligations.SystemRegisters : Prop :=
  ∀ (h : Head) (dst sa n : Nat) (s : State), s.holds h = true →
    let v := s.scalar sa
    (s.ready [] [.scal dst] → s.cur.cmd = false → n < 0x10 →
      exec (.sysr h dst n) s = .next (s.scalarResult h 2 dst (let w := nth (0, 0) s.myTrain.desc.windows (n / 2)
        if n % 2 = 0 then w.1 else w.2))) ∧
    (s.ready [] [.scal dst] → s.cur.cmd = false → n = 0x10 →
      exec (.sysr h dst n) s = .next (s.scalarResult h 2 dst (Sp.get 0 s.sys.hpol s.myTrain.owner))) ∧
    (s.ready [] [.scal dst] → s.cur.cmd = false → 0x2000 ≤ n → n < 0x2020 →
      let bank := if s.myTrain.owner = 0 then 0 else ((s.sys.banks.find? fun b => b.2 == s.myTrain.owner).map (·.1)).getD 0
      exec (.sysr h dst n) s = .next (s.scalarResult h 2 dst
        (if bank = 0 then 0 else Sp.get 0 s.sys.counters (32 * bank + (n - 0x2000))))) ∧
    (s.ready [] [.scal dst] → s.cur.cmd = true → readLevel n ≤ (s.cmdCore s.cur.key).level →
      let c := s.cmdCore s.cur.key
      let reads (m : Nat) (v : W64) : Prop := n = m → exec (.sysr h dst n) s = .next (s.scalarResult h 2 dst v)
      let trm : Nat := (s.pod.trm % (2 ^ 18 : Nat)).toNat
      let ofs : Nat := (s.pod.ofs % (2 ^ 32 : Nat)).toNat
      reads 0x10 0 ∧ reads 0x11 (BitVec.ofNat 64 ((if s.pod.out then 2 ^ 63 else 0) + 2 ^ 32 * trm + ofs)) ∧ reads 0x12 s.fw.fring ∧
      reads 0x13 0 ∧ reads 0x14 c.svec ∧ reads 0x15 c.mvec ∧ reads 0x30 s.pod.lmgt ∧ reads 0x31 s.pod.lmgd ∧
      (∀ i < 8, reads (0x18 + 2 * i) (Sp.get 0 c.pmpA i) ∧ reads (0x19 + 2 * i) (Sp.get 0 c.pmpB i)) ∧
      (∀ i < 0x400, reads (0x100 + i) (Sp.get 0 s.pod.slottab i)) ∧ (∀ i < 0x1000, reads (0x1000 + i) (s.hpol i)) ∧
      (∀ i < 0x1000, reads (0x2000 + i) (Sp.get 0 s.sys.counters i)) ∧ ∀ i < 0x800, reads (0x3000 + i) (Sp.get 0 s.pod.hpath i)) ∧
    (s.ready [] [] → s.cur.cmd = true → writeLevel n ≤ (s.cmdCore s.cur.key).level →
      exec (.sysw h sa n) s = .next (s.writeReg s.cur.key n v) ∧
      (n = 0x14 → (s.writeReg s.cur.key n v).cmdCore s.cur.key = { s.cmdCore s.cur.key with svec := v }) ∧
      (n = 0x15 → (s.writeReg s.cur.key n v).cmdCore s.cur.key = { s.cmdCore s.cur.key with mvec := v }) ∧
      (n = 0x31 → s.writeReg s.cur.key n v = { s with pod := { s.pod with lmgd := v } }))

/-- R386, R391, R392 and R425: TRIM adds to the trim and saturates. WDOG sets the named team's limit; a team with a limit expires once that
many vc have passed without a retired run, and one with the limit 0 never. HALT .wait stops its command core; HALT .pkg ends every train
at its next boundary and stops the tap, the command cores and, from the next cell frame on, the ports. That WDOG leaves the count
already reached as it is, is the model's choice (log 64). -/
def Obligations.TrimWatchdogAndHalt : Prop :=
  ∀ (h : Head) (x : VSrc) (sa sb tr tk : Nat) (s : State),
    let runs (level : Nat) : Prop := s.cur.cmd = true ∧ level ≤ (s.cmdCore s.cur.key).level ∧ s.ready [] [] ∧ s.holds h = true
    let n : Int := match x with
      | .reg r => (s.scalar r).toInt
      | .imm d => d.toInt
    (runs 1 → exec (.trim h x) s = .next { s with pod := { s.pod with trm :=
      if 100000 < s.pod.trm + n then 100000 else if s.pod.trm + n < -100000 then -100000 else s.pod.trm + n } }) ∧
    (runs 1 → exec (.wdog h sa sb) s = .next (match s.teamOfHandle (s.scalar sa) with
      | none => s
      | some (_, k) => s.modTeam k fun t => { t with wdLimit := (s.scalar sb).toNat })) ∧
    ((s.team tk).wdLimit = 0 → s.watchdogDue tr tk = false) ∧
    (0 < (s.team tk).wdLimit → (s.team tk).live = true → (s.team tk).train = tr → (s.team tk).twin = false → (s.team tk).ended = false →
      (s.watchdogDue tr tk = true ↔ (s.team tk).wdBase + (s.team tk).wdLimit ≤ (s.train tr).clk)) ∧
    ((s.retire (s.now + 1)).myTeam.wdBase = s.now) ∧
    (runs 1 → exec (.haltWait h) s = .next (s.modCmdCore s.cur.key fun c => { c with waiting := true })) ∧
    (runs 2 → ∃ t : State, exec (.haltPkg h) s = .next t ∧ t.mem = s.mem ∧
      t.grid.trains = s.grid.trains.map (fun p => (p.1, { p.2 with endAll := true })) ∧
      t.pod = { s.pod with stopped := true, stopBc := (s.bc.toNat / 64 + 1) * 64 } ∧
      t.fw.cmds = s.fw.cmds.map (fun p => (p.1, { p.2 with on := false })) ∧ t.sys = { s.sys with boot := 15 })

/-- R387 and R388: the pre-emption and the restore that CTXSV and CTXLD request, and their answers. Three points are the model's readings: a
CTXSV of a team requests its whole train where the train's teams are together (`whole`; log 50, with log 37 for a train that is bound), and
the team alone otherwise; a CTXLD finds its team by the handle in the image's header (`savedTarget`; log 50). -/
def Obligations.ContextRequests : Prop :=
  ∀ (h : Head) (force : Bool) (dst sa sb sc : Nat) (s : State), s.cur.cmd = true → 1 ≤ (s.cmdCore s.cur.key).level →
    s.ready [] [] → s.holds h = true →
    (s.residentTarget (s.scalar sa) = none → exec (.ctxsv h force dst sa sb sc) s = .next (s.scalarResult h 2 dst 0)) ∧
    (∀ tr team, s.residentTarget (s.scalar sa) = some (tr, team) →
      let whole := if s.together tr then none else team
      s.prePending tr whole = false → s.scalar sb ≠ 0 →
      ∃ t : State, exec (.ctxsv h force dst sa sb sc) s = .next (t.scalarResult h 2 dst 1) ∧ t.mem = s.mem ∧ t.grid = s.grid ∧ t.pod = s.pod ∧
        ∃ r : PreReq, t.fw.pre = s.fw.pre ++ [r] ∧ r.train = tr ∧ r.team = whole ∧ r.handle = s.scalar sa ∧ r.done = false ∧
          r.deadline = s.bc.toNat + (s.scalar sc).toNat ∧ r.image = (s.scalar sb).toNat ∧ (force = true → r.decision = 2)) ∧
    (s.savedTarget (s.scalar sa).toNat = none → exec (.ctxld h dst sa sb) s = .next (s.scalarResult h 2 dst 0)) ∧
    (∀ tr team, s.savedTarget (s.scalar sa).toNat = some (tr, team) →
      let want := if fieldOf (s.scalar sb) 63 1 = 1 then anyCore else fieldOf (s.scalar sb) 0 8
      s.prePending tr team = false → s.restorable tr team want = true →
      ∃ t : State, exec (.ctxld h dst sa sb) s = .next (t.scalarResult h 2 dst 1) ∧ t.mem = s.mem ∧ t.grid = s.grid ∧
        ∃ r : PreReq, t.fw.pre = s.fw.pre ++ [r] ∧ r.train = tr ∧ r.team = team ∧ r.restore = some want ∧ r.done = false)

/-- R389 and R390: leases and page owners, with the answers of refused requests. Three clauses are the model's choices: when LEASE
accepts, and on which of several grants ops 1 and 2 act (log 19), that POWN takes its address modulo 2^56, and that it refuses a page
without an entry (log 64). -/
def Obligations.LeasesAndOwners : Prop :=
  ∀ (h : Head) (dst sa sb : Nat) (s : State), s.cur.cmd = true → s.ready [] [] → s.holds h = true →
    let a := (s.scalar sa).toNat
    let p := fieldOf (s.scalar sa) 0 56 / 65536
    let old := fieldOf (s.page p) 52 12
    (1 ≤ (s.cmdCore s.cur.key).level →
      (s.leaseAccepts a = false →
        exec (.leaseGrant h dst sa) s = .next (s.scalarResult h 2 dst 0) ∧
        exec (.leaseRelease h dst sa) s = .next (s.scalarResult h 2 dst 0) ∧
        exec (.leaseRevoke h dst sa) s = .next (s.scalarResult h 2 dst 0)) ∧
      (s.leaseAccepts a = true → s.granted a = none →
        exec (.leaseGrant h dst sa) s = .next ((s.requestGrant a).scalarResult h 2 dst 1) ∧
        exec (.leaseRelease h dst sa) s = .next (s.scalarResult h 2 dst 0) ∧
        exec (.leaseRevoke h dst sa) s = .next (s.scalarResult h 2 dst 0)) ∧
      (∀ l, s.leaseAccepts a = true → s.granted a = some l →
        exec (.leaseGrant h dst sa) s = .next ((s.requestGrant a).scalarResult h 2 dst 1) ∧
        exec (.leaseRelease h dst sa) s = .next ((s.endLease l).scalarResult h 2 dst 1) ∧
        exec (.leaseRevoke h dst sa) s = .next ((s.requestRevoke l).scalarResult h 2 dst 1))) ∧
    ((s.cmdCore s.cur.key).level = 2 →
      ((s.pins p ≠ 0 ∨ pkgOf (p * 65536) ≠ s.pkg ∨ hasEntry p = false) →
        exec (.pown h dst sa sb) s = .next (s.scalarResult h 2 dst (BitVec.ofNat 64 (old + 2 ^ 63)))) ∧
      (s.pins p = 0 → pkgOf (p * 65536) = s.pkg → hasEntry p = true →
        ∃ t : State, exec (.pown h dst sa sb) s = .next (t.scalarResult h 2 dst (BitVec.ofNat 64 old)) ∧
          fieldOf (t.page p) 52 12 = fieldOf (s.scalar sb) 0 12 ∧ (∀ q, q ≠ p → t.page q = s.page q) ∧ t.grid = s.grid ∧
          t.mem.home = s.mem.home))

/-- R43, R363, R365 and R382: below the level that an instruction of class 7 needs, and on compute cores for all but SYSR of a readable
register and a handler's TRET, it raises a privilege fault and does nothing else; an instruction of class 6, or TBASE, of a worker group
raises a role fault; and on a command core the instructions that name state only trains have are illegal. -/
def Obligations.PrivilegeFaults : Prop :=
  ∀ (h : Head) (x : VSrc) (force neg : Bool) (dst sa sb sc n tile ofs spkg flow m : Nat) (imm : Option W32) (tgt rcv : W32) (o : Mma)
    (a : Acc) (f : Tfill) (c : Copy) (e : Esp) (l : Send) (p : Hall) (g : Eng) (y : Cnt) (s : State),
    let below (level : Nat) : Prop := s.cur.cmd = false ∨ (s.cmdCore s.cur.key).level < level
    let denied (i : Instr) : Prop := exec i s = .next (s.raise { code := 5 })
    let engine : List Instr := [.mma h o, .mmas h o, .accz h tile ofs, .accwr h a, .tfill h f, .cpy h c, .cpyr h c, .cpyk h c, .esp h e,
      .lsend h l, .lred h l, .lmcast h l, .lrecv h spkg flow sa ofs, .lput h p, .lputAtomic h p, .lget h p, .tclaim h dst n, .trel h n,
      .cbatch h dst, .cwait h sa, .lap h dst sa sb g, .lapRel h dst sa, .lapq h dst sa]
    (s.ready [] [] →
      (below 1 → denied (.trim h x) ∧ denied (.ctxsv h force dst sa sb sc) ∧ denied (.ctxld h dst sa sb) ∧
        denied (.leaseGrant h dst sa) ∧ denied (.leaseRelease h dst sa) ∧ denied (.leaseRevoke h dst sa) ∧ denied (.wdog h sa sb) ∧
        denied (.haltWait h)) ∧
      (below 2 → denied (.pown h dst sa sb) ∧ denied (.haltPkg h)) ∧
      (below (writeLevel n) → denied (.sysw h sa n)) ∧
      (s.cur.cmd = true → (s.cmdCore s.cur.key).level < readLevel n → denied (.sysr h dst n)) ∧
      (s.cur.cmd = false → programReads n = false → denied (.sysr h dst n)) ∧
      (s.cur.cmd = false → s.me.handler ≠ some s.cur.alt → denied (.tret h)) ∧
      (s.cur.cmd = false → s.me.conductor = false → ∀ i ∈ engine ++ [.tbase h sa imm], exec i s = .next (s.raise { code := 4 }))) ∧
    (s.ready (accRegs s.me.width a) [] → s.cur.cmd = false → s.me.conductor = false →
      exec (.accrd h a) s = .next (s.raise { code := 4 })) ∧
    (s.cur.cmd = true → ∀ i ∈ engine ++ [.accrd h a, .brd h m neg tgt rcv, .join h, .bar h n, .trig h, .tbase h sa imm, .twait h ofs,
        .talign h dst sa sb, .yield h y, .tvec h x], exec i s = .next (s.raise { code := 1, t2 := s.cur.word }))

/-! ### Faults, traps and the return -/

/-- R249, R363, R366 to R368, R371 and R373: a compute core's fault is recorded and its instruction has no effect; TRAP and BRK record
theirs for the vc of the next issue; a command core enters the next level, or halts the package; TRET goes back. -/
def Obligations.FaultsTrapsAndReturns : Prop :=
  ∀ (h : Head) (code : Nat) (o : V2) (f : Flt) (s : State),
    let level := (s.cmdCore s.cur.key).level
    let vec := if level = 0 then (s.cmdCore s.cur.key).svec else (s.cmdCore s.cur.key).mvec
    let record (c lane tcode : Nat) (t2 : W64) (resume : Addr48) (d : Nat) (align : Bool) : FaultRec :=
      { team := s.cur.team, group := s.me.idx, key := s.cur.key, code := c, lane := lane, tcode := tcode, resume := resume
        alt := s.cur.alt, t2 := t2, p := s.now + d, pvc := s.myTrain.vc + BitVec.ofNat 64 d, align := align }
    let waits (c : Nat) : State := (s.modGroup s.cur.key fun g => { g with halted := true }).modTrain s.cur.train fun t =>
      { t with faults := t.faults ++ [record c 255 code 0 s.cur.next (1 + h.d) false] }
    let entered (t : State) (c lane tcode : Nat) (t2 : W64) (resume : Addr48) : Prop :=
      (t.cmdCore s.cur.key).level = level + 1 ∧ t.me.pri.pc = vec.truncate 48 ∧
      Sp.get 0 t.me.treg (16 * (level + 1)) = BitVec.ofNat 64 (c + 256 * lane + 65536 * tcode + 2 ^ 62 * level) ∧
      Sp.get 0 t.me.treg (16 * (level + 1) + 1) = BitVec.ofNat 64 (resume.toNat + 2 ^ 48 * s.cur.alt.toNat) ∧
      Sp.get 0 t.me.treg (16 * (level + 1) + 2) = t2 ∧ Sp.get 0 t.me.treg (16 * (level + 1) + 3) = 0 ∧
      (∀ r, (r < 16 * (level + 1) ∨ 16 * (level + 1) + 3 < r) → Sp.get 0 t.me.treg r = Sp.get 0 s.me.treg r) ∧
      t.me.sreg = s.me.sreg ∧ t.me.vreg = s.me.vreg ∧ t.me.mreg = s.me.mreg ∧ t.me.creg = s.me.creg ∧ t.me.gstat = s.me.gstat ∧
      t.mem = s.mem ∧ t.pod = s.pod ∧ t.sys = s.sys ∧ ∀ k, k ≠ s.cur.key → t.group k = s.group k ∧ t.cmdCore k = s.cmdCore k
    let halts (t : State) : Prop := t.sys.boot = 15 ∧ t.sys.cause = 8 ∧ t.pod.stopped = true ∧ t.mem = s.mem ∧
      (∀ p ∈ t.fw.cmds, p.2.on = false) ∧ ∀ p ∈ t.grid.trains, p.2.endAll = true
    (s.cur.cmd = false →
      (s.raise f).myTrain = { s.myTrain with faults := s.myTrain.faults ++ [record f.code f.lane f.tcode f.t2 s.cur.addr 0 f.align] } ∧
      (s.raise f).cur = { s.cur with failed := true } ∧ (s.raise f).grid.groups = s.grid.groups ∧ (s.raise f).grid.pend = s.grid.pend ∧
      (s.raise f).mem = s.mem ∧ (∀ tr, tr ≠ s.cur.train → (s.raise f).train tr = s.train tr)) ∧
    (s.cur.cmd = true → level < 2 → vec ≠ 0 → entered (s.raise f) f.code f.lane f.tcode f.t2 s.cur.addr) ∧
    (s.cur.cmd = true → 2 ≤ level ∨ vec = 0 → halts (s.raise f)) ∧
    (s.me.allot ≤ o.dst → exec (.iadd h o) s = .next (s.raise { code := 1, t2 := s.cur.word })) ∧
    (s.ready (o.dst :: o.sa :: o.b.vregs) [] → s.cur.cmd = false → s.isPending (.vec o.dst) = true →
      exec (.iadd h o) s = .next (s.raise { code := 10 })) ∧
    (s.ready [] [] → s.holds h = false → exec (.trap h code) s = .next s ∧ exec (.brk h code) s = .next s) ∧
    (s.ready [] [] → s.holds h = true → s.cur.cmd = false →
      exec (.trap h code) s = .next (waits 13) ∧ exec (.brk h code) s = .next (waits 12) ∧
      (s.me.handler = some s.cur.alt → ∃ t : State, exec (.tret h) s = .next t ∧ t.me.handler = none ∧
        (t.me.slot s.cur.alt).pc = (Sp.get 0 s.me.treg 1).truncate 48 ∧ t.me.hold = max s.me.hold (s.now + 8) ∧ t.cur.taken = true ∧
        t.me.treg = s.me.treg ∧ t.me.sreg = s.me.sreg ∧ t.me.vreg = s.me.vreg ∧ t.mem = s.mem ∧ ∀ k, k ≠ s.cur.key → t.group k = s.group k)) ∧
    (s.ready [] [] → s.holds h = true → s.cur.cmd = true →
      (level < 2 → vec ≠ 0 → ∃ t u : State, exec (.trap h code) s = .next t ∧ exec (.brk h code) s = .next u ∧
        entered t 13 255 code 0 s.cur.next ∧ entered u 12 255 code 0 s.cur.next) ∧
      (2 ≤ level ∨ vec = 0 → ∃ t u : State, exec (.trap h code) s = .next t ∧ exec (.brk h code) s = .next u ∧ halts t ∧ halts u) ∧
      (fieldOf (Sp.get 0 s.me.treg (16 * level)) 62 2 ≤ level → ∃ t : State, exec (.tret h) s = .next t ∧
        (t.cmdCore s.cur.key).level = fieldOf (Sp.get 0 s.me.treg (16 * level)) 62 2 ∧
        (t.me.slot s.cur.alt).pc = (Sp.get 0 s.me.treg (16 * level + 1)).truncate 48 ∧ t.me.treg = s.me.treg ∧ t.me.sreg = s.me.sreg ∧
        t.me.vreg = s.me.vreg ∧ t.mem = s.mem))

/-! ### Encodings -/

/-- R198 to R202 and the encoding tables: decoding the word of a well-formed instruction gives it back with every operand. -/
def Obligations.DecodeOfEncode : Prop :=
  ∀ i : Instr, i.isWord = true → i.wf = true → ∃ w, encode i = some w ∧ decodeWord w = .ok i

/-- Words written out from R198 to R202 and from the tables of the classes: one of each class. The word of IMAXB follows R198, which the
model prefers to the word that R258 prints for that instruction (log 8). -/
def Obligations.SpecWordsDecode : Prop :=
  let always : Head := { d := 0, e := false, pred := 0, pn := false }
  let last : Head := { d := 0, e := true, pred := 0, pn := false }
  let addr : MAddr := { sz := 0, sh := 0, vs := false, nov := false, sa := 4, sb := 6, imm := none }
  decodeWord 0x000000640000000040C00001 = .ok (.add always { dst := 3, sa := 1, b := .imm32 100 }) ∧
  decodeWord 0x0000008041000080 = .ok (.iadd always { pk := 0, u := false, dst := 4, sa := 1, b := .reg 2 }) ∧
  decodeWord 0x0052418102882C80 =
    .ok (.imaxb { always with pred := 2 } (.scalar 20 0) { pk := 1, u := false, dst := 10, sa := 4, b := .reg 6 }) ∧
  decodeWord 0x0000000700000181422C0D15 =
    .ok (.fma { d := 2, e := true, pred := 3, pn := true } { rm := 0, sat := false, dst := 8, sa := 5, sb := 6, sc := 7 }) ∧
  decodeWord 0x0000000142002580 = .ok (.frcp always { rm := 0, sat := false, dst := 8, sa := 5 }) ∧
  decodeWord 0x000000070060018100801201 = .ok (.aadd always { a := addr, scope := 3, nr := false, dst := 2, sc := 7 }) ∧
  decodeWord 0x1E84 = .ok (.exit last) ∧ decodeWord 0x2280 = .ok (.nop always 0) ∧ decodeWord 0x2284 = .ok (.nop last 0) ∧
  decodeWord 0x00000000000000C8100FC0C080400302 =
    .ok (.mma always { tile := 1, sa := 2, sb := 3, nm1 := 63, k0 := 0, z := true, ofs := 200 }) ∧
  decodeWord 0x0004000001000380 = .ok (.sysr always 4 0x10)

/-! ### Steps -/

/-- R1, R45, R203 to R209 and R363: an issue fetches, decodes and executes the instruction at its program counter, and an instruction
that cannot be fetched or decoded faults; so does a command core; other work, inputs and time are steps of their own. That an input
which is due comes before the period's own work (log 2), and that one input lets a command core run one instruction (log 9), are the
model's choices. -/
def Obligations.StepRunsTheDecodedInstruction : Prop :=
  ∀ (s : State) (i e : Instr) (f : Flt) (w n slot k at_ : Nat),
    let u : State := { s with cur := s.context slot }
    let without (x : Input) : State := { s with inputs := eraseFirst (fun q => q == (at_, x)) s.inputs }
    let v : State := (without (.command k)).pollRecord k
    let c : State := { v with cur := v.commandContext k }
    (s.dueInput = none →
      (s.dueWork = some (.issue slot) → u.poisonedCode = none →
        (u.decodeAt u.cur.addr = .ok (i, w, n) → step s = thenDo (exec i (u.countFetch.fetched w n)) (State.afterIssue i w)) ∧
        (u.decodeAt u.cur.addr = .error f → step s = .next ((u.countFetch.raise f).issued 0 true).idle) ∧
        ((∀ p, u.pageOk u.myTrain.owner p = true) → u.countFetch = u)) ∧
      (s.dueWork = some (.event e) → step s = exec e s) ∧
      (s.dueWork = none → step s = exec .vcAdvance s)) ∧
    (s.dueInput = some (at_, .op e) → step s = exec e (without (.op e))) ∧
    (s.dueInput = some (at_, .command k) →
      (16 ≤ k → step s = .fault (.noCommandCore k)) ∧
      (k < 16 → v.commandRuns k = true →
        (c.decodeAt c.cur.addr = .ok (i, w, n) → step s = thenDo (exec i (c.fetched w n)) State.idle) ∧
        (c.decodeAt c.cur.addr = .error f → step s = .next (c.raise f).idle)) ∧
      (k < 16 → v.commandRuns k = false → step s = .next v))

/-- R169 and R386: BAL.TRM stays within ±100,000 whatever the machine does. -/
def Obligations.TrimStaysInRange : Prop := ∀ s s' : State, s.trimmed → step s = .next s' → s'.trimmed

/-- The model's memories keep their one form (keys rising, no byte equal to what an unlisted address reads) in every step: home and companion
memory, SRAM, pools and slots (R20), the views (R142), the copies of laps (R434) and what saved trains left (R375). That a byte nothing has
written reads 0 is the model's choice (log 5). -/
def Obligations.MemoriesStayCanonical : Prop := ∀ s s' : State, s.canonical → step s = .next s' → s'.canonical

/-- R447's STATE 0: without power the package holds nothing, and it meets the invariants. That a byte nothing has written reads 0 is
the model's choice (log 5). -/
def Obligations.ResetState : Prop :=
  State.reset.sys.boot = 0 ∧ State.reset.grid.trains = [] ∧ State.reset.grid.groups = [] ∧ State.reset.fw.cmds = [] ∧
  State.reset.mem.home = [] ∧ State.reset.mem.priv = [] ∧ State.reset.pod.inPod = false ∧ State.reset.trimmed ∧ State.reset.canonical

/-! ### Events of a train -/

/-- R49, R54, R103, R134, R276, R308, R309, R313, R329: what lands or starts in a vc: a clock's pass, registers, pool writes, SFU entries,
column entries, k-steps, engine outputs and the receives of LRED. A landing changes its own register and nothing else; a claim gives 0 and
takes nothing where another team of its train holds a claimed slot of the core (R309), which is decided at the landing by the model's choice
(log 38). -/
def Obligations.LandingEvents : Prop :=
  ∀ (tr : Nat) (s : State),
    let clk := (s.train tr).clk
    let due (p : Pend) : Bool := p.train == tr && p.due ≤ clk && (s.group p.key).resident
    let same (t : State) : Prop := t.mem = s.mem ∧ t.grid.groups = s.grid.groups ∧ t.grid.trains = s.grid.trains ∧ t.fw = s.fw ∧ t.pod = s.pod
    (∃ t : State, exec (.lateEventClear tr) s = .next t ∧ t.mem = s.mem ∧ t.grid.groups = s.grid.groups ∧ (t.train tr).clk = clk ∧
      (∀ h, h ∈ (t.train tr).holds ↔ h ∈ (s.train tr).holds ∧ ∀ k, h.2 ≠ .physical k) ∧ ∀ o, o ≠ tr → t.train o = s.train o) ∧
    (∃ t : State, exec (.registerLanding tr) s = .next t ∧ (∀ p, p ∈ t.grid.pend ↔ p ∈ s.grid.pend ∧ due p = false) ∧
      (∀ k, (∀ p ∈ s.grid.pend, due p = true → p.key ≠ k) → t.group k = s.group k) ∧ t.mem.home = s.mem.home ∧ t.grid.pool = s.grid.pool ∧
      ∀ p, s.grid.pend.filter due = [p] → (∀ m k r, p.what ≠ .claim m k r) → t.group p.key = (s.group p.key).land p.what) ∧
    (∀ p m k r, s.grid.pend.filter due = [p] → p.what = .claim m k r →
      let g := s.group p.key
      let tk := teamKey g.train g.team
      let held : Prop := ∃ q ∈ s.grid.teams, q.1 ≠ tk ∧ q.2.live = true ∧ q.2.ended = false ∧ q.2.saved = false ∧ q.2.train = g.train ∧
        Sp.get 0 q.2.claims g.core &&& m ≠ 0
      let lands (t : State) (x : W64) : Prop := exec (.registerLanding tr) s = .next t ∧
        t.group p.key = g.land (if k = 2 then .trapr r (some x) else .scal r (some x)) ∧ ∀ o, o ≠ tk → t.team o = s.team o
      (held → ∃ t : State, lands t 0 ∧ t.team tk = s.team tk) ∧
      (¬ held → ∃ t : State, lands t 1 ∧
        ∀ c, Sp.get 0 (t.team tk).claims c = Sp.get 0 (s.team tk).claims c ||| if c = g.core then m else 0)) ∧
    (∀ p m, s.grid.pend.filter due = [p] → p.what = .unclaim m → ∃ t : State, exec (.registerLanding tr) s = .next t ∧
      let g := s.group p.key
      let mine := Sp.get 0 (s.team (teamKey g.train g.team)).claims g.core
      Sp.get 0 (t.team (teamKey g.train g.team)).claims g.core = mine - (mine &&& m)) ∧
    (∀ p, s.grid.stps.filter (fun p => p.train == tr && p.due ≤ clk) = [p] → ∃ t : State, exec (.poolWriteLanding tr) s = .next t ∧
      same t ∧ t.grid.pool = Memory.put s.grid.pool (p.core * 2 ^ 32 + p.addr) p.data ∧
      ∀ q, q ∈ t.grid.stps ↔ q ∈ s.grid.stps ∧ ¬(q.train = tr ∧ q.due ≤ clk)) ∧
    (∀ e, s.grid.sfu.filter (fun e => e.train == tr && e.start ≤ clk) = [e] → ∃ t : State, exec (.sfuEntryStart tr) s = .next t ∧ same t ∧
      (t.core e.core).lastSfu = some e.start ∧
      (e.only = false → (s.group e.key).width ≠ 0 →
        t.grid.pend = s.grid.pend ++ ({ train := tr, due := e.start + 24, key := e.key, what := .vec e.dst e.lanes } ::
          if e.flags = 0 then [] else [{ train := tr, due := e.start + 24, key := e.key, what := .gstatSet e.flags }])) ∧
      (e.only = true ∨ (s.group e.key).width = 0 → t.grid.pend = s.grid.pend) ∧
      ∀ q, q ∈ t.grid.sfu ↔ q ∈ s.grid.sfu ∧ ¬(q.train = tr ∧ q.start ≤ clk)) ∧
    (∀ c h tile ofs, s.dueCmds tr = [c] → c.op = .accz h tile ofs → ∃ t : State, exec (.columnEntryStart tr) s = .next t ∧ same t ∧
      t.grid.outs = s.grid.outs ++ [{ train := c.train, due := c.land, start := c.start, col := c.col, core := c.core, team := c.team
                                      key := c.key, what := .tileZero c.core tile }] ∧
      t.grid.pend = s.grid.pend ++ [{ train := c.train, due := c.land, key := c.key, what := .kp c.core tile 0 }] ∧
      ∀ x ∈ t.grid.cmds, x.id = c.id → x.started = true) ∧
    (∀ c h o sp, s.dueSteps tr = [c] → c.op = (if sp = true then .mmas h o else .mma h o) →
      let A := fmtA c.fmt
      let B := fmtB c.fmt
      let depth := pairDepth sp A B
      let bad : Prop := sp = true ∧ indexFault depth o.k0 (o.k0 + c.steps) (slotRows c.slotA) = true
      let r := kstep A B depth (o.k0 + c.steps) c.pass ((Sp.range 0 s.grid.tiles (tileAt c.core o.tile 0) 16384).map BitVec.toNat)
        (slotRows c.slotA) (slotRows c.slotB) (slotRows c.scaleA) (slotRows c.scaleB)
      let kp : Pend := { train := c.train, due := c.nextStep + 1, key := c.key, what := .kp c.core o.tile (BitVec.ofNat 64 (c.steps + 1)) }
      let iov : Pend := { train := c.train, due := c.land, key := c.key, what := .gstatSet (BitVec.ofNat 32 flagIOV) }
      (¬ bad → ∃ t : State, exec (.matrixKstep tr) s = .next t ∧ same t ∧
        t.grid.tiles = Sp.put 0 s.grid.tiles (tileAt c.core o.tile 0) (r.1.map (BitVec.ofNat 32)) ∧
        (∀ x ∈ t.grid.cmds, x.id = c.id → x.iov = (c.iov || r.2)) ∧
        (c.pass + 1 ≠ kPace c.fmt → t.grid.pend = s.grid.pend ∧ ∀ x ∈ t.grid.cmds, x.id = c.id → x.steps = c.steps ∧ x.pass = c.pass + 1) ∧
        (c.pass + 1 = kPace c.fmt → (∀ x ∈ t.grid.cmds, x.id = c.id → x.steps = c.steps + 1 ∧ x.pass = 0) ∧
          t.grid.pend = s.grid.pend ++ kp :: if c.steps = o.nm1 ∧ (c.iov = true ∨ r.2 = true) then [iov] else [])) ∧
      (bad → ∃ t : State, exec (.matrixKstep tr) s = .next t ∧ t.mem = s.mem ∧ t.grid.tiles = s.grid.tiles ∧ t.grid.pend = s.grid.pend ∧
        (∀ x ∈ t.grid.cmds, x.id ≠ c.id) ∧ ∃ f : FaultRec, (t.train c.train).faults = (s.train c.train).faults ++ [f] ∧ f.key = c.key ∧
          f.code = 6 ∧ f.lane = 255 ∧ f.p = clk ∧ f.t2 = 0)) ∧
    (∀ e, s.grid.outs.filter (fun e => e.train == tr && e.due ≤ clk) = [e] → ∃ t : State, exec (.engineOutputLanding tr) s = .next t ∧
      (∀ core a bs, e.what = .pool core a bs → same t ∧ t.grid.pool = Memory.put s.grid.pool (core * 2 ^ 32 + a) bs) ∧
      (∀ core n o bs, e.what = .slot core n o bs → same t ∧ t.grid.slots = Memory.put s.grid.slots (core * 2 ^ 32 + 32768 * n + o) bs) ∧
      (∀ core n, e.what = .tileZero core n → same t ∧ t.grid.tiles = Sp.clear s.grid.tiles (core * 2 ^ 32 + 16384 * n) 16384) ∧
      (∀ level ia bs, e.what = .global level ia bs → same t ∧ ∃ b : BufStore, t.grid.stores = s.grid.stores ++ [b] ∧ b.ia = ia ∧
        b.data = bs ∧ b.level = level ∧ b.clk = e.due ∧ b.bad = e.bad)) ∧
    (∀ c x, s.dueReds tr = [c] → (s.core c.core).rx.find? (c.matches s) = some x → ∃ t : State, exec (.lredReceive tr) s = .next t ∧
      t.mem = s.mem ∧ t.grid.groups = s.grid.groups ∧ (t.core c.core).rx = eraseFirst (c.matches s) (s.core c.core).rx ∧
      (∀ y ∈ t.grid.cmds, y.id = c.id → y.steps = 1) ∧
      t.grid.outs = s.grid.outs ++ [{ train := c.train, due := c.land, start := c.start, col := c.col, core := c.core, team := c.team
                                      key := c.key, what := .pool c.core (nth 0 c.vals 1).toNat x.payload }])

/-- R53, R167 and R434: time passes for the package and for each of its trains whose vc is not held: by a late event, or by work of its own
that finds no frame for a copy set aside. Whether it is, is decided once the idle trains have advanced, every train has taken the cores that
it may (`ready`), and the trains before it have passed their vc (`u`). A late event is a hold whose vc has come, a thermal pause, a hold of
the balance count, an alignment at its vc whose T has not come, a link command at its start that waits for its cell or for the pod, or a
receive of LRED that waits for its cell. -/
def Obligations.TimePasses : Prop :=
  ∀ (tr : Nat) (x : Train) (earlier later : List (Nat × Train)) (s : State),
    (s.grid.trains = [] → s.sys.boot ≠ 5 → s.awaitsCount = false → s.fw.posts = [] → ∃ t : State, exec .vcAdvance s = .next t ∧ t.time = s.time + 1 ∧
      t.grid = { s.grid with idleVc := t.grid.idleVc } ∧ (s.bcHold ≠ 0 → t.grid = s.grid) ∧
      (s.bcHold = 0 → t.bc = s.bc + 1 ∧ t.bcHold = 0) ∧ (s.bcHold ≠ 0 → t.bc = s.bc ∧ t.bcHold = s.bcHold - 1)) ∧
    (s.grid.trains = earlier ++ (tr, x) :: later → (∀ p ∈ earlier ++ later, p.1 ≠ tr) → x.live = true → x.parked = false →
      let ready := (s.grid.trains.map (·.1)).foldl State.extendTrain s.advanceIdle
      let u := (earlier.map (·.1)).foldl State.advanceTrain ready
      let here (c : Cmd) : Prop := ∃ z ∈ (u.core c.core).rx, c.matches u z = true
      let waits (c : Cmd) : Prop := match c.op with
        | .lrecv _ _ _ _ _ => u.pod.inPod = false ∨ ¬ here c
        | .lsend _ _ => u.pod.inPod = false
        | .lmcast _ _ => u.pod.inPod = false
        | .lred _ _ => u.pod.inPod = false
        | _ => False
      let receives (c : Cmd) : Prop := c.started = true ∧ c.steps = 0 ∧ c.land ≤ x.clk + 8 ∧ ∃ h o, c.op = .lred h o
      let late : Prop := (∃ h ∈ (u.train tr).holds, h.1 ≤ x.clk) ∨ u.sys.thermal = true ∨ u.bcHold ≠ 0 ∨
        (∃ c T v, (u.train tr).align = some (c, T, v) ∧ c ≤ x.clk ∧ u.bc.toNat < T.toNat) ∨
        (∃ c ∈ u.grid.cmds, c.train = tr ∧ c.started = false ∧ c.start ≤ x.clk ∧ waits c) ∨
        ∃ c ∈ u.grid.cmds, c.train = tr ∧ receives c ∧ ¬ here c
      let starving : Prop := ∃ w, u.nextWork tr = some w ∧ u.starves tr w = true
      ((∀ p ∈ s.grid.trains, p.2.lost = 0) → ready = s.advanceIdle) ∧ (u.late tr = true ↔ late) ∧ (u.held tr = true ↔ late ∨ starving) ∧
      ∃ t : State, exec .vcAdvance s = .next t ∧ t.time = s.time + 1 ∧
        (¬ (late ∨ starving) → x.boundary = false → x.finished = false →
          (t.train tr).clk = x.clk + 1 ∧ (t.train tr).vc = x.vc + 1 ∧ (t.train tr).pause = 0) ∧
        (late ∨ starving → (t.train tr).clk = x.clk ∧ (t.train tr).vc = x.vc ∧ (t.train tr).pause = x.pause + 1))

/-- R56, R145, R147, R150, R151, R153, R154, R158 and R290: what a boundary makes of its quantum, in a train without waits, laps or requests.
Its stores commit in R56's key order, so that of several to one byte the last remains: at the home, if the page passes its checks, or in
the cluster's view, where the byte becomes its team's own, and in the views of the team's cores. An atomic and a counter add act at the
home point of their scope, a release pushes its team's own bytes home, and an acquire refreshes the cluster's view of the footprints. Of any
number of them that act at the homes, the stores commit first, the atomics then in R56's key order, lane by lane, each seeing those before
it, and the counter adds last (R147, R153). That a counter add at a wide scope leaves its cluster's view as it was is the model's choice (log 52). -/
def Obligations.BoundaryCommits : Prop :=
  ∀ (tr : Nat) (s : State),
    let x := s.train tr
    let tk (team : Nat) : Nat := teamKey tr team
    let view (team ia : Nat) : Nat := (s.team (tk team)).core / 8 * 2 ^ 56 + ia
    let ok (ia : Nat) : Prop := s.pageOk x.owner (ia / 65536) = true
    let runs (t : State) : Prop := exec (.quantumBoundary tr) s = .next t ∧ t.grid.stores = [] ∧ t.grid.acts = [] ∧
      (t.train tr).qt = x.qt + 1 ∧ (t.train tr).boundary = true
    let one (a : Act) (w : ActWhat) : Prop := s.grid.stores = [] ∧ s.grid.acts = [a] ∧ a.train = tr ∧ a.team < 2 ^ 21 ∧ a.what = w
    let elsewhere (t : State) (ia n : Nat) : Prop := ∀ b, b < ia ∨ ia + n ≤ b → t.mem.home.byte b = s.mem.home.byte b
    s.boundaryDue tr = true → x.desc.twin = false → x.alignWho = [] → s.grid.cmds = [] → s.pod.hallOps = [] → s.fw.pre = [] →
    s.fw.queues = [] → s.mem.leases = [] → s.mem.laps = [] → (∀ g ∈ s.grid.groups, g.2.block = .none) →
    (∀ p ∈ s.grid.teams, p.2.saved = false) → x.trigs = [] → (∀ p, pePsn (s.page p) = false) → (∀ b ∈ s.grid.stores, b.bad = none) →
    Sp.get 0 s.fw.removals x.owner = 0 →
    (let cover (c : BufStore) (ia : Nat) : Prop := c.ia ≤ ia ∧ ia < c.ia + c.data.length
      let meets (c b : BufStore) : Prop := if b.level = 0 then c.level = 0 else c.level ≠ 0 ∧
        (view c.team 0 = view b.team 0 ∨ ∃ k ∈ (s.team (tk c.team)).cores, k ∈ (s.team (tk b.team)).cores)
      let last (b : BufStore) (ia : Nat) : Prop :=
        ∀ c ∈ s.grid.stores, c ≠ b → meets c b → cover c ia → lexLe b.key c.key = false
      s.grid.acts = [] → (∀ b ∈ s.grid.stores, b.train = tr ∧ b.team < 2 ^ 21 ∧ b.level < 3 ∧ b.ia + b.data.length ≤ 2 ^ 56) →
      ∃ t : State, runs t ∧
        (∀ b ∈ s.grid.stores, ∀ i, i < b.data.length → last b (b.ia + i) →
          let k := view b.team (b.ia + i)
          (b.level = 0 → ok (b.ia + i) → t.mem.home.byte (b.ia + i) = nth 0 b.data i) ∧
          (b.level ≠ 0 → t.mem.cview.byte k = nth 0 b.data i ∧ Sp.get 0 t.mem.own k = tk b.team + 1 ∧
            ∀ core ∈ (s.team (tk b.team)).cores, t.mem.pview.byte (core * 2 ^ 56 + b.ia + i) = nth 0 b.data i)) ∧
        (∀ a, (∀ b ∈ s.grid.stores, b.level = 0 → ¬ cover b a) ∨ ¬ ok a → t.mem.home.byte a = s.mem.home.byte a) ∧
        (∀ k a, a < 2 ^ 56 → (∀ b ∈ s.grid.stores, b.level ≠ 0 → view b.team 0 = k * 2 ^ 56 → ¬ cover b a) →
          t.mem.cview.byte (k * 2 ^ 56 + a) = s.mem.cview.byte (k * 2 ^ 56 + a) ∧
          Sp.get 0 t.mem.own (k * 2 ^ 56 + a) = Sp.get 0 s.mem.own (k * 2 ^ 56 + a))) ∧
    (∀ (st : List BufStore) (lanes : List (Act × Nat × Nat × Nat × Nat)) (counts : List (Act × Nat × Nat)),
      let put (f : Nat → Byte) (a : Nat) (bs : List Byte) (k : Nat) : Byte := if a ≤ k ∧ k < a + bs.length then nth 0 bs (k - a) else f k
      let word (f : Nat → Byte) (a n : Nat) : Nat := leNat ((List.range n).map fun i => f (a + i))
      let size (a : Act) : Nat := match a.what with
        | .atomic _ true _ _ _ _ => 8
        | _ => 4
      let opOf (a : Act) : Nat := match a.what with
        | .atomic op _ _ _ _ _ => op
        | _ => 0
      let at_ (y : Act × Nat × Nat × Nat × Nat) : Nat := y.2.2.1 % 2 ^ 56
      let atom (f : Nat → Byte) (y : Act × Nat × Nat × Nat × Nat) : Nat → Byte := put f (at_ y) (leBytes (size y.1)
        (atomicNew (opOf y.1) (8 * size y.1) (word f (at_ y) (size y.1)) y.2.2.2.1 y.2.2.2.2))
      let counted (f : Nat → Byte) (y : Act × Nat × Nat) : Nat → Byte :=
        put f (y.2.1 % 2 ^ 56) (leBytes 8 ((word f (y.2.1 % 2 ^ 56) 8 + y.2.2) % 2 ^ 64))
      let stored : Nat → Byte := st.foldl (fun f b => put f b.ia b.data) s.mem.home.byte
      let laneKey (y : Act × Nat × Nat × Nat × Nat) : List Nat := [y.1.team, y.1.group, y.2.1, y.1.ord]
      let countKey (y : Act × Nat × Nat) : List Nat := [y.1.team, y.1.group, y.1.ord]
      let landing (a : Act) (due d : Nat) (vs : List (Nat × W32)) : Pend := { train := tr, due := due, key := a.key, what := .vec d vs }
      let homed (p scope : Nat) : Prop := p / 2 ^ 56 = 0 ∨ 4 ≤ scope
      s.mem.own = [] → (∀ b ∈ s.grid.stores, b.train = tr ∧ b.team < 2 ^ 21 ∧ b.level = 0 ∧ b.ia + b.data.length ≤ 2 ^ 56) →
      s.grid.acts.Pairwise (fun a b => a.ord ≠ b.ord) →
      (∀ a ∈ s.grid.acts, a.train = tr ∧ a.team < 2 ^ 21 ∧ (s.team (tk a.team)).train = tr ∧ (s.group a.key).train = tr ∧ match a.what with
        | .atomic _ _ scope ls _ _ => ∀ l ∈ ls, l.2.1 % 2 ^ 56 % size a = 0 ∧ homed l.2.1 scope
        | .count scope p _ err => err = none ∧ p % 2 ^ 56 % 8 = 0 ∧ homed p scope
        | .fence _ _ _ => True
        | _ => False) →
      st.Perm s.grid.stores → st.Pairwise (fun a b => lexLe b.key a.key = false) →
      lanes.Perm (s.grid.acts.flatMap fun a => match a.what with
        | .atomic _ _ _ ls _ _ => ls.map (a, ·)
        | _ => []) → lanes.Pairwise (fun a b => lexLe (laneKey b) (laneKey a) = false) →
      counts.Perm (s.grid.acts.flatMap fun a => match a.what with
        | .count _ p n _ => [(a, p, n)]
        | _ => []) → counts.Pairwise (fun a b => lexLe (countKey b) (countKey a) = false) →
      ∃ t : State, runs t ∧
        (∀ k, ok k → t.mem.home.byte k = counts.foldl counted (lanes.foldl atom stored) k) ∧
        (∀ k, ¬ ok k → t.mem.home.byte k = s.mem.home.byte k) ∧
        ∀ a op q scope ls d lat, a ∈ s.grid.acts → a.what = .atomic op q scope ls (some d) lat → ∃ lo hi : List (Nat × W32),
          landing a (x.clk + lat) d lo ∈ t.grid.pend ∧ (q = true → landing a (x.clk + lat) (d + 1) hi ∈ t.grid.pend) ∧
          ∀ i y, lanes[i]? = some y → y.1 = a → ok (at_ y) →
            let old := word ((lanes.take i).foldl atom stored) (at_ y) (size a)
            (y.2.1, BitVec.ofNat 32 old) ∈ lo ∧ (q = true → (y.2.1, BitVec.ofNat 32 (old / 2 ^ 32)) ∈ hi)) ∧
    (∀ a op q scope lane p c0 c1 dst lat, one a (.atomic op q scope [(lane, p, c0, c1)] dst lat) →
      let n := if q then 8 else 4
      let ia := p % 2 ^ 56
      let k := view a.team ia
      let new (old : Nat) : List Byte := leBytes n (atomicNew op (8 * n) old c0 c1)
      let landing (d v : Nat) : Pend :=
        { train := tr, due := x.clk + lat, key := a.key, what := .vec d [(lane, BitVec.ofNat 32 v)] }
      let lands (t : State) (old : Nat) : Prop := runs t ∧ (dst = none → t.grid.pend = s.grid.pend) ∧ ∀ d, dst = some d →
        t.grid.pend = s.grid.pend ++ landing d old :: if q then [landing (d + 1) (old / 2 ^ 32)] else []
      ia % n = 0 → (s.team (tk a.team)).train = tr → (s.group a.key).train = tr →
      (scope < 4 → p / 2 ^ 56 ≠ 0 → ∃ t : State, lands t (Memory.nat s.mem.cview k n) ∧ t.mem.home = s.mem.home ∧
        Memory.bytes t.mem.cview k n = new (Memory.nat s.mem.cview k n) ∧ ∀ i, i < n → Sp.get 0 t.mem.own (k + i) = tk a.team + 1) ∧
      (ok ia → p / 2 ^ 56 = 0 ∨ (4 ≤ scope ∧ s.mem.own = []) → ∃ t : State, lands t (Memory.nat s.mem.home ia n) ∧
        Memory.bytes t.mem.home ia n = new (Memory.nat s.mem.home ia n) ∧ elsewhere t ia n ∧
        (p / 2 ^ 56 = 0 → t.mem.cview = s.mem.cview) ∧
        (p / 2 ^ 56 ≠ 0 → Memory.bytes t.mem.cview k n = new (Memory.nat s.mem.home ia n)))) ∧
    (∀ a rel acq scope, one a (.fence rel acq scope) → (s.team (tk a.team)).live = true → (s.team (tk a.team)).twin = false →
      (s.team (tk a.team)).train = tr → Sp.Wf 0 s.mem.own → Memory.wf s.mem.home → Memory.wf s.mem.cview →
      let pushed (ia : Nat) : Prop := rel = true ∧ 4 ≤ scope ∧ Sp.get 0 s.mem.own (view a.team ia) = tk a.team + 1 ∧
        (scope = 6 ∨ pkgOf ia = s.pkg)
      ∃ t : State, runs t ∧
        (∀ ia, ia < 2 ^ 56 →
          (pushed ia → Sp.get 0 t.mem.own (view a.team ia) = 0 ∧
            (ok ia → t.mem.home.byte ia = s.mem.cview.byte (view a.team ia))) ∧
          (¬ pushed ia → Sp.get 0 t.mem.own (view a.team ia) = Sp.get 0 s.mem.own (view a.team ia)) ∧
          (¬ pushed ia ∨ ¬ ok ia → t.mem.home.byte ia = s.mem.home.byte ia)) ∧
        (acq = true → t.grid.acquires = s.grid.acquires ++ [{
          train := tr, key := a.key, due := x.clk + (if scope < 4 then 96 else nth 4096 [320, 640] (scope - 4)), core := a.core }]) ∧
        (acq = true → rel = false → 4 ≤ scope → ∀ r ∈ x.desc.ranges (List.range x.desc.grid), ∀ i, i < r.2 → r.1 + i < 2 ^ 56 →
          let k := a.core / 8 * 2 ^ 56 + r.1 + i
          ok (r.1 + i) → Sp.get 0 s.mem.own k = 0 → t.mem.cview.byte k = s.mem.home.byte (r.1 + i)) ∧
        (acq = false → t.grid.acquires = s.grid.acquires ∧ t.mem.cview = s.mem.cview)) ∧
    (∀ a scope p n, one a (.count scope p n none) →
      let ia := p % 2 ^ 56
      let k := view a.team ia
      ia % 8 = 0 → (s.team (tk a.team)).train = tr →
      (scope < 4 → p / 2 ^ 56 ≠ 0 → ∃ t : State, runs t ∧ t.mem.home = s.mem.home ∧
        Memory.nat t.mem.cview k 8 = (Memory.nat s.mem.cview k 8 + n) % 2 ^ 64 ∧ ∀ i, i < 8 → Sp.get 0 t.mem.own (k + i) = tk a.team + 1) ∧
      (ok ia → (scope < 4 ∧ p / 2 ^ 56 = 0) ∨ (4 ≤ scope ∧ s.mem.own = []) → ∃ t : State, runs t ∧ elsewhere t ia 8 ∧
        t.mem.cview = s.mem.cview ∧ Memory.nat t.mem.home ia 8 = (Memory.nat s.mem.home ia 8 + n) % 2 ^ 64))

/-- R31, R36, R46, R54, R56, R57, R240, R248, R324, R367, R374, R376, R425, R432, R437: faults of checks, alignments, boundaries, errors,
pauses, placement, ends, watchdogs, pre-emption and the answers of S-level. The model's choices are that a look at or below the envelope
ends every governor pause (log 60), that a pod launch holds its vc and offers its NOTE at once (log 34), and that a replay is made in the
step that consumes the error (log 11). -/
def Obligations.TrainEvents : Prop :=
  ∀ (tr team slot ix id power draw : Nat) (page : Option Nat) (s : State),
    let x := s.train tr
    let l := s.launch x.launch
    let committed (r : PreReq) : Bool := match (if s.together r.train then none else r.team) with
      | some tk => (s.team tk).committed
      | none => (s.train r.train).committed
    (∀ c, let i := s.issueSlot slot
      let g := s.group i.key
      i.busy = true → i.count = 0 → s.dueChecks i.key = [c] → ∃ t : State, exec (.checkFaultTaken slot) s = .next t ∧ t.mem = s.mem ∧
        t.issueSlot slot = { i with busy := false, free := (s.train g.train).clk } ∧
        (t.train g.train).faults = (s.train g.train).faults ++ [{
          team := g.team, group := g.idx, key := i.key, code := 11, lane := 255, tcode := 0, resume := (g.slot i.alt).pc, alt := i.alt
          t2 := c.2.zeroExtend 64, p := (s.train g.train).clk, pvc := (s.train g.train).vc }]) ∧
    (∀ c t0 v, x.align = some (c, t0, v) → c ≤ x.clk → t0.toNat ≤ s.bc.toNat → ∃ t : State, exec (.alignmentRelease tr) s = .next t ∧
      (t.train tr).vc = v ∧ (t.train tr).clk = x.clk ∧ (t.train tr).align = none ∧ t.mem = s.mem ∧
      (∀ w ∈ x.alignWho, (s.group w.1).resident = true → ∀ a b d, (t.group w.1).block ≠ .talign a b d) ∧
      ((∀ w ∈ x.alignWho, (s.group w.1).resident = true) →
        t.grid.teams = s.grid.teams.map (fun p => if p.2.train = tr then (p.1, { p.2 with tb := p.2.tb + (v - x.vc) }) else p)) ∧
      (∀ w a b d, x.alignWho = [w] → (s.group w.1).resident = false → (s.group w.1).block = .talign a b d →
        (t.team (teamKey tr (s.group w.1).team)).late = some (s.bc - t0) ∧ t.group w.1 = s.group w.1)) ∧
    (s.boundaryDue tr = false → exec (.quantumBoundary tr) s = .next s) ∧
    (s.boundaryDue tr = true → x.desc.twin = false → s.grid.acts = [] → s.grid.stores = [] → s.grid.cmds = [] → s.grid.groups = [] →
      s.grid.teams = [] → x.trigs = [] → s.pod.hallOps = [] → s.fw.pre = [] → s.mem.leases = [] → s.mem.laps = [] →
      Sp.get 0 s.fw.removals x.owner = 0 → ∃ t : State, exec (.quantumBoundary tr) s = .next t ∧
        (t.train tr).qt = x.qt + 1 ∧ (t.train tr).qstart = x.clk + 1 ∧ (t.train tr).boundary = true ∧ (t.train tr).seq = s.pod.top ∧
        (t.train tr).dial = s.pod.dial ∧ (t.train tr).clk = x.clk ∧ t.mem.home = s.mem.home) ∧
    (x.live = false → exec (.errorConsumption tr page) s = .next s) ∧
    (x.live = true → l.pod = true → l.attempts + 1 < 3 → ∃ t : State, exec (.errorConsumption tr none) s = .next t ∧
      (t.train tr).holds = x.holds ++ [(x.clk, .replay)] ∧ (t.train tr).faults = [] ∧ t.pod.offers.length = s.pod.offers.length + 1) ∧
    (x.live = true → l.pod = false → exec (.errorConsumption tr none) s = .next
      (let u := (s.bumpOwner x.owner 3).modLaunch x.launch fun y => { y with attempts := l.attempts + 1 }
       if l.attempts + 1 < 3 then u.replay tr else u.failReplay tr)) ∧
    (s.overrunDue tr = true → ∃ t : State, exec (.pauseOverrun tr) s = .next t ∧ (t.train tr).overrun = true ∧ t.mem = s.mem ∧
      t.fw.events = s.fw.events ++ [.pauseOverrun tr] ∧ ∀ p ∈ t.fw.cmds, p.2.level ≤ 1 → p.2.waiting = false) ∧
    (s.time % 1024 ≠ 0 → 2400 < power → exec (.governorCheck power [(tr, draw)]) s = .next s) ∧
    (power ≤ 2400 → ∃ t : State, exec (.governorCheck power []) s = .next t ∧ t.mem = s.mem ∧
      ∀ p ∈ t.grid.trains, ∀ h ∈ p.2.holds, h.2 ≠ .governor) ∧
    (s.time % 1024 = 0 → 2400 < power → x.live = true → (∀ h ∈ x.holds, h.2 ≠ .governor) → ∃ t : State,
      exec (.governorCheck power [(tr, draw)]) s = .next t ∧ (t.train tr).holds = x.holds ++ [(x.clk, .governor)] ∧
      ∀ o, o ≠ tr → t.train o = s.train o) ∧
    (s.placeable tr = true → x.requeue = [] → ∃ t : State, exec (.teamPlacement tr) s = .next t ∧
      (t.train tr).nextTeam = x.nextTeam + 1 ∧ t.mem = s.mem) ∧
    (x.boundary = false → exec (.yieldRestore tr) s = .next s) ∧
    (∀ tk b, x.boundary = true → s.liveTeams tr = [tk] → (s.team tk).twin = false → (s.team tk).saved = true →
      (s.team tk).yielded = true → (s.team tk).parked = false → (s.team tk).ready = some b → s.leaving (s.team tk) = false →
      exec (.yieldRestore tr) s = .next (s.rejoinTeam tk fun _ => true)) ∧
    (exec (.teamEnd tr team) s = .next (if s.teamDone (teamKey tr team)
      then s.modTeam (teamKey tr team) fun t => { t with ended := true, claims := [] } else s)) ∧
    (s.watchdogDue tr (teamKey tr team) = true → s.fw.posts = [] → ∃ t : State, exec (.watchdogExpiry tr team) s = .next t ∧
      (t.team (teamKey tr team)).wdBase = x.clk ∧
      ∃ h ∈ (t.train tr).holds, h.2 = .ringFull ∨ h = (x.clk + 1, .answer s.fw.ringIx)) ∧
    (∀ r, s.fw.pre.find? (fun r => r.id == id) = some r → r.done = false → r.decision = 0 → r.deadline ≤ s.bc.toNat → ∃ t : State,
      exec (.drainDeadline id) s = .next t ∧ t.grid = s.grid ∧ t.mem = s.mem ∧ t.fw.pre = s.fw.pre.map (fun y => if y.id = id then
        { r with decision := if committed r then 2 else 1 } else y)) ∧
    (∀ r c, s.fw.pre.find? (fun r => r.id == id) = some r → r.done = false → r.team = none → (s.train r.train).parked = true →
      r.restore = some c → c < 256 → (s.trainPlaces r.train c).isSome = true → s.liveTeams r.train = [] → r.ring = false → ∃ t : State, exec (.contextRestore id) s = .next t ∧
        (t.train r.train).parked = false ∧ ∀ y ∈ t.fw.pre, y.id ≠ id) ∧
    (s.askOf ix = none → exec (.fansEnd ix) s = .next s ∧ exec (.fansResume ix) s = .next s) ∧
    (∀ a, s.askOf ix = some a → ∃ t : State, exec (.fansEnd ix) s = .next t ∧ (t.train a.train).failing = true ∧
      (t.launch (s.train a.train).launch).fcode = a.code ∧ (∀ y ∈ t.fw.asked, y.train ≠ a.train) ∧ t.mem = s.mem) ∧
    (∀ a k, s.askOf ix = some a → a.resumable = true → a.key = some k → (s.train (s.group k).train).desc.twin = false → ∃ t : State,
      exec (.fansResume ix) s = .next t ∧ (t.group k).halted = false ∧ (t.group k).hold = max (s.group k).hold (a.p + 8) ∧
      ((t.group k).slot a.alt).pc = BitVec.ofNat 48 (fieldOf (s.ringWord a.ix 1) 0 48) ∧ t.mem = s.mem ∧
      (∀ o, o ≠ k → t.group o = s.group o) ∧ ∀ y ∈ t.fw.asked, y.ix ≠ a.ix)

/-! ### Events of the loop, the fabric and the hall -/

/-- R167, R168, R171, R173 to R180, R183, R395, R397, R419, R427 to R429 and R452: tokens, stamped records, loss and regeneration, and
membership. The model's choices are which packages a tap counts as members, how long it listens for the reference package and the time that
records take (log 81), the rounding of a token's count and the token from which it is loaded (log 33), what the bytes of a page become when
its key changes (log 71), and the readings of a NOTE (log 34). -/
def Obligations.LoopEvents : Prop :=
  ∀ (r : LoopRec) (op pos member : Nat) (m tokenBc : W64) (d : List (Nat × W64)) (s : State),
    let p := s.pod
    let seq := p.seq + 1
    let w0 := nth 0 r.words 0
    let region := dialRegion p.dial r.tenant
    let base := region.1 + r.daddr
    let old := Sp.get 0 p.dial base
    let ws := r.words.take r.len
    let applied (op : Nat) : Prop := lenOk op r.len = true ∧ r.rsvd = false ∧ r.daddr + max r.len 1 ≤ region.2
    let stamped (dial : List (Nat × W64)) : State := { s with pod := { p with seq := seq, top := seq, dial := dial } }
    let passed : State := ({ s with pod := { p with seq := seq } } : State).bump 0 3
    let mem : Prop := s.sys.boot = 8 ∧ p.inPod = true
    let left (t : State) : Prop := t.pod.inPod = false ∧ t.pod.rejoining = true ∧ t.pod.loaded = false ∧ t.pod.seq = p.seq ∧ t.pod.top = p.top ∧
      t.pod.dial = p.dial ∧ t.mem = s.mem ∧ ∃ q, t.pod.asks = p.asks ++ [(q, s.pkg)]
    let asked (t : State) : Prop := t.pod.asks = p.asks ++ [(s.sponsorHeard, s.pkg)]
    let gap := s.time - p.lastToken
    let first : Prop := ∀ q h, (q, h) ∈ p.heard → p.lastToken < h + 2048 → s.rpos ≤ q
    let lowest : Prop := ∀ q h, (q, h) ∈ p.heard → s.time < h + 2048 → pos ≤ q
    let hears (q : Nat) : Prop := (q = pos ∧ pos ≠ s.rpos) ∨ (q ≠ pos ∨ pos = s.rpos) ∧ ∃ h, (q, h) ∈ p.heard ∧ s.time < h + 2048
    let known : Prop := hears 0 ∨ (s.rpos = 0 ∧ hears 1) ∨ (p.listen ≠ 0 ∧ p.listen + 474 ≤ s.time)
    let lower : Prop := ∀ f, p.first = some f → pos < f.1
    let count : W64 := tokenBc + BitVec.ofInt 64 ((s.delayFrom pos + 8) / 16)
    let loads (t : State) (x : W64) : Prop := t.pod.loaded = true ∧ t.bc = (if s.bc.toNat ≤ x.toNat then x else s.bc) ∧
      t.bcHold = s.bc.toNat - x.toNat
    let counts (t : State) : Prop := (lower → t.pod.first = some (pos, count, s.time)) ∧ (¬ lower → t.pod.first = p.first) ∧
      (lower → known → loads t count) ∧
      (∀ q x at_, ¬ lower → p.first = some (q, x, at_) → p.loaded = false → known → loads t (x + BitVec.ofNat 64 (s.time - at_))) ∧
      (¬ known ∨ (¬ lower ∧ p.loaded = true) → t.bc = s.bc ∧ t.bcHold = s.bcHold)
    let released (n : Nat) : W64 := s.bc + BitVec.ofNat 64 (8 * min 4 n / 5 - s.bcHold)
    let ofs : Int := (s.bc - tokenBc).toInt * 16 - s.delayFrom pos
    let companion : Prop := bitAt s.sys.modew 4 = true
    let heeds : Prop := ∀ low at_, p.regen = some (low, at_) → low < pos → at_ + 64 < s.time
    (mem → r.writer ≠ s.pkg →
      (applied 0 → exec (.recordWrite r true) s = .next (stamped (Sp.put 0 p.dial base ws))) ∧
      (¬ applied 0 → exec (.recordWrite r true) s = .next passed) ∧
      (applied 1 → exec (.recordAdd r true) s = .next (stamped (Sp.put 0 p.dial base [old + w0]))) ∧
      (applied 2 → exec (.recordSetz r true) s = .next (stamped (if old = 0 then Sp.put 0 p.dial base [w0] else p.dial))) ∧
      (applied 3 → exec (.recordCas r true) s =
        .next (stamped (if old = w0 then Sp.put 0 p.dial base [nth 0 r.words 1] else p.dial))) ∧
      (applied 4 → bitAt (nth 0 r.words 3) s.pkg = false ∨ r.len < 4 → s.fw.adds = [] →
        exec (.recordLaunch r true) s = .next (stamped (Sp.put 0 p.dial base ws))) ∧
      (applied 4 → bitAt (nth 0 r.words 3) s.pkg = true → 4 ≤ r.len → ∃ t : State, exec (.recordLaunch r true) s = .next t ∧
        t.fw.admitted = s.fw.admitted + 1 ∧ t.pod.seq = seq ∧ t.pod.top = seq ∧ t.pod.dial = Sp.put 0 p.dial base ws) ∧
      (applied 5 → r.len < 3 → exec (.recordTmap r true) s = .next (stamped p.dial)) ∧
      (∀ v k sel page, sel = k &&& tmapMask false → page = fieldOf w0 0 40 → applied 5 → ws = [w0, v, k] → fieldOf w0 40 24 = 0 →
        hasEntry page = true → s.pins page = 0 → pkgOf (page * 65536) = s.pkg →
        ∃ t : State, exec (.recordTmap r true) s = .next t ∧ t.page page = (s.page page &&& ~~~sel) ||| (v &&& sel) ∧
          (∀ q, q ≠ page → t.page q = s.page q) ∧ t.pod.seq = seq ∧ t.mem.priv = s.mem.priv ∧
          (s.pageKeys page = t.pageKeys page ∨ peLoc (s.page page) = 0 → t.mem.home = s.mem.home) ∧
          (∀ a, a / 65536 ≠ page → t.mem.home.byte a = s.mem.home.byte a) ∧
          (s.pageKeys page ≠ t.pageKeys page → peLoc (s.page page) ≠ 0 → ∀ i < 1024, let a := page * 65536 + 64 * i
            Memory.bytes t.mem.home a 64 = rekeyUnit (s.pageKeys page) (t.pageKeys page) a (Memory.bytes s.mem.home a 64))) ∧
      (∀ page, page = fieldOf w0 0 40 → applied 5 → pkgOf (page * 65536) ≠ s.pkg → exec (.recordTmap r true) s = .next (stamped p.dial)) ∧
      (applied 6 → ∃ t : State, exec (.recordRecov r true) s = .next t ∧ t.pod.seq = seq ∧ t.pod.top = seq ∧ t.pod.dial = Sp.put 0 p.dial base ws ∧
        Sp.get false t.pod.recovering (fieldOf w0 0 6) = decide (fieldOf w0 8 1 = 0) ∧ t.mem = s.mem) ∧
      (applied 7 → op ≤ 7 → r.tenant ≠ 0 →
        exec (.recordNote op r true) s = .next { s with pod := { p with seq := seq, top := seq, notes := p.notes ++ [(seq, r)] } }) ∧
      (8 ≤ op → exec (.recordNote op r true) s = .next passed)) ∧
    (mem → (∃ t : State, exec (.recordWrite r false) s = .next t ∧ left t ∧ asked t) ∧
      (heeds → ∃ t : State, exec (.loopTokenArrival pos tokenBc true) s = .next t ∧ left t ∧ asked t) ∧
      (∀ q h, heeds → (q, h) ∈ p.heard → s.time < h + 2048 → q < pos → pos ≠ s.rpos → p.stopped = false → p.rejoining = false →
        p.loaded = true → ∃ t : State, exec (.loopTokenArrival pos tokenBc false) s = .next t ∧ t.bc = s.bc ∧ t.pod.lastToken = s.time ∧
        t.pod.lossRaised = false ∧ t.pod.flight = p.flight ++ p.offers.take 4 ∧ t.pod.offers = p.offers.drop 4 ∧
        t.pod.wire = p.wire ++ (p.offers.take 4).map recordBytes ∧ t.mem = s.mem ∧
        (p.offers ≠ [] → t.pod.tokenOut = some (s.rpos, released p.offers.length)) ∧
        (p.offers = [] → q < s.rpos → t.pod.tokenOut = some (pos, tokenBc))) ∧
      (heeds → lowest → pos < s.rpos → p.stopped = false → p.rejoining = false → p.loaded = true → ∃ t : State,
        exec (.loopTokenArrival pos tokenBc false) s = .next t ∧ t.pod.ofs = ofs ∧ t.bc = s.bc ∧ t.mem = s.mem ∧
        (ofs.natAbs ≤ 128 → t.pod.inPod = true ∧ t.pod.out = p.out) ∧ (128 < ofs.natAbs → left t ∧ t.pod.out = true))) ∧
    (s.sys.boot = 7 → s.sys.joinStep < 2 → heeds → ∃ t : State, exec (.loopTokenArrival pos tokenBc false) s = .next t ∧ counts t ∧
      t.mem = s.mem ∧ (known → p.stopped = false → p.offers = [] → t.sys.joinStep = 2 ∧ t.pod.flight.length = p.flight.length + 1) ∧
      (¬ known → lower ∨ p.loaded = false → t.sys.joinStep = s.sys.joinStep ∧ t.pod.flight = p.flight)) ∧
    (s.sys.boot = 8 → p.rejoining = true → p.inPod = false → heeds → ∃ t : State,
      exec (.loopTokenArrival pos tokenBc false) s = .next t ∧ counts t ∧ t.mem = s.mem ∧ t.pod.inPod = false ∧ t.pod.flight = p.flight) ∧
    (s.sys.boot = 8 → p.lossRaised = false → 2048 < gap → ∃ t : State, exec .tokenLoss s = .next t ∧ t.pod.lossRaised = true ∧
      t.fw.events = s.fw.events ++ [.tokenLoss] ∧ t.grid = s.grid ∧ t.mem = s.mem) ∧
    (gap ≤ 2048 → exec .tokenLoss s = .next s) ∧
    (∀ crcBad, ¬ heeds → s.sys.boot ≠ 15 → exec (.loopTokenArrival pos tokenBc crcBad) s = .next s) ∧
    (∀ crcBad, s.sys.boot = 15 → exec (.loopTokenArrival pos tokenBc crcBad) s =
      .next { s with pod := { p with tokenOut := some (pos, tokenBc) } }) ∧
    (p.lossRaised = true → 4096 < gap → mem → p.stopped = false → (companion ∨ first) → ∃ t : State,
      exec .tokenRegenerate s = .next t ∧ t.pod.lossRaised = false ∧ t.pod.lastToken = s.time ∧
      t.pod.tokenOut = some (s.rpos, released p.offers.length) ∧ t.pod.flight = p.flight ++ p.offers.take 4 ∧ t.mem = s.mem) ∧
    (¬ companion → ¬ first → exec .tokenRegenerate s = .next s) ∧ (gap ≤ 4096 → exec .tokenRegenerate s = .next s) ∧
    (p.inPod = true → (companion → p.chosen = some s.rpos) → (¬ companion → first) → ∃ t : State, exec (.rejoinRequest member) s = .next t ∧
      ∃ o : Offer, t.pod.offers = p.offers ++ [o] ∧ o.op = 6 ∧
      o.rcd.daddr = 4096 + member ∧ o.rcd.words = [BitVec.ofNat 64 member] ∧ o.rcd.tenant = 0 ∧ t.mem = s.mem) ∧
    ((companion → p.chosen ≠ some s.rpos) → (¬ companion → ¬ first) → exec (.rejoinRequest member) s = .next s) ∧
    (∀ o, s.sys.boot = 8 → p.rejoining = true → p.kept = [o] → o.op = 6 → nth 0 o.rcd.words 0 = BitVec.ofNat 64 s.pkg → ∃ t : State,
      exec (.dialTransfer m d) s = .next t ∧ t.pod.seq = m ∧ t.pod.top = m ∧ t.pod.inPod = true ∧ t.pod.rejoining = false ∧ t.pod.out = false ∧
      t.pod.dial = Sp.puts 0 [] (d.filter fun x => x.1 < 1048576) ∧ t.mem = s.mem)

/-- R181 to R187, R190, R192 to R197, R404, R457 and R459: cells leave and arrive, leaf management, and hall frames with their replies. The
model's choices are the counter of a KIND 3 cell and a leaf cell's other fields (log 84), when an error reply shows (log 40), the order of
the frames that wait for a port (log 82), and which request counts as sent again (log 83). -/
def Obligations.FabricEvents : Prop :=
  ∀ (port plane tag : Nat) (c : LinkCell) (f : HallFrame) (err : Bool) (v : W64) (s : State),
    let p := s.pod
    let bc := s.bc.toNat
    let core := c.dcore % 256
    let busy := fieldOf p.lmgt 63 1 = 1
    let a := s.exportAt f.owner f.offset
    let bs := s.homeBytes f.owner a f.len
    let failed (t : State) (id cause off : Nat) : Prop := ∀ o ∈ t.pod.hallOps, o.id = id → o.left = 0 ∧
      ∃ b ∈ p.hallOps, b.id = id ∧ o.status = if b.status = 0 then BitVec.ofNat 64 (cause * 2 ^ 56 + off % 2 ^ 48) else b.status
    let running : Prop := p.stopped = false ∨ bc < p.stopBc
    let cell (slot : Nat) : Option OutCell := p.cells.find? fun x => x.port == port && x.slot == slot
    (∀ x, running → s.bcHold = 0 → (∀ q ∈ p.lastSent, q.1 = port → q.2 ≠ bc + 1) →
      let sends (t : State) : Prop := exec (.cellSend port) s = .next t ∧ t.mem = s.mem ∧ t.grid = s.grid ∧
        t.pod.cells.length + 1 = p.cells.length ∧ t.pod.slottab = p.slottab
      (cell (bc % 64) = some x → x.ready ≤ bc → ∃ t : State, sends t ∧
        t.pod.sent = if fieldOf (s.slotEntry port (bc % 64)) 63 1 = 1 then p.sent ++ [{ x.cell with sslot := bc % 64 }] else p.sent) ∧
      (cell (bc % 64) = some x → bc < x.ready → cell 64 = none → exec (.cellSend port) s = .next s) ∧
      (cell (bc % 64) = none → cell 64 = some x → x.ready ≤ bc → ∃ t : State, sends t ∧
        t.pod.sent = p.sent ++ [{ x.cell with sslot := bc % 64 }])) ∧
    (s.sys.boot = 8 →
      exec (.cellArrival c false) s = .next (s.bump 0 0) ∧
      (c.kind = 3 → exec (.cellArrival c true) s = .next (s.bump 0 4)) ∧
      (c.kind ≠ 3 → s.receivers core = [core] → 256 ≤ (s.core core).rx.length → exec (.cellArrival c true) s = .next (s.bump 0 4)) ∧
      (c.kind ≠ 3 → s.receivers core = [core] → (s.core core).rx.length < 256 → ∃ t : State, exec (.cellArrival c true) s = .next t ∧
        (t.core core).rx = (s.core core).rx ++ [{ c with payload := c.payload.take 128 }] ∧ (∀ k, k ≠ core → t.core k = s.core k) ∧
        t.mem = s.mem ∧ t.grid.groups = s.grid.groups)) ∧
    (busy → exec (.leafManagementWrite v) s = .next s) ∧
    (¬ busy → ∃ t : State, exec (.leafManagementWrite v) s = .next t ∧ fieldOf t.pod.lmgt 63 1 = 1 ∧ t.mem = s.mem ∧
      ∃ x : OutCell, t.pod.cells = p.cells ++ [x] ∧ x.port = fieldOf v 8 4 ∧ x.cell.kind = 3 ∧ x.cell.spkg = s.pkg ∧
        x.cell.payload.take 16 = leBytes 8 p.lmgd.toNat ++ leBytes 8 (fieldOf v 0 7 + 256 * fieldOf v 8 4)) ∧
    (busy → ∃ t : State, exec (.leafAckArrival err) s = .next t ∧ fieldOf t.pod.lmgt 63 1 = 0 ∧
      fieldOf t.pod.lmgt 62 1 = err.toNat ∧ t.mem = s.mem) ∧
    (¬ running → exec (.cellSend port) s = .next s ∧ exec (.hallFrameSend plane) s = .next s) ∧
    let free : Prop := running ∧ (s.sys.boot = 8 ∨ s.sys.boot = 15) ∧ s.bcHold = 0 ∧ ∀ x ∈ p.hallLast, x.1 = plane → x.2 + 8 ≤ bc + 1
    let again : Option (Nat × HallTag) := p.tags.find? fun x => x.2.waiting && x.1 / 4096 == plane
    let answer : Option (HallFrame × Bool) := p.answers.find? fun r => r.1.plane == plane
    let path (g : HallFrame) : HallFrame :=
      let e := s.hpath g.plane g.pod
      { g with up := fieldOf e 0 7, spine := fieldOf e 8 8, flow := fieldOf e 16 8 }
    let sent (t : State) (g : HallFrame) (e : Bool) : Prop := exec (.hallFrameSend plane) s = .next t ∧ t.mem = s.mem ∧
      t.pod.frames = p.frames ++ [(hallBytes s.pkg g, e)]
    (∀ x, free → again = some x → ∃ t : State, sent t x.2.frame false ∧ t.pod.tags = p.tags.map fun y =>
        if y.1 = x.1 then (x.1, { x.2 with waiting := false, sent := s.time }) else y) ∧
    (∀ r, free → again = none → answer = some r → ∃ t : State, t.pod.answers.length + 1 = p.answers.length ∧
      if fieldOf (s.hpath plane r.1.pod) 63 1 = 1 then sent t (path r.1) r.2
      else exec (.hallFrameSend plane) s = .next t ∧ t.pod.frames = p.frames ∧ t.mem = s.mem) ∧
    (∀ q, free → again = none → answer = none → p.hallQ.find? (fun q => q.1 == plane) = some q → q.2.frame.plane = plane →
        (fieldOf (s.hpath plane q.2.frame.pod) 63 1 = 0 → ∃ t : State, exec (.hallFrameSend plane) s = .next t ∧
          failed t q.2.opId 7 q.2.first ∧ (∀ x ∈ t.pod.hallQ, x.2.opId ≠ q.2.opId) ∧ t.mem = s.mem) ∧
        (∀ k, fieldOf (s.hpath plane q.2.frame.pod) 63 1 = 1 → s.freeTag plane = some k →
          let g := path { q.2.frame with tag := k, inc := Sp.get 0 p.incs (4096 * plane + k) }
          ∃ t : State, sent t g false ∧ t.pod.hallQ.length + 1 = p.hallQ.length ∧
            t.pod.tags = p.tags ++ [(4096 * plane + k, { q.2 with frame := g, attempts := 1, sent := s.time })])) ∧
    (1024 < f.len → exec (.hallReplyArrival f err) s = .next (s.bump 0 5)) ∧
    (f.len ≤ 1024 → (∀ x ∈ p.tags, x.1 ≠ 4096 * f.plane + f.tag) → exec (.hallReplyArrival f err) s = .next (s.bump 0 6)) ∧
    (∀ x, f.len ≤ 1024 → p.tags.find? (fun x => x.1 == 4096 * f.plane + f.tag) = some x →
      (x.2.frame.inc ≠ f.inc → exec (.hallReplyArrival f err) s = .next (s.bump 0 6)) ∧
      (x.2.frame.inc = f.inc → ∃ t : State, exec (.hallReplyArrival f err) s = .next t ∧ t.mem = s.mem ∧
        (∀ y ∈ t.pod.tags, y.1 ≠ 4096 * f.plane + f.tag) ∧
        ∀ o ∈ p.hallOps, o.id = x.2.opId → ∃ y ∈ t.pod.hallOps, y.id = o.id ∧ y.left = o.left - 1 ∧
          (err = true → o.status = 0 → y.status = BitVec.ofNat 64 (8 * 2 ^ 56 + x.2.first % 2 ^ 48)) ∧ (err = false → y.status = o.status))) ∧
    (s.sys.boot = 8 → (f.op ≠ 0 ∧ f.op ≠ 1 ∧ f.op ≠ 3) ∨ 1024 < f.len → exec (.hallRequestArrival f) s = .next (s.bump 0 5)) ∧
    (s.sys.boot = 8 → f.len ≤ 1024 → p.replies.find? (fun q => q.1 == seenKey f && q.2.repeats f) = none →
        (f.op = 1 → s.exports f = true → ∃ t : State, exec (.hallRequestArrival f) s = .next t ∧ t.mem = s.mem ∧
          t.pod.answers = p.answers ++ [({ f with op := 2, len := bs.length, payload := bs }, false)]) ∧
        (f.op = 0 → s.exports f = true → ∃ t : State, exec (.hallRequestArrival f) s = .next t ∧
          t.mem = (s.homeWrite f.owner a (f.payload.take f.len)).mem ∧
          t.pod.answers = p.answers ++ [({ f with op := 5, len := 0, payload := [] }, false)]) ∧
        (f.op = 0 ∨ f.op = 1 → s.exports f = false → ∃ t : State, exec (.hallRequestArrival f) s = .next t ∧ t.mem = s.mem ∧
          t.pod.answers = p.answers ++ [({ f with op := if f.op = 0 then 5 else 2, len := 0, payload := [] }, true)])) ∧
    (∀ x, s.sys.boot = 8 → f.op = 0 ∨ f.op = 1 ∨ f.op = 3 → f.len ≤ 1024 →
      p.replies.find? (fun q => q.1 == seenKey f && q.2.repeats f) = some x →
        let refused : Prop := f.op = 0 ∧ x.2.err = false ∧ s.exports f = false
        (¬ refused → ∃ t : State,
          exec (.hallRequestArrival f) s = .next t ∧ t.pod.answers = p.answers ++ [({ x.2.reply with inc := f.inc }, x.2.err)] ∧
          t.mem = if f.op = 0 ∧ x.2.err = false then (s.homeWrite f.owner a (f.payload.take f.len)).mem else s.mem) ∧
        (refused → ∃ t : State, exec (.hallRequestArrival f) s = .next t ∧ t.mem = s.mem ∧
          t.pod.answers = p.answers ++ [({ f with op := 5, len := 0, payload := [] }, true)])) ∧
    (∀ x, p.tags.find? (fun x => x.1 == 4096 * plane + tag) = some x →
      (x.2.waiting = true ∨ s.time < x.2.sent + 1600000 → exec (.hallRetryTimeout plane tag) s = .next s) ∧
      (x.2.waiting = false → x.2.sent + 1600000 ≤ s.time → x.2.attempts < 4 → ∃ t : State, exec (.hallRetryTimeout plane tag) s = .next t ∧ t.mem = s.mem ∧
        t.pod.tags = p.tags.map (fun y => if y.1 = 4096 * plane + tag then (y.1, { x.2 with
          attempts := x.2.attempts + 1, waiting := true, frame := { x.2.frame with inc := (x.2.frame.inc + 1) % 16 } }) else y)) ∧
      (x.2.waiting = false → x.2.sent + 1600000 ≤ s.time → 4 ≤ x.2.attempts → ∃ t : State, exec (.hallRetryTimeout plane tag) s = .next t ∧ t.mem = s.mem ∧
        failed t x.2.opId 7 x.2.first))

/-! ### Events of queues, launches and partitions -/

/-- R394, R410 to R422 and R434: a queue is mapped or halted with its error, entries are admitted in their kinds, buckets gain, and launches
start and end. A write that finds no frame for a copy set aside makes its launch's end wait, and an ADD's likewise: the model's reading of
R434, which speaks of a train's late events (log 100). The model's choices are that tamper is tested before the ring (log 21); that a bucket
found dry at a map leaves the queue unmapped, that no launch starts while its bucket is dry, and that a gain never lowers a bucket above its
depth (log 10); that the 1,600 bc are counted from reset and a bucket stays spent until THRESH (log 111); and that a launch offered elsewhere
starts whatever its own queue here (logs 86 and 22). -/
def Obligations.QueueAndLaunchEvents : Prop :=
  ∀ (q qcb prio rclass owner id tr : Nat) (s : State),
    let new : QSlot := { listed := true, qcb := qcb, prio := prio % 8, rclass := rclass % 4, owner := owner % 4096 }
    let x := s.queue q
    let w (i : Nat) : W64 := s.entryWord q i
    let l := s.launch id
    let t0 := s.train tr
    let taken (u : State) : State :=
      let v := u.homePut (u.queue q).qcb (leBytes 8 (u.readIndex q + 1))
      let v : State := { v with fw := { v.fw with taken := v.fw.taken + 1 } }
      v.setQueue q { u.queue q with last := v.fw.taken }
    let spent (o b : Nat) : Prop := (∃ p ∈ s.fw.policy, p.1 = o) ∧ b ∈ (s.policy o).dried
    let waits : Prop := (l.away = none ∧ ∃ y ∈ s.fw.queues, y.2.listed = true ∧ y.2.qcb = l.qcb ∧ (s.queue y.1).dry = true) ∨
      spent l.owner l.rclass
    (s.sys.boot = 8 → q < 4096 →
      (s.tampered new = true → ∃ t : State, exec (.queueMap q qcb prio rclass owner) s = .next t ∧ (t.queue q).mapped = false ∧
        t.fw.events = s.fw.events ++ [.hostEvent q 1] ∧ t.grid = s.grid) ∧
      (s.tampered new = false → s.ringBad qcb (owner % 4096) = true → ∃ t : State,
        exec (.queueMap q qcb prio rclass owner) s = .next t ∧ (t.queue q).mapped = false ∧
        t.fw.events = s.fw.events ++ [.hostEvent q 2] ∧ t.grid = s.grid) ∧
      (s.tampered new = false → s.ringBad qcb (owner % 4096) = false → ∃ t : State,
        exec (.queueMap q qcb prio rclass owner) s = .next t ∧ t.mem = s.mem ∧
        (spent (owner % 4096) (rclass % 4) → t.queue q = { new with dry := true }) ∧
        (¬ spent (owner % 4096) (rclass % 4) →
          t.queue q = { new with mapped := true, base := fieldOf (s.qcbWord qcb 2) 0 56, log := fieldOf (s.qcbWord qcb 3) 0 5 }))) ∧
    (x.listed = false → exec (.queueRemap q) s = .next s) ∧
    (s.sys.boot = 8 → x.listed = true →
      exec (.queueRemap q) s = .next (if fieldOf (s.qcbWord x.qcb 4) 0 8 = 1 then s.mapQueue q x
        else (s.homePut (x.qcb + 32) (leBytes 8 0)).mapQueue q x)) ∧
    ((s.mayAdmit q 0 = true → s.entryError q ≠ 0 →
        exec (.queueLaunchEntry q) s = .next (s.queueError q (s.entryError q) (s.readIndex q))) ∧
      (s.mayAdmit q 0 = true → s.entryError q = 0 → w 4 = 0 → ∃ t : State, exec (.queueLaunchEntry q) s = .next t ∧
        t.fw.admitted = s.fw.admitted + 1 ∧ t.pod = s.pod) ∧
      (s.mayAdmit q 0 = true → s.entryError q = 0 → w 4 ≠ 0 → ∃ t : State, exec (.queueLaunchEntry q) s = .next t ∧
        t.fw.admitted = s.fw.admitted ∧ ∃ o : Offer, t.pod.offers = s.pod.offers ++ [o] ∧ o.op = 4 ∧
          o.rcd.words = [w 2, BitVec.ofNat 64 (q + 65536 * x.owner), BitVec.ofNat 64 (s.readIndex q), w 4]) ∧
      (s.mayAdmit q 1 = true → s.entryError q = 0 → exec (.queueWaitEntry q) s = .next (taken s)) ∧
      (s.mayAdmit q 2 = true → s.entryError q = 0 → s.fw.launches = [] → s.fw.podEntries = [] → s.fw.adds = [] →
        let added := s.homeWrite x.owner (w 2).toNat (leBytes 8 (leNat (s.homeBytes x.owner (w 2).toNat 8) + (w 3).toNat))
        let short : Prop := added.mem.starved = true ∧ s.mem.starved = false
        (¬ short → exec (.queueAddEntry q) s = .next (taken added)) ∧
        (short → exec (.queueAddEntry q) s = .next (taken { s with fw := { s.fw with
          adds := [{ qcb := x.qcb, owner := x.owner, counter := (w 2).toNat, amount := w 3, waitFor := [] }] } }))) ∧
      (s.mayAdmit q 3 = true → s.entryError q = 0 → exec (.queueNopEntry q) s = .next (taken s)) ∧
      (s.mayAdmit q 3 = false → exec (.queueNopEntry q) s = .next s)) ∧
    (s.fw.refillBc < 1600 → exec .bucketRefill s = .next s) ∧
    (∀ o p, 1600 ≤ s.fw.refillBc → s.fw.policy = [(o, p)] →
      let new (b : Nat) : Int := min (p.levelOf b + (Sp.get 0 p.rate b : Nat)) (max (p.levelOf b) (Sp.get 0 p.depth b : Nat))
      let back (b : Nat) : Prop := 0 < new b ∧ (Sp.get 0 p.thresh b : Nat) ≤ new b
      let gains (t : State) : Prop := exec .bucketRefill s = .next t ∧ t.fw.refillBc = s.fw.refillBc - 1600 ∧ t.grid = s.grid ∧
        t.mem = s.mem ∧ ∀ b < 4, (t.policy o).levelOf b = new b ∧
          (b ∈ (t.policy o).dried ↔ new b ≤ 0 ∨ (b ∈ p.dried ∧ ¬ back b))
      (s.grid.trains = [] → s.fw.queues = [] → ∃ t : State, gains t) ∧
      ((∀ b < 4, 0 < new b) → (∀ y ∈ s.fw.queues, y.2.dry = false) → ∃ t : State, gains t ∧ t.fw.queues = s.fw.queues) ∧
      (∀ y, s.grid.trains = [] → s.fw.queues = [(q, y)] → y.owner = o → y.rclass < 4 →
        (new y.rclass ≤ 0 → y.mapped = true → ∃ t : State, gains t ∧ t.queue q = { y with mapped := false, dry := true }) ∧
        (y.dry = true → y.rclass ∈ p.dried → back y.rclass → s.tampered y = false → s.ringBad y.qcb o = false → ∃ t : State, gains t ∧
          (t.queue q).mapped = true ∧ (t.queue q).dry = false) ∧
        (y.dry = true → y.rclass ∈ p.dried → ¬ back y.rclass → 0 < new y.rclass → ∃ t : State, gains t ∧ t.queue q = y))) ∧
    (waits → exec (.launchStart id) s = .next s) ∧
    (¬ waits → l.desc.twin = false → s.canStart l = true → l.id = id → ∃ t : State,
      exec (.launchStart id) s = .next t ∧ (t.launch id).state = 2 ∧ (t.launch id).attempts = l.attempts ∧ (t.launch id).startBc = s.bc ∧
      (t.train s.grid.nextTrain).live = true ∧ t.grid.nextTrain = s.grid.nextTrain + 1) ∧
    (t0.finished = false → exec (.launchEnd tr) s = .next s) ∧
    (s.endShort tr = true → exec (.launchEnd tr) s = .next s) ∧
    (t0.finished = true → s.endShort tr = false → (s.launch t0.launch).id = t0.launch → ∃ t : State, exec (.launchEnd tr) s = .next t ∧
      (t.train tr).live = false ∧ (t.launch t0.launch).state = (if t0.failing then 4 else 3) ∧ (t.launch t0.launch).endBc = s.bc ∧
      let used := (s.launch t0.launch).desc.slots
      ((∀ r ∈ used, r.slot < 64) → ∀ port slot, slot < 64 →
        ((∃ r ∈ used, r.port = port ∧ r.slot = slot) → t.slotEntry port slot = s.slotEntry port slot &&& ~~~BitVec.ofNat 64 (2 ^ 62)) ∧
        ((∀ r ∈ used, r.port ≠ port ∨ r.slot ≠ slot) → t.slotEntry port slot = s.slotEntry port slot)))

/-- R399 to R405, R431, R433 and R438: leases are granted, refused and given up, partitions change, laps drain, pages are poisoned. A grant
reports in w7 of its descriptor and in the fault ring. The model's choices are the order of the refusal causes and the number of frames
(log 19), the form of another package's request (log 23), that a pin count at its limit holds a grant back (log 77), that owner 0 has
no HPOL (log 62), that a write which takes removed clusters back drops the requests made for them and lets what was saved return (log 85),
and that a removal pushes what its clusters still hold of ended teams and discards what their link columns have received (log 124). -/
def Obligations.PartitionEvents : Prop :=
  ∀ (desc owner page count kind cls gen bad : Nat) (v holder : W64) (s : State),
    let found (st : Nat) (l : Lease) : Prop := s.mem.leases.find? (fun l => l.desc == desc && l.state == st) = some l
    let cl : W64 := BitVec.ofNat 64 (2 ^ 32 - 1)
    let taken : Prop := (∃ p ∈ s.sys.hpol, p.1 ≠ owner ∧ fieldOf p.2 63 1 = 1 ∧ p.2 &&& (v &&& cl) ≠ 0) ∨
      ∃ p ∈ s.fw.removals, p.1 ≠ owner ∧ p.2 &&& (v &&& cl) ≠ 0
    let removed := s.hpol owner &&& cl &&& ~~~(v &&& cl)
    let back := Sp.get 0 s.fw.removals owner &&& (v &&& cl)
    let place := ringAt s.fw.fring s.fw.ringIx
    let descriptor : Prop := s.fw.posts = [] ∧ (desc + 64 ≤ 2 ^ 63 ∨ 2 ^ 63 ≤ desc) ∧ desc + 64 < 2 ^ 64 ∧
      (place + 64 ≤ 2 ^ 63 ∨ 2 ^ 63 ≤ place) ∧ (desc + 64 ≤ place ∨ place + 64 ≤ desc + 56)
    let answers (t : State) (w7 : Nat) : Prop :=
      t.sysWord (desc + 56) = BitVec.ofNat 64 w7 ∧ t.fw.ringIx + t.fw.posts.length = s.fw.ringIx + 1
    let pinned (t : State) (l : Lease) : Prop := ∀ q, t.pins q = s.pins q + if l.page ≤ q ∧ q < l.page + l.count then 1 else 0
    let unpinned (t : State) (l : Lease) : Prop := ∀ q, t.pins q = s.pins q - if l.page ≤ q ∧ q < l.page + l.count then 1 else 0
    ((∀ l ∈ s.mem.leases, l.desc ≠ desc) →
      exec (.leaseGrantComplete desc) s = .next s ∧ exec (.revokeUnpin desc) s = .next s) ∧
    (∀ l, found 0 l →
      (s.leaseCause l ≠ 0 → ∃ t : State, exec (.leaseGrantComplete desc) s = .next t ∧ (∀ q, t.pins q = s.pins q) ∧
        (∀ y ∈ t.mem.leases, y.desc ≠ desc ∨ y.state ≠ 0) ∧ (l.remote = true → 2 ^ 64 ≤ desc → t.mem.home = s.mem.home) ∧
        (l.remote = false → descriptor → answers t (2 + 256 * s.leaseCause l + 2 ^ 63))) ∧
      (s.leaseCause l = 0 → s.framesFree l = false → exec (.leaseGrantComplete desc) s = .next s) ∧
      (s.leaseCause l = 0 → s.framesFree l = true → ∃ t : State, exec (.leaseGrantComplete desc) s = .next t ∧ pinned t l ∧
        (∀ q, l.page ≤ q → q < l.page + l.count → peLoc (t.page q) ≠ 0) ∧ (∃ y ∈ t.mem.leases, y = { l with state := 1 }) ∧
        (l.remote = false → descriptor → answers t (1 + 2 ^ 63)))) ∧
    (∀ l, found 5 l →
      let reached : Prop := l.counter = 0 ∨ l.target.toNat ≤ (s.sysWord l.counter).toNat
      let flight : Prop := ∃ c ∈ s.grid.cmds, ∃ q ∈ c.pages, l.holds q = true
      (¬ reached ∨ flight → exec (.revokeUnpin desc) s = .next s) ∧
      (reached → ¬ flight → ∃ t : State, exec (.revokeUnpin desc) s = .next t ∧ unpinned t l ∧
        (l.remote = true → 2 ^ 64 ≤ desc → t.mem.home = s.mem.home) ∧ (l.remote = false → descriptor → answers t (3 + 2 ^ 63)))) ∧
    ((owner = 0 ∨ taken) → exec (.hpolWrite owner v) s = .next s) ∧
    (0 < owner → owner < 4096 → ¬ taken → ∃ t : State, exec (.hpolWrite owner v) s = .next t ∧
      t.hpol owner = (v &&& ~~~(BitVec.ofNat 64 (2 ^ 59))) ||| removed ∧ (∀ o, o ≠ owner → t.hpol o = s.hpol o) ∧ t.grid = s.grid ∧
      t.mem = s.mem ∧ Sp.get 0 t.fw.removals owner = removed ∧ (removed = 0 → back = 0 → t.fw.pre = s.fw.pre) ∧
      (removed = 0 → back ≠ 0 → ∀ r ∈ t.fw.pre, r.done = false → r.ring = false → r.handle = 0 → (s.train r.train).owner = owner →
        r.restore ≠ none) ∧
      ∀ p ∈ s.grid.trains, removed ≠ 0 → p.2.live = true → p.2.owner = owner → p.2.parked = false →
        (s.boundTo removed p.1 = true → t.prePending p.1 none = true) ∧
        (s.together p.1 = false → ∀ tk ∈ s.concerned p.1 none, s.standsOn removed tk = true → t.prePending p.1 (some tk) = true)) ∧
    (s.vacated owner = false → exec (.clusterRemovalComplete owner) s = .next s) ∧
    (s.vacated owner = true →
      let gone (k : Nat) : Prop := k < 32 ∧ bitAt (Sp.get 0 s.fw.removals owner) k = true
      let left (k a : Nat) : Prop := gone k ∧ a < 2 ^ 56 ∧ Sp.get 0 s.mem.own (k * 2 ^ 56 + a) ≠ 0
      let ok (a : Nat) : Prop := s.pageOk owner (a / 65536) = true
      ∃ t : State, exec (.clusterRemovalComplete owner) s = .next t ∧
        t.hpol owner = s.hpol owner &&& ~~~(Sp.get 0 s.fw.removals owner) ∧ Sp.get 0 t.fw.removals owner = 0 ∧
        (s.mem.own = [] → t.mem.home = s.mem.home) ∧
        (∀ core, gone (core / 8) → (t.core core).rx = []) ∧
        (∀ k a, gone k → a < 2 ^ 56 → t.mem.cview.byte (k * 2 ^ 56 + a) = 0 ∧ Sp.get 0 t.mem.own (k * 2 ^ 56 + a) = 0) ∧
        (Sp.Wf 0 s.mem.own → s.mem.laps = [] → s.fw.queues = [] →
          (∀ a, (∀ k, ¬ left k a) ∨ ¬ ok a → t.mem.home.byte a = s.mem.home.byte a) ∧
          ∀ k a, left k a → (∀ j, left j a → j = k) → ok a → t.mem.home.byte a = s.mem.cview.byte (k * 2 ^ 56 + a))) ∧
    (∃ t : State, exec (.remoteLeaseRequest page count owner kind cls holder) s = .next t ∧ t.grid = s.grid ∧ t.mem.home = s.mem.home ∧
      ∃ l : Lease, t.mem.leases = s.mem.leases ++ [l] ∧ l.page = page ∧ l.count = count ∧ l.owner = owner ∧ l.kind = kind ∧ l.cls = cls ∧
        l.holder = holder ∧ l.state = 0 ∧ l.remote = true) ∧
    ((∀ l ∈ s.mem.laps, l.gen ≠ gen) → exec (.lapDrain gen) s = .next s) ∧
    (∀ l, s.mem.laps.find? (fun l => l.gen == gen && l.number != 0 && !l.written) = some l → l.targetComp = true → ∃ t : State,
      exec (.lapDrain gen) s = .next t ∧ (∀ y ∈ t.mem.laps, y.gen = gen → y.written = true) ∧ t.mem.home = s.mem.home ∧ t.grid = s.grid) ∧
    (∃ t : State, exec (.scrubPass [] [bad]) s = .next t ∧ pePsn (t.page bad) = true ∧ (∀ q, q ≠ bad → t.page q = s.page q) ∧
      peOwner (t.page bad) = peOwner (s.page bad) ∧ t.mem.home = s.mem.home) ∧
    (∃ t : State, exec (.scrubPass [bad] []) s = .next t ∧ t.mem = s.mem ∧ t = s.bumpOwner (peOwner (s.page bad)) 2)

/-- R10, R429, R443 to R459: the companion's reads and writes, power, bring-up, the aperture, fuses and trip points.
Whether a firmware image's signatures verify is a free value of the model (log 7): the clause holds for either answer. The model's
choices are how long VERIFY, MEASURE, RELEASE and a report last, that a program while BUSY sets ERR, that a nonce is ignored in HALTED,
that MODEW stays locked once RELEASE was reached, and that the companion reaches SRAM by its private address (log 63); that registers and
SRAM hold 0 without power (logs 4 and 5), while companion memory and, in the one map of homes (log 24), other packages' bytes and page
entries stay; and which fields RELEASE resets (log 104). -/
def Obligations.BringUpEvents : Prop :=
  ∀ (owner addr n srn cause die : Nat) (bs : List Byte) (v : W64) (bad : Bool) (s : State),
    let ia := s.pkg * 2 ^ 50 + addr % 2 ^ 50
    let foreign (a : Nat) : Bool := pkgOf a != s.pkg
    let dark (home : Memory) (pages : List (Nat × W64)) : State := { State.reset with
      time := s.time, inputs := s.inputs, fresh := s.fresh, sys := { fuses := s.sys.fuses }
      mem := { comp := s.mem.comp, home := home, pages := pages } }
    let failed (t : State) (c : Nat) : Prop := t.sys.boot = 14 ∧ t.sys.cause = c ∧ t.mem = s.mem ∧ t.grid = s.grid
    let halts (t : State) (c : Nat) : Prop := t.sys.boot = 15 ∧ t.sys.cause = c ∧ t.pod.stopped = true ∧ t.mem = s.mem ∧
      (∀ p ∈ t.grid.trains, p.2.endAll = true) ∧ ∀ p ∈ t.fw.cmds, p.2.on = false
    let open_ := s.sys.boot = 1 ∨ s.sys.boot = 2
    let word := fieldOf s.sys.fusea 0 6
    let quiet : Prop := s.grid.trains = [] ∧ s.fw.posts = [] ∧ s.fw.adds = [] ∧ s.sys.hpol = []
    let unreleased : Prop := s.sys.boot ≠ 0 ∧ s.sys.released = false
    let locked := word < 12 ∧ bitOf (Sp.get 0 s.sys.fuses 16).toNat 0 = true
    (s.sys.boot ≠ 0 → addr < 2 ^ 63 →
      (∃ t : State, exec (.companionRead owner addr n) s = .next t ∧ t.sys.response = s.homeBytes owner ia n ∧ t.mem.home = s.mem.home ∧
        t.grid = s.grid) ∧
      exec (.companionWrite owner addr bs) s = .next (s.homeWrite owner ia bs)) ∧
    (s.sys.boot = 2 → ∀ o, 0x10000000 ≤ o → o + bs.length ≤ 0x12000000 → ∃ t : State,
      exec (.companionWrite owner (2 ^ 63 + o) bs) s = .next t ∧ t.mem = { s.mem with priv := Memory.put s.mem.priv o bs }) ∧
    exec .powerRemove s = .next
      (dark (s.mem.home.filter fun c => foreign c.1) (s.mem.pages.filter fun p => foreign (p.1 * 65536))) ∧
    (s.sys.boot = 0 → exec .powerOn s = .next { dark s.mem.home s.mem.pages with sys := { fuses := s.sys.fuses, boot := 1 } }) ∧
    (s.sys.boot ≠ 0 → exec .powerOn s = .next s) ∧
    (s.sys.boot ≠ 2 → exec .bootctlGo s = .next s) ∧
    (s.sys.boot = 2 → exec .bootctlGo s = .next { s with sys := { s.sys with boot := 3 } }) ∧
    (quiet → s.sys.attesting = [] →
      (s.sys.boot = 3 → ∃ t : State, exec .vcAdvance s = .next t ∧
        if s.imageOk then t.sys.boot = 4 ∧ t.mem = s.mem else failed t 1) ∧
      (s.sys.boot = 4 → ∃ t : State, exec .vcAdvance s = .next t ∧ t.sys.boot = 5 ∧ t.mem = s.mem ∧
        t.sys.meas = sha384 (Memory.bytes s.mem.priv 0x10000000 (Memory.nat s.mem.priv 0x10000000 8))) ∧
      (s.sys.boot = 5 → let hd := s.sys.evring.toNat
        ∃ t : State, exec .vcAdvance s = .next t ∧ t.sys.boot = 6 ∧ t.mem.home = s.mem.home ∧ t.mem.priv = s.mem.priv ∧
        (∀ i < 64, t.mem.comp.byte (hd + i) = if i < 8 then s.mem.comp.byte (hd + i) else if i = 8 then s.mem.comp.byte (hd + 8) &&& 0x1F else 0) ∧
        (∀ a, a < hd ∨ hd + 64 ≤ a → t.mem.comp.byte a = s.mem.comp.byte a) ∧
        t.sys.fusea = 0 ∧ t.sys.fused = 0 ∧ t.sys.fuseErr = false ∧ t.sys.fuseBusy = false ∧ t.sys.counters = [] ∧
        ∀ k < 16, (t.cmdCore k).on = true ∧ (t.cmdCore k).level = 2 ∧ (t.group k).pri.pc = 0x10000040 ∧ (t.group k).width = 16)) ∧
    (s.sys.boot = 0 ∨ s.sys.boot = 15 ∨ s.sys.attesting ≠ [] → exec .bootctlNonce s = .next s) ∧
    (s.sys.boot ≠ 0 → s.sys.boot ≠ 15 → s.sys.attesting = [] → ∃ t : State, exec .bootctlNonce s = .next t ∧ t.mem = s.mem ∧
      t.grid = s.grid ∧ t.sys.boot = s.sys.boot ∧ Memory.nat t.sys.report 0 8 = 0 ∧
      ∀ i < 32, nth 0 t.sys.attesting (8 + i) = Sp.get 0 s.sys.nonce i) ∧
    (s.grid.trains = [] → s.sys.attesting ≠ [] → s.sys.boot ≠ 15 → ∃ t : State, exec .vcAdvance s = .next t ∧ t.sys.attesting = [] ∧
      ∀ i < s.sys.attesting.length, Memory.byte t.sys.report i = nth 0 s.sys.attesting i) ∧
    (s.sys.boot = 6 →
      (2 ≤ cause → cause ≤ 4 → ∃ t : State, exec (.training (some (cause, die))) s = .next t ∧ failed t cause ∧ t.sys.die = die) ∧
      (s.psize ≠ 0 → ∃ t : State, exec (.training none) s = .next t ∧ t.sys.boot = 7 ∧ t.sys.joinEntry = s.time ∧ t.sys.joinStep = 0 ∧
        t.mem = s.mem) ∧
      (s.psize = 0 → ∃ t : State, exec (.training none) s = .next t ∧ failed t 5)) ∧
    (s.pod.listen ≠ 0 → exec .joinTokenTimeout s = .next s ∧ exec .joinFailTimeout s = .next s) ∧
    (s.sys.boot = 7 → s.pod.listen = 0 → s.sys.joinStep = 0 → s.sys.joinEntry + 4096 ≤ s.time →
      (s.form = true ∨ s.psize = 1 → ∃ t : State, exec .joinTokenTimeout s = .next t ∧ t.sys.boot = 8 ∧ t.bc = 0 ∧ t.pod.seq = 0 ∧ t.pod.top = 0 ∧
        t.pod.dial = [] ∧ t.pod.inPod = true ∧ t.mem = s.mem) ∧
      (s.form = false → s.psize ≠ 1 → ∃ t : State, exec .joinTokenTimeout s = .next t ∧ t.sys.boot = 7 ∧ t.sys.joinStep = 1)) ∧
    (s.sys.boot = 7 → s.pod.listen = 0 → s.sys.joinStep < 2 → s.sys.joinEntry + 1600000 ≤ s.time → ∃ t : State, exec .joinFailTimeout s = .next t ∧
      failed t 5) ∧
    (∃ t : State, exec (.sraddrRead srn) s = .next t ∧ t.mem = s.mem ∧ fieldOf t.sys.sraddr 63 1 = 0 ∧ fieldOf t.sys.sraddr 62 1 = 0 ∧
      fieldOf t.sys.sraddr 0 16 = srn % 65536 ∧ fieldOf t.sys.sraddr 61 1 = (!s.portGrants false srn).toNat ∧
      t.sys.srdata = if s.portGrants false srn then s.readReg 0 srn else s.sys.srdata) ∧
    (s.portGrants true srn = false → ∃ t : State, exec (.sraddrWrite srn) s = .next t ∧ t.mem = s.mem ∧ t.fw = s.fw ∧ t.pod = s.pod ∧
      fieldOf t.sys.sraddr 61 1 = 1 ∧ fieldOf t.sys.sraddr 62 1 = 1) ∧
    (s.portGrants true srn = true → ∃ t : State, exec (.sraddrWrite srn) s = .next t ∧ fieldOf t.sys.sraddr 61 1 = 0 ∧
      (∀ i, i < 0x400 → srn = 0x100 + i → slotLocked (Sp.get 0 s.pod.slottab i) = false →
        Sp.get 0 t.pod.slottab i = s.sys.srdata &&& slotTabMask)) ∧
    (s.sys.fuseBusy = false → open_ → ¬ locked → ∃ t : State, exec .fusecProgram s = .next t ∧ t.sys.fuseBusy = true ∧
      Sp.get 0 t.sys.fuses word = Sp.get 0 s.sys.fuses word ||| s.sys.fused ∧
      ∀ k, k ≠ word → Sp.get 0 t.sys.fuses k = Sp.get 0 s.sys.fuses k) ∧
    (s.sys.boot ≠ 0 → s.sys.fuseBusy = false → ¬ open_ ∨ locked → ∃ t : State, exec .fusecProgram s = .next t ∧
      t.sys.fuses = s.sys.fuses ∧ t.sys.fuseErr = true) ∧
    (s.sys.fuseBusy = true → s.sys.boot ≠ 0 → exec .fusecProgram s = .next { s with sys := { s.sys with fuseErr := true } }) ∧
    (s.sys.fuseBusy = true → ∃ t : State, exec (.fuseProgramComplete bad) s = .next t ∧
      t.sys.fuseBusy = false ∧ t.sys.fuseErr = (s.sys.fuseErr || bad) ∧ t.sys.fuses = s.sys.fuses) ∧
    (s.powered = true → (∃ t : State, exec .thermalPause s = .next t ∧ t.grid = s.grid ∧ t.mem = s.mem ∧ ∀ tr, t.late tr = true) ∧
      (∃ t : State, exec .thermalTrip s = .next t ∧ halts t 6) ∧ ∃ t : State, exec .powerTrip s = .next t ∧ halts t 7) ∧
    (∃ t : State, exec .thermalResume s = .next t ∧ t.sys.thermal = false ∧ t.grid = s.grid ∧ t.mem = s.mem) ∧
    (s.powered = false → exec .thermalPause s = .next s ∧ exec .thermalTrip s = .next s ∧ exec .powerTrip s = .next s) ∧
    (s.sys.boot ≠ 0 → exec (.registerWrite 0x38 v) s = .next { s with sys := { s.sys with srdata := v } }) ∧
    (open_ → exec (.registerWrite 0x28 v) s = .next { s with sys := { s.sys with loopc := v &&& 0xFFFF } }) ∧
    (¬ open_ → exec (.registerWrite 0x28 v) s = .next s) ∧
    (unreleased → exec (.registerWrite 0x18 v) s = .next { s with sys := { s.sys with modew := v &&& 0x3F } }) ∧
    (¬ unreleased → exec (.registerWrite 0x18 v) s = .next s)
end

