-- ==== Sys2Proof/Laws/Dispatch.lean ====
section
/-!
SUPPORT. Which meaning `exec` calls: one equation for each constructor.
-/

namespace Sys2Proof.Machine

theorem exec_add (h o) (s : State) : exec (.add h o) s = execAdd h o s := rfl
theorem exec_sub (h o) (s : State) : exec (.sub h o) s = execSub h o s := rfl
theorem exec_mul (h o) (s : State) : exec (.mul h o) s = execMul h o s := rfl
theorem exec_mulh (h o) (s : State) : exec (.mulh h o) s = execMulh h o s := rfl
theorem exec_mulhu (h o) (s : State) : exec (.mulhu h o) s = execMulhu h o s := rfl
theorem exec_mad (h o) (s : State) : exec (.mad h o) s = execMad h o s := rfl
theorem exec_and (h o) (s : State) : exec (.and h o) s = execAnd h o s := rfl
theorem exec_or (h o) (s : State) : exec (.or h o) s = execOr h o s := rfl
theorem exec_xor (h o) (s : State) : exec (.xor h o) s = execXor h o s := rfl
theorem exec_andn (h o) (s : State) : exec (.andn h o) s = execAndn h o s := rfl
theorem exec_shl (h o) (s : State) : exec (.shl h o) s = execShl h o s := rfl
theorem exec_shr (h o) (s : State) : exec (.shr h o) s = execShr h o s := rfl
theorem exec_sra (h o) (s : State) : exec (.sra h o) s = execSra h o s := rfl
theorem exec_rol (h o) (s : State) : exec (.rol h o) s = execRol h o s := rfl
theorem exec_min (h o) (s : State) : exec (.min h o) s = execMin h o s := rfl
theorem exec_max (h o) (s : State) : exec (.max h o) s = execMax h o s := rfl
theorem exec_minu (h o) (s : State) : exec (.minu h o) s = execMinu h o s := rfl
theorem exec_maxu (h o) (s : State) : exec (.maxu h o) s = execMaxu h o s := rfl
theorem exec_cmp (h cc o) (s : State) : exec (.cmp h cc o) s = execCmp h cc o s := rfl
theorem exec_sel (h cn neg o) (s : State) : exec (.sel h cn neg o) s = execSel h cn neg o s := rfl
theorem exec_mov (h o) (s : State) : exec (.mov h o) s = execMov h o s := rfl
theorem exec_movi (h dst x) (s : State) : exec (.movi h dst x) s = execMovi h dst x s := rfl
theorem exec_clz (h o) (s : State) : exec (.clz h o) s = execClz h o s := rfl
theorem exec_ctz (h o) (s : State) : exec (.ctz h o) s = execCtz h o s := rfl
theorem exec_popc (h o) (s : State) : exec (.popc h o) s = execPopc h o s := rfl
theorem exec_brev (h o) (s : State) : exec (.brev h o) s = execBrev h o s := rfl
theorem exec_bfx (h pos wm1 o) (s : State) : exec (.bfx h pos wm1 o) s = execBfx h pos wm1 o s := rfl
theorem exec_bfxu (h pos wm1 o) (s : State) : exec (.bfxu h pos wm1 o) s = execBfxu h pos wm1 o s := rfl
theorem exec_bfi (h pos wm1 o) (s : State) : exec (.bfi h pos wm1 o) s = execBfi h pos wm1 o s := rfl
theorem exec_lea (h sh o) (s : State) : exec (.lea h sh o) s = execLea h sh o s := rfl
theorem exec_divu (h o) (s : State) : exec (.divu h o) s = execDivu h o s := rfl
theorem exec_remu (h o) (s : State) : exec (.remu h o) s = execRemu h o s := rfl
theorem exec_iadd (h o) (s : State) : exec (.iadd h o) s = execIadd h o s := rfl
theorem exec_isub (h o) (s : State) : exec (.isub h o) s = execIsub h o s := rfl
theorem exec_imul (h o) (s : State) : exec (.imul h o) s = execImul h o s := rfl
theorem exec_imulh (h o) (s : State) : exec (.imulh h o) s = execImulh h o s := rfl
theorem exec_imad (h o) (s : State) : exec (.imad h o) s = execImad h o s := rfl
theorem exec_iabs (h o) (s : State) : exec (.iabs h o) s = execIabs h o s := rfl
theorem exec_iabsd (h o) (s : State) : exec (.iabsd h o) s = execIabsd h o s := rfl
theorem exec_imin (h o) (s : State) : exec (.imin h o) s = execImin h o s := rfl
theorem exec_imax (h o) (s : State) : exec (.imax h o) s = execImax h o s := rfl
theorem exec_iminu (h o) (s : State) : exec (.iminu h o) s = execIminu h o s := rfl
theorem exec_imaxu (h o) (s : State) : exec (.imaxu h o) s = execImaxu h o s := rfl
theorem exec_imaxb (h dec o) (s : State) : exec (.imaxb h dec o) s = execImaxb h dec o s := rfl
theorem exec_iadds (h o) (s : State) : exec (.iadds h o) s = execIadds h o s := rfl
theorem exec_isubs (h o) (s : State) : exec (.isubs h o) s = execIsubs h o s := rfl
theorem exec_iand (h o) (s : State) : exec (.iand h o) s = execIand h o s := rfl
theorem exec_ior (h o) (s : State) : exec (.ior h o) s = execIor h o s := rfl
theorem exec_ixor (h o) (s : State) : exec (.ixor h o) s = execIxor h o s := rfl
theorem exec_inot (h o) (s : State) : exec (.inot h o) s = execInot h o s := rfl
theorem exec_ishl (h o) (s : State) : exec (.ishl h o) s = execIshl h o s := rfl
theorem exec_ishr (h o) (s : State) : exec (.ishr h o) s = execIshr h o s := rfl
theorem exec_isra (h o) (s : State) : exec (.isra h o) s = execIsra h o s := rfl
theorem exec_icmp (h cc el o) (s : State) : exec (.icmp h cc el o) s = execIcmp h cc el o s := rfl
theorem exec_isel (h sm sn o) (s : State) : exec (.isel h sm sn o) s = execIsel h sm sn o s := rfl
theorem exec_imov (h dst x) (s : State) : exec (.imov h dst x) s = execImov h dst x s := rfl
theorem exec_imovi (h dst x) (s : State) : exec (.imovi h dst x) s = execImovi h dst x s := rfl
theorem exec_ipopc (h o) (s : State) : exec (.ipopc h o) s = execIpopc h o s := rfl
theorem exec_iclz (h o) (s : State) : exec (.iclz h o) s = execIclz h o s := rfl
theorem exec_ibrev (h o) (s : State) : exec (.ibrev h o) s = execIbrev h o s := rfl
theorem exec_ibfx (h u pos wm1 o) (s : State) : exec (.ibfx h u pos wm1 o) s = execIbfx h u pos wm1 o s := rfl
theorem exec_ibfi (h pos wm1 o) (s : State) : exec (.ibfi h pos wm1 o) s = execIbfi h pos wm1 o s := rfl
theorem exec_mand (h o) (s : State) : exec (.mand h o) s = execMand h o s := rfl
theorem exec_mor (h o) (s : State) : exec (.mor h o) s = execMor h o s := rfl
theorem exec_mxor (h o) (s : State) : exec (.mxor h o) s = execMxor h o s := rfl
theorem exec_mpop (h dst sa) (s : State) : exec (.mpop h dst sa) s = execMpop h dst sa s := rfl
theorem exec_fadd (h o) (s : State) : exec (.fadd h o) s = execFadd h o s := rfl
theorem exec_fsub (h o) (s : State) : exec (.fsub h o) s = execFsub h o s := rfl
theorem exec_fmul (h o) (s : State) : exec (.fmul h o) s = execFmul h o s := rfl
theorem exec_fma (h o) (s : State) : exec (.fma h o) s = execFma h o s := rfl
theorem exec_fmin (h o) (s : State) : exec (.fmin h o) s = execFmin h o s := rfl
theorem exec_fmax (h o) (s : State) : exec (.fmax h o) s = execFmax h o s := rfl
theorem exec_fcmp (h cc o) (s : State) : exec (.fcmp h cc o) s = execFcmp h cc o s := rfl
theorem exec_fabs (h neg dst sa) (s : State) : exec (.fabs h neg dst sa) s = execFabs h neg dst sa s := rfl
theorem exec_frnd (h o) (s : State) : exec (.frnd h o) s = execFrnd h o s := rfl
theorem exec_fcvt (h o) (s : State) : exec (.fcvt h o) s = execFcvt h o s := rfl
theorem exec_fcvtToF32 (h o) (s : State) : exec (.fcvtToF32 h o) s = execFcvtToF32 h o s := rfl
theorem exec_fcvti (h o) (s : State) : exec (.fcvti h o) s = execFcvti h o s := rfl
theorem exec_icvtf (h o) (s : State) : exec (.icvtf h o) s = execIcvtf h o s := rfl
theorem exec_fclass (h dst sa) (s : State) : exec (.fclass h dst sa) s = execFclass h dst sa s := rfl
theorem exec_fscale (h o) (s : State) : exec (.fscale h o) s = execFscale h o s := rfl
theorem exec_fdot2 (h fp16 o) (s : State) : exec (.fdot2 h fp16 o) s = execFdot2 h fp16 o s := rfl
theorem exec_fadd2 (h o) (s : State) : exec (.fadd2 h o) s = execFadd2 h o s := rfl
theorem exec_fmul2 (h o) (s : State) : exec (.fmul2 h o) s = execFmul2 h o s := rfl
theorem exec_fma2 (h o) (s : State) : exec (.fma2 h o) s = execFma2 h o s := rfl
theorem exec_qamax (h sub8 dst sa) (s : State) : exec (.qamax h sub8 dst sa) s = execQamax h sub8 dst sa s := rfl
theorem exec_qscale (h dst sa sb) (s : State) : exec (.qscale h dst sa sb) s = execQscale h dst sa sb s := rfl
theorem exec_qpack (h part eot o) (s : State) : exec (.qpack h part eot o) s = execQpack h part eot o s := rfl
theorem exec_qunpack (h qf part o) (s : State) : exec (.qunpack h qf part o) s = execQunpack h qf part o s := rfl
theorem exec_shfl (h dst sa sb) (s : State) : exec (.shfl h dst sa sb) s = execShfl h dst sa sb s := rfl
theorem exec_shflImm (h dst sa imm) (s : State) : exec (.shflImm h dst sa imm) s = execShflImm h dst sa imm s := rfl
theorem exec_shflx (h dst sa b) (s : State) : exec (.shflx h dst sa b) s = execShflx h dst sa b s := rfl
theorem exec_pushl (h dst sa sb) (s : State) : exec (.pushl h dst sa sb) s = execPushl h dst sa sb s := rfl
theorem exec_bcast (h dst sa b) (s : State) : exec (.bcast h dst sa b) s = execBcast h dst sa b s := rfl
theorem exec_getln (h dst sa b) (s : State) : exec (.getln h dst sa b) s = execGetln h dst sa b s := rfl
theorem exec_setln (h dst sa b) (s : State) : exec (.setln h dst sa b) s = execSetln h dst sa b s := rfl
theorem exec_red (h opk rm dst sa) (s : State) : exec (.red h opk rm dst sa) s = execRed h opk rm dst sa s := rfl
theorem exec_scan (h opk rm exc dst sa) (s : State) : exec (.scan h opk rm exc dst sa) s = execScan h opk rm exc dst sa s := rfl
theorem exec_vote (h pk seg dst x) (s : State) : exec (.vote h pk seg dst x) s = execVote h pk seg dst x s := rfl
theorem exec_frcp (h o) (s : State) : exec (.frcp h o) s = execFrcp h o s := rfl
theorem exec_frsq (h o) (s : State) : exec (.frsq h o) s = execFrsq h o s := rfl
theorem exec_fsqrt (h o) (s : State) : exec (.fsqrt h o) s = execFsqrt h o s := rfl
theorem exec_fexp2 (h o) (s : State) : exec (.fexp2 h o) s = execFexp2 h o s := rfl
theorem exec_flog2 (h o) (s : State) : exec (.flog2 h o) s = execFlog2 h o s := rfl
theorem exec_fsin (h o) (s : State) : exec (.fsin h o) s = execFsin h o s := rfl
theorem exec_fcos (h o) (s : State) : exec (.fcos h o) s = execFcos h o s := rfl
theorem exec_ftanh (h o) (s : State) : exec (.ftanh h o) s = execFtanh h o s := rfl
theorem exec_fdiv (h o) (s : State) : exec (.fdiv h o) s = execFdiv h o s := rfl
theorem exec_ldp (h dst sx a) (s : State) : exec (.ldp h dst sx a) s = execLdp h dst sx a s := rfl
theorem exec_stp (h dst a) (s : State) : exec (.stp h dst a) s = execStp h dst a s := rfl
theorem exec_ldg (h dst sx a) (s : State) : exec (.ldg h dst sx a) s = execLdg h dst sx a s := rfl
theorem exec_stg (h dst a) (s : State) : exec (.stg h dst a) s = execStg h dst a s := rfl
theorem exec_aadd (h o) (s : State) : exec (.aadd h o) s = execAadd h o s := rfl
theorem exec_aand (h o) (s : State) : exec (.aand h o) s = execAand h o s := rfl
theorem exec_aor (h o) (s : State) : exec (.aor h o) s = execAor h o s := rfl
theorem exec_axor (h o) (s : State) : exec (.axor h o) s = execAxor h o s := rfl
theorem exec_amin (h o) (s : State) : exec (.amin h o) s = execAmin h o s := rfl
theorem exec_amax (h o) (s : State) : exec (.amax h o) s = execAmax h o s := rfl
theorem exec_aminu (h o) (s : State) : exec (.aminu h o) s = execAminu h o s := rfl
theorem exec_amaxu (h o) (s : State) : exec (.amaxu h o) s = execAmaxu h o s := rfl
theorem exec_aexch (h o) (s : State) : exec (.aexch h o) s = execAexch h o s := rfl
theorem exec_acas (h o) (s : State) : exec (.acas h o) s = execAcas h o s := rfl
theorem exec_afadd (h o) (s : State) : exec (.afadd h o) s = execAfadd h o s := rfl
theorem exec_ainc (h o) (s : State) : exec (.ainc h o) s = execAinc h o s := rfl
theorem exec_fenceAcq (h scope) (s : State) : exec (.fenceAcq h scope) s = execFenceAcq h scope s := rfl
theorem exec_fenceRel (h scope) (s : State) : exec (.fenceRel h scope) s = execFenceRel h scope s := rfl
theorem exec_fenceAr (h scope) (s : State) : exec (.fenceAr h scope) s = execFenceAr h scope s := rfl
theorem exec_waitc (h o) (s : State) : exec (.waitc h o) s = execWaitc h o s := rfl
theorem exec_cntadd (h o) (s : State) : exec (.cntadd h o) s = execCntadd h o s := rfl
theorem exec_yield (h o) (s : State) : exec (.yield h o) s = execYield h o s := rfl
theorem exec_dld (h dst sa imm) (s : State) : exec (.dld h dst sa imm) s = execDld h dst sa imm s := rfl
theorem exec_drec (h o) (s : State) : exec (.drec h o) s = execDrec h o s := rfl
theorem exec_drecWait (h dst o) (s : State) : exec (.drecWait h dst o) s = execDrecWait h dst o s := rfl
theorem exec_dwait (h b) (s : State) : exec (.dwait h b) s = execDwait h b s := rfl
theorem exec_bra (h t) (s : State) : exec (.bra h t) s = execBra h t s := rfl
theorem exec_brc (h cn neg t) (s : State) : exec (.brc h cn neg t) s = execBrc h cn neg t s := rfl
theorem exec_brd (h m neg tgt rcv) (s : State) : exec (.brd h m neg tgt rcv) s = execBrd h m neg tgt rcv s := rfl
theorem exec_join (h) (s : State) : exec (.join h) s = execJoin h s := rfl
theorem exec_call (h dst t) (s : State) : exec (.call h dst t) s = execCall h dst t s := rfl
theorem exec_ret (h sa) (s : State) : exec (.ret h sa) s = execRet h sa s := rfl
theorem exec_loop (h dst t) (s : State) : exec (.loop h dst t) s = execLoop h dst t s := rfl
theorem exec_exit (h) (s : State) : exec (.exit h) s = execExit h s := rfl
theorem exec_nop (h len) (s : State) : exec (.nop h len) s = execNop h len s := rfl
theorem exec_bar (h n) (s : State) : exec (.bar h n) s = execBar h n s := rfl
theorem exec_trig (h) (s : State) : exec (.trig h) s = execTrig h s := rfl
theorem exec_setfmt (h fsel x) (s : State) : exec (.setfmt h fsel x) s = execSetfmt h fsel x s := rfl
theorem exec_setfmtStatus (h x) (s : State) : exec (.setfmtStatus h x) s = execSetfmtStatus h x s := rfl
theorem exec_getfmt (h dst) (s : State) : exec (.getfmt h dst) s = execGetfmt h dst s := rfl
theorem exec_tbase (h sa imm) (s : State) : exec (.tbase h sa imm) s = execTbase h sa imm s := rfl
theorem exec_twait (h o) (s : State) : exec (.twait h o) s = execTwait h o s := rfl
theorem exec_talign (h dst sa sb) (s : State) : exec (.talign h dst sa sb) s = execTalign h dst sa sb s := rfl
theorem exec_trap (h code) (s : State) : exec (.trap h code) s = execTrap h code s := rfl
theorem exec_brk (h code) (s : State) : exec (.brk h code) s = execBrk h code s := rfl
theorem exec_tvec (h x) (s : State) : exec (.tvec h x) s = execTvec h x s := rfl
theorem exec_mma (h o) (s : State) : exec (.mma h o) s = execMma h o s := rfl
theorem exec_mmas (h o) (s : State) : exec (.mmas h o) s = execMmas h o s := rfl
theorem exec_tclaim (h dst mask) (s : State) : exec (.tclaim h dst mask) s = execTclaim h dst mask s := rfl
theorem exec_trel (h mask) (s : State) : exec (.trel h mask) s = execTrel h mask s := rfl
theorem exec_tfill (h o) (s : State) : exec (.tfill h o) s = execTfill h o s := rfl
theorem exec_accz (h tile ofs) (s : State) : exec (.accz h tile ofs) s = execAccz h tile ofs s := rfl
theorem exec_accrd (h o) (s : State) : exec (.accrd h o) s = execAccrd h o s := rfl
theorem exec_accwr (h o) (s : State) : exec (.accwr h o) s = execAccwr h o s := rfl
theorem exec_cpy (h o) (s : State) : exec (.cpy h o) s = execCpy h o s := rfl
theorem exec_cpyr (h o) (s : State) : exec (.cpyr h o) s = execCpyr h o s := rfl
theorem exec_cpyk (h o) (s : State) : exec (.cpyk h o) s = execCpyk h o s := rfl
theorem exec_cbatch (h dst) (s : State) : exec (.cbatch h dst) s = execCbatch h dst s := rfl
theorem exec_cwait (h sa) (s : State) : exec (.cwait h sa) s = execCwait h sa s := rfl
theorem exec_esp (h o) (s : State) : exec (.esp h o) s = execEsp h o s := rfl
theorem exec_lsend (h o) (s : State) : exec (.lsend h o) s = execLsend h o s := rfl
theorem exec_lrecv (h spkg flow sa ofs) (s : State) : exec (.lrecv h spkg flow sa ofs) s = execLrecv h spkg flow sa ofs s := rfl
theorem exec_lput (h o) (s : State) : exec (.lput h o) s = execLput h o s := rfl
theorem exec_lputAtomic (h o) (s : State) : exec (.lputAtomic h o) s = execLputAtomic h o s := rfl
theorem exec_lget (h o) (s : State) : exec (.lget h o) s = execLget h o s := rfl
theorem exec_lred (h o) (s : State) : exec (.lred h o) s = execLred h o s := rfl
theorem exec_lmcast (h o) (s : State) : exec (.lmcast h o) s = execLmcast h o s := rfl
theorem exec_lap (h dst sa sb eng) (s : State) : exec (.lap h dst sa sb eng) s = execLap h dst sa sb eng s := rfl
theorem exec_lapRel (h dst sa) (s : State) : exec (.lapRel h dst sa) s = execLapRel h dst sa s := rfl
theorem exec_lapq (h dst sa) (s : State) : exec (.lapq h dst sa) s = execLapq h dst sa s := rfl
theorem exec_sysr (h dst srn) (s : State) : exec (.sysr h dst srn) s = execSysr h dst srn s := rfl
theorem exec_sysw (h sa srn) (s : State) : exec (.sysw h sa srn) s = execSysw h sa srn s := rfl
theorem exec_tret (h) (s : State) : exec (.tret h) s = execTret h s := rfl
theorem exec_trim (h x) (s : State) : exec (.trim h x) s = execTrim h x s := rfl
theorem exec_ctxsv (h force dst sa sb sc) (s : State) : exec (.ctxsv h force dst sa sb sc) s = execCtxsv h force dst sa sb sc s := rfl
theorem exec_ctxld (h dst sa sb) (s : State) : exec (.ctxld h dst sa sb) s = execCtxld h dst sa sb s := rfl
theorem exec_leaseGrant (h dst sa) (s : State) : exec (.leaseGrant h dst sa) s = execLeaseGrant h dst sa s := rfl
theorem exec_leaseRelease (h dst sa) (s : State) : exec (.leaseRelease h dst sa) s = execLeaseRelease h dst sa s := rfl
theorem exec_leaseRevoke (h dst sa) (s : State) : exec (.leaseRevoke h dst sa) s = execLeaseRevoke h dst sa s := rfl
theorem exec_pown (h dst sa sb) (s : State) : exec (.pown h dst sa sb) s = execPown h dst sa sb s := rfl
theorem exec_wdog (h sa sb) (s : State) : exec (.wdog h sa sb) s = execWdog h sa sb s := rfl
theorem exec_haltWait (h) (s : State) : exec (.haltWait h) s = execHaltWait h s := rfl
theorem exec_haltPkg (h) (s : State) : exec (.haltPkg h) s = execHaltPkg h s := rfl
theorem exec_lateEventClear (tr) (s : State) : exec (.lateEventClear tr) s = execLateEventClear tr s := rfl
theorem exec_registerLanding (tr) (s : State) : exec (.registerLanding tr) s = execRegisterLanding tr s := rfl
theorem exec_poolWriteLanding (tr) (s : State) : exec (.poolWriteLanding tr) s = execPoolWriteLanding tr s := rfl
theorem exec_sfuEntryStart (tr) (s : State) : exec (.sfuEntryStart tr) s = execSfuEntryStart tr s := rfl
theorem exec_columnEntryStart (tr) (s : State) : exec (.columnEntryStart tr) s = execColumnEntryStart tr s := rfl
theorem exec_matrixKstep (tr) (s : State) : exec (.matrixKstep tr) s = execMatrixKstep tr s := rfl
theorem exec_engineOutputLanding (tr) (s : State) : exec (.engineOutputLanding tr) s = execEngineOutputLanding tr s := rfl
theorem exec_lredReceive (tr) (s : State) : exec (.lredReceive tr) s = execLredReceive tr s := rfl
theorem exec_checkFaultTaken (slot) (s : State) : exec (.checkFaultTaken slot) s = execCheckFaultTaken slot s := rfl
theorem exec_alignmentRelease (tr) (s : State) : exec (.alignmentRelease tr) s = execAlignmentRelease tr s := rfl
theorem exec_quantumBoundary (tr) (s : State) : exec (.quantumBoundary tr) s = execQuantumBoundary tr s := rfl
theorem exec_errorConsumption (tr page) (s : State) : exec (.errorConsumption tr page) s = execErrorConsumption tr page s := rfl
theorem exec_pauseOverrun (tr) (s : State) : exec (.pauseOverrun tr) s = execPauseOverrun tr s := rfl
theorem exec_governorCheck (power draws) (s : State) : exec (.governorCheck power draws) s = execGovernorCheck power draws s := rfl
theorem exec_teamPlacement (tr) (s : State) : exec (.teamPlacement tr) s = execTeamPlacement tr s := rfl
theorem exec_yieldRestore (tr) (s : State) : exec (.yieldRestore tr) s = execYieldRestore tr s := rfl
theorem exec_teamEnd (tr team) (s : State) : exec (.teamEnd tr team) s = execTeamEnd tr team s := rfl
theorem exec_watchdogExpiry (tr team) (s : State) : exec (.watchdogExpiry tr team) s = execWatchdogExpiry tr team s := rfl
theorem exec_drainDeadline (req) (s : State) : exec (.drainDeadline req) s = execDrainDeadline req s := rfl
theorem exec_contextRestore (req) (s : State) : exec (.contextRestore req) s = execContextRestore req s := rfl
theorem exec_fansEnd (ix) (s : State) : exec (.fansEnd ix) s = execFansEnd ix s := rfl
theorem exec_fansResume (ix) (s : State) : exec (.fansResume ix) s = execFansResume ix s := rfl
theorem exec_loopTokenArrival (pos tokenBc malformed) (s : State) : exec (.loopTokenArrival pos tokenBc malformed) s = execLoopTokenArrival pos tokenBc malformed s := rfl
theorem exec_recordWrite (r crcOk) (s : State) : exec (.recordWrite r crcOk) s = execRecordWrite r crcOk s := rfl
theorem exec_recordAdd (r crcOk) (s : State) : exec (.recordAdd r crcOk) s = execRecordAdd r crcOk s := rfl
theorem exec_recordSetz (r crcOk) (s : State) : exec (.recordSetz r crcOk) s = execRecordSetz r crcOk s := rfl
theorem exec_recordCas (r crcOk) (s : State) : exec (.recordCas r crcOk) s = execRecordCas r crcOk s := rfl
theorem exec_recordLaunch (r crcOk) (s : State) : exec (.recordLaunch r crcOk) s = execRecordLaunch r crcOk s := rfl
theorem exec_recordTmap (r crcOk) (s : State) : exec (.recordTmap r crcOk) s = execRecordTmap r crcOk s := rfl
theorem exec_recordRecov (r crcOk) (s : State) : exec (.recordRecov r crcOk) s = execRecordRecov r crcOk s := rfl
theorem exec_recordNote (op r crcOk) (s : State) : exec (.recordNote op r crcOk) s = execRecordNote op r crcOk s := rfl
theorem exec_rejoinRequest (member) (s : State) : exec (.rejoinRequest member) s = execRejoinRequest member s := rfl
theorem exec_dialTransfer (m dial) (s : State) : exec (.dialTransfer m dial) s = execDialTransfer m dial s := rfl
theorem exec_cellSend (port) (s : State) : exec (.cellSend port) s = execCellSend port s := rfl
theorem exec_cellArrival (c crcOk) (s : State) : exec (.cellArrival c crcOk) s = execCellArrival c crcOk s := rfl
theorem exec_leafManagementWrite (v) (s : State) : exec (.leafManagementWrite v) s = execLeafManagementWrite v s := rfl
theorem exec_leafAckArrival (err) (s : State) : exec (.leafAckArrival err) s = execLeafAckArrival err s := rfl
theorem exec_hallFrameSend (plane) (s : State) : exec (.hallFrameSend plane) s = execHallFrameSend plane s := rfl
theorem exec_hallReplyArrival (f err) (s : State) : exec (.hallReplyArrival f err) s = execHallReplyArrival f err s := rfl
theorem exec_hallRequestArrival (f) (s : State) : exec (.hallRequestArrival f) s = execHallRequestArrival f s := rfl
theorem exec_hallRetryTimeout (plane tag) (s : State) : exec (.hallRetryTimeout plane tag) s = execHallRetryTimeout plane tag s := rfl
theorem exec_queueMap (slot qcb prio rclass owner) (s : State) : exec (.queueMap slot qcb prio rclass owner) s = execQueueMap slot qcb prio rclass owner s := rfl
theorem exec_queueRemap (slot) (s : State) : exec (.queueRemap slot) s = execQueueRemap slot s := rfl
theorem exec_queueLaunchEntry (slot) (s : State) : exec (.queueLaunchEntry slot) s = execQueueLaunchEntry slot s := rfl
theorem exec_queueWaitEntry (slot) (s : State) : exec (.queueWaitEntry slot) s = execQueueWaitEntry slot s := rfl
theorem exec_queueAddEntry (slot) (s : State) : exec (.queueAddEntry slot) s = execQueueAddEntry slot s := rfl
theorem exec_queueNopEntry (slot) (s : State) : exec (.queueNopEntry slot) s = execQueueNopEntry slot s := rfl
theorem exec_launchStart (launch) (s : State) : exec (.launchStart launch) s = execLaunchStart launch s := rfl
theorem exec_launchEnd (tr) (s : State) : exec (.launchEnd tr) s = execLaunchEnd tr s := rfl
theorem exec_leaseGrantComplete (desc) (s : State) : exec (.leaseGrantComplete desc) s = execLeaseGrantComplete desc s := rfl
theorem exec_revokeUnpin (desc) (s : State) : exec (.revokeUnpin desc) s = execRevokeUnpin desc s := rfl
theorem exec_hpolWrite (owner v) (s : State) : exec (.hpolWrite owner v) s = execHpolWrite owner v s := rfl
theorem exec_clusterRemovalComplete (owner) (s : State) : exec (.clusterRemovalComplete owner) s = execClusterRemovalComplete owner s := rfl
theorem exec_lapDrain (lap) (s : State) : exec (.lapDrain lap) s = execLapDrain lap s := rfl
theorem exec_scrubPass (corrected poisoned) (s : State) : exec (.scrubPass corrected poisoned) s = execScrubPass corrected poisoned s := rfl
theorem exec_companionRead (owner addr len) (s : State) : exec (.companionRead owner addr len) s = execCompanionRead owner addr len s := rfl
theorem exec_companionWrite (owner addr data) (s : State) : exec (.companionWrite owner addr data) s = execCompanionWrite owner addr data s := rfl
theorem exec_training (fail) (s : State) : exec (.training fail) s = execTraining fail s := rfl
theorem exec_sraddrRead (srn) (s : State) : exec (.sraddrRead srn) s = execSraddrRead srn s := rfl
theorem exec_sraddrWrite (srn) (s : State) : exec (.sraddrWrite srn) s = execSraddrWrite srn s := rfl
theorem exec_registerWrite (offset v) (s : State) : exec (.registerWrite offset v) s = execRegisterWrite offset v s := rfl
theorem exec_fuseProgramComplete (failed) (s : State) : exec (.fuseProgramComplete failed) s = execFuseProgramComplete failed s := rfl
theorem exec_remoteLeaseRequest (page count owner kind cls holder) (s : State) : exec (.remoteLeaseRequest page count owner kind cls holder) s = execRemoteLeaseRequest page count owner kind cls holder s := rfl
theorem exec_vcAdvance (s : State) : exec .vcAdvance s = execVcAdvance s := rfl
theorem exec_tokenLoss (s : State) : exec .tokenLoss s = execTokenLoss s := rfl
theorem exec_tokenRegenerate (s : State) : exec .tokenRegenerate s = execTokenRegenerate s := rfl
theorem exec_bucketRefill (s : State) : exec .bucketRefill s = execBucketRefill s := rfl
theorem exec_powerOn (s : State) : exec .powerOn s = execPowerOn s := rfl
theorem exec_powerRemove (s : State) : exec .powerRemove s = execPowerRemove s := rfl
theorem exec_bootctlGo (s : State) : exec .bootctlGo s = execBootctlGo s := rfl
theorem exec_bootctlNonce (s : State) : exec .bootctlNonce s = execBootctlNonce s := rfl
theorem exec_joinTokenTimeout (s : State) : exec .joinTokenTimeout s = execJoinTokenTimeout s := rfl
theorem exec_joinFailTimeout (s : State) : exec .joinFailTimeout s = execJoinFailTimeout s := rfl
theorem exec_fusecProgram (s : State) : exec .fusecProgram s = execFusecProgram s := rfl
theorem exec_thermalPause (s : State) : exec .thermalPause s = execThermalPause s := rfl
theorem exec_thermalResume (s : State) : exec .thermalResume s = execThermalResume s := rfl
theorem exec_thermalTrip (s : State) : exec .thermalTrip s = execThermalTrip s := rfl
theorem exec_powerTrip (s : State) : exec .powerTrip s = execPowerTrip s := rfl

end Sys2Proof.Machine
end

