-- ==== Sys2Proof/Laws/Elements.lean ====
section
/-!
SUPPORT. Lane by lane and element by element: the shared shapes of classes 0 and 1.
-/

namespace Sys2Proof.Machine

/-! ### Scalar shapes -/

theorem scalar2_ready (h : Head) (o : S2) (lat : Nat) (f : W64 → W64 → W64) (s : State) (r : s.ready [] [.scal o.dst]) :
    scalar2 h o lat f s = .next (s.scalarResult h lat o.dst (f (s.scalar o.sa) (o.b.val s))) := by
  rw [scalar2, attempt_ready s _ _ _ r, State.landScalar_result]

theorem scalar1_ready (h : Head) (o : S1) (f : W64 → W64) (s : State) (r : s.ready [] [.scal o.dst]) :
    scalar1 h o f s = .next (s.scalarResult h 2 o.dst (f (s.scalar o.sa))) := by
  rw [scalar1, attempt_ready s _ _ _ r, State.landScalar_result]; rfl

/-! ### Vector shapes -/

theorem lanes2_ready (h : Head) (o : V2) (lat : Nat) (f : W32 → W32 → W32) (s : State)
    (r : s.ready ([o.dst, o.sa] ++ o.b.vregs) [.vec o.dst]) :
    lanes2 h o lat f s = .next (s.result lat [.vec o.dst (s.perLane h fun l => f (s.v o.sa l) (o.b.lane s l))]) := by
  rw [lanes2, attempt_ready s _ _ _ r]
  simp only [Group.vec_eq, VSrc.vec_lanes, zipWith_lanes, State.landVec_lanes]
  rfl

theorem lanes1_ready (h : Head) (dst sa lat : Nat) (f : W32 → W32) (s : State) (r : s.ready [dst, sa] [.vec dst]) :
    lanes1 h dst sa lat f s = .next (s.result lat [.vec dst (s.perLane h fun l => f (s.v sa l))]) := by
  rw [lanes1, attempt_ready s _ _ _ r]
  simp only [Group.vec_eq, List.map_map, State.landVec_lanes]
  rfl

/-! ### Elements of a lane -/

theorem joined_lt (w : Nat) (xs : List Nat) : xs.foldr (fun x acc => x % 2 ^ w + 2 ^ w * acc) 0 < 2 ^ (w * xs.length) := by
  induction xs with
  | nil => simp
  | cons x xs ih =>
    have h := Nat.mod_lt x (Nat.two_pow_pos w)
    simp only [List.foldr_cons, List.length_cons, Nat.mul_add, Nat.mul_one, Nat.pow_add, Nat.mul_comm (2 ^ (w * xs.length))]
    calc x % 2 ^ w + 2 ^ w * xs.foldr (fun x acc => x % 2 ^ w + 2 ^ w * acc) 0
        < 2 ^ w + 2 ^ w * xs.foldr (fun x acc => x % 2 ^ w + 2 ^ w * acc) 0 := by omega
      _ = 2 ^ w * (xs.foldr (fun x acc => x % 2 ^ w + 2 ^ w * acc) 0 + 1) := by ring
      _ ≤ 2 ^ w * 2 ^ (w * xs.length) := Nat.mul_le_mul_left _ ih

theorem bitsOf_joined (w : Nat) (xs : List Nat) (j : Nat) (h : j < xs.length) :
    bitsOf (xs.foldr (fun x acc => x % 2 ^ w + 2 ^ w * acc) 0) (w * j) w = xs[j] % 2 ^ w := by
  induction xs generalizing j with
  | nil => simp at h
  | cons x xs ih =>
    cases j with
    | zero => simp [bitsOf]
    | succ j =>
      have k := ih j (by simpa using h)
      simp only [bitsOf, List.foldr_cons, List.getElem_cons_succ] at k ⊢
      rw [Nat.mul_add, Nat.mul_one, Nat.add_comm (w * j), Nat.pow_add, ← Nat.div_div_eq_div_mul, Nat.add_mul_div_left _ _ (Nat.two_pow_pos w),
        Nat.div_eq_of_lt (Nat.mod_lt _ (Nat.two_pow_pos w)), Nat.zero_add, k]

/-- Element `j` of joined elements that fill a lane. -/
theorem bitsOf_joinElems (w : Nat) (xs : List Nat) (j : Nat) (full : w * xs.length = 32) (h : j < xs.length) :
    bitsOf (joinElems w xs).toNat (w * j) w = xs[j] % 2 ^ w := by
  have lt := joined_lt w xs
  rw [full] at lt
  rw [joinElems, BitVec.toNat_ofNat, Nat.mod_eq_of_lt lt, bitsOf_joined w xs j h]

theorem elems_full (pk : Nat) (h : pk < 3) : elemWidth pk * elems pk = 32 := by
  match pk, h with
  | 0, _ => rfl
  | 1, _ => rfl
  | 2, _ => rfl

@[simp] theorem laneElems_length (pk : Nat) (x : W32) : (laneElems pk x).length = elems pk := by simp [laneElems]

theorem laneElems_get (pk : Nat) (x : W32) (j : Nat) (h : j < elems pk) :
    (laneElems pk x)[j]'(by simpa using h) = bitsOf x.toNat (elemWidth pk * j) (elemWidth pk) := by simp [laneElems]

theorem elem_lt (x lo w : Nat) : bitsOf x lo w < 2 ^ w := Nat.mod_lt _ (Nat.two_pow_pos w)

/-- A two-source element instruction, where its function is the given one on elements. -/
theorem elems2_ready (i : Instr) (h : Head) (o : V2) (lat : Nat) (f : Nat → Nat → Nat → Nat) (s : State) (g : Nat → Nat → Nat)
    (e : exec i s = elems2 h o lat f s) (pk : o.pk < 3) (r : s.ready ([o.dst, o.sa] ++ o.b.vregs) [.vec o.dst])
    (fit : ∀ x < 2 ^ elemWidth o.pk, ∀ y < 2 ^ elemWidth o.pk, f (elemWidth o.pk) x y % 2 ^ elemWidth o.pk = g x y) :
    Elementwise i s h lat o.pk o.dst fun l j =>
      g (s.elem (elemWidth o.pk) o.sa l j) (bitsOf (o.b.lane s l).toNat (elemWidth o.pk * j) (elemWidth o.pk)) := by
  refine ⟨_, e.trans (lanes2_ready h o lat _ s r), fun l _ j hj => ?_⟩
  rw [bitsOf_joinElems]
  · rw [List.getElem_zipWith, laneElems_get _ _ _ hj, laneElems_get _ _ _ hj]
    exact fit _ (elem_lt _ _ _) _ (elem_lt _ _ _)
  · simp [elems_full o.pk pk]
  · simpa using hj

/-- The same for one source. -/
theorem elems1_ready (i : Instr) (h : Head) (o : V1) (f : Nat → Nat → Nat) (s : State) (g : Nat → Nat)
    (e : exec i s = elems1 h o f s) (pk : o.pk < 3) (r : s.ready [o.dst, o.sa] [.vec o.dst])
    (fit : ∀ x < 2 ^ elemWidth o.pk, f (elemWidth o.pk) x % 2 ^ elemWidth o.pk = g x) :
    Elementwise i s h 4 o.pk o.dst fun l j => g (s.elem (elemWidth o.pk) o.sa l j) := by
  refine ⟨_, e.trans (lanes1_ready h o.dst o.sa latInt _ s r), fun l _ j hj => ?_⟩
  rw [bitsOf_joinElems]
  · rw [List.getElem_map, laneElems_get _ _ _ hj]
    exact fit _ (elem_lt _ _ _)
  · simp [elems_full o.pk pk]
  · simpa using hj

end Sys2Proof.Machine
end

