-- ==== Sys2Proof/Laws/Encode.lean ====
section
/-!
SUPPORT. The fields of an encoded word lie within their bits (R198, R199), shape by shape, and such fields read back.
-/

namespace Sys2Proof

/-- Every field lies within its bits (R198, R199). -/
structure Raw.Fits (r : Raw) : Prop where
  len : r.len < 3
  d : r.d < 16
  cls : r.cls < 8
  op : r.op < 256
  pred : r.pred < 8
  dst : r.dst < 256
  sa : r.sa < 256
  sb : r.sb < 256
  mod : r.mod < 2 ^ 18
  ext : r.ext < 2 ^ (8 * lenBytes r.len - 64)

/-- Fields within their bits are read back from the word. -/
theorem Raw.ofNat_toNat (r : Raw) (f : r.Fits) : Raw.ofNat r.toNat = r := by
  obtain ⟨len, e, d, cls, op, pred, pn, dst, sa, sb, mod, ext⟩ := r
  obtain ⟨h1, h2, h3, h4, h5, h6, h7, h8, h9, h10⟩ := f
  have he := e.toNat_le
  have hp := pn.toNat_le
  simp only at h1 h2 h3 h4 h5 h6 h7 h8 h9 h10
  have hlen : bitsOf (Raw.toNat ⟨len, e, d, cls, op, pred, pn, dst, sa, sb, mod, ext⟩) 0 2 = len := by
    simp only [bitsOf, Raw.toNat]; omega
  have hext : bitsOf (Raw.toNat ⟨len, e, d, cls, op, pred, pn, dst, sa, sb, mod, ext⟩) 64 (8 * lenBytes len - 64) = ext := by
    simp only [bitsOf, Raw.toNat]
    rw [show ∀ x, x / 2 ^ 64 = x / 18446744073709551616 from fun _ => rfl]
    rw [show (len + 2 ^ 2 * e.toNat + 2 ^ 3 * d + 2 ^ 7 * cls + 2 ^ 10 * op + 2 ^ 18 * pred + 2 ^ 21 * pn.toNat + 2 ^ 22 * dst + 2 ^ 30 * sa +
      2 ^ 38 * sb + 2 ^ 46 * mod + 2 ^ 64 * ext) / 18446744073709551616 = ext by omega]
    exact Nat.mod_eq_of_lt h10
  have hb : ∀ x : Nat, ∀ b : Bool, x = b.toNat → (x == 1) = b := by intro x b h; subst h; cases b <;> rfl
  simp only [Raw.ofNat, hlen, hext]
  refine congr (congr (congr (congr (congr (congr (congr (congr (congr (congr (congrArg (Raw.mk len) ?_) ?_) ?_) ?_) ?_) ?_) ?_) ?_) ?_) ?_) rfl
  all_goals (simp only [bitsOf, bitOf, Raw.toNat])
  all_goals first | omega | exact hb _ _ (by omega)

/-! ### Operands within their fields -/

theorem andP {a b : Bool} (h : (a && b) = true) : a = true ∧ b = true := by simpa using h

theorem scalarOk_lt {n : Nat} (h : scalarOk n = true) : n < 256 := by simp [scalarOk] at h; omega
theorem sdstOk_lt {n : Nat} (h : sdstOk n = true) : n < 256 := by simp [sdstOk] at h; omega
theorem vecOk_lt {n : Nat} (h : vecOk n = true) : n < 256 := by simpa [vecOk] using h
theorem pairOk_lt {n : Nat} (h : pairOk n = true) : n < 256 := by simp [pairOk] at h; omega
theorem maskOk_lt {n : Nat} (h : maskOk n = true) : n < 8 := by simpa [maskOk] using h
theorem mdstOk_lt {n : Nat} (h : mdstOk n = true) : n < 8 := by simp [mdstOk] at h; omega
theorem runOk_lt {k n : Nat} (h : runOk k n = true) : n < 129 := by simp [runOk] at h; omega
theorem ltP {a b : Nat} (h : decide (a < b) = true) : a < b := of_decide_eq_true h

/-- A word's length, second-source field and extension lie within their bits. -/
def ExtFits (len field ext : Nat) : Prop := len < 3 ∧ field < 256 ∧ ext < 2 ^ (8 * lenBytes len - 64)

theorem ExtFits.none {n : Nat} (h : n < 256) : ExtFits 0 n 0 := ⟨by decide, h, by decide⟩
theorem ExtFits.sc {n : Nat} (h : n < 256) : ExtFits 1 0 n := ⟨by decide, by decide, Nat.lt_trans h (by decide)⟩
theorem ExtFits.w32 (x : W32) : ExtFits 1 0 x.toNat := ⟨by decide, by decide, x.isLt⟩
theorem ExtFits.w64 (x : W64) : ExtFits 2 0 x.toNat := ⟨by decide, by decide, x.isLt⟩
theorem ExtFits.lt64 {n : Nat} (h : n < 2 ^ 64) : ExtFits 2 0 n := ⟨by decide, by decide, h⟩

theorem Src.fits {b : Src} (h : b.ok = true) : ExtFits b.len b.field b.ext := by
  cases b with
  | reg n => exact .none (scalarOk_lt h)
  | imm32 x => exact .w32 x
  | imm64 x => exact .w64 x

theorem VSrc.fits {b : VSrc} (h : ∀ n, b = .reg n → n < 256) : ExtFits b.len b.field b.ext := by
  cases b with
  | reg n => exact .none (h n rfl)
  | imm x => exact .w32 x

theorem VSrc.fits_ok {b : VSrc} (h : b.ok = true) : ExtFits b.len b.field b.ext :=
  VSrc.fits fun _ e => vecOk_lt (by rw [e] at h; exact h)

theorem VSrc.fits_pair {b : VSrc} (h : b.pairOk = true) : ExtFits b.len b.field b.ext := by
  cases b with
  | reg n => exact .none (pairOk_lt h)
  | imm x => exact nomatch h

/-- A lane or format source that is a scalar or an immediate. -/
theorem VSrc.fits_scalar {b : VSrc} (h : (match b with | .reg n => scalarOk n | .imm _ => true) = true) :
    ExtFits b.len b.field b.ext := by
  cases b with
  | reg n => exact .none (scalarOk_lt h)
  | imm x => exact .w32 x

theorem Target.fits {t : Target} (h : t.ok = true) : ExtFits t.len t.field t.ext := by
  cases t with
  | reg n => exact .none (scalarOk_lt h)
  | rel x => exact .w32 x
  | abs x => exact .lt64 (Nat.lt_trans x.isLt (by decide))

theorem Target.fits_long {t : Target} (h : t.longOk = true) : ExtFits t.len 0 t.ext := by
  cases t with
  | reg n => exact nomatch h
  | rel x => exact .w32 x
  | abs x => exact .lt64 (Nat.lt_trans x.isLt (by decide))

theorem MovImm.fits (x : MovImm) : ExtFits x.len 0 x.ext ∧ x.mod < 2 ^ 18 := by
  cases x with
  | imm16 x => exact ⟨.none (by decide), Nat.lt_trans x.isLt (by decide)⟩
  | imm32 x => exact ⟨.w32 x, Nat.two_pow_pos _⟩
  | imm64 x => exact ⟨.w64 x, Nat.two_pow_pos _⟩

theorem optFits (x : Option W32) : ExtFits (optLen x) 0 (optExt x) := by
  cases x with
  | none => exact .none (by decide)
  | some x => exact .w32 x

/-! ### MOD within its 18 bits -/

theorem modField_lt {p w : Nat} (h : fieldOk 64 p w = true) : modField p w < 2 ^ 18 := by
  simp [fieldOk] at h; simp only [modField]; omega
theorem modField32_lt {u : Bool} {p w : Nat} (h : fieldOk 32 p w = true) : modField32 u p w < 2 ^ 18 := by
  have := u.toNat_le; simp [fieldOk] at h; simp only [modField32]; omega
theorem modPKU_lt {pk : Nat} (u : Bool) (h : pkOk pk = true) : modPKU pk u < 8 := by
  have := u.toNat_le; simp [pkOk] at h; simp only [modPKU]; omega
theorem modRS_lt {rm : Nat} (sat : Bool) (h : rmOk rm = true) : modRS rm sat < 16 := by
  have := sat.toNat_le; simp [rmOk] at h; simp only [modRS]; omega
theorem elems_le {pk : Nat} (h : pkOk pk = true) : elems pk ≤ 4 := by
  simp [pkOk] at h; exact Nat.pow_le_pow_right (n := 2) (by decide) (show pk ≤ 2 by omega)
theorem modDec_lt {pk : Nat} {u : Bool} {d : Decision} (hp : pkOk pk = true) (h : d.ok pk = true) : modDec pk u d < 2 ^ 18 := by
  have a := modPKU_lt u hp
  have b := elems_le hp
  cases d <;> simp [Decision.ok, mdstOk, sdstOk] at h <;> simp only [modDec] <;> omega
theorem modCvt_lt {o : Cvt} {d : Bool} (h : rmOk o.rm = true) (hf : o.f < 8) (hj : o.j < 8) : modCvt o d < 2 ^ 18 := by
  have := modRS_lt o.sat h; have := d.toNat_le; simp only [modCvt]; omega
theorem modPack_lt {o : F2} {f part : Nat} {eot : Bool} (h : rmOk o.rm = true) (hf : f < 32) (hp : part < 16) :
    modPack o f part eot < 2 ^ 18 := by
  have := modRS_lt o.sat h; have := eot.toNat_le; simp only [modPack]; omega
theorem modRed_lt {opk rm : Nat} {exc : Bool} (h : redOk opk rm = true) : modRed opk rm exc < 2 ^ 18 := by
  have := exc.toNat_le; simp [redOk, rmOk] at h; simp only [modRed]; omega
theorem modMem_lt {a : MAddr} {sx : Bool} (h : a.ok = true) : modMem a sx < 128 := by
  have := sx.toNat_le; have := a.vs.toNat_le; have := a.nov.toNat_le
  simp only [MAddr.ok, Bool.and_eq_true, decide_eq_true_eq] at h; simp only [modMem]; omega
theorem modAtom_lt {o : Atom} (ha : o.a.ok = true) (hs : o.scope < 8) : modAtom o < 2 ^ 18 := by
  have := modMem_lt (sx := false) ha; have := o.nr.toNat_le; simp only [modAtom]; omega
theorem modFence_lt {scope fk : Nat} (h : scope < 8) (hf : fk < 4) : modFence scope fk < 2 ^ 18 := by simp only [modFence]; omega

/-! ### Shapes of words -/

theorem mk_fits {cls op len dst sa sb mod ext : Nat} {h : Head} (hh : headOk h = true) (hc : cls < 8) (ho : op < 256)
    (hd : dst < 256) (ha : sa < 256) (hm : mod < 2 ^ 18) (he : ExtFits len sb ext) : (mk cls op len h dst sa sb mod ext).Fits := by
  simp only [headOk, Bool.and_eq_true, decide_eq_true_eq] at hh
  exact ⟨he.1, hh.1, hc, ho, hh.2, hd, ha, he.2.1, hm, he.2.2⟩

/-- A word whose extension is not a second source. -/
theorem mk_fits_sb {cls op len dst sa sb mod ext : Nat} {h : Head} (hh : headOk h = true) (hc : cls < 8) (ho : op < 256)
    (hd : dst < 256) (ha : sa < 256) (hb : sb < 256) (hm : mod < 2 ^ 18) (he : ExtFits len 0 ext) :
    (mk cls op len h dst sa sb mod ext).Fits := mk_fits hh hc ho hd ha hm ⟨he.1, hb, he.2.2⟩

theorem eS2_fits {op mod : Nat} {h : Head} {o : S2} (hh : headOk h = true) (ok : o.ok = true) (ho : op < 256) (hm : mod < 2 ^ 18) :
    (eS2 op mod h o).Fits :=
  have ⟨c, b⟩ := andP ok
  mk_fits hh (by decide) ho (sdstOk_lt (andP c).1) (scalarOk_lt (andP c).2) hm (Src.fits b)

theorem eS1_fits {op mod : Nat} {h : Head} {o : S1} (hh : headOk h = true) (ok : o.ok = true) (ho : op < 256) (hm : mod < 2 ^ 18) :
    (eS1 op mod h o).Fits :=
  mk_fits hh (by decide) ho (sdstOk_lt (andP ok).1) (scalarOk_lt (andP ok).2) hm (.none (by decide))

theorem eV2_fits {op mod : Nat} {h : Head} {o : V2} (hh : headOk h = true) (ok : o.core = true) (ho : op < 256) (hm : mod < 2 ^ 18) :
    (eV2 op mod h o).Fits :=
  have ⟨c, b⟩ := andP ok
  have ⟨c, a⟩ := andP c
  mk_fits hh (by decide) ho (vecOk_lt (andP c).2) (vecOk_lt a) hm (VSrc.fits_ok b)

theorem V2.core_of {o : V2} (h : o.ok = true) : o.core = true := (andP h).1
theorem V2.core_of32 {o : V2} (h : o.ok32 = true) : o.core = true := (andP (andP h).1).1
theorem V2.pk_of {o : V2} (h : o.core = true) : pkOk o.pk = true := (andP (andP (andP h).1).1).1
theorem pk_lt {pk : Nat} (h : pkOk pk = true) : pk < 2 ^ 18 := by simp [pkOk] at h; omega

theorem eV1_fits {op mod : Nat} {h : Head} {o : V1} (hh : headOk h = true) (ok : o.ok = true) (ho : op < 256) (hm : mod < 2 ^ 18) :
    (eV1 op mod h o).Fits :=
  have ⟨c, a⟩ := andP ok
  mk_fits hh (by decide) ho (vecOk_lt (andP c).2) (vecOk_lt a) hm (.none (by decide))

theorem V1.pk_of {o : V1} (h : o.ok = true) : pkOk o.pk = true := (andP (andP h).1).1

theorem eM2_fits {op : Nat} {h : Head} {o : M2} (hh : headOk h = true) (ok : o.ok = true) (ho : op < 256) : (eM2 op h o).Fits :=
  have ⟨c, b⟩ := andP ok
  mk_fits hh (by decide) ho (Nat.lt_trans (mdstOk_lt (andP c).1) (by decide)) (Nat.lt_trans (maskOk_lt (andP c).2) (by decide))
    (Nat.lt_of_le_of_lt o.nb.toNat_le (by decide)) (.none (Nat.lt_trans (maskOk_lt b) (by decide)))

theorem eF2_fits {op mod : Nat} {h : Head} {o : F2} (hh : headOk h = true) (ok : o.ok = true) (ho : op < 256) (hm : mod < 2 ^ 18) :
    (eF2 op mod h o).Fits :=
  have ⟨c, b⟩ := andP ok
  have ⟨c, a⟩ := andP c
  mk_fits hh (by decide) ho (vecOk_lt (andP c).2) (vecOk_lt a) hm (VSrc.fits_ok b)

theorem F2.rm_of {o : F2} (h : o.ok = true) : rmOk o.rm = true := (andP (andP (andP h).1).1).1

theorem eF2_fits_pair {op : Nat} {h : Head} {o : F2} (hh : headOk h = true) (ok : o.pairOk = true) (ho : op < 256) :
    (eF2 op (modRS o.rm o.sat) h o).Fits :=
  have ⟨c, b⟩ := andP ok
  have ⟨c, a⟩ := andP c
  mk_fits hh (by decide) ho (pairOk_lt (andP c).2) (pairOk_lt a) (Nat.lt_trans (modRS_lt _ (andP c).1) (by decide)) (VSrc.fits_pair b)

theorem eF3_fits {op mod : Nat} {h : Head} {o : F3} (hh : headOk h = true) (ok : o.ok = true) (ho : op < 256) (hm : mod < 2 ^ 18) :
    (eF3 op mod h o).Fits :=
  have ⟨c, d⟩ := andP ok
  have ⟨c, b⟩ := andP c
  have ⟨c, a⟩ := andP c
  mk_fits_sb hh (by decide) ho (vecOk_lt (andP c).2) (vecOk_lt a) (vecOk_lt b) hm (.sc (vecOk_lt d))

theorem F3.rm_of {o : F3} (h : o.ok = true) : rmOk o.rm = true := (andP (andP (andP (andP h).1).1).1).1

theorem eF3_fits_pair {op : Nat} {h : Head} {o : F3} (hh : headOk h = true) (ok : o.pairOk = true) (ho : op < 256) :
    (eF3 op (modRS o.rm o.sat) h o).Fits :=
  have ⟨c, d⟩ := andP ok
  have ⟨c, b⟩ := andP c
  have ⟨c, a⟩ := andP c
  mk_fits_sb hh (by decide) ho (pairOk_lt (andP c).2) (pairOk_lt a) (pairOk_lt b) (Nat.lt_trans (modRS_lt _ (andP c).1) (by decide))
    (.sc (pairOk_lt d))

/-- A conversion, or an instruction with one float source. -/
theorem one_fits {cls op dst sa mod : Nat} {h : Head} (hh : headOk h = true) (hc : cls < 8) (ho : op < 256) (hd : vecOk dst = true)
    (ha : vecOk sa = true) (hm : mod < 2 ^ 18) : (mk cls op 0 h dst sa 0 mod 0).Fits :=
  mk_fits hh hc ho (vecOk_lt hd) (vecOk_lt ha) hm (.none (by decide))

theorem cvt_fits {op : Nat} {h : Head} {o : Cvt} {d : Bool} (hh : headOk h = true) (ho : op < 256) (ok : o.core = true) (hf : o.f < 8)
    (hj : o.j < 8) : (mk 2 op 0 h o.dst o.sa 0 (modCvt o d) 0).Fits :=
  have ⟨c, a⟩ := andP ok
  one_fits hh (by decide) ho (andP c).2 a (modCvt_lt (andP c).1 hf hj)

theorem Cvt.fmt_of {o : Cvt} (h : o.fmtOk = true) : o.core = true ∧ o.f < 8 ∧ o.j < 8 := by
  have ⟨c, j⟩ := andP h
  have ⟨c, f⟩ := andP c
  have f := ltP f
  have j := ltP j
  refine ⟨c, by omega, ?_⟩
  simp only [fmtPositions] at j
  split at j
  · omega
  · split at j <;> omega

theorem Cvt.int_of {o : Cvt} (h : o.intOk = true) : o.core = true ∧ o.f < 8 ∧ o.j < 8 := by
  have ⟨c, j⟩ := andP h
  have ⟨c, f⟩ := andP c
  have f := ltP f
  have j := ltP j
  have := Nat.pow_le_pow_right (n := 2) (by decide) (show o.f / 2 ≤ 3 by omega)
  simp only [intPositions] at j
  exact ⟨(andP c).1, f, by omega⟩

theorem eSfu_fits {op : Nat} {h : Head} {o : F1} (hh : headOk h = true) (ok : o.ok = true) (ho : op < 256) : (eSfu op h o).Fits :=
  have ⟨c, a⟩ := andP ok
  one_fits hh (by decide) ho (andP c).2 a (Nat.lt_trans (modRS_lt _ (andP c).1) (by decide))

theorem dataOk_lt {sz r : Nat} (h : dataOk sz r = true) : r < 256 := by
  simp only [dataOk] at h
  split at h
  · exact pairOk_lt h
  · exact vecOk_lt h

theorem MAddr.lts {a : MAddr} (h : a.ok = true) : a.sa < 256 ∧ a.sb < 256 := by
  simp only [MAddr.ok, Bool.and_eq_true] at h
  refine ⟨scalarOk_lt h.1.2, ?_⟩
  have := h.2
  split at this
  · simp at this; omega
  · exact vecOk_lt this

theorem eMem_fits {op dst : Nat} {h : Head} {sx : Bool} {a : MAddr} (hh : headOk h = true) (ha : a.ok = true) (hd : dataOk a.sz dst = true)
    (ho : op < 256) : (eMem op h dst sx a).Fits :=
  mk_fits_sb hh (by decide) ho (dataOk_lt hd) (MAddr.lts ha).1 (MAddr.lts ha).2 (Nat.lt_trans (modMem_lt ha) (by decide)) (optFits a.imm)

theorem Atom.core_lts {o : Atom} (h : o.core = true) : o.a.ok = true ∧ o.dst < 256 ∧ modAtom o < 2 ^ 18 := by
  simp only [Atom.core, Bool.and_eq_true, decide_eq_true_eq] at h
  refine ⟨h.1.1.1.1, ?_, modAtom_lt h.1.1.1.1 h.1.2⟩
  have := h.2
  split at this
  · simp at this; omega
  · exact dataOk_lt this

theorem eAtom_fits {op : Nat} {h : Head} {o : Atom} (hh : headOk h = true) (ok : o.core = true) (hc : o.sc < 256) (ho : op < 256) :
    (eAtom op h o).Fits :=
  have ⟨a, d, m⟩ := Atom.core_lts ok
  mk_fits_sb hh (by decide) ho d (MAddr.lts a).1 (MAddr.lts a).2 m (.sc hc)

theorem eCnt_fits {op : Nat} {h : Head} {o : Cnt} (hh : headOk h = true) (ok : o.ok = true) (ho : op < 256) : (eCnt op h o).Fits := by
  simp only [Cnt.ok, Bool.and_eq_true, decide_eq_true_eq] at ok
  exact mk_fits hh (by decide) ho (by decide) (scalarOk_lt ok.1.2) (by omega) (Src.fits ok.2)

theorem drec_fits {dst : Nat} {h : Head} {o : Drec} {w : Bool} (hh : headOk h = true) (hd : dst < 256) (ok : o.ok = true) :
    (mk 4 0x15 0 h dst o.sa o.sb (modDrec o w) 0).Fits := by
  have := w.toNat_le
  simp only [Drec.ok, Bool.and_eq_true, decide_eq_true_eq] at ok
  exact mk_fits hh (by decide) (by decide) hd (scalarOk_lt ok.1.1.2) (by simp only [modDrec]; omega) (.none (by omega))

theorem eBare_fits {cls op mod : Nat} {h : Head} (hh : headOk h = true) (hc : cls < 8) (ho : op < 256) (hm : mod < 2 ^ 18) :
    (eBare cls op mod h).Fits := mk_fits hh hc ho (by decide) (by decide) hm (.none (by decide))

/-! ### Engine words -/

theorem eEng_fits {op dst sa sb mod ops : Nat} {h : Head} {g : Eng} (hh : headOk h = true) (ho : op < 256) (hd : dst < 256) (ha : sa < 256)
    (hb : sb < 256) (hm : mod < 2 ^ 18) (hops : ops < 2 ^ 29) (hc : g.cnt < 128) (hs : g.csel < 8) (hof : g.ofs < 2 ^ 24) :
    (eEng op h dst sa sb mod ops g).Fits :=
  mk_fits_sb hh (by decide) ho hd ha hb hm (.lt64 (by simp only [extEng]; omega))

/-- A command without a counter. -/
theorem plain_fits {op dst sa sb mod ops ofs : Nat} {h : Head} (hh : headOk h = true) (ho : op < 256) (hd : dst < 256) (ha : sa < 256)
    (hb : sb < 256) (hm : mod < 2 ^ 18) (hops : ops < 2 ^ 29) (hof : ofs < 2 ^ 24) : (eEng op h dst sa sb mod ops (plainEng ofs)).Fits :=
  eEng_fits hh ho hd ha hb hm hops (by simp [plainEng]) (by simp [plainEng]) hof

theorem untimed_lt : untimed < 2 ^ 24 := by decide

theorem mma_fits {op : Nat} {h : Head} {o : Mma} (hh : headOk h = true) (ho : op < 256) (ok : o.ok = true) :
    (eEng op h o.tile o.sa o.sb (modMma o) 0 (plainEng o.ofs)).Fits := by
  have := o.z.toNat_le
  simp only [Mma.ok, ofsOk, Bool.and_eq_true, decide_eq_true_eq] at ok
  exact plain_fits hh ho (by omega) (by omega) (by omega) (by simp only [modMma]; omega) (by decide) ok.2

theorem acc_fits {op dst sa ops : Nat} {h : Head} {o : Acc} (hh : headOk h = true) (ho : op < 256) (hd : dst < 256) (ha : sa < 256)
    (ok : o.core = true) (hr : rmOk o.rm = true) (hops : ops < 2 ^ 29) : (eEng op h dst sa o.tile (modAcc o) ops (plainEng o.ofs)).Fits := by
  have := o.sat.toNat_le
  simp only [Acc.core, ofsOk, rmOk, Bool.and_eq_true, decide_eq_true_eq] at ok hr
  exact plain_fits hh ho hd ha (by omega) (by simp only [modAcc]; omega) hops ok.2

theorem accrd_fits {h : Head} {o : Acc} (hh : headOk h = true) (ok : o.rdOk = true) : (eEng 0x06 h (if o.dk then o.reg else 0)
    (if o.dk then 0 else o.reg) o.tile (modAcc o) (o.fmt + 32 * o.dk.toNat) (plainEng o.ofs)).Fits := by
  have := o.dk.toNat_le
  have ⟨c, r⟩ := andP ok
  have ⟨c, _⟩ := andP c
  have ⟨c, f⟩ := andP c
  have hf : o.fmt < 32 := by
    simp only [List.contains_cons, List.contains_nil, Bool.or_false, Bool.or_eq_true, beq_iff_eq] at f
    omega
  have hr : o.reg < 256 := by
    split at r
    · exact vecOk_lt r
    · exact scalarOk_lt r
  exact acc_fits hh (by decide) (by split <;> omega) (by split <;> omega) (andP c).1 (andP c).2 (by omega)

theorem accwr_fits {h : Head} {o : Acc} (hh : headOk h = true) (ok : o.wrOk = true) :
    (eEng 0x07 h 0 o.reg o.tile (modAcc o) o.fmt (plainEng o.ofs)).Fits := by
  have ⟨c, r⟩ := andP ok
  have ⟨c, f⟩ := andP c
  have ⟨c, _⟩ := andP c
  have ⟨c, _⟩ := andP c
  have ⟨c, m⟩ := andP c
  have hm : rmOk o.rm = true := by simp only [beq_iff_eq] at m; rw [m]; rfl
  have hf : o.fmt < 32 := by
    simp only [List.contains_cons, List.contains_nil, Bool.or_false, Bool.or_eq_true, beq_iff_eq] at f
    omega
  exact acc_fits hh (by decide) (by decide) (scalarOk_lt r) c hm (by omega)

theorem tfill_fits {h : Head} {o : Tfill} (hh : headOk h = true) (ok : o.ok = true) :
    (eEng 0x04 h o.slot o.sa 0 (modTfill o) o.row0 (plainEng o.ofs)).Fits := by
  simp only [Tfill.ok, ofsOk, runOk, Bool.and_eq_true, decide_eq_true_eq] at ok
  exact plain_fits hh (by decide) (by omega) (by omega) (by decide) (by simp only [modTfill]; omega) (by omega) ok.2

theorem eCopy_fits {op : Nat} {h : Head} {o : Copy} (hh : headOk h = true) (ho : op < 256) (ok : o.core = true) (hy : o.y < 128)
    (hz : o.esz < 4) : (eCopy op h o).Fits := by
  have := o.cmp.toNat_le
  simp only [Copy.core, Eng.ok, ofsOk, runOk, Bool.and_eq_true, decide_eq_true_eq] at ok
  obtain ⟨⟨⟨⟨⟨⟨⟨⟨⟨⟨⟨hd, ha⟩, hb⟩, hk⟩, hl⟩, hx⟩, hg⟩, he⟩, hs⟩, hf⟩, hr⟩, _⟩ := ok
  refine eEng_fits hh ho (sdstOk_lt hd) (by omega) (scalarOk_lt hb) (by simp only [modCopy]; omega) (by simp only [Copy.ops]; omega) ?_ ?_ ?_
  · exact he.1.1.1
  · exact he.1.1.2
  · exact he.1.2

theorem cpyk_y {o : Copy} (h : (if o.cmp then runOk 2 o.y else decide (o.y < 128)) = true) : o.y < 128 := by
  split at h
  · simp only [runOk, decide_eq_true_eq] at h; omega
  · exact ltP h

theorem esp_fits {h : Head} {o : Esp} (hh : headOk h = true) (ok : o.ok = true) :
    (eEng 0x0D h o.dst o.sa o.sb (modEsp o) (o.spl + 2 ^ 7 * o.lw + 2 ^ 14 * o.g) o.eng).Fits := by
  have ⟨c, _⟩ := andP ok
  have ⟨c, k⟩ := andP c
  have hk : o.sk < 3 ∧ o.dk < 3 := by
    simp only [List.contains_cons, List.contains_nil, Bool.or_false, Bool.or_eq_true, beq_iff_eq, Prod.mk.injEq] at k
    omega
  simp only [Eng.ok, ofsOk, runOk, Bool.and_eq_true, decide_eq_true_eq] at c
  obtain ⟨⟨⟨⟨⟨⟨⟨⟨hd, ha⟩, hb⟩, hz⟩, hs⟩, hp⟩, hl⟩, hg⟩, he⟩ := c
  refine eEng_fits hh (by decide) (sdstOk_lt hd) (scalarOk_lt ha) (by omega) (by simp only [modEsp]; omega) (by omega) ?_ ?_ ?_
  · exact he.1.1.1
  · exact he.1.1.2
  · exact he.1.2

theorem timedOk_lt {n : Nat} (h : timedOk n = true) : n < 2 ^ 24 := Nat.lt_trans (ltP h) untimed_lt

theorem eSend_fits {op : Nat} {h : Head} {o : Send} (hh : headOk h = true) (ho : op < 256) (ok : o.core = true) (hb : o.sb < 256)
    (hr : o.rop < 16) : (eSend op h o).Fits := by
  simp only [Send.core, Bool.and_eq_true, decide_eq_true_eq] at ok
  exact plain_fits hh ho (by decide) (scalarOk_lt ok.1.2) hb (by simp only [modSend]; omega) (by omega) (timedOk_lt ok.2)

theorem send_fits {op : Nat} {h : Head} {o : Send} (hh : headOk h = true) (ho : op < 256) (ok : o.ok = true) : (eSend op h o).Fits := by
  simp only [Send.ok, Bool.and_eq_true, beq_iff_eq] at ok
  exact eSend_fits hh ho ok.1.1 (by omega) (by omega)

theorem eHall_fits {op : Nat} {h : Head} {o : Hall} (hh : headOk h = true) (ho : op < 256) (ok : o.core = true) (ha : o.ac < 13) :
    (eHall op h o).Fits := by
  have := o.lk.toNat_le
  have := o.aq.toNat_le
  simp only [Hall.core, runOk, Bool.and_eq_true, decide_eq_true_eq] at ok
  exact eEng_fits hh ho (by decide) (scalarOk_lt ok.1.1.1.1.1) (by omega) (by simp only [modHall]; omega) (by omega) ok.1.1.2 ok.2 untimed_lt

theorem Hall.plain_of {o : Hall} (h : o.plainOk = true) : o.core = true ∧ o.ac < 13 := by
  simp only [Hall.plainOk, Bool.and_eq_true, beq_iff_eq] at h
  exact ⟨h.1.1, by omega⟩

theorem Hall.atomic_of {o : Hall} (h : o.atomicOk = true) : o.core = true ∧ o.ac < 13 := by
  simp only [Hall.atomicOk, Bool.and_eq_true, decide_eq_true_eq] at h
  exact ⟨h.1.1.1, h.1.2⟩

theorem srnOk_lt {n : Nat} (h : srnOk n = true) : n < 2 ^ 18 := by
  simp only [srnOk, Bool.or_eq_true, Bool.and_eq_true, decide_eq_true_eq, beq_iff_eq] at h
  omega

theorem imov_fits {h : Head} {dst : Nat} {x : MixSrc} (w : (Instr.imov h dst x).wf = true) :
    (match x with | .vec n => mk 1 0x17 0 h dst n 0 0 0 | .other n => mk 1 0x17 0 h dst n 0 4 0).Fits := by
  have ⟨c, b⟩ := andP w
  cases x with
  | vec n => exact mk_fits (andP c).1 (by decide) (by decide) (vecOk_lt (andP c).2) (vecOk_lt b) (by decide) (.none (by decide))
  | other n =>
    refine mk_fits (andP c).1 (by decide) (by decide) (vecOk_lt (andP c).2) ?_ (by decide) (.none (by decide))
    simp only [Bool.or_eq_true, beq_iff_eq] at b
    rcases b with b | b
    · omega
    · exact scalarOk_lt b

theorem vote_fits {h : Head} {pk seg dst : Nat} {x : MixSrc} (w : (Instr.vote h pk seg dst x).wf = true) :
    (match x with | .vec n => mk 3 0x08 0 h dst n 0 (pk + 4 * seg) 0 | .other m => mk 3 0x08 0 h dst m 0 16 0).Fits := by
  have ⟨c, b⟩ := andP w
  cases x with
  | vec n =>
    have ⟨k, v⟩ := andP b
    have := ltP (andP k).1
    have := ltP (andP k).2
    exact mk_fits (andP c).1 (by decide) (by decide) (sdstOk_lt (andP c).2) (vecOk_lt v) (by omega) (.none (by decide))
  | other n =>
    exact mk_fits (andP c).1 (by decide) (by decide) (sdstOk_lt (andP c).2) (Nat.lt_trans (maskOk_lt (andP b).2) (by decide)) (by decide)
      (.none (by decide))

end Sys2Proof
end

