-- ==== Sys2Proof/Laws/PerInstr.lean ====
section
/-!
SUPPORT. Per instruction: the word of a well-formed instruction has every field within its bits (R198, R199); an event has none.
-/

namespace Sys2Proof

/-- An event has no word; a well-formed instruction has one, whose fields lie within their bits. -/
def Laws.WordFields.Statement (i : Instr) : Prop := encodeRaw i = none ∨ (i.wf = true → ∃ r, encodeRaw i = some r ∧ r.Fits)

theorem Laws.WordFields.add (h : Head) (o : S2) : Laws.WordFields.Statement (.add h o) := .inr fun w =>
  have ⟨w, a1⟩ := andP w
  ⟨_, rfl, eS2_fits w a1 (by decide) (by decide)⟩
theorem Laws.WordFields.sub (h : Head) (o : S2) : Laws.WordFields.Statement (.sub h o) := .inr fun w =>
  have ⟨w, a1⟩ := andP w
  ⟨_, rfl, eS2_fits w a1 (by decide) (by decide)⟩
theorem Laws.WordFields.mul (h : Head) (o : S2) : Laws.WordFields.Statement (.mul h o) := .inr fun w =>
  have ⟨w, a1⟩ := andP w
  ⟨_, rfl, eS2_fits w a1 (by decide) (by decide)⟩
theorem Laws.WordFields.mulh (h : Head) (o : S2) : Laws.WordFields.Statement (.mulh h o) := .inr fun w =>
  have ⟨w, a1⟩ := andP w
  ⟨_, rfl, eS2_fits w a1 (by decide) (by decide)⟩
theorem Laws.WordFields.mulhu (h : Head) (o : S2) : Laws.WordFields.Statement (.mulhu h o) := .inr fun w =>
  have ⟨w, a1⟩ := andP w
  ⟨_, rfl, eS2_fits w a1 (by decide) (by decide)⟩
theorem Laws.WordFields.mad (h : Head) (o : S3) : Laws.WordFields.Statement (.mad h o) := .inr fun w =>
  have ⟨w, a1⟩ := andP w
  have ⟨c, z⟩ := andP a1
  have ⟨c, b⟩ := andP c
  have ⟨d, a⟩ := andP c
  ⟨_, rfl, mk_fits_sb w (by decide) (by decide) (sdstOk_lt d) (scalarOk_lt a) (scalarOk_lt b) (by decide) (.sc (scalarOk_lt z))⟩
theorem Laws.WordFields.and (h : Head) (o : S2) : Laws.WordFields.Statement (.and h o) := .inr fun w =>
  have ⟨w, a1⟩ := andP w
  ⟨_, rfl, eS2_fits w a1 (by decide) (by decide)⟩
theorem Laws.WordFields.or (h : Head) (o : S2) : Laws.WordFields.Statement (.or h o) := .inr fun w =>
  have ⟨w, a1⟩ := andP w
  ⟨_, rfl, eS2_fits w a1 (by decide) (by decide)⟩
theorem Laws.WordFields.xor (h : Head) (o : S2) : Laws.WordFields.Statement (.xor h o) := .inr fun w =>
  have ⟨w, a1⟩ := andP w
  ⟨_, rfl, eS2_fits w a1 (by decide) (by decide)⟩
theorem Laws.WordFields.andn (h : Head) (o : S2) : Laws.WordFields.Statement (.andn h o) := .inr fun w =>
  have ⟨w, a1⟩ := andP w
  ⟨_, rfl, eS2_fits w a1 (by decide) (by decide)⟩
theorem Laws.WordFields.shl (h : Head) (o : S2) : Laws.WordFields.Statement (.shl h o) := .inr fun w =>
  have ⟨w, a1⟩ := andP w
  ⟨_, rfl, eS2_fits w a1 (by decide) (by decide)⟩
theorem Laws.WordFields.shr (h : Head) (o : S2) : Laws.WordFields.Statement (.shr h o) := .inr fun w =>
  have ⟨w, a1⟩ := andP w
  ⟨_, rfl, eS2_fits w a1 (by decide) (by decide)⟩
theorem Laws.WordFields.sra (h : Head) (o : S2) : Laws.WordFields.Statement (.sra h o) := .inr fun w =>
  have ⟨w, a1⟩ := andP w
  ⟨_, rfl, eS2_fits w a1 (by decide) (by decide)⟩
theorem Laws.WordFields.rol (h : Head) (o : S2) : Laws.WordFields.Statement (.rol h o) := .inr fun w =>
  have ⟨w, a1⟩ := andP w
  ⟨_, rfl, eS2_fits w a1 (by decide) (by decide)⟩
theorem Laws.WordFields.min (h : Head) (o : S2) : Laws.WordFields.Statement (.min h o) := .inr fun w =>
  have ⟨w, a1⟩ := andP w
  ⟨_, rfl, eS2_fits w a1 (by decide) (by decide)⟩
theorem Laws.WordFields.max (h : Head) (o : S2) : Laws.WordFields.Statement (.max h o) := .inr fun w =>
  have ⟨w, a1⟩ := andP w
  ⟨_, rfl, eS2_fits w a1 (by decide) (by decide)⟩
theorem Laws.WordFields.minu (h : Head) (o : S2) : Laws.WordFields.Statement (.minu h o) := .inr fun w =>
  have ⟨w, a1⟩ := andP w
  ⟨_, rfl, eS2_fits w a1 (by decide) (by decide)⟩
theorem Laws.WordFields.maxu (h : Head) (o : S2) : Laws.WordFields.Statement (.maxu h o) := .inr fun w =>
  have ⟨w, a1⟩ := andP w
  ⟨_, rfl, eS2_fits w a1 (by decide) (by decide)⟩
theorem Laws.WordFields.cmp (h : Head) (cc : Nat) (o : S2) : Laws.WordFields.Statement (.cmp h cc o) := .inr fun w =>
  have ⟨w, a4⟩ := andP w
  have ⟨w, a3⟩ := andP w
  have ⟨w, a2⟩ := andP w
  have ⟨w, a1⟩ := andP w
  ⟨_, rfl, mk_fits w (by decide) (by decide) (Nat.lt_trans (mdstOk_lt a2) (by decide)) (scalarOk_lt a3) (Nat.lt_trans (ltP a1) (by decide)) (Src.fits a4)⟩
theorem Laws.WordFields.sel (h : Head) (cn : Nat) (neg : Bool) (o : S2) : Laws.WordFields.Statement (.sel h cn neg o) := .inr fun w =>
  have ⟨w, a2⟩ := andP w
  have ⟨w, a1⟩ := andP w
  ⟨_, rfl, eS2_fits w a2 (by decide) (by have := maskOk_lt a1; have := neg.toNat_le; omega)⟩
theorem Laws.WordFields.mov (h : Head) (o : S1) : Laws.WordFields.Statement (.mov h o) := .inr fun w =>
  have ⟨w, a1⟩ := andP w
  ⟨_, rfl, eS1_fits w a1 (by decide) (by decide)⟩
theorem Laws.WordFields.movi (h : Head) (dst : Nat) (x : MovImm) : Laws.WordFields.Statement (.movi h dst x) := .inr fun w =>
  have ⟨w, a1⟩ := andP w
  ⟨_, rfl, mk_fits w (by decide) (by decide) (sdstOk_lt a1) (by decide) x.fits.2 x.fits.1⟩
theorem Laws.WordFields.clz (h : Head) (o : S1) : Laws.WordFields.Statement (.clz h o) := .inr fun w =>
  have ⟨w, a1⟩ := andP w
  ⟨_, rfl, eS1_fits w a1 (by decide) (by decide)⟩
theorem Laws.WordFields.ctz (h : Head) (o : S1) : Laws.WordFields.Statement (.ctz h o) := .inr fun w =>
  have ⟨w, a1⟩ := andP w
  ⟨_, rfl, eS1_fits w a1 (by decide) (by decide)⟩
theorem Laws.WordFields.popc (h : Head) (o : S1) : Laws.WordFields.Statement (.popc h o) := .inr fun w =>
  have ⟨w, a1⟩ := andP w
  ⟨_, rfl, eS1_fits w a1 (by decide) (by decide)⟩
theorem Laws.WordFields.brev (h : Head) (o : S1) : Laws.WordFields.Statement (.brev h o) := .inr fun w =>
  have ⟨w, a1⟩ := andP w
  ⟨_, rfl, eS1_fits w a1 (by decide) (by decide)⟩
theorem Laws.WordFields.bfx (h : Head) (pos : Nat) (wm1 : Nat) (o : S1) : Laws.WordFields.Statement (.bfx h pos wm1 o) := .inr fun w =>
  have ⟨w, a2⟩ := andP w
  have ⟨w, a1⟩ := andP w
  ⟨_, rfl, eS1_fits w a2 (by decide) (modField_lt a1)⟩
theorem Laws.WordFields.bfxu (h : Head) (pos : Nat) (wm1 : Nat) (o : S1) : Laws.WordFields.Statement (.bfxu h pos wm1 o) := .inr fun w =>
  have ⟨w, a2⟩ := andP w
  have ⟨w, a1⟩ := andP w
  ⟨_, rfl, eS1_fits w a2 (by decide) (modField_lt a1)⟩
theorem Laws.WordFields.bfi (h : Head) (pos : Nat) (wm1 : Nat) (o : S2) : Laws.WordFields.Statement (.bfi h pos wm1 o) := .inr fun w =>
  have ⟨w, a2⟩ := andP w
  have ⟨w, a1⟩ := andP w
  ⟨_, rfl, eS2_fits w a2 (by decide) (modField_lt a1)⟩
theorem Laws.WordFields.lea (h : Head) (sh : Nat) (o : S2) : Laws.WordFields.Statement (.lea h sh o) := .inr fun w =>
  have ⟨w, a2⟩ := andP w
  have ⟨w, a1⟩ := andP w
  ⟨_, rfl, eS2_fits w a2 (by decide) (Nat.lt_trans (ltP a1) (by decide))⟩
theorem Laws.WordFields.divu (h : Head) (o : S2) : Laws.WordFields.Statement (.divu h o) := .inr fun w =>
  have ⟨w, a1⟩ := andP w
  ⟨_, rfl, eS2_fits w a1 (by decide) (by decide)⟩
theorem Laws.WordFields.remu (h : Head) (o : S2) : Laws.WordFields.Statement (.remu h o) := .inr fun w =>
  have ⟨w, a1⟩ := andP w
  ⟨_, rfl, eS2_fits w a1 (by decide) (by decide)⟩
theorem Laws.WordFields.iadd (h : Head) (o : V2) : Laws.WordFields.Statement (.iadd h o) := .inr fun w =>
  have ⟨w, a1⟩ := andP w
  ⟨_, rfl, eV2_fits w (V2.core_of a1) (by decide) (pk_lt (V2.pk_of (V2.core_of a1)))⟩
theorem Laws.WordFields.isub (h : Head) (o : V2) : Laws.WordFields.Statement (.isub h o) := .inr fun w =>
  have ⟨w, a1⟩ := andP w
  ⟨_, rfl, eV2_fits w (V2.core_of a1) (by decide) (pk_lt (V2.pk_of (V2.core_of a1)))⟩
theorem Laws.WordFields.imul (h : Head) (o : V2) : Laws.WordFields.Statement (.imul h o) := .inr fun w =>
  have ⟨w, a1⟩ := andP w
  ⟨_, rfl, eV2_fits w (V2.core_of a1) (by decide) (pk_lt (V2.pk_of (V2.core_of a1)))⟩
theorem Laws.WordFields.imulh (h : Head) (o : V2) : Laws.WordFields.Statement (.imulh h o) := .inr fun w =>
  have ⟨w, a1⟩ := andP w
  ⟨_, rfl, eV2_fits w a1 (by decide) (Nat.lt_trans (modPKU_lt _ (V2.pk_of a1)) (by decide))⟩
theorem Laws.WordFields.imad (h : Head) (o : V3) : Laws.WordFields.Statement (.imad h o) := .inr fun w =>
  have ⟨w, a1⟩ := andP w
  have ⟨c, z⟩ := andP a1
  have ⟨c, b⟩ := andP c
  have ⟨c, a⟩ := andP c
  have ⟨p, d⟩ := andP c
  ⟨_, rfl, mk_fits_sb w (by decide) (by decide) (vecOk_lt d) (vecOk_lt a) (vecOk_lt b) (pk_lt p) (.sc (vecOk_lt z))⟩
theorem Laws.WordFields.iabs (h : Head) (o : V1) : Laws.WordFields.Statement (.iabs h o) := .inr fun w =>
  have ⟨w, a1⟩ := andP w
  ⟨_, rfl, eV1_fits w a1 (by decide) (pk_lt (V1.pk_of a1))⟩
theorem Laws.WordFields.iabsd (h : Head) (o : V2) : Laws.WordFields.Statement (.iabsd h o) := .inr fun w =>
  have ⟨w, a1⟩ := andP w
  ⟨_, rfl, eV2_fits w a1 (by decide) (Nat.lt_trans (modPKU_lt _ (V2.pk_of a1)) (by decide))⟩
theorem Laws.WordFields.imin (h : Head) (o : V2) : Laws.WordFields.Statement (.imin h o) := .inr fun w =>
  have ⟨w, a1⟩ := andP w
  ⟨_, rfl, eV2_fits w (V2.core_of a1) (by decide) (pk_lt (V2.pk_of (V2.core_of a1)))⟩
theorem Laws.WordFields.imax (h : Head) (o : V2) : Laws.WordFields.Statement (.imax h o) := .inr fun w =>
  have ⟨w, a1⟩ := andP w
  ⟨_, rfl, eV2_fits w (V2.core_of a1) (by decide) (pk_lt (V2.pk_of (V2.core_of a1)))⟩
theorem Laws.WordFields.iminu (h : Head) (o : V2) : Laws.WordFields.Statement (.iminu h o) := .inr fun w =>
  have ⟨w, a1⟩ := andP w
  ⟨_, rfl, eV2_fits w (V2.core_of a1) (by decide) (pk_lt (V2.pk_of (V2.core_of a1)))⟩
theorem Laws.WordFields.imaxu (h : Head) (o : V2) : Laws.WordFields.Statement (.imaxu h o) := .inr fun w =>
  have ⟨w, a1⟩ := andP w
  ⟨_, rfl, eV2_fits w (V2.core_of a1) (by decide) (pk_lt (V2.pk_of (V2.core_of a1)))⟩
theorem Laws.WordFields.imaxb (h : Head) (dec : Decision) (o : V2) : Laws.WordFields.Statement (.imaxb h dec o) := .inr fun w =>
  have ⟨w, a2⟩ := andP w
  have ⟨w, a1⟩ := andP w
  ⟨_, rfl, eV2_fits w a1 (by decide) (modDec_lt (V2.pk_of a1) a2)⟩
theorem Laws.WordFields.iadds (h : Head) (o : V2) : Laws.WordFields.Statement (.iadds h o) := .inr fun w =>
  have ⟨w, a1⟩ := andP w
  ⟨_, rfl, eV2_fits w a1 (by decide) (Nat.lt_trans (modPKU_lt _ (V2.pk_of a1)) (by decide))⟩
theorem Laws.WordFields.isubs (h : Head) (o : V2) : Laws.WordFields.Statement (.isubs h o) := .inr fun w =>
  have ⟨w, a1⟩ := andP w
  ⟨_, rfl, eV2_fits w a1 (by decide) (Nat.lt_trans (modPKU_lt _ (V2.pk_of a1)) (by decide))⟩
theorem Laws.WordFields.iand (h : Head) (o : V2) : Laws.WordFields.Statement (.iand h o) := .inr fun w =>
  have ⟨w, a1⟩ := andP w
  ⟨_, rfl, eV2_fits w (V2.core_of32 a1) (by decide) (by decide)⟩
theorem Laws.WordFields.ior (h : Head) (o : V2) : Laws.WordFields.Statement (.ior h o) := .inr fun w =>
  have ⟨w, a1⟩ := andP w
  ⟨_, rfl, eV2_fits w (V2.core_of32 a1) (by decide) (by decide)⟩
theorem Laws.WordFields.ixor (h : Head) (o : V2) : Laws.WordFields.Statement (.ixor h o) := .inr fun w =>
  have ⟨w, a1⟩ := andP w
  ⟨_, rfl, eV2_fits w (V2.core_of32 a1) (by decide) (by decide)⟩
theorem Laws.WordFields.inot (h : Head) (o : V1) : Laws.WordFields.Statement (.inot h o) := .inr fun w =>
  have ⟨w, a1⟩ := andP w
  ⟨_, rfl, eV1_fits w (andP a1).1 (by decide) (by decide)⟩
theorem Laws.WordFields.ishl (h : Head) (o : V2) : Laws.WordFields.Statement (.ishl h o) := .inr fun w =>
  have ⟨w, a1⟩ := andP w
  ⟨_, rfl, eV2_fits w (V2.core_of a1) (by decide) (pk_lt (V2.pk_of (V2.core_of a1)))⟩
theorem Laws.WordFields.ishr (h : Head) (o : V2) : Laws.WordFields.Statement (.ishr h o) := .inr fun w =>
  have ⟨w, a1⟩ := andP w
  ⟨_, rfl, eV2_fits w (V2.core_of a1) (by decide) (pk_lt (V2.pk_of (V2.core_of a1)))⟩
theorem Laws.WordFields.isra (h : Head) (o : V2) : Laws.WordFields.Statement (.isra h o) := .inr fun w =>
  have ⟨w, a1⟩ := andP w
  ⟨_, rfl, eV2_fits w (V2.core_of a1) (by decide) (pk_lt (V2.pk_of (V2.core_of a1)))⟩
theorem Laws.WordFields.icmp (h : Head) (cc : Nat) (el : Nat) (o : V2) : Laws.WordFields.Statement (.icmp h cc el o) := .inr fun w =>
  have ⟨w, a7⟩ := andP w
  have ⟨w, a6⟩ := andP w
  have ⟨w, a5⟩ := andP w
  have ⟨w, a4⟩ := andP w
  have ⟨w, a3⟩ := andP w
  have ⟨w, a2⟩ := andP w
  have ⟨w, a1⟩ := andP w
  ⟨_, rfl, mk_fits w (by decide) (by decide) (Nat.lt_trans (mdstOk_lt a5) (by decide)) (vecOk_lt a6) (by have := elems_le a2; have := pk_lt a2; have := ltP a1; have := ltP a3; have : o.pk < 3 := ltP a2; omega) (VSrc.fits_ok a7)⟩
theorem Laws.WordFields.isel (h : Head) (sm : Nat) (sn : Bool) (o : V2) : Laws.WordFields.Statement (.isel h sm sn o) := .inr fun w =>
  have ⟨w, a2⟩ := andP w
  have ⟨w, a1⟩ := andP w
  ⟨_, rfl, eV2_fits w (V2.core_of32 a2) (by decide) (by have := maskOk_lt a1; have := sn.toNat_le; omega)⟩
theorem Laws.WordFields.imov (h : Head) (dst : Nat) (x : MixSrc) : Laws.WordFields.Statement (.imov h dst x) := .inr fun w =>
  ⟨_, rfl, imov_fits w⟩
theorem Laws.WordFields.imovi (h : Head) (dst : Nat) (x : MovImm) : Laws.WordFields.Statement (.imovi h dst x) := .inr fun w =>
  have ⟨w, a2⟩ := andP w
  have ⟨w, a1⟩ := andP w
  ⟨_, rfl, mk_fits w (by decide) (by decide) (vecOk_lt a1) (by decide) x.fits.2 x.fits.1⟩
theorem Laws.WordFields.ipopc (h : Head) (o : V1) : Laws.WordFields.Statement (.ipopc h o) := .inr fun w =>
  have ⟨w, a1⟩ := andP w
  ⟨_, rfl, eV1_fits w a1 (by decide) (pk_lt (V1.pk_of a1))⟩
theorem Laws.WordFields.iclz (h : Head) (o : V1) : Laws.WordFields.Statement (.iclz h o) := .inr fun w =>
  have ⟨w, a1⟩ := andP w
  ⟨_, rfl, eV1_fits w a1 (by decide) (pk_lt (V1.pk_of a1))⟩
theorem Laws.WordFields.ibrev (h : Head) (o : V1) : Laws.WordFields.Statement (.ibrev h o) := .inr fun w =>
  have ⟨w, a1⟩ := andP w
  ⟨_, rfl, eV1_fits w a1 (by decide) (pk_lt (V1.pk_of a1))⟩
theorem Laws.WordFields.ibfx (h : Head) (u : Bool) (pos : Nat) (wm1 : Nat) (o : V1) : Laws.WordFields.Statement (.ibfx h u pos wm1 o) := .inr fun w =>
  have ⟨w, a2⟩ := andP w
  have ⟨w, a1⟩ := andP w
  ⟨_, rfl, eV1_fits w (andP a2).1 (by decide) (modField32_lt a1)⟩
theorem Laws.WordFields.ibfi (h : Head) (pos : Nat) (wm1 : Nat) (o : V2) : Laws.WordFields.Statement (.ibfi h pos wm1 o) := .inr fun w =>
  have ⟨w, a2⟩ := andP w
  have ⟨w, a1⟩ := andP w
  ⟨_, rfl, eV2_fits w (V2.core_of32 a2) (by decide) (modField32_lt a1)⟩
theorem Laws.WordFields.mand (h : Head) (o : M2) : Laws.WordFields.Statement (.mand h o) := .inr fun w =>
  have ⟨w, a1⟩ := andP w
  ⟨_, rfl, eM2_fits w a1 (by decide)⟩
theorem Laws.WordFields.mor (h : Head) (o : M2) : Laws.WordFields.Statement (.mor h o) := .inr fun w =>
  have ⟨w, a1⟩ := andP w
  ⟨_, rfl, eM2_fits w a1 (by decide)⟩
theorem Laws.WordFields.mxor (h : Head) (o : M2) : Laws.WordFields.Statement (.mxor h o) := .inr fun w =>
  have ⟨w, a1⟩ := andP w
  ⟨_, rfl, eM2_fits w a1 (by decide)⟩
theorem Laws.WordFields.mpop (h : Head) (dst : Nat) (sa : Nat) : Laws.WordFields.Statement (.mpop h dst sa) := .inr fun w =>
  have ⟨w, a2⟩ := andP w
  have ⟨w, a1⟩ := andP w
  ⟨_, rfl, mk_fits w (by decide) (by decide) (sdstOk_lt a1) (Nat.lt_trans (maskOk_lt a2) (by decide)) (by decide) (.none (by decide))⟩
theorem Laws.WordFields.fadd (h : Head) (o : F2) : Laws.WordFields.Statement (.fadd h o) := .inr fun w =>
  have ⟨w, a1⟩ := andP w
  ⟨_, rfl, eF2_fits w a1 (by decide) (Nat.lt_trans (modRS_lt _ (F2.rm_of a1)) (by decide))⟩
theorem Laws.WordFields.fsub (h : Head) (o : F2) : Laws.WordFields.Statement (.fsub h o) := .inr fun w =>
  have ⟨w, a1⟩ := andP w
  ⟨_, rfl, eF2_fits w a1 (by decide) (Nat.lt_trans (modRS_lt _ (F2.rm_of a1)) (by decide))⟩
theorem Laws.WordFields.fmul (h : Head) (o : F2) : Laws.WordFields.Statement (.fmul h o) := .inr fun w =>
  have ⟨w, a1⟩ := andP w
  ⟨_, rfl, eF2_fits w a1 (by decide) (Nat.lt_trans (modRS_lt _ (F2.rm_of a1)) (by decide))⟩
theorem Laws.WordFields.fma (h : Head) (o : F3) : Laws.WordFields.Statement (.fma h o) := .inr fun w =>
  have ⟨w, a1⟩ := andP w
  ⟨_, rfl, eF3_fits w a1 (by decide) (Nat.lt_trans (modRS_lt _ (F3.rm_of a1)) (by decide))⟩
theorem Laws.WordFields.fmin (h : Head) (o : F2) : Laws.WordFields.Statement (.fmin h o) := .inr fun w =>
  have ⟨w, a1⟩ := andP w
  ⟨_, rfl, eF2_fits w (andP (andP a1).1).1 (by decide) (by decide)⟩
theorem Laws.WordFields.fmax (h : Head) (o : F2) : Laws.WordFields.Statement (.fmax h o) := .inr fun w =>
  have ⟨w, a1⟩ := andP w
  ⟨_, rfl, eF2_fits w (andP (andP a1).1).1 (by decide) (by decide)⟩
theorem Laws.WordFields.fcmp (h : Head) (cc : Nat) (o : F2) : Laws.WordFields.Statement (.fcmp h cc o) := .inr fun w =>
  have ⟨w, a6⟩ := andP w
  have ⟨w, a5⟩ := andP w
  have ⟨w, a4⟩ := andP w
  have ⟨w, a3⟩ := andP w
  have ⟨w, a2⟩ := andP w
  have ⟨w, a1⟩ := andP w
  ⟨_, rfl, mk_fits w (by decide) (by decide) (Nat.lt_trans (mdstOk_lt a2) (by decide)) (vecOk_lt a3) (by have := ltP a1; omega) (VSrc.fits_ok a4)⟩
theorem Laws.WordFields.fabs (h : Head) (neg : Bool) (dst : Nat) (sa : Nat) : Laws.WordFields.Statement (.fabs h neg dst sa) := .inr fun w =>
  have ⟨w, a2⟩ := andP w
  have ⟨w, a1⟩ := andP w
  ⟨_, rfl, one_fits w (by decide) (by decide) a1 a2 (by have := neg.toNat_le; omega)⟩
theorem Laws.WordFields.frnd (h : Head) (o : F1) : Laws.WordFields.Statement (.frnd h o) := .inr fun w =>
  have ⟨w, a2⟩ := andP w
  have ⟨w, a1⟩ := andP w
  have ⟨c, a⟩ := andP a1
  ⟨_, rfl, one_fits w (by decide) (by decide) (andP c).2 a (Nat.lt_trans (ltP (andP c).1) (by decide))⟩
theorem Laws.WordFields.fcvt (h : Head) (o : Cvt) : Laws.WordFields.Statement (.fcvt h o) := .inr fun w =>
  have ⟨w, a1⟩ := andP w
  have ⟨c, f, j⟩ := Cvt.fmt_of a1
  ⟨_, rfl, cvt_fits w (by decide) c f j⟩
theorem Laws.WordFields.fcvtToF32 (h : Head) (o : Cvt) : Laws.WordFields.Statement (.fcvtToF32 h o) := .inr fun w =>
  have ⟨w, a3⟩ := andP w
  have ⟨w, a2⟩ := andP w
  have ⟨w, a1⟩ := andP w
  have ⟨c, f, j⟩ := Cvt.fmt_of a1
  ⟨_, rfl, cvt_fits w (by decide) c f j⟩
theorem Laws.WordFields.fcvti (h : Head) (o : Cvt) : Laws.WordFields.Statement (.fcvti h o) := .inr fun w =>
  have ⟨w, a1⟩ := andP w
  have ⟨c, f, j⟩ := Cvt.int_of a1
  ⟨_, rfl, cvt_fits w (by decide) c f j⟩
theorem Laws.WordFields.icvtf (h : Head) (o : Cvt) : Laws.WordFields.Statement (.icvtf h o) := .inr fun w =>
  have ⟨w, a1⟩ := andP w
  have ⟨c, f, j⟩ := Cvt.int_of a1
  ⟨_, rfl, cvt_fits w (by decide) c f j⟩
theorem Laws.WordFields.fclass (h : Head) (dst : Nat) (sa : Nat) : Laws.WordFields.Statement (.fclass h dst sa) := .inr fun w =>
  have ⟨w, a2⟩ := andP w
  have ⟨w, a1⟩ := andP w
  ⟨_, rfl, one_fits w (by decide) (by decide) a1 a2 (by decide)⟩
theorem Laws.WordFields.fscale (h : Head) (o : F2) : Laws.WordFields.Statement (.fscale h o) := .inr fun w =>
  have ⟨w, a1⟩ := andP w
  ⟨_, rfl, eF2_fits w a1 (by decide) (Nat.lt_trans (modRS_lt _ (F2.rm_of a1)) (by decide))⟩
theorem Laws.WordFields.fdot2 (h : Head) (fp16 : Bool) (o : F3) : Laws.WordFields.Statement (.fdot2 h fp16 o) := .inr fun w =>
  have ⟨w, a1⟩ := andP w
  ⟨_, rfl, eF3_fits w a1 (by decide) (by have := modRS_lt o.sat (F3.rm_of a1); have := fp16.toNat_le; omega)⟩
theorem Laws.WordFields.fadd2 (h : Head) (o : F2) : Laws.WordFields.Statement (.fadd2 h o) := .inr fun w =>
  have ⟨w, a1⟩ := andP w
  ⟨_, rfl, eF2_fits_pair w a1 (by decide)⟩
theorem Laws.WordFields.fmul2 (h : Head) (o : F2) : Laws.WordFields.Statement (.fmul2 h o) := .inr fun w =>
  have ⟨w, a1⟩ := andP w
  ⟨_, rfl, eF2_fits_pair w a1 (by decide)⟩
theorem Laws.WordFields.fma2 (h : Head) (o : F3) : Laws.WordFields.Statement (.fma2 h o) := .inr fun w =>
  have ⟨w, a1⟩ := andP w
  ⟨_, rfl, eF3_fits_pair w a1 (by decide)⟩
theorem Laws.WordFields.qamax (h : Head) (sub8 : Bool) (dst : Nat) (sa : Nat) : Laws.WordFields.Statement (.qamax h sub8 dst sa) := .inr fun w =>
  have ⟨w, a2⟩ := andP w
  have ⟨w, a1⟩ := andP w
  ⟨_, rfl, one_fits w (by decide) (by decide) a1 a2 (Nat.lt_of_le_of_lt sub8.toNat_le (by decide))⟩
theorem Laws.WordFields.qscale (h : Head) (dst : Nat) (sa : Nat) (sb : Nat) : Laws.WordFields.Statement (.qscale h dst sa sb) := .inr fun w =>
  have ⟨w, a3⟩ := andP w
  have ⟨w, a2⟩ := andP w
  have ⟨w, a1⟩ := andP w
  ⟨_, rfl, mk_fits w (by decide) (by decide) (vecOk_lt a1) (vecOk_lt a2) (by decide) (.none (vecOk_lt a3))⟩
theorem Laws.WordFields.qpack (h : Head) (part : Nat) (eot : Bool) (o : F2) : Laws.WordFields.Statement (.qpack h part eot o) := .inr fun w =>
  have ⟨w, a2⟩ := andP w
  have ⟨w, a1⟩ := andP w
  have ⟨c, _⟩ := andP a2
  ⟨_, rfl, eF2_fits w c (by decide) (modPack_lt (F2.rm_of c) (by decide) (ltP a1))⟩
theorem Laws.WordFields.qunpack (h : Head) (qf : Nat) (part : Nat) (o : F2) : Laws.WordFields.Statement (.qunpack h qf part o) := .inr fun w =>
  have ⟨w, a3⟩ := andP w
  have ⟨w, a2⟩ := andP w
  have ⟨w, a1⟩ := andP w
  have ⟨c, _⟩ := andP a3
  ⟨_, rfl, eF2_fits w c (by decide) (modPack_lt (F2.rm_of c) (ltP a1) (ltP a2))⟩
theorem Laws.WordFields.shfl (h : Head) (dst : Nat) (sa : Nat) (sb : Nat) : Laws.WordFields.Statement (.shfl h dst sa sb) := .inr fun w =>
  have ⟨w, a3⟩ := andP w
  have ⟨w, a2⟩ := andP w
  have ⟨w, a1⟩ := andP w
  ⟨_, rfl, mk_fits w (by decide) (by decide) (vecOk_lt a1) (vecOk_lt a2) (by decide) (.none (vecOk_lt a3))⟩
theorem Laws.WordFields.shflImm (h : Head) (dst : Nat) (sa : Nat) (imm : W32) : Laws.WordFields.Statement (.shflImm h dst sa imm) := .inr fun w =>
  have ⟨w, a2⟩ := andP w
  have ⟨w, a1⟩ := andP w
  ⟨_, rfl, mk_fits w (by decide) (by decide) (vecOk_lt a1) (vecOk_lt a2) (by decide) (.w32 imm)⟩
theorem Laws.WordFields.shflx (h : Head) (dst : Nat) (sa : Nat) (b : VSrc) : Laws.WordFields.Statement (.shflx h dst sa b) := .inr fun w =>
  have ⟨w, a3⟩ := andP w
  have ⟨w, a2⟩ := andP w
  have ⟨w, a1⟩ := andP w
  ⟨_, rfl, mk_fits w (by decide) (by decide) (vecOk_lt a1) (vecOk_lt a2) (by decide) (VSrc.fits_ok a3)⟩
theorem Laws.WordFields.pushl (h : Head) (dst : Nat) (sa : Nat) (sb : Nat) : Laws.WordFields.Statement (.pushl h dst sa sb) := .inr fun w =>
  have ⟨w, a3⟩ := andP w
  have ⟨w, a2⟩ := andP w
  have ⟨w, a1⟩ := andP w
  ⟨_, rfl, mk_fits w (by decide) (by decide) (vecOk_lt a1) (vecOk_lt a2) (by decide) (.none (vecOk_lt a3))⟩
theorem Laws.WordFields.bcast (h : Head) (dst : Nat) (sa : Nat) (b : VSrc) : Laws.WordFields.Statement (.bcast h dst sa b) := .inr fun w =>
  have ⟨w, a3⟩ := andP w
  have ⟨w, a2⟩ := andP w
  have ⟨w, a1⟩ := andP w
  ⟨_, rfl, mk_fits w (by decide) (by decide) (vecOk_lt a1) (vecOk_lt a2) (by decide) (VSrc.fits_scalar a3)⟩
theorem Laws.WordFields.getln (h : Head) (dst : Nat) (sa : Nat) (b : VSrc) : Laws.WordFields.Statement (.getln h dst sa b) := .inr fun w =>
  have ⟨w, a3⟩ := andP w
  have ⟨w, a2⟩ := andP w
  have ⟨w, a1⟩ := andP w
  ⟨_, rfl, mk_fits w (by decide) (by decide) (sdstOk_lt a1) (vecOk_lt a2) (by decide) (VSrc.fits_scalar a3)⟩
theorem Laws.WordFields.setln (h : Head) (dst : Nat) (sa : Nat) (b : VSrc) : Laws.WordFields.Statement (.setln h dst sa b) := .inr fun w =>
  have ⟨w, a3⟩ := andP w
  have ⟨w, a2⟩ := andP w
  have ⟨w, a1⟩ := andP w
  ⟨_, rfl, mk_fits w (by decide) (by decide) (vecOk_lt a1) (scalarOk_lt a2) (by decide) (VSrc.fits_scalar a3)⟩
theorem Laws.WordFields.red (h : Head) (opk : Nat) (rm : Nat) (dst : Nat) (sa : Nat) : Laws.WordFields.Statement (.red h opk rm dst sa) := .inr fun w =>
  have ⟨w, a3⟩ := andP w
  have ⟨w, a2⟩ := andP w
  have ⟨w, a1⟩ := andP w
  ⟨_, rfl, mk_fits w (by decide) (by decide) (sdstOk_lt a2) (vecOk_lt a3) (modRed_lt a1) (.none (by decide))⟩
theorem Laws.WordFields.scan (h : Head) (opk : Nat) (rm : Nat) (exc : Bool) (dst : Nat) (sa : Nat) : Laws.WordFields.Statement (.scan h opk rm exc dst sa) := .inr fun w =>
  have ⟨w, a3⟩ := andP w
  have ⟨w, a2⟩ := andP w
  have ⟨w, a1⟩ := andP w
  ⟨_, rfl, mk_fits w (by decide) (by decide) (vecOk_lt a2) (vecOk_lt a3) (modRed_lt a1) (.none (by decide))⟩
theorem Laws.WordFields.vote (h : Head) (pk : Nat) (seg : Nat) (dst : Nat) (x : MixSrc) : Laws.WordFields.Statement (.vote h pk seg dst x) := .inr fun w =>
  ⟨_, rfl, vote_fits w⟩
theorem Laws.WordFields.frcp (h : Head) (o : F1) : Laws.WordFields.Statement (.frcp h o) := .inr fun w =>
  have ⟨w, a1⟩ := andP w
  ⟨_, rfl, eSfu_fits w a1 (by decide)⟩
theorem Laws.WordFields.frsq (h : Head) (o : F1) : Laws.WordFields.Statement (.frsq h o) := .inr fun w =>
  have ⟨w, a1⟩ := andP w
  ⟨_, rfl, eSfu_fits w a1 (by decide)⟩
theorem Laws.WordFields.fsqrt (h : Head) (o : F1) : Laws.WordFields.Statement (.fsqrt h o) := .inr fun w =>
  have ⟨w, a1⟩ := andP w
  ⟨_, rfl, eSfu_fits w a1 (by decide)⟩
theorem Laws.WordFields.fexp2 (h : Head) (o : F1) : Laws.WordFields.Statement (.fexp2 h o) := .inr fun w =>
  have ⟨w, a1⟩ := andP w
  ⟨_, rfl, eSfu_fits w a1 (by decide)⟩
theorem Laws.WordFields.flog2 (h : Head) (o : F1) : Laws.WordFields.Statement (.flog2 h o) := .inr fun w =>
  have ⟨w, a1⟩ := andP w
  ⟨_, rfl, eSfu_fits w a1 (by decide)⟩
theorem Laws.WordFields.fsin (h : Head) (o : F1) : Laws.WordFields.Statement (.fsin h o) := .inr fun w =>
  have ⟨w, a1⟩ := andP w
  ⟨_, rfl, eSfu_fits w a1 (by decide)⟩
theorem Laws.WordFields.fcos (h : Head) (o : F1) : Laws.WordFields.Statement (.fcos h o) := .inr fun w =>
  have ⟨w, a1⟩ := andP w
  ⟨_, rfl, eSfu_fits w a1 (by decide)⟩
theorem Laws.WordFields.ftanh (h : Head) (o : F1) : Laws.WordFields.Statement (.ftanh h o) := .inr fun w =>
  have ⟨w, a1⟩ := andP w
  ⟨_, rfl, eSfu_fits w a1 (by decide)⟩
theorem Laws.WordFields.fdiv (h : Head) (o : F2) : Laws.WordFields.Statement (.fdiv h o) := .inr fun w =>
  have ⟨w, a1⟩ := andP w
  have ⟨c, _⟩ := andP a1
  have ⟨k, b⟩ := andP c
  have ⟨k, a⟩ := andP k
  ⟨_, rfl, mk_fits w (by decide) (by decide) (vecOk_lt (andP k).2) (vecOk_lt a) (Nat.lt_trans (modRS_lt _ (andP k).1) (by decide)) (VSrc.fits_ok b)⟩
theorem Laws.WordFields.ldp (h : Head) (dst : Nat) (sx : Bool) (a : MAddr) : Laws.WordFields.Statement (.ldp h dst sx a) := .inr fun w =>
  have ⟨w, a3⟩ := andP w
  have ⟨w, a2⟩ := andP w
  have ⟨w, a1⟩ := andP w
  ⟨_, rfl, eMem_fits w a1 a2 (by decide)⟩
theorem Laws.WordFields.stp (h : Head) (dst : Nat) (a : MAddr) : Laws.WordFields.Statement (.stp h dst a) := .inr fun w =>
  have ⟨w, a2⟩ := andP w
  have ⟨w, a1⟩ := andP w
  ⟨_, rfl, eMem_fits w a1 a2 (by decide)⟩
theorem Laws.WordFields.ldg (h : Head) (dst : Nat) (sx : Bool) (a : MAddr) : Laws.WordFields.Statement (.ldg h dst sx a) := .inr fun w =>
  have ⟨w, a3⟩ := andP w
  have ⟨w, a2⟩ := andP w
  have ⟨w, a1⟩ := andP w
  ⟨_, rfl, eMem_fits w a1 a2 (by decide)⟩
theorem Laws.WordFields.stg (h : Head) (dst : Nat) (a : MAddr) : Laws.WordFields.Statement (.stg h dst a) := .inr fun w =>
  have ⟨w, a2⟩ := andP w
  have ⟨w, a1⟩ := andP w
  ⟨_, rfl, eMem_fits w a1 a2 (by decide)⟩
theorem Laws.WordFields.aadd (h : Head) (o : Atom) : Laws.WordFields.Statement (.aadd h o) := .inr fun w =>
  have ⟨w, a1⟩ := andP w
  ⟨_, rfl, eAtom_fits w (andP a1).1 (dataOk_lt (andP a1).2) (by decide)⟩
theorem Laws.WordFields.aand (h : Head) (o : Atom) : Laws.WordFields.Statement (.aand h o) := .inr fun w =>
  have ⟨w, a1⟩ := andP w
  ⟨_, rfl, eAtom_fits w (andP a1).1 (dataOk_lt (andP a1).2) (by decide)⟩
theorem Laws.WordFields.aor (h : Head) (o : Atom) : Laws.WordFields.Statement (.aor h o) := .inr fun w =>
  have ⟨w, a1⟩ := andP w
  ⟨_, rfl, eAtom_fits w (andP a1).1 (dataOk_lt (andP a1).2) (by decide)⟩
theorem Laws.WordFields.axor (h : Head) (o : Atom) : Laws.WordFields.Statement (.axor h o) := .inr fun w =>
  have ⟨w, a1⟩ := andP w
  ⟨_, rfl, eAtom_fits w (andP a1).1 (dataOk_lt (andP a1).2) (by decide)⟩
theorem Laws.WordFields.amin (h : Head) (o : Atom) : Laws.WordFields.Statement (.amin h o) := .inr fun w =>
  have ⟨w, a1⟩ := andP w
  ⟨_, rfl, eAtom_fits w (andP a1).1 (dataOk_lt (andP a1).2) (by decide)⟩
theorem Laws.WordFields.amax (h : Head) (o : Atom) : Laws.WordFields.Statement (.amax h o) := .inr fun w =>
  have ⟨w, a1⟩ := andP w
  ⟨_, rfl, eAtom_fits w (andP a1).1 (dataOk_lt (andP a1).2) (by decide)⟩
theorem Laws.WordFields.aminu (h : Head) (o : Atom) : Laws.WordFields.Statement (.aminu h o) := .inr fun w =>
  have ⟨w, a1⟩ := andP w
  ⟨_, rfl, eAtom_fits w (andP a1).1 (dataOk_lt (andP a1).2) (by decide)⟩
theorem Laws.WordFields.amaxu (h : Head) (o : Atom) : Laws.WordFields.Statement (.amaxu h o) := .inr fun w =>
  have ⟨w, a1⟩ := andP w
  ⟨_, rfl, eAtom_fits w (andP a1).1 (dataOk_lt (andP a1).2) (by decide)⟩
theorem Laws.WordFields.aexch (h : Head) (o : Atom) : Laws.WordFields.Statement (.aexch h o) := .inr fun w =>
  have ⟨w, a1⟩ := andP w
  ⟨_, rfl, eAtom_fits w (andP a1).1 (dataOk_lt (andP a1).2) (by decide)⟩
theorem Laws.WordFields.acas (h : Head) (o : Atom) : Laws.WordFields.Statement (.acas h o) := .inr fun w =>
  have ⟨w, a1⟩ := andP w
  have ⟨c, _⟩ := andP a1
  have ⟨c, s⟩ := andP c
  ⟨_, rfl, eAtom_fits w c (ltP s) (by decide)⟩
theorem Laws.WordFields.afadd (h : Head) (o : Atom) : Laws.WordFields.Statement (.afadd h o) := .inr fun w =>
  have ⟨w, a1⟩ := andP w
  have ⟨c, _⟩ := andP a1
  ⟨_, rfl, eAtom_fits w (andP c).1 (dataOk_lt (andP c).2) (by decide)⟩
theorem Laws.WordFields.ainc (h : Head) (o : Atom) : Laws.WordFields.Statement (.ainc h o) := .inr fun w =>
  have ⟨w, a1⟩ := andP w
  have ⟨a, d, m⟩ := Atom.core_lts (andP a1).1
  ⟨_, rfl, mk_fits w (by decide) (by decide) d (MAddr.lts a).1 m (.none (MAddr.lts a).2)⟩
theorem Laws.WordFields.fenceAcq (h : Head) (scope : Nat) : Laws.WordFields.Statement (.fenceAcq h scope) := .inr fun w =>
  have ⟨w, a1⟩ := andP w
  ⟨_, rfl, eBare_fits w (by decide) (by decide) (modFence_lt (ltP a1) (by decide))⟩
theorem Laws.WordFields.fenceRel (h : Head) (scope : Nat) : Laws.WordFields.Statement (.fenceRel h scope) := .inr fun w =>
  have ⟨w, a1⟩ := andP w
  ⟨_, rfl, eBare_fits w (by decide) (by decide) (modFence_lt (ltP a1) (by decide))⟩
theorem Laws.WordFields.fenceAr (h : Head) (scope : Nat) : Laws.WordFields.Statement (.fenceAr h scope) := .inr fun w =>
  have ⟨w, a1⟩ := andP w
  ⟨_, rfl, eBare_fits w (by decide) (by decide) (modFence_lt (ltP a1) (by decide))⟩
theorem Laws.WordFields.waitc (h : Head) (o : Cnt) : Laws.WordFields.Statement (.waitc h o) := .inr fun w =>
  have ⟨w, a1⟩ := andP w
  ⟨_, rfl, eCnt_fits w a1 (by decide)⟩
theorem Laws.WordFields.cntadd (h : Head) (o : Cnt) : Laws.WordFields.Statement (.cntadd h o) := .inr fun w =>
  have ⟨w, a1⟩ := andP w
  ⟨_, rfl, eCnt_fits w a1 (by decide)⟩
theorem Laws.WordFields.yield (h : Head) (o : Cnt) : Laws.WordFields.Statement (.yield h o) := .inr fun w =>
  have ⟨w, a1⟩ := andP w
  ⟨_, rfl, eCnt_fits w a1 (by decide)⟩
theorem Laws.WordFields.dld (h : Head) (dst : Nat) (sa : Nat) (imm : Option W32) : Laws.WordFields.Statement (.dld h dst sa imm) := .inr fun w =>
  have ⟨w, a2⟩ := andP w
  have ⟨w, a1⟩ := andP w
  ⟨_, rfl, mk_fits w (by decide) (by decide) (sdstOk_lt a1) (scalarOk_lt a2) (by decide) (optFits imm)⟩
theorem Laws.WordFields.drec (h : Head) (o : Drec) : Laws.WordFields.Statement (.drec h o) := .inr fun w =>
  have ⟨w, a1⟩ := andP w
  ⟨_, rfl, drec_fits w (by decide) a1⟩
theorem Laws.WordFields.drecWait (h : Head) (dst : Nat) (o : Drec) : Laws.WordFields.Statement (.drecWait h dst o) := .inr fun w =>
  have ⟨w, a2⟩ := andP w
  have ⟨w, a1⟩ := andP w
  ⟨_, rfl, drec_fits w (sdstOk_lt a1) a2⟩
theorem Laws.WordFields.dwait (h : Head) (b : Src) : Laws.WordFields.Statement (.dwait h b) := .inr fun w =>
  have ⟨w, a1⟩ := andP w
  have f := Src.fits a1
  ⟨_, rfl, mk_fits_sb w (by decide) (by decide) (by decide) f.2.1 (by decide) (by decide) ⟨f.1, (by decide), f.2.2⟩⟩
theorem Laws.WordFields.bra (h : Head) (t : Target) : Laws.WordFields.Statement (.bra h t) := .inr fun w =>
  have ⟨w, a1⟩ := andP w
  have f := Target.fits a1
  ⟨_, rfl, mk_fits_sb w (by decide) (by decide) (by decide) f.2.1 (by decide) (by decide) ⟨f.1, (by decide), f.2.2⟩⟩
theorem Laws.WordFields.brc (h : Head) (cn : Nat) (neg : Bool) (t : Target) : Laws.WordFields.Statement (.brc h cn neg t) := .inr fun w =>
  have ⟨w, a2⟩ := andP w
  have ⟨w, a1⟩ := andP w
  ⟨_, rfl, mk_fits w (by decide) (by decide) (by decide) (Nat.lt_trans (maskOk_lt a1) (by decide)) (Nat.lt_of_le_of_lt neg.toNat_le (by decide)) (Target.fits_long a2)⟩
theorem Laws.WordFields.brd (h : Head) (m : Nat) (neg : Bool) (tgt : W32) (rcv : W32) : Laws.WordFields.Statement (.brd h m neg tgt rcv) := .inr fun w =>
  have ⟨w, a1⟩ := andP w
  ⟨_, rfl, mk_fits w (by decide) (by decide) (by decide) (Nat.lt_trans (maskOk_lt a1) (by decide)) (Nat.lt_of_le_of_lt neg.toNat_le (by decide)) (.lt64 (by have := tgt.isLt; have := rcv.isLt; omega))⟩
theorem Laws.WordFields.join (h : Head) : Laws.WordFields.Statement (.join h) := .inr fun w =>
  ⟨_, rfl, eBare_fits w (by decide) (by decide) (by decide)⟩
theorem Laws.WordFields.call (h : Head) (dst : Nat) (t : Target) : Laws.WordFields.Statement (.call h dst t) := .inr fun w =>
  have ⟨w, a2⟩ := andP w
  have ⟨w, a1⟩ := andP w
  have f := Target.fits a2
  ⟨_, rfl, mk_fits_sb w (by decide) (by decide) (sdstOk_lt a1) f.2.1 (by decide) (by decide) ⟨f.1, (by decide), f.2.2⟩⟩
theorem Laws.WordFields.ret (h : Head) (sa : Nat) : Laws.WordFields.Statement (.ret h sa) := .inr fun w =>
  have ⟨w, a1⟩ := andP w
  ⟨_, rfl, mk_fits w (by decide) (by decide) (by decide) (scalarOk_lt a1) (by decide) (.none (by decide))⟩
theorem Laws.WordFields.loop (h : Head) (dst : Nat) (t : Target) : Laws.WordFields.Statement (.loop h dst t) := .inr fun w =>
  have ⟨w, a2⟩ := andP w
  have ⟨w, a1⟩ := andP w
  ⟨_, rfl, mk_fits w (by decide) (by decide) (sdstOk_lt a1) (by decide) (by decide) (Target.fits_long a2)⟩
theorem Laws.WordFields.exit (h : Head) : Laws.WordFields.Statement (.exit h) := .inr fun w =>
  ⟨_, rfl, eBare_fits w (by decide) (by decide) (by decide)⟩
theorem Laws.WordFields.nop (h : Head) (len : Nat) : Laws.WordFields.Statement (.nop h len) := .inr fun w =>
  have ⟨w, a1⟩ := andP w
  ⟨_, rfl, mk_fits w (by decide) (by decide) (by decide) (by decide) (by decide) ⟨ltP a1, (by decide), Nat.two_pow_pos _⟩⟩
theorem Laws.WordFields.bar (h : Head) (n : Nat) : Laws.WordFields.Statement (.bar h n) := .inr fun w =>
  have ⟨w, a1⟩ := andP w
  ⟨_, rfl, eBare_fits w (by decide) (by decide) (Nat.lt_trans (ltP a1) (by decide))⟩
theorem Laws.WordFields.trig (h : Head) : Laws.WordFields.Statement (.trig h) := .inr fun w =>
  ⟨_, rfl, eBare_fits w (by decide) (by decide) (by decide)⟩
theorem Laws.WordFields.setfmt (h : Head) (fsel : Nat) (x : VSrc) : Laws.WordFields.Statement (.setfmt h fsel x) := .inr fun w =>
  have ⟨w, a2⟩ := andP w
  have ⟨w, a1⟩ := andP w
  have f := VSrc.fits_scalar a2
  ⟨_, rfl, mk_fits_sb w (by decide) (by decide) (by decide) f.2.1 (by decide) (by have := ltP a1; omega) ⟨f.1, (by decide), f.2.2⟩⟩
theorem Laws.WordFields.setfmtStatus (h : Head) (x : VSrc) : Laws.WordFields.Statement (.setfmtStatus h x) := .inr fun w =>
  have ⟨w, a1⟩ := andP w
  have f := VSrc.fits_scalar a1
  ⟨_, rfl, mk_fits_sb w (by decide) (by decide) (by decide) f.2.1 (by decide) (by decide) ⟨f.1, (by decide), f.2.2⟩⟩
theorem Laws.WordFields.getfmt (h : Head) (dst : Nat) : Laws.WordFields.Statement (.getfmt h dst) := .inr fun w =>
  have ⟨w, a1⟩ := andP w
  ⟨_, rfl, mk_fits w (by decide) (by decide) (sdstOk_lt a1) (by decide) (by decide) (.none (by decide))⟩
theorem Laws.WordFields.tbase (h : Head) (sa : Nat) (imm : Option W32) : Laws.WordFields.Statement (.tbase h sa imm) := .inr fun w =>
  have ⟨w, a1⟩ := andP w
  ⟨_, rfl, mk_fits w (by decide) (by decide) (by decide) (scalarOk_lt a1) (by decide) (optFits imm)⟩
theorem Laws.WordFields.twait (h : Head) (o : Nat) : Laws.WordFields.Statement (.twait h o) := .inr fun w =>
  have ⟨w, a1⟩ := andP w
  ⟨_, rfl, mk_fits w (by decide) (by decide) (by decide) (by decide) (by decide) ⟨(by decide), (by decide), Nat.lt_trans (ltP a1) (by decide)⟩⟩
theorem Laws.WordFields.talign (h : Head) (dst : Nat) (sa : Nat) (sb : Nat) : Laws.WordFields.Statement (.talign h dst sa sb) := .inr fun w =>
  have ⟨w, a3⟩ := andP w
  have ⟨w, a2⟩ := andP w
  have ⟨w, a1⟩ := andP w
  ⟨_, rfl, mk_fits w (by decide) (by decide) (sdstOk_lt a1) (scalarOk_lt a2) (by decide) (.none (scalarOk_lt a3))⟩
theorem Laws.WordFields.trap (h : Head) (code : Nat) : Laws.WordFields.Statement (.trap h code) := .inr fun w =>
  have ⟨w, a1⟩ := andP w
  ⟨_, rfl, eBare_fits w (by decide) (by decide) (Nat.lt_trans (ltP a1) (by decide))⟩
theorem Laws.WordFields.brk (h : Head) (code : Nat) : Laws.WordFields.Statement (.brk h code) := .inr fun w =>
  have ⟨w, a1⟩ := andP w
  ⟨_, rfl, eBare_fits w (by decide) (by decide) (Nat.lt_trans (ltP a1) (by decide))⟩
theorem Laws.WordFields.tvec (h : Head) (x : VSrc) : Laws.WordFields.Statement (.tvec h x) := .inr fun w =>
  have ⟨w, a1⟩ := andP w
  have f := VSrc.fits_scalar a1
  ⟨_, rfl, mk_fits_sb w (by decide) (by decide) (by decide) f.2.1 (by decide) (by decide) ⟨f.1, (by decide), f.2.2⟩⟩
theorem Laws.WordFields.mma (h : Head) (o : Mma) : Laws.WordFields.Statement (.mma h o) := .inr fun w =>
  have ⟨w, a1⟩ := andP w
  ⟨_, rfl, mma_fits w (by decide) a1⟩
theorem Laws.WordFields.mmas (h : Head) (o : Mma) : Laws.WordFields.Statement (.mmas h o) := .inr fun w =>
  have ⟨w, a1⟩ := andP w
  ⟨_, rfl, mma_fits w (by decide) a1⟩
theorem Laws.WordFields.tclaim (h : Head) (dst : Nat) (mask : Nat) : Laws.WordFields.Statement (.tclaim h dst mask) := .inr fun w =>
  have ⟨w, a2⟩ := andP w
  have ⟨w, a1⟩ := andP w
  ⟨_, rfl, plain_fits w (by decide) (sdstOk_lt a1) (by decide) (by decide) (Nat.lt_trans (ltP a2) (by decide)) (by decide) untimed_lt⟩
theorem Laws.WordFields.trel (h : Head) (mask : Nat) : Laws.WordFields.Statement (.trel h mask) := .inr fun w =>
  have ⟨w, a1⟩ := andP w
  ⟨_, rfl, plain_fits w (by decide) (by decide) (by decide) (by decide) (Nat.lt_trans (ltP a1) (by decide)) (by decide) untimed_lt⟩
theorem Laws.WordFields.tfill (h : Head) (o : Tfill) : Laws.WordFields.Statement (.tfill h o) := .inr fun w =>
  have ⟨w, a1⟩ := andP w
  ⟨_, rfl, tfill_fits w a1⟩
theorem Laws.WordFields.accz (h : Head) (tile : Nat) (ofs : Nat) : Laws.WordFields.Statement (.accz h tile ofs) := .inr fun w =>
  have ⟨w, a2⟩ := andP w
  have ⟨w, a1⟩ := andP w
  ⟨_, rfl, plain_fits w (by decide) (ltP a1) (by decide) (by decide) (by decide) (by decide) (ltP a2)⟩
theorem Laws.WordFields.accrd (h : Head) (o : Acc) : Laws.WordFields.Statement (.accrd h o) := .inr fun w =>
  have ⟨w, a1⟩ := andP w
  ⟨_, rfl, accrd_fits w a1⟩
theorem Laws.WordFields.accwr (h : Head) (o : Acc) : Laws.WordFields.Statement (.accwr h o) := .inr fun w =>
  have ⟨w, a1⟩ := andP w
  ⟨_, rfl, accwr_fits w a1⟩
theorem Laws.WordFields.cpy (h : Head) (o : Copy) : Laws.WordFields.Statement (.cpy h o) := .inr fun w =>
  have ⟨w, a1⟩ := andP w
  have ⟨c, z⟩ := andP a1
  have ⟨c, y⟩ := andP c
  have ⟨c, _⟩ := andP c
  ⟨_, rfl, eCopy_fits w (by decide) (andP c).1 (by simp at y; omega) (by simp at z; omega)⟩
theorem Laws.WordFields.cpyr (h : Head) (o : Copy) : Laws.WordFields.Statement (.cpyr h o) := .inr fun w =>
  have ⟨w, a1⟩ := andP w
  have ⟨c, z⟩ := andP a1
  have ⟨c, y⟩ := andP c
  have ⟨c, _⟩ := andP c
  ⟨_, rfl, eCopy_fits w (by decide) (andP c).1 (ltP y) (Nat.lt_trans (ltP z) (by decide))⟩
theorem Laws.WordFields.cpyk (h : Head) (o : Copy) : Laws.WordFields.Statement (.cpyk h o) := .inr fun w =>
  have ⟨w, a1⟩ := andP w
  have ⟨c, y⟩ := andP a1
  have ⟨c, z⟩ := andP c
  ⟨_, rfl, eCopy_fits w (by decide) (andP c).1 (cpyk_y y) (by simp at z; omega)⟩
theorem Laws.WordFields.cbatch (h : Head) (dst : Nat) : Laws.WordFields.Statement (.cbatch h dst) := .inr fun w =>
  have ⟨w, a1⟩ := andP w
  ⟨_, rfl, plain_fits w (by decide) (sdstOk_lt a1) (by decide) (by decide) (by decide) (by decide) untimed_lt⟩
theorem Laws.WordFields.cwait (h : Head) (sa : Nat) : Laws.WordFields.Statement (.cwait h sa) := .inr fun w =>
  have ⟨w, a1⟩ := andP w
  ⟨_, rfl, plain_fits w (by decide) (by decide) (scalarOk_lt a1) (by decide) (by decide) (by decide) untimed_lt⟩
theorem Laws.WordFields.esp (h : Head) (o : Esp) : Laws.WordFields.Statement (.esp h o) := .inr fun w =>
  have ⟨w, a1⟩ := andP w
  ⟨_, rfl, esp_fits w a1⟩
theorem Laws.WordFields.lsend (h : Head) (o : Send) : Laws.WordFields.Statement (.lsend h o) := .inr fun w =>
  have ⟨w, a1⟩ := andP w
  ⟨_, rfl, send_fits w (by decide) a1⟩
theorem Laws.WordFields.lrecv (h : Head) (spkg : Nat) (flow : Nat) (sa : Nat) (ofs : Nat) : Laws.WordFields.Statement (.lrecv h spkg flow sa ofs) := .inr fun w =>
  have ⟨w, a4⟩ := andP w
  have ⟨w, a3⟩ := andP w
  have ⟨w, a2⟩ := andP w
  have ⟨w, a1⟩ := andP w
  ⟨_, rfl, plain_fits w (by decide) (by decide) (scalarOk_lt a3) (by decide) (by have := ltP a1; have := ltP a2; omega) (by decide) (timedOk_lt a4)⟩
theorem Laws.WordFields.lput (h : Head) (o : Hall) : Laws.WordFields.Statement (.lput h o) := .inr fun w =>
  have ⟨w, a1⟩ := andP w
  have ⟨c, a⟩ := Hall.plain_of a1
  ⟨_, rfl, eHall_fits w (by decide) c a⟩
theorem Laws.WordFields.lputAtomic (h : Head) (o : Hall) : Laws.WordFields.Statement (.lputAtomic h o) := .inr fun w =>
  have ⟨w, a1⟩ := andP w
  have ⟨c, a⟩ := Hall.atomic_of a1
  ⟨_, rfl, eHall_fits w (by decide) c a⟩
theorem Laws.WordFields.lget (h : Head) (o : Hall) : Laws.WordFields.Statement (.lget h o) := .inr fun w =>
  have ⟨w, a1⟩ := andP w
  have ⟨c, a⟩ := Hall.plain_of a1
  ⟨_, rfl, eHall_fits w (by decide) c a⟩
theorem Laws.WordFields.lred (h : Head) (o : Send) : Laws.WordFields.Statement (.lred h o) := .inr fun w =>
  have ⟨w, a1⟩ := andP w
  have ⟨c, r⟩ := andP a1
  ⟨_, rfl, eSend_fits w (by decide) (andP c).1 (scalarOk_lt (andP c).2) (ltP r)⟩
theorem Laws.WordFields.lmcast (h : Head) (o : Send) : Laws.WordFields.Statement (.lmcast h o) := .inr fun w =>
  have ⟨w, a1⟩ := andP w
  ⟨_, rfl, send_fits w (by decide) a1⟩
theorem Laws.WordFields.lap (h : Head) (dst : Nat) (sa : Nat) (sb : Nat) (eng : Eng) : Laws.WordFields.Statement (.lap h dst sa sb eng) := .inr fun w =>
  have ⟨w, a4⟩ := andP w
  have ⟨w, a3⟩ := andP w
  have ⟨w, a2⟩ := andP w
  have ⟨w, a1⟩ := andP w
  have ⟨e, _⟩ := andP a4
  have ⟨e, _⟩ := andP e
  have ⟨e, x⟩ := andP e
  ⟨_, rfl, eEng_fits w (by decide) (sdstOk_lt a1) (scalarOk_lt a2) (scalarOk_lt a3) (by decide) (by decide) (ltP (andP e).1) (ltP (andP e).2) (ltP x)⟩
theorem Laws.WordFields.lapRel (h : Head) (dst : Nat) (sa : Nat) : Laws.WordFields.Statement (.lapRel h dst sa) := .inr fun w =>
  have ⟨w, a2⟩ := andP w
  have ⟨w, a1⟩ := andP w
  ⟨_, rfl, plain_fits w (by decide) (sdstOk_lt a1) (scalarOk_lt a2) (by decide) (by decide) (by decide) untimed_lt⟩
theorem Laws.WordFields.lapq (h : Head) (dst : Nat) (sa : Nat) : Laws.WordFields.Statement (.lapq h dst sa) := .inr fun w =>
  have ⟨w, a2⟩ := andP w
  have ⟨w, a1⟩ := andP w
  ⟨_, rfl, plain_fits w (by decide) (sdstOk_lt a1) (scalarOk_lt a2) (by decide) (by decide) (by decide) untimed_lt⟩
theorem Laws.WordFields.sysr (h : Head) (dst : Nat) (srn : Nat) : Laws.WordFields.Statement (.sysr h dst srn) := .inr fun w =>
  have ⟨w, a2⟩ := andP w
  have ⟨w, a1⟩ := andP w
  ⟨_, rfl, mk_fits w (by decide) (by decide) (sdstOk_lt a1) (by decide) (srnOk_lt a2) (.none (by decide))⟩
theorem Laws.WordFields.sysw (h : Head) (sa : Nat) (srn : Nat) : Laws.WordFields.Statement (.sysw h sa srn) := .inr fun w =>
  have ⟨w, a2⟩ := andP w
  have ⟨w, a1⟩ := andP w
  ⟨_, rfl, mk_fits w (by decide) (by decide) (by decide) (scalarOk_lt a1) (srnOk_lt a2) (.none (by decide))⟩
theorem Laws.WordFields.tret (h : Head) : Laws.WordFields.Statement (.tret h) := .inr fun w =>
  ⟨_, rfl, eBare_fits w (by decide) (by decide) (by decide)⟩
theorem Laws.WordFields.trim (h : Head) (x : VSrc) : Laws.WordFields.Statement (.trim h x) := .inr fun w =>
  have ⟨w, a1⟩ := andP w
  have f := VSrc.fits_scalar a1
  ⟨_, rfl, mk_fits_sb w (by decide) (by decide) (by decide) f.2.1 (by decide) (by decide) ⟨f.1, (by decide), f.2.2⟩⟩
theorem Laws.WordFields.ctxsv (h : Head) (force : Bool) (dst : Nat) (sa : Nat) (sb : Nat) (sc : Nat) : Laws.WordFields.Statement (.ctxsv h force dst sa sb sc) := .inr fun w =>
  have ⟨w, a4⟩ := andP w
  have ⟨w, a3⟩ := andP w
  have ⟨w, a2⟩ := andP w
  have ⟨w, a1⟩ := andP w
  ⟨_, rfl, mk_fits_sb w (by decide) (by decide) (sdstOk_lt a1) (scalarOk_lt a2) (scalarOk_lt a3) (Nat.lt_of_le_of_lt force.toNat_le (by decide)) (.sc (scalarOk_lt a4))⟩
theorem Laws.WordFields.ctxld (h : Head) (dst : Nat) (sa : Nat) (sb : Nat) : Laws.WordFields.Statement (.ctxld h dst sa sb) := .inr fun w =>
  have ⟨w, a3⟩ := andP w
  have ⟨w, a2⟩ := andP w
  have ⟨w, a1⟩ := andP w
  ⟨_, rfl, mk_fits w (by decide) (by decide) (sdstOk_lt a1) (scalarOk_lt a2) (by decide) (.none (scalarOk_lt a3))⟩
theorem Laws.WordFields.leaseGrant (h : Head) (dst : Nat) (sa : Nat) : Laws.WordFields.Statement (.leaseGrant h dst sa) := .inr fun w =>
  have ⟨w, a2⟩ := andP w
  have ⟨w, a1⟩ := andP w
  ⟨_, rfl, mk_fits w (by decide) (by decide) (sdstOk_lt a1) (scalarOk_lt a2) (by decide) (.none (by decide))⟩
theorem Laws.WordFields.leaseRelease (h : Head) (dst : Nat) (sa : Nat) : Laws.WordFields.Statement (.leaseRelease h dst sa) := .inr fun w =>
  have ⟨w, a2⟩ := andP w
  have ⟨w, a1⟩ := andP w
  ⟨_, rfl, mk_fits w (by decide) (by decide) (sdstOk_lt a1) (scalarOk_lt a2) (by decide) (.none (by decide))⟩
theorem Laws.WordFields.leaseRevoke (h : Head) (dst : Nat) (sa : Nat) : Laws.WordFields.Statement (.leaseRevoke h dst sa) := .inr fun w =>
  have ⟨w, a2⟩ := andP w
  have ⟨w, a1⟩ := andP w
  ⟨_, rfl, mk_fits w (by decide) (by decide) (sdstOk_lt a1) (scalarOk_lt a2) (by decide) (.none (by decide))⟩
theorem Laws.WordFields.pown (h : Head) (dst : Nat) (sa : Nat) (sb : Nat) : Laws.WordFields.Statement (.pown h dst sa sb) := .inr fun w =>
  have ⟨w, a3⟩ := andP w
  have ⟨w, a2⟩ := andP w
  have ⟨w, a1⟩ := andP w
  ⟨_, rfl, mk_fits w (by decide) (by decide) (sdstOk_lt a1) (scalarOk_lt a2) (by decide) (.none (scalarOk_lt a3))⟩
theorem Laws.WordFields.wdog (h : Head) (sa : Nat) (sb : Nat) : Laws.WordFields.Statement (.wdog h sa sb) := .inr fun w =>
  have ⟨w, a2⟩ := andP w
  have ⟨w, a1⟩ := andP w
  ⟨_, rfl, mk_fits w (by decide) (by decide) (by decide) (scalarOk_lt a1) (by decide) (.none (scalarOk_lt a2))⟩
theorem Laws.WordFields.haltWait (h : Head) : Laws.WordFields.Statement (.haltWait h) := .inr fun w =>
  ⟨_, rfl, eBare_fits w (by decide) (by decide) (by decide)⟩
theorem Laws.WordFields.haltPkg (h : Head) : Laws.WordFields.Statement (.haltPkg h) := .inr fun w =>
  ⟨_, rfl, eBare_fits w (by decide) (by decide) (by decide)⟩
theorem Laws.WordFields.lateEventClear (tr : Nat) : Laws.WordFields.Statement (.lateEventClear tr) := .inl rfl
theorem Laws.WordFields.registerLanding (tr : Nat) : Laws.WordFields.Statement (.registerLanding tr) := .inl rfl
theorem Laws.WordFields.poolWriteLanding (tr : Nat) : Laws.WordFields.Statement (.poolWriteLanding tr) := .inl rfl
theorem Laws.WordFields.sfuEntryStart (tr : Nat) : Laws.WordFields.Statement (.sfuEntryStart tr) := .inl rfl
theorem Laws.WordFields.columnEntryStart (tr : Nat) : Laws.WordFields.Statement (.columnEntryStart tr) := .inl rfl
theorem Laws.WordFields.matrixKstep (tr : Nat) : Laws.WordFields.Statement (.matrixKstep tr) := .inl rfl
theorem Laws.WordFields.engineOutputLanding (tr : Nat) : Laws.WordFields.Statement (.engineOutputLanding tr) := .inl rfl
theorem Laws.WordFields.lredReceive (tr : Nat) : Laws.WordFields.Statement (.lredReceive tr) := .inl rfl
theorem Laws.WordFields.checkFaultTaken (slot : Nat) : Laws.WordFields.Statement (.checkFaultTaken slot) := .inl rfl
theorem Laws.WordFields.alignmentRelease (tr : Nat) : Laws.WordFields.Statement (.alignmentRelease tr) := .inl rfl
theorem Laws.WordFields.quantumBoundary (tr : Nat) : Laws.WordFields.Statement (.quantumBoundary tr) := .inl rfl
theorem Laws.WordFields.errorConsumption (tr : Nat) (page : Option Nat) : Laws.WordFields.Statement (.errorConsumption tr page) := .inl rfl
theorem Laws.WordFields.pauseOverrun (tr : Nat) : Laws.WordFields.Statement (.pauseOverrun tr) := .inl rfl
theorem Laws.WordFields.governorCheck (power : Nat) (draws : List (Nat × Nat)) : Laws.WordFields.Statement (.governorCheck power draws) := .inl rfl
theorem Laws.WordFields.teamPlacement (tr : Nat) : Laws.WordFields.Statement (.teamPlacement tr) := .inl rfl
theorem Laws.WordFields.yieldRestore (tr : Nat) : Laws.WordFields.Statement (.yieldRestore tr) := .inl rfl
theorem Laws.WordFields.teamEnd (tr : Nat) (team : Nat) : Laws.WordFields.Statement (.teamEnd tr team) := .inl rfl
theorem Laws.WordFields.watchdogExpiry (tr : Nat) (team : Nat) : Laws.WordFields.Statement (.watchdogExpiry tr team) := .inl rfl
theorem Laws.WordFields.drainDeadline (req : Nat) : Laws.WordFields.Statement (.drainDeadline req) := .inl rfl
theorem Laws.WordFields.contextRestore (req : Nat) : Laws.WordFields.Statement (.contextRestore req) := .inl rfl
theorem Laws.WordFields.fansEnd (ix : Nat) : Laws.WordFields.Statement (.fansEnd ix) := .inl rfl
theorem Laws.WordFields.fansResume (ix : Nat) : Laws.WordFields.Statement (.fansResume ix) := .inl rfl
theorem Laws.WordFields.loopTokenArrival (pos : Nat) (tokenBc : W64) (malformed : Bool) : Laws.WordFields.Statement (.loopTokenArrival pos tokenBc malformed) := .inl rfl
theorem Laws.WordFields.recordWrite (r : LoopRec) (crcOk : Bool) : Laws.WordFields.Statement (.recordWrite r crcOk) := .inl rfl
theorem Laws.WordFields.recordAdd (r : LoopRec) (crcOk : Bool) : Laws.WordFields.Statement (.recordAdd r crcOk) := .inl rfl
theorem Laws.WordFields.recordSetz (r : LoopRec) (crcOk : Bool) : Laws.WordFields.Statement (.recordSetz r crcOk) := .inl rfl
theorem Laws.WordFields.recordCas (r : LoopRec) (crcOk : Bool) : Laws.WordFields.Statement (.recordCas r crcOk) := .inl rfl
theorem Laws.WordFields.recordLaunch (r : LoopRec) (crcOk : Bool) : Laws.WordFields.Statement (.recordLaunch r crcOk) := .inl rfl
theorem Laws.WordFields.recordTmap (r : LoopRec) (crcOk : Bool) : Laws.WordFields.Statement (.recordTmap r crcOk) := .inl rfl
theorem Laws.WordFields.recordRecov (r : LoopRec) (crcOk : Bool) : Laws.WordFields.Statement (.recordRecov r crcOk) := .inl rfl
theorem Laws.WordFields.recordNote (op : Nat) (r : LoopRec) (crcOk : Bool) : Laws.WordFields.Statement (.recordNote op r crcOk) := .inl rfl
theorem Laws.WordFields.rejoinRequest (member : Nat) : Laws.WordFields.Statement (.rejoinRequest member) := .inl rfl
theorem Laws.WordFields.dialTransfer (m : W64) (d : List (Nat × W64)) : Laws.WordFields.Statement (.dialTransfer m d) := .inl rfl
theorem Laws.WordFields.cellSend (port : Nat) : Laws.WordFields.Statement (.cellSend port) := .inl rfl
theorem Laws.WordFields.cellArrival (c : LinkCell) (crcOk : Bool) : Laws.WordFields.Statement (.cellArrival c crcOk) := .inl rfl
theorem Laws.WordFields.leafManagementWrite (v : W64) : Laws.WordFields.Statement (.leafManagementWrite v) := .inl rfl
theorem Laws.WordFields.leafAckArrival (err : Bool) : Laws.WordFields.Statement (.leafAckArrival err) := .inl rfl
theorem Laws.WordFields.hallFrameSend (plane : Nat) : Laws.WordFields.Statement (.hallFrameSend plane) := .inl rfl
theorem Laws.WordFields.hallReplyArrival (f : HallFrame) (err : Bool) : Laws.WordFields.Statement (.hallReplyArrival f err) := .inl rfl
theorem Laws.WordFields.hallRequestArrival (f : HallFrame) : Laws.WordFields.Statement (.hallRequestArrival f) := .inl rfl
theorem Laws.WordFields.hallRetryTimeout (plane : Nat) (tag : Nat) : Laws.WordFields.Statement (.hallRetryTimeout plane tag) := .inl rfl
theorem Laws.WordFields.queueMap (slot : Nat) (qcb : Nat) (prio : Nat) (rclass : Nat) (owner : Nat) : Laws.WordFields.Statement (.queueMap slot qcb prio rclass owner) := .inl rfl
theorem Laws.WordFields.queueRemap (slot : Nat) : Laws.WordFields.Statement (.queueRemap slot) := .inl rfl
theorem Laws.WordFields.queueLaunchEntry (slot : Nat) : Laws.WordFields.Statement (.queueLaunchEntry slot) := .inl rfl
theorem Laws.WordFields.queueWaitEntry (slot : Nat) : Laws.WordFields.Statement (.queueWaitEntry slot) := .inl rfl
theorem Laws.WordFields.queueAddEntry (slot : Nat) : Laws.WordFields.Statement (.queueAddEntry slot) := .inl rfl
theorem Laws.WordFields.queueNopEntry (slot : Nat) : Laws.WordFields.Statement (.queueNopEntry slot) := .inl rfl
theorem Laws.WordFields.launchStart (launch : Nat) : Laws.WordFields.Statement (.launchStart launch) := .inl rfl
theorem Laws.WordFields.launchEnd (tr : Nat) : Laws.WordFields.Statement (.launchEnd tr) := .inl rfl
theorem Laws.WordFields.leaseGrantComplete (desc : Nat) : Laws.WordFields.Statement (.leaseGrantComplete desc) := .inl rfl
theorem Laws.WordFields.revokeUnpin (desc : Nat) : Laws.WordFields.Statement (.revokeUnpin desc) := .inl rfl
theorem Laws.WordFields.hpolWrite (owner : Nat) (v : W64) : Laws.WordFields.Statement (.hpolWrite owner v) := .inl rfl
theorem Laws.WordFields.clusterRemovalComplete (owner : Nat) : Laws.WordFields.Statement (.clusterRemovalComplete owner) := .inl rfl
theorem Laws.WordFields.lapDrain (lap : Nat) : Laws.WordFields.Statement (.lapDrain lap) := .inl rfl
theorem Laws.WordFields.scrubPass (corrected : List Nat) (poisoned : List Nat) : Laws.WordFields.Statement (.scrubPass corrected poisoned) := .inl rfl
theorem Laws.WordFields.companionRead (owner : Nat) (addr : Nat) (len : Nat) : Laws.WordFields.Statement (.companionRead owner addr len) := .inl rfl
theorem Laws.WordFields.companionWrite (owner : Nat) (addr : Nat) (data : List Byte) : Laws.WordFields.Statement (.companionWrite owner addr data) := .inl rfl
theorem Laws.WordFields.training (result : Option (Nat × Nat)) : Laws.WordFields.Statement (.training result) := .inl rfl
theorem Laws.WordFields.sraddrRead (srn : Nat) : Laws.WordFields.Statement (.sraddrRead srn) := .inl rfl
theorem Laws.WordFields.sraddrWrite (srn : Nat) : Laws.WordFields.Statement (.sraddrWrite srn) := .inl rfl
theorem Laws.WordFields.registerWrite (offset : Nat) (v : W64) : Laws.WordFields.Statement (.registerWrite offset v) := .inl rfl
theorem Laws.WordFields.fuseProgramComplete (failed : Bool) : Laws.WordFields.Statement (.fuseProgramComplete failed) := .inl rfl
theorem Laws.WordFields.remoteLeaseRequest (page : Nat) (count : Nat) (owner : Nat) (kind : Nat) (cls : Nat) (holder : W64) : Laws.WordFields.Statement (.remoteLeaseRequest page count owner kind cls holder) := .inl rfl
theorem Laws.WordFields.vcAdvance : Laws.WordFields.Statement (.vcAdvance) := .inl rfl
theorem Laws.WordFields.tokenLoss : Laws.WordFields.Statement (.tokenLoss) := .inl rfl
theorem Laws.WordFields.tokenRegenerate : Laws.WordFields.Statement (.tokenRegenerate) := .inl rfl
theorem Laws.WordFields.bucketRefill : Laws.WordFields.Statement (.bucketRefill) := .inl rfl
theorem Laws.WordFields.powerOn : Laws.WordFields.Statement (.powerOn) := .inl rfl
theorem Laws.WordFields.powerRemove : Laws.WordFields.Statement (.powerRemove) := .inl rfl
theorem Laws.WordFields.bootctlGo : Laws.WordFields.Statement (.bootctlGo) := .inl rfl
theorem Laws.WordFields.bootctlNonce : Laws.WordFields.Statement (.bootctlNonce) := .inl rfl
theorem Laws.WordFields.joinTokenTimeout : Laws.WordFields.Statement (.joinTokenTimeout) := .inl rfl
theorem Laws.WordFields.joinFailTimeout : Laws.WordFields.Statement (.joinFailTimeout) := .inl rfl
theorem Laws.WordFields.fusecProgram : Laws.WordFields.Statement (.fusecProgram) := .inl rfl
theorem Laws.WordFields.thermalPause : Laws.WordFields.Statement (.thermalPause) := .inl rfl
theorem Laws.WordFields.thermalResume : Laws.WordFields.Statement (.thermalResume) := .inl rfl
theorem Laws.WordFields.thermalTrip : Laws.WordFields.Statement (.thermalTrip) := .inl rfl
theorem Laws.WordFields.powerTrip : Laws.WordFields.Statement (.powerTrip) := .inl rfl

end Sys2Proof
end

