-- ==== Sys2Proof/Tests/Slice0.lean ====
section
/-!
SUPPORT. Tests: ill-formed terms, words written out from the spec's encodings, single steps, and for every obligation with hypotheses
states and operands that meet them.
-/

namespace Sys2Proof.Tests
open Machine

set_option Elab.async false

/-! ### Ill-formed terms, one for each check of WellFormed -/

def plain : Head := { d := 0, e := false, pred := 0, pn := false }
def never : Head := { plain with pn := true }
def s2 (d a : Nat) (b : Src) : S2 := { dst := d, sa := a, b := b }
def v2 (pk d a : Nat) (b : VSrc) : V2 := { pk := pk, u := false, dst := d, sa := a, b := b }
def f2 (rm d a : Nat) (b : VSrc) : F2 := { rm := rm, sat := false, dst := d, sa := a, b := b }
def addr (sz : Nat) : MAddr := { sz := sz, sh := 0, vs := false, nov := true, sa := 0, sb := 0, imm := none }
def atom (sz d c : Nat) : Atom := { a := addr sz, scope := 0, nr := false, dst := d, sc := c }
def cpy : Copy :=
  { dst := 3, sa := 4, sb := 7, sk := 0, dk := 1, slot := 0, f := 0, ss := 0, cmp := false, box := 8, x := 0, y := 0, esz := 0
    eng := { cnt := 0, csel := 0, ofs := untimed } }
def espl : Esp :=
  { dst := 3, sa := 4, sb := 8, sk := 0, dk := 0, esz := 0, slot := 0, spl := 10, lw := 11, g := 14
    eng := { cnt := 0, csel := 0, ofs := untimed } }
def acc : Acc := { tile := 0, row0 := 0, nrm1 := 0, rm := 0, sat := false, fmt := 31, dk := false, reg := 4, ofs := untimed }
def send : Send := { port := 0, slot := 0, flow := 0, sa := 4, sb := 0, rop := 0, ofs := 100 }
def hall : Hall := { lk := false, ac := 0, aq := false, sa := 4, sb := 8, lens := 10, cnt := 0, csel := 1 }

theorem test_head_refused : (Instr.nop { plain with d := 16 } 0).wf = false ∧ (Instr.nop { plain with pred := 8 } 0).wf = false := by
  decide
theorem test_scalar_refused : (Instr.add plain (s2 128 0 (.reg 0))).wf = false ∧ (Instr.add plain (s2 0 128 (.reg 0))).wf = false ∧
    (Instr.add plain (s2 0 0 (.reg 157))).wf = false ∧ (Instr.bra plain (.reg 128)).wf = false := by decide
theorem test_target_refused : (Instr.brc plain 0 false (.reg 0)).wf = false ∧ (Instr.loop plain 0 (.reg 0)).wf = false := by decide
theorem test_field_refused : (Instr.bfx plain 1 63 { dst := 0, sa := 0 }).wf = false ∧
    (Instr.ibfx plain false 1 31 { pk := 0, dst := 0, sa := 0 }).wf = false ∧ (Instr.lea plain 8 (s2 0 0 (.reg 0))).wf = false := by decide
theorem test_condition_refused : (Instr.cmp plain 10 (s2 1 0 (.reg 0))).wf = false ∧ (Instr.cmp plain 0 (s2 0 0 (.reg 0))).wf = false ∧
    (Instr.sel plain 8 false (s2 0 0 (.reg 0))).wf = false := by decide
theorem test_vector_refused : (Instr.iadd plain (v2 0 256 0 (.reg 0))).wf = false ∧ (Instr.iadd plain (v2 0 0 0 (.reg 256))).wf = false ∧
    (Instr.iadd plain (v2 3 0 0 (.reg 0))).wf = false ∧ (Instr.iand plain (v2 1 0 0 (.reg 0))).wf = false ∧
    (Instr.iadd plain { v2 0 0 0 (.reg 0) with u := true }).wf = false ∧ (Instr.imovi plain 0 (.imm64 0)).wf = false := by decide
theorem test_decision_refused : (Instr.imaxb plain (.mask 0 0) (v2 0 0 0 (.reg 0))).wf = false ∧
    (Instr.imaxb plain (.mask 1 1) (v2 0 0 0 (.reg 0))).wf = false ∧ (Instr.imaxb plain (.scalar 0 4) (v2 0 0 0 (.reg 0))).wf = false ∧
    (Instr.icmp plain 0 2 (v2 1 1 0 (.reg 0))).wf = false := by decide
theorem test_mask_refused : (Instr.mand plain { nb := false, dst := 0, sa := 0, sb := 0 }).wf = false ∧ (Instr.mpop plain 0 8).wf = false ∧
    (Instr.imov plain 0 (.other 157)).wf = false ∧ (Instr.vote plain 0 1 0 (.other 0)).wf = false := by decide
theorem test_float_refused : (Instr.fadd plain (f2 6 0 0 (.reg 0))).wf = false ∧ (Instr.fmin plain (f2 1 0 0 (.reg 0))).wf = false ∧
    (Instr.fcmp plain 8 (f2 0 1 0 (.reg 0))).wf = false ∧ (Instr.fadd2 plain (f2 0 1 0 (.reg 0))).wf = false ∧
    (Instr.fadd2 plain (f2 0 0 0 (.imm 0))).wf = false ∧ (Instr.fdiv plain (f2 0 0 0 (.imm 0))).wf = false ∧
    (Instr.qpack plain 16 false (f2 0 0 0 (.reg 0))).wf = false := by decide
theorem test_conversion_refused : (Instr.fcvt plain { rm := 0, sat := false, f := 7, j := 0, dst := 0, sa := 0 }).wf = false ∧
    (Instr.fcvt plain { rm := 0, sat := false, f := 0, j := 2, dst := 0, sa := 0 }).wf = false ∧
    (Instr.fcvti plain { rm := 0, sat := true, f := 0, j := 0, dst := 0, sa := 0 }).wf = false ∧
    (Instr.icvtf plain { rm := 0, sat := false, f := 0, j := 1, dst := 0, sa := 0 }).wf = false := by decide
theorem test_reduction_refused : (Instr.red plain 11 0 0 0).wf = false ∧ (Instr.scan plain 0 1 false 0 0).wf = false := by decide
theorem test_address_refused : (Instr.ldp plain 1 false (addr 3)).wf = false ∧ (Instr.ldp plain 0 true (addr 0)).wf = false ∧
    (Instr.stg plain 0 { addr 0 with sb := 1 }).wf = false ∧ (Instr.stg plain 0 { addr 0 with sh := 4 }).wf = false := by decide
theorem test_atomic_refused : (Instr.aadd plain (atom 1 0 0)).wf = false ∧ (Instr.acas plain (atom 0 0 1)).wf = false ∧
    (Instr.acas plain (atom 3 0 2)).wf = false ∧ (Instr.afadd plain (atom 3 0 0)).wf = false ∧ (Instr.ainc plain (atom 0 0 1)).wf = false ∧
    (Instr.aadd plain { atom 0 1 0 with nr := true }).wf = false := by decide
theorem test_counter_refused : (Instr.fenceAcq plain 8).wf = false ∧ (Instr.waitc plain { scope := 8, sa := 0, b := .imm32 0 }).wf = false ∧
    (Instr.drec plain { rop := 8, rlen := 1, sa := 0, sb := 0 }).wf = false ∧
    (Instr.drec plain { rop := 0, rlen := 2, sa := 0, sb := 127 }).wf = false := by decide
theorem test_control_refused : (Instr.bar plain 16).wf = false ∧ (Instr.nop plain 3).wf = false ∧ (Instr.trap plain 65536).wf = false ∧
    (Instr.setfmt plain 256 (.imm 0)).wf = false ∧ (Instr.twait plain (2 ^ 24)).wf = false := by decide
theorem test_engine_refused : (Instr.mma plain { tile := 16, sa := 0, sb := 0, nm1 := 0, k0 := 0, z := false, ofs := 0 }).wf = false ∧
    (Instr.accrd plain { acc with fmt := 4 }).wf = false ∧ (Instr.accrd plain { acc with rm := 1 }).wf = false ∧
    (Instr.accwr plain { acc with dk := true }).wf = false ∧ (Instr.tclaim plain 0 65536).wf = false ∧
    (Instr.tfill plain { slot := 0, sa := 126, f := 0, ss := 0, nrm1 := 0, row0 := 0, ofs := 0 }).wf = false ∧
    (Instr.accz plain 0 (2 ^ 24)).wf = false := by decide
theorem test_copy_refused : (Instr.cpy plain cpy).wf = true ∧ (Instr.cpy plain { cpy with sk := 2 }).wf = false ∧
    (Instr.cpy plain { cpy with cmp := true }).wf = false ∧ (Instr.cpy plain { cpy with slot := 1 }).wf = false ∧
    (Instr.cpyr plain { cpy with sk := 1, dk := 0, esz := 3 }).wf = false ∧ (Instr.cpyk plain { cpy with cmp := true, y := 127 }).wf = false ∧
    (Instr.cpy plain { cpy with eng := { cnt := 1, csel := 0, ofs := 0 } }).wf = false ∧
    (Instr.cpy plain { cpy with box := 126 }).wf = false := by decide
theorem test_link_refused : (Instr.esp plain espl).wf = true ∧ (Instr.esp plain { espl with sk := 1, dk := 1 }).wf = false ∧
    (Instr.lsend plain send).wf = true ∧ (Instr.lsend plain { send with ofs := untimed }).wf = false ∧
    (Instr.lsend plain { send with rop := 1 }).wf = false ∧ (Instr.lput plain hall).wf = true ∧
    (Instr.lput plain { hall with csel := 0 }).wf = false ∧ (Instr.lputAtomic plain { hall with ac := 13 }).wf = false ∧
    (Instr.lputAtomic plain { hall with ac := 11, aq := true }).wf = false ∧ (Instr.lput plain { hall with sb := 127 }).wf = false ∧
    (Instr.lap plain 0 0 0 { cnt := 0, csel := 0, ofs := 0 }).wf = false := by decide
theorem test_system_refused : (Instr.sysr plain 0 0x16).wf = false ∧ (Instr.sysw plain 0 0x3800).wf = false := by decide

/-! ### Words written out from R198, R199, R210 and the tables of the instruction chapters -/

/-- D 9, E set, PRED 5, PN set. -/
def h : Head := { d := 9, e := true, pred := 5, pn := true }

def words_scalar_1 : List (Nat × Instr) := [
  (0xA040F4004C, .add h { dst := 3, sa := 129, b := .reg 2 }),
  (0x800000010000000040F4044D, .sub h { dst := 3, sa := 1, b := .imm32 0x80000001 }),
  (0x80000000000000010000000040F4084E, .mul h { dst := 3, sa := 1, b := .imm64 0x8000000000000001 }),
  (0xA040F40C4C, .mulh h { dst := 3, sa := 129, b := .reg 2 }),
  (0x800000010000000040F4104D, .mulhu h { dst := 3, sa := 1, b := .imm32 0x80000001 }),
  (0x80000000000000010000000040F4184E, .and h { dst := 3, sa := 1, b := .imm64 0x8000000000000001 }),
  (0xA040F41C4C, .or h { dst := 3, sa := 129, b := .reg 2 }),
  (0x800000010000000040F4204D, .xor h { dst := 3, sa := 1, b := .imm32 0x80000001 }),
  (0x80000000000000010000000040F4244E, .andn h { dst := 3, sa := 1, b := .imm64 0x8000000000000001 }),
  (0xA040F4284C, .shl h { dst := 3, sa := 129, b := .reg 2 }),
  (0x800000010000000040F42C4D, .shr h { dst := 3, sa := 1, b := .imm32 0x80000001 }),
  (0x80000000000000010000000040F4304E, .sra h { dst := 3, sa := 1, b := .imm64 0x8000000000000001 }),
  (0xA040F4344C, .rol h { dst := 3, sa := 129, b := .reg 2 }),
  (0x800000010000000040F4384D, .min h { dst := 3, sa := 1, b := .imm32 0x80000001 }),
  (0x80000000000000010000000040F43C4E, .max h { dst := 3, sa := 1, b := .imm64 0x8000000000000001 }),
  (0xA040F4404C, .minu h { dst := 3, sa := 129, b := .reg 2 }),
  (0x800000010000000040F4444D, .maxu h { dst := 3, sa := 1, b := .imm32 0x80000001 }),
  (0x80000000000000010000000040F4784E, .divu h { dst := 3, sa := 1, b := .imm64 0x8000000000000001 }),
  (0xA040F47C4C, .remu h { dst := 3, sa := 129, b := .reg 2 }),
  (0x40000008040F4144D, .mad h { dst := 3, sa := 1, sb := 2, sc := 4 })]
theorem test_decode_scalar_1 : ∀ p ∈ words_scalar_1, decodeWord p.1 = .ok p.2 ∧ encode p.2 = some p.1 := by decide +kernel
def words_scalar_2 : List (Nat × Instr) := [
  (0x2408041F4484C, .cmp h 9 { dst := 7, sa := 1, b := .reg 2 }),
  (0x380A040F44C4C, .sel h 6 true { dst := 3, sa := 129, b := .reg 2 }),
  (0x2080F4504C, .mov h { dst := 3, sa := 130 }),
  (0x2080F4584C, .clz h { dst := 3, sa := 130 }),
  (0x2080F45C4C, .ctz h { dst := 3, sa := 130 }),
  (0x2080F4604C, .popc h { dst := 3, sa := 130 }),
  (0x2080F4644C, .brev h { dst := 3, sa := 130 }),
  (0x3FFF800000F4544C, .movi h 3 (.imm16 0xFFFE)),
  (0x800000010000000000F4544D, .movi h 3 (.imm32 0x80000001)),
  (0x80000000000000010000000000F4544E, .movi h 3 (.imm64 0x8000000000000001)),
  (0x3A1400040F4684C, .bfx h 5 58 { dst := 3, sa := 1 }),
  (0xFC00040F46C4C, .bfxu h 63 0 { dst := 3, sa := 1 }),
  (0x8000000103F0000040F4704D, .bfi h 0 63 { dst := 3, sa := 1, b := .imm32 0x80000001 }),
  (0x1C0A040F4744C, .lea h 7 { dst := 3, sa := 129, b := .reg 2 })]
theorem test_decode_scalar_2 : ∀ p ∈ words_scalar_2, decodeWord p.1 = .ok p.2 ∧ encode p.2 = some p.1 := by decide +kernel
def words_integer_1 : List (Nat × Instr) := [
  (0x3EFF3F7400CC, .iadd h { pk := 0, u := false, dst := 253, sa := 252, b := .reg 251 }),
  (0x800000010000403F3F7404CD, .isub h { pk := 1, u := false, dst := 253, sa := 252, b := .imm 0x80000001 }),
  (0xBEFF3F7408CC, .imul h { pk := 2, u := false, dst := 253, sa := 252, b := .reg 251 }),
  (0x800000010000003F3F741CCD, .imin h { pk := 0, u := false, dst := 253, sa := 252, b := .imm 0x80000001 }),
  (0x7EFF3F7420CC, .imax h { pk := 1, u := false, dst := 253, sa := 252, b := .reg 251 }),
  (0x800000010000803F3F7424CD, .iminu h { pk := 2, u := false, dst := 253, sa := 252, b := .imm 0x80000001 }),
  (0x3EFF3F7428CC, .imaxu h { pk := 0, u := false, dst := 253, sa := 252, b := .reg 251 }),
  (0x800000010000403F3F7448CD, .ishl h { pk := 1, u := false, dst := 253, sa := 252, b := .imm 0x80000001 }),
  (0xBEFF3F744CCC, .ishr h { pk := 2, u := false, dst := 253, sa := 252, b := .reg 251 }),
  (0x800000010000003F3F7450CD, .isra h { pk := 0, u := false, dst := 253, sa := 252, b := .imm 0x80000001 }),
  (0x13EFF3F740CCC, .imulh h { pk := 0, u := true, dst := 253, sa := 252, b := .reg 251 }),
  (0x17EFF3F7418CC, .iabsd h { pk := 1, u := true, dst := 253, sa := 252, b := .reg 251 }),
  (0x1BEFF3F7430CC, .iadds h { pk := 2, u := true, dst := 253, sa := 252, b := .reg 251 }),
  (0x13EFF3F7434CC, .isubs h { pk := 0, u := true, dst := 253, sa := 252, b := .reg 251 }),
  (0xFA00007EFF3F7410CD, .imad h { pk := 1, dst := 253, sa := 252, sb := 251, sc := 250 }),
  (0x3F3F7414CC, .iabs h { pk := 0, dst := 253, sa := 252 }),
  (0x403F3F7464CC, .ipopc h { pk := 1, dst := 253, sa := 252 }),
  (0x803F3F7468CC, .iclz h { pk := 2, dst := 253, sa := 252 }),
  (0x3F3F746CCC, .ibrev h { pk := 0, dst := 253, sa := 252 }),
  (0x4197EFF3F742CCC, .imaxb h (.mask 6 1) { pk := 1, u := true, dst := 253, sa := 252, b := .reg 251 })]
theorem test_decode_integer_1 : ∀ p ∈ words_integer_1, decodeWord p.1 = .ok p.2 ∧ encode p.2 = some p.1 := by decide +kernel
def words_integer_2 : List (Nat × Instr) := [
  (0xDFEBEFF3F742CCC, .imaxb h (.scalar 127 3) { pk := 2, u := false, dst := 253, sa := 252, b := .reg 251 }),
  (0x3EFF3F7438CC, .iand h { pk := 0, u := false, dst := 253, sa := 252, b := .reg 251 }),
  (0x3EFF3F743CCC, .ior h { pk := 0, u := false, dst := 253, sa := 252, b := .reg 251 }),
  (0x3EFF3F7440CC, .ixor h { pk := 0, u := false, dst := 253, sa := 252, b := .reg 251 }),
  (0x3F3F7444CC, .inot h { pk := 0, dst := 253, sa := 252 }),
  (0x38BEFF01F454CC, .icmp h 8 3 { pk := 2, u := false, dst := 7, sa := 252, b := .reg 251 }),
  (0xD3EFF3F7458CC, .isel h 5 true { pk := 0, u := false, dst := 253, sa := 252, b := .reg 251 }),
  (0x3F3F745CCC, .imov h 253 (.vec 252)),
  (0x100203F745CCC, .imov h 253 (.other 128)),
  (0x200040003F7460CC, .imovi h 253 (.imm16 0x8001)),
  (0x80000001000000003F7460CD, .imovi h 253 (.imm32 0x80000001)),
  (0x707003F3F7470CC, .ibfx h true 3 28 { pk := 0, dst := 253, sa := 252 }),
  (0x3E3EFF3F7474CC, .ibfi h 31 0 { pk := 0, u := false, dst := 253, sa := 252, b := .reg 251 }),
  (0x40C0807478CC, .mand h { nb := true, dst := 1, sa := 2, sb := 3 }),
  (0x40C080747CCC, .mor h { nb := true, dst := 1, sa := 2, sb := 3 }),
  (0x40C0807480CC, .mxor h { nb := true, dst := 1, sa := 2, sb := 3 }),
  (0x1C0F484CC, .mpop h 3 7)]
theorem test_decode_integer_2 : ∀ p ∈ words_integer_2, decodeWord p.1 = .ok p.2 ∧ encode p.2 = some p.1 := by decide +kernel
def words_float_1 : List (Nat × Instr) := [
  (0x33EFF3F74014C, .fadd h { rm := 4, sat := true, dst := 253, sa := 252, b := .reg 251 }),
  (0x33EFF3F74094C, .fmul h { rm := 4, sat := true, dst := 253, sa := 252, b := .reg 251 }),
  (0x800000010003003F3F74054D, .fsub h { rm := 4, sat := true, dst := 253, sa := 252, b := .imm 0x80000001 }),
  (0x800000010003003F3F74354D, .fscale h { rm := 4, sat := true, dst := 253, sa := 252, b := .imm 0x80000001 }),
  (0xFA00017EFF3F740D4D, .fma h { rm := 5, sat := false, dst := 253, sa := 252, sb := 251, sc := 250 }),
  (0x3EFF3F74114C, .fmin h { rm := 0, sat := false, dst := 253, sa := 252, b := .reg 251 }),
  (0x3EFF3F74154C, .fmax h { rm := 0, sat := false, dst := 253, sa := 252, b := .reg 251 }),
  (0x1C3EFF01B4194C, .fcmp h 7 { rm := 0, sat := false, dst := 6, sa := 252, b := .reg 251 }),
  (0x4003F3F741D4C, .fabs h true 253 252),
  (0x803F3F74214C, .frnd h { rm := 2, sat := false, dst := 253, sa := 252 }),
  (0x20E403F3F74254C, .fcvt h { rm := 1, sat := true, f := 3, j := 2, dst := 253, sa := 252 }),
  (0x798003F3F74254C, .fcvtToF32 h { rm := 0, sat := false, f := 6, j := 7, dst := 253, sa := 252 }),
  (0x314C03F3F74294C, .fcvti h { rm := 3, sat := false, f := 5, j := 3, dst := 253, sa := 252 }),
  (0x108C03F3F742D4C, .icvtf h { rm := 3, sat := false, f := 2, j := 1, dst := 253, sa := 252 }),
  (0x3F3F74314C, .fclass h 253 252),
  (0xFA00057EFF3F74394D, .fdot2 h true { rm := 5, sat := false, dst := 253, sa := 252, sb := 251, sc := 250 }),
  (0x27E3EBF343D4C, .fadd2 h { rm := 1, sat := true, dst := 252, sa := 250, b := .reg 248 }),
  (0x27E3EBF34414C, .fmul2 h { rm := 1, sat := true, dst := 252, sa := 250, b := .reg 248 }),
  (0xF600027E3EBF34454D, .fma2 h { rm := 1, sat := true, dst := 252, sa := 250, sb := 248, sc := 246 }),
  (0x403F3F74494C, .qamax h true 253 252)]
theorem test_decode_float_1 : ∀ p ∈ words_float_1, decodeWord p.1 = .ok p.2 ∧ encode p.2 = some p.1 := by decide +kernel
def words_float_2 : List (Nat × Instr) := [
  (0x3EFF3F744D4C, .qscale h 253 252 251),
  (0x1F037EFF3F74514C, .qpack h 15 true { rm := 5, sat := true, dst := 253, sa := 252, b := .reg 251 }),
  (0x34D7EFF3F74554C, .qunpack h 19 3 { rm := 5, sat := false, dst := 253, sa := 252, b := .reg 251 })]
theorem test_decode_float_2 : ∀ p ∈ words_float_2, decodeWord p.1 = .ok p.2 ∧ encode p.2 = some p.1 := by decide +kernel
def words_cross_lane_1 : List (Nat × Instr) := [
  (0x3EFF3F7401CC, .shfl h 253 252 251),
  (0x800000010000003F3F7401CD, .shflImm h 253 252 0x80000001),
  (0x3EFF3F7405CC, .shflx h 253 252 (.reg 251)),
  (0x800000010000003F3F7405CD, .shflx h 253 252 (.imm 0x80000001)),
  (0x3EFF3F7409CC, .pushl h 253 252 251),
  (0xBF3F740DCC, .bcast h 253 252 (.reg 2)),
  (0x800000010000003F00F411CD, .getln h 3 252 (.imm 0x80000001)),
  (0x807F7415CC, .setln h 253 1 (.reg 2)),
  (0x12003F00F419CC, .red h 8 4 3 252),
  (0x22803F3F741DCC, .scan h 10 0 true 253 252),
  (0x3803F00F421CC, .vote h 2 3 3 (.vec 252)),
  (0x40001C0F421CC, .vote h 0 0 3 (.other 7)),
  (0x2803F3F7425CC, .frcp h { rm := 2, sat := true, dst := 253, sa := 252 }),
  (0x2803F3F7429CC, .frsq h { rm := 2, sat := true, dst := 253, sa := 252 }),
  (0x2803F3F742DCC, .fsqrt h { rm := 2, sat := true, dst := 253, sa := 252 }),
  (0x2803F3F7431CC, .fexp2 h { rm := 2, sat := true, dst := 253, sa := 252 }),
  (0x2803F3F7435CC, .flog2 h { rm := 2, sat := true, dst := 253, sa := 252 }),
  (0x2803F3F7439CC, .fsin h { rm := 2, sat := true, dst := 253, sa := 252 }),
  (0x2803F3F743DCC, .fcos h { rm := 2, sat := true, dst := 253, sa := 252 }),
  (0x2803F3F7441CC, .ftanh h { rm := 2, sat := true, dst := 253, sa := 252 })]
theorem test_decode_cross_lane_1 : ∀ p ∈ words_cross_lane_1, decodeWord p.1 = .ok p.2 ∧ encode p.2 = some p.1 := by decide +kernel
def words_cross_lane_2 : List (Nat × Instr) := [
  (0x2BEFF3F7445CC, .fdiv h { rm := 2, sat := true, dst := 253, sa := 252, b := .reg 251 })]
theorem test_decode_cross_lane_2 : ∀ p ∈ words_cross_lane_2, decodeWord p.1 = .ok p.2 ∧ encode p.2 = some p.1 := by decide +kernel
def words_memory_1 : List (Nat × Instr) := [
  (0x167EC07F74024C, .ldp h 253 true { sz := 1, sh := 2, vs := true, nov := false, sa := 1, sb := 251, imm := none }),
  (0x800000010008C0007F340A4D, .ldg h 252 false { sz := 3, sh := 0, vs := false, nov := true, sa := 1, sb := 0, imm := some 0x80000001 }),
  (0x6BEC07F74064C, .stp h 253 { sz := 2, sh := 2, vs := true, nov := false, sa := 1, sb := 251, imm := none }),
  (0x10006FEC07F340E4D, .stg h 252 { sz := 3, sh := 2, vs := true, nov := false, sa := 1, sb := 251, imm := some 1 }),
  (0xFA00063EC07F74124D, .aadd h { a := { sz := 0, sh := 2, vs := true, nov := false, sa := 1, sb := 251, imm := none }, scope := 0, nr := false, dst := 253, sc := 250 }),
  (0xFA00263EC07F74164D, .aand h { a := { sz := 0, sh := 2, vs := true, nov := false, sa := 1, sb := 251, imm := none }, scope := 1, nr := false, dst := 253, sc := 250 }),
  (0xFA00463EC07F741A4D, .aor h { a := { sz := 0, sh := 2, vs := true, nov := false, sa := 1, sb := 251, imm := none }, scope := 2, nr := false, dst := 253, sc := 250 }),
  (0xFA00663EC07F741E4D, .axor h { a := { sz := 0, sh := 2, vs := true, nov := false, sa := 1, sb := 251, imm := none }, scope := 3, nr := false, dst := 253, sc := 250 }),
  (0xFA00863EC07F74224D, .amin h { a := { sz := 0, sh := 2, vs := true, nov := false, sa := 1, sb := 251, imm := none }, scope := 4, nr := false, dst := 253, sc := 250 }),
  (0xFA00A63EC07F74264D, .amax h { a := { sz := 0, sh := 2, vs := true, nov := false, sa := 1, sb := 251, imm := none }, scope := 5, nr := false, dst := 253, sc := 250 }),
  (0xFA00C63EC07F742A4D, .aminu h { a := { sz := 0, sh := 2, vs := true, nov := false, sa := 1, sb := 251, imm := none }, scope := 6, nr := false, dst := 253, sc := 250 }),
  (0xFA00063EC07F742E4D, .amaxu h { a := { sz := 0, sh := 2, vs := true, nov := false, sa := 1, sb := 251, imm := none }, scope := 0, nr := false, dst := 253, sc := 250 }),
  (0xFA00263EC07F74324D, .aexch h { a := { sz := 0, sh := 2, vs := true, nov := false, sa := 1, sb := 251, imm := none }, scope := 1, nr := false, dst := 253, sc := 250 }),
  (0xFA00463EC07F743A4D, .afadd h { a := { sz := 0, sh := 2, vs := true, nov := false, sa := 1, sb := 251, imm := none }, scope := 2, nr := false, dst := 253, sc := 250 }),
  (0xF804C6FEC04034364D, .acas h { a := { sz := 3, sh := 2, vs := true, nov := false, sa := 1, sb := 251, imm := none }, scope := 6, nr := true, dst := 0, sc := 248 }),
  (0x66FEC07F343E4C, .ainc h { a := { sz := 3, sh := 2, vs := true, nov := false, sa := 1, sb := 251, imm := none }, scope := 3, nr := false, dst := 252, sc := 0 }),
  (0x1C000000034424C, .fenceAcq h 6),
  (0x2A000000034424C, .fenceRel h 5),
  (0x30000000034424C, .fenceAr h 0),
  (0x6000804034464C, .waitc h { scope := 3, sa := 1, b := .reg 2 })]
theorem test_decode_memory_1 : ∀ p ∈ words_memory_1, decodeWord p.1 = .ok p.2 ∧ encode p.2 = some p.1 := by decide +kernel
def words_memory_2 : List (Nat × Instr) := [
  (0x800000010080000040344A4D, .cntadd h { scope := 4, sa := 1, b := .imm32 0x80000001 }),
  (0x800000000000000100C0000040344E4E, .yield h { scope := 6, sa := 1, b := .imm64 0x8000000000000001 }),
  (0x800000010000000040F4524D, .dld h 3 1 (some 0x80000001)),
  (0x181E804034564C, .drec h { rop := 0, rlen := 6, sa := 1, sb := 122 }),
  (0x28C08040F4564C, .drecWait h 3 { rop := 3, rlen := 2, sa := 1, sb := 2 }),
  (0x80345A4C, .dwait h (.reg 2))]
theorem test_decode_memory_2 : ∀ p ∈ words_memory_2, decodeWord p.1 = .ok p.2 ∧ encode p.2 = some p.1 := by decide +kernel
def words_control : List (Nat × Instr) := [
  (0x403402CC, .bra h (.reg 1)),
  (0x8000000100004001403406CD, .brc h 5 true (.rel 0x80000001)),
  (0x80000002800000010000400140340ACE, .brd h 5 true 0x80000001 0x80000002),
  (0x340ECC, .join h),
  (0x8000000000010000000000F412CE, .call h 3 (.abs 0x800000000001)),
  (0x403416CC, .ret h 1),
  (0x800000010000000000F41ACD, .loop h 3 (.rel 0x80000001)),
  (0x341ECC, .exit h),
  (0x3422CE, .nop h 2),
  (0x3C000003426CC, .bar h 15),
  (0x342ACC, .trig h),
  (0x800000010052800000342ECD, .setfmt h 0xA5 (.imm 0x80000001)),
  (0x400040342ECC, .setfmtStatus h (.reg 1)),
  (0xF432CC, .getfmt h 3),
  (0x8000000100000000403436CD, .tbase h 1 (some 0x80000001)),
  (0x8000010000000000343ACD, .twait h 0x800001),
  (0x8040F43ECC, .talign h 3 1 2),
  (0x20004000003442CC, .trap h 0x8001),
  (0x3FFFC000003446CC, .brk h 0xFFFF),
  (0x800000010000000000344ACD, .tvec h (.imm 0x80000001))]
theorem test_decode_control : ∀ p ∈ words_control, decodeWord p.1 = .ok p.2 ∧ encode p.2 = some p.1 := by decide +kernel
def words_engine_1 : List (Nat × Instr) := [
  (0x800001181FC34383F4034E, .mma h { tile := 15, sa := 14, sb := 13, nm1 := 127, k0 := 64, z := true, ofs := 0x800001 }),
  (0x800001181FC34383F4074E, .mmas h { tile := 15, sa := 14, sb := 13, nm1 := 127, k0 := 64, z := true, ofs := 0x800001 }),
  (0xFFFFFF2000400000F40B4E, .tclaim h 3 0x8001),
  (0xFFFFFF2000400000340F4E, .trel h 0x8001),
  (0x200000000053FCFC01F43F4134E, .tfill h { slot := 15, sa := 125, f := 31, ss := 9, nrm1 := 127, row0 := 64, ofs := 5 }),
  (0x50000000003F4174E, .accz h 15 5),
  (0x11800000005DFF003C03F741B4E, .accrd h { tile := 15, row0 := 64, nrm1 := 127, rm := 5, sat := true, fmt := 3, dk := true, reg := 253, ofs := 5 }),
  (0xF8000000050FF003C040341F4E, .accwr h { tile := 15, row0 := 64, nrm1 := 127, rm := 0, sat := false, fmt := 31, dk := false, reg := 1, ofs := 5 }),
  (0x1FBEFF70000050001409F40F4234E, .cpy h { dst := 3, sa := 125, sb := 2, sk := 1, dk := 1, slot := 0, f := 0, ss := 0, cmp := false, box := 125, x := 126, y := 0, esz := 0, eng := { cnt := 127, csel := 7, ofs := 5 } }),
  (0x2FFFBE8000000054D3E409F40F4274E, .cpyr h { dst := 3, sa := 125, sb := 2, sk := 1, dk := 2, slot := 15, f := 20, ss := 9, cmp := false, box := 125, x := 126, y := 127, esz := 2, eng := { cnt := 0, csel := 0, ofs := 5 } }),
  (0xFC03E8010000058001009F40F42B4E, .cpyk h { dst := 3, sa := 125, sb := 2, sk := 0, dk := 1, slot := 0, f := 0, ss := 0, cmp := true, box := 125, x := 0, y := 126, esz := 0, eng := { cnt := 0, csel := 1, ofs := 5 } }),
  (0xFFFFFF0000000000F42F4E, .cbatch h 3),
  (0xFFFFFF000000004034334E, .cwait h 1),
  (0xFDF7F85400000500FC9F8040F4374E, .esp h { dst := 3, sa := 1, sb := 126, sk := 2, dk := 0, esz := 3, slot := 15, spl := 127, lw := 125, g := 126, eng := { cnt := 5, csel := 4, ofs := 5 } }),
  (0xFFFFFEFFFFC00040343B4E, .lsend h { port := 15, slot := 63, flow := 255, sa := 1, sb := 0, rop := 0, ofs := 0xFFFFFE }),
  (0xFFFFFEFFFFC00040344F4E, .lmcast h { port := 15, slot := 63, flow := 255, sa := 1, sb := 0, rop := 0, ofs := 0xFFFFFE }),
  (0x4800FFFFFEFFFFC08040344B4E, .lred h { port := 15, slot := 63, flow := 255, sa := 1, sb := 2, rop := 9, ofs := 0xFFFFFE }),
  (0xFFFFFE0FFFC00040343F4E, .lrecv h 63 255 1 0xFFFFFE),
  (0x3F857FFFFFF00005F804034434E, .lput h { lk := true, ac := 0, aq := false, sa := 1, sb := 126, lens := 127, cnt := 5, csel := 7 }),
  (0x3F857FFFFFF000D1F804034434E, .lputAtomic h { lk := false, ac := 10, aq := true, sa := 1, sb := 126, lens := 127, cnt := 5, csel := 7 })]
theorem test_decode_engine_1 : ∀ p ∈ words_engine_1, decodeWord p.1 = .ok p.2 ∧ encode p.2 = some p.1 := by decide +kernel
def words_engine_2 : List (Nat × Instr) := [
  (0x3F857FFFFFF00005F804034474E, .lget h { lk := true, ac := 0, aq := false, sa := 1, sb := 126, lens := 127, cnt := 5, csel := 7 }),
  (0x57FFFFFF0000008040F4534E, .lap h 3 1 2 { cnt := 5, csel := 7, ofs := 0xFFFFFF }),
  (0xFFFFFF0000400040F4534E, .lapRel h 3 1),
  (0xFFFFFF0000000040F4574E, .lapq h 3 1)]
theorem test_decode_engine_2 : ∀ p ∈ words_engine_2, decodeWord p.1 = .ok p.2 ∧ encode p.2 = some p.1 := by decide +kernel
def words_system : List (Nat × Instr) := [
  (0x4000000F403CC, .sysr h 3 0x10),
  (0xDFFC000403407CC, .sysw h 1 0x37FF),
  (0x340BCC, .tret h),
  (0x800000010000000000340FCD, .trim h (.imm 0x80000001)),
  (0x40000408040F413CD, .ctxsv h true 3 1 2 4),
  (0x8040F417CC, .ctxld h 3 1 2),
  (0x40F41BCC, .leaseGrant h 3 1),
  (0x400040F41BCC, .leaseRelease h 3 1),
  (0x800040F41BCC, .leaseRevoke h 3 1),
  (0x8040F41FCC, .pown h 3 1 2),
  (0x80403423CC, .wdog h 1 2),
  (0x3427CC, .haltWait h),
  (0x4000003427CC, .haltPkg h)]
theorem test_decode_system : ∀ p ∈ words_system, decodeWord p.1 = .ok p.2 ∧ encode p.2 = some p.1 := by decide +kernel
theorem test_words_refused : decodeWord 0x3 = .error .lenReserved ∧ decodeWord (0x20 * 2 ^ 10) = .error .opNotListed ∧
    decodeWord (0x22 * 2 ^ 10 + 1 * 2 ^ 7) = .error .opNotListed ∧ decodeWord (7 * 2 ^ 7 + 0x0A * 2 ^ 10) = .error .opNotListed ∧
    decodeWord (2 ^ 46) = .error .modifier ∧ decodeWord (1 + 2 ^ 38) = .error .reserved ∧ decodeWord (2 ^ 29) = .error .register ∧
    decodeWord (2 + 5 * 2 ^ 7 + 3 * 2 ^ 10) = .error .lenNotAccepted ∧ decode [0x80] = .error .tooShort := by decide +kernel

/-! ### States of the tests -/

/-- A conductor group of 64 lanes and 256 registers about to execute on core 0. -/
def ct : State := let s := State.reset.placeCompute []; { s with cur := s.context (issueKey 0 0 0) }
/-- Command core 0 at M-level about to execute. -/
def cm : State := let s := State.reset.placeCommand []; { s with cur := s.commandContext 0 }
def State.withGroup (s : State) (f : Group → Group) : State := s.modGroup s.cur.key f
def State.withTrain (s : State) (f : Train → Train) : State := s.modTrain 0 f
def State.withTeam (s : State) (f : Team → Team) : State := s.modTeam (teamKey 0 0) f
/-- Lanes 0 upward of register `r` hold `xs`. -/
def lanes (r : Nat) (xs : List W32) : List (Nat × W32) := (List.range xs.length).zip xs |>.map fun p => (64 * r + p.1, p.2)
def after (o : Host.Outcome State Fault Refusal) : State :=
  match o with
  | .next s => s
  | .fault _ => State.reset
  | .refused _ => State.reset

theorem ct_ready (vs : List Nat) (ds : List Dst) (k : ∀ v ∈ vs, v < 256) : ct.ready vs ds := by
  refine ⟨fun v m => Nat.lt_of_lt_of_eq (k v m) (by decide +kernel), .inr (by decide +kernel), .inr fun d _ => ?_⟩
  cases d <;> rfl
theorem cm_ready (vs : List Nat) (ds : List Dst) (k : ∀ v ∈ vs, v < 32) : cm.ready vs ds :=
  ⟨fun v m => Nat.lt_of_lt_of_eq (k v m) (by decide +kernel), .inl (by decide +kernel), .inl (by decide +kernel)⟩

/-! ### Single steps; the expected values are the spec's worked examples or computed by hand from the rule named -/

/-- R231's and R234's corners: x / 0 and x mod 0. -/
theorem test_divu_by_zero : (after (exec (.divu plain (s2 3 1 (.reg 2))) (State.withGroup ct fun g => { g with sreg := [(1, 7)] }))).grid.pend.map
    (fun p => (p.due, p.what)) = [(21, .scal 3 (some 0xFFFFFFFFFFFFFFFF))] := by decide +kernel
/-- R230: a signed high product of −1 and 2. -/
theorem test_mulh : (after (exec (.mulh plain (s2 3 1 (.imm32 2))) (State.withGroup ct fun g => { g with sreg := [(1, -1)] }))).grid.pend.map
    (fun p => (p.due, p.what)) = [(5, .scal 3 (some 0xFFFFFFFFFFFFFFFF))] := by decide +kernel
/-- The example of R258. -/
theorem test_imaxb : (after (exec (.imaxb { plain with pred := 2 } (.scalar 20 0) (v2 1 10 4 (.reg 6))) (State.withGroup ct fun g =>
    { g with mreg := [(2, 3)], vreg := lanes 4 [0x00090005, 0x0000FFFD] ++ lanes 6 [0x00090007, 0xFFFFFFFC] }))).grid.pend.map (·.what) =
    [.vec 10 [(0, 0x00090007), (1, 0x0000FFFD)], .scal 20 (some 1)] := by decide +kernel
/-- The same with `.u`. -/
theorem test_imaxb_unsigned : (after (exec (.imaxb { plain with pred := 2 } (.scalar 20 0) { v2 1 10 4 (.reg 6) with u := true })
    (State.withGroup ct fun g => { g with mreg := [(2, 3)], vreg := lanes 4 [0x00090005, 0x0000FFFD] ++ lanes 6 [0x00090007, 0xFFFFFFFC] }))
    ).grid.pend.map (·.what) = [.vec 10 [(0, 0x00090007), (1, 0xFFFFFFFD)], .scal 20 (some 9)] := by decide +kernel
/-- The example of R272, on a group of 64 lanes. -/
theorem test_pushl : ((after (exec (.pushl { plain with pred := 1 } 3 2 1) (State.withGroup ct fun g =>
    { g with mreg := [(1, 0xF)], vreg := lanes 1 [2, 2, 0, 2] ++ lanes 2 [10, 11, 12, 13] ++ lanes 3 [100, 101, 102, 103] }))).grid.pend.map
    (fun p => match p.what with | .vec r v => (p.due, r, v.take 4) | _ => (0, 0, []))) =
    [(9, 3, [(0, 12), (1, 101), (2, 13), (3, 103)])] := by decide +kernel
/-- R91's table: 3.25 in each format under RNE. -/
theorem test_formats_of_3_25 : [fp32, fp16, bf16, e4m3, e5m2, e3m2, e2m3, e2m1].map (fun t => (t.round rne (.fin false 13 (-2))).1) =
    [0x40500000, 0x4280, 0x4050, 0x45, 0x42, 0x12, 0x15, 0x5] := by decide +kernel
/-- R113's table: 2.625 in FP8-E4M3 under dither with φ = 0 at places 0 to 3. -/
theorem test_dither : [0, 1, 2, 3].map (fun p => (e4m3.round { rne with mode := 4, d := ditherD p 0 } (.fin false 21 (-3))).1) =
    [0x43, 0x42, 0x43, 0x42] := by decide +kernel
/-- R119: 300 in MXFP8-E4M3 with scale 127 is 0x79 with NX. -/
theorem test_mx_300 : quantise 11 rne 0x43960000 127 0 = (0x79, flagNX) := by decide +kernel
/-- R122: terms below the alignment point are truncated, so 1 + 2^-24 + 2^-30 stays 1. -/
theorem test_matrix_truncation : sumTerms [fp32.value 0x3F800000, .fin false 1 (-24), .fin false 1 (-30)] = 0x3F800000 := by decide +kernel
/-- R81's example: lines of rows 0 to 7 under mode 15. -/
theorem test_bank_permutation : [0, 48, 96, 144, 192, 240, 288, 336].map (fun l => permute 15 (64 * l) / 64) =
    [0, 51, 102, 153, 204, 255, 290, 341] := by decide +kernel
/-- R130's example: a window's translation. -/
theorem test_window : (translate { windows := [(BitVec.ofNat 64 (0x4000 + 2 ^ 32 * 256), BitVec.ofNat 64 (0x0600001000 + 2 ^ 41 * 31))] } [permR]
    false 0x40012340 4).map (·.ia) = some 0x06000010012340 := by decide +kernel
/-- R324's check value: the nine bytes "123456789", whole and in two parts. -/
theorem test_crc32c : crc32c 0 [0x31, 0x32, 0x33, 0x34, 0x35, 0x36, 0x37, 0x38, 0x39] = 0xE3069283 ∧
    crc32c (crc32c 0 [0x31, 0x32, 0x33, 0x34]) [0x35, 0x36, 0x37, 0x38, 0x39] = 0xE3069283 := by decide +kernel
/-- R237: LOOP with a count of 0 branches and writes all ones. -/
theorem test_loop_from_zero : let t := after (exec (.loop plain 5 (.rel 64)) ct)
    t.cur.taken = true ∧ t.me.pri.pc = 0x8040 ∧ t.grid.pend.map (·.what) = [.scal 5 (some 0xFFFFFFFFFFFFFFFF)] := by decide +kernel
/-- R238: BRD keeps the lanes not taken in the issuing slot. -/
theorem test_brd_splits : let t := after (exec (.brd plain 1 false 64 128) (State.withGroup ct fun g => { g with mreg := [(1, 0xFF)] }))
    t.me.pri.mask = 0xFFFFFFFFFFFFFF00 ∧ t.me.alt.mask = 0xFF ∧ t.me.alt.pc = 0x8040 ∧ t.me.alt.rcv = some 0x8080 := by decide +kernel
/-- R386 at its upper bound. -/
theorem test_trim_saturates : (after (exec (.trim plain (.imm 7)) { cm with pod := { cm.pod with trm := 99999 } })).pod.trm = 100000 := by
  decide +kernel
/-- R71: a register outside the allotment raises code 1. -/
theorem test_allotment_fault : (after (exec (.iadd plain (v2 0 40 0 (.reg 0))) (State.withGroup ct fun g => { g with allot := 40 })
    )).myTrain.faults.map (·.code) = [1] := by decide +kernel
/-- R365: a privileged instruction on a compute core raises code 5. -/
theorem test_privilege_fault : (after (exec (.trim plain (.imm 1)) ct)).myTrain.faults.map (·.code) = [5] := by decide +kernel
/-- R363: with no vector set, an exception of a command core halts the package with CAUSE 8. -/
theorem test_command_trap_without_vector : let t := after (exec (.trap plain 3) cm)
    t.sys.boot = 15 ∧ t.sys.cause = 8 := by decide +kernel
/-- R175: ADD on a word of owner 0's region. -/
theorem test_record_add : Sp.get 0 (after (exec (.recordAdd { len := 1, daddr := 256, tenant := 0, writer := 3, otag := 0, words := [5], rsvd := false }
    true) { State.reset with sys := { boot := 8 }, pod := { inPod := true, dial := [(256, 7)] } })).pod.dial 256 = 12 := by decide +kernel
/-- R447: the word that stands at the pc runs as the first instruction, and R49: its result is due two vc later. -/
theorem test_step_runs_add : (after (step (State.reset.withFetchWord 96 0x000000640000000040C00001))).grid.pend.map (fun p => (p.due, p.what)) =
    [(3, .scal 3 (some 100))] := by decide +kernel
/-- AES-256 (R397): the vector of FIPS 197, appendix C.3. -/
theorem test_aes256 : bytesNat (aesEncrypt (aesKeys (List.range 32)) ((List.range 16).map (17 * ·))) =
    0x8960494B9049FCEABF456751CAB7A28E := by decide +kernel
/-- XTS on a unit of 64 bytes (R397): data key bytes 0 to 31, tweak key bytes 100 to 131; the expected bytes are openssl's. -/
def xtsKeys : KeyPair :=
  { data := (List.range 32).map (BitVec.ofNat 8 ·), tweak := (List.range 32).map fun i => BitVec.ofNat 8 (100 + i) }
def xtsPlain : List Byte := (List.range 64).map (BitVec.ofNat 8 ·)
theorem test_xts_unit : leNat (xtsUnit true xtsKeys 0x4000000020040 xtsPlain) =
    0x9722e78561fd39412b3672e5a83bbf3e25088ee41fceb1a1a9bd07b686a5f5083f892d6856e3200b5f46a876674b48d97f660fd1f5e45351b4b97e0b340d2e25 ∧
    xtsUnit false xtsKeys 0x4000000020040 (xtsUnit true xtsKeys 0x4000000020040 xtsPlain) = xtsPlain := by
  decide +kernel
/-- Power on (R447): STATE 1. -/
theorem test_power_on : (after (step { State.reset with inputs := [(0, .op .powerOn)] })).sys.boot = 1 := by decide +kernel

/-! ### States and operands that meet the hypotheses of each obligation, clause by clause -/

theorem witness_ScalarArithmeticResults : ct.ready [] [.scal 3] ∧ cm.ready [] [.scal 3] :=
  ⟨ct_ready _ _ (by simp), cm_ready _ _ (by simp)⟩
theorem witness_ScalarDivisionNeverFaults : ct.ready [] [.scal 127] := ct_ready _ _ (by simp)
theorem witness_ScalarBitResults : 0 + 63 < 64 ∧ 63 + 0 < 64 ∧ ct.ready [] [.scal 3] := ⟨by decide, by decide, ct_ready _ _ (by simp)⟩
theorem witness_ScalarCompareSelectMove : 9 < 10 ∧ ct.ready [] [.cond 7] ∧ ct.ready [] [.scal 3] :=
  ⟨by decide, ct_ready _ _ (by simp), ct_ready _ _ (by simp)⟩
theorem witness_IntegerElementResults : 2 < 3 ∧ ct.ready [4, 255, 2] [.vec 4] ∧ ct.ready [4, 1] [.vec 4] ∧ ct.ready [4, 1, 2, 3] [.vec 4] :=
  ⟨by decide, ct_ready _ _ (by simp), ct_ready _ _ (by simp), ct_ready _ _ (by simp)⟩
theorem witness_IntegerMaximumWithDecision : Decision.ok 2 (.mask 7 3) = true ∧ Decision.ok 2 (.scalar 127 3) = true ∧
    ct.ready [4, 1, 2] [.vec 4, .mask 7] ∧ ct.ready [4, 1, 2] [.vec 4, .scal 127] :=
  ⟨by decide, by decide, ct_ready _ _ (by simp), ct_ready _ _ (by simp)⟩
theorem witness_IntegerLaneResults : 0 + 31 < 32 ∧ ct.ready [4, 1, 2] [.vec 4] ∧ ct.ready [4, 1] [.vec 4] ∧ ct.ready [4] [.vec 4] :=
  ⟨by decide, ct_ready _ _ (by simp), ct_ready _ _ (by simp), ct_ready _ _ (by simp)⟩
theorem witness_MaskResults : 3 < elems 2 ∧ ct.ready [1, 2] [.mask 7] ∧ ct.ready [] [.mask 1] ∧ ct.ready [] [.scal 3] :=
  ⟨by decide, ct_ready _ _ (by simp), ct_ready _ _ (by simp), ct_ready _ _ (by simp)⟩
theorem witness_RoundingChoosesNeighbour : e4m3 ∈ [fp32, bf16, fp16, e4m3, e5m2, e3m2, e2m3, e2m1] ∧ 0x7E < 2 ^ e4m3.w ∧
    e4m3.value 0x7E ≠ .nan ∧ e2m1.value 0xF ≠ .nan := by decide +kernel
theorem witness_FloatResults : ct.ready [4, 1, 2] [.vec 4] ∧ ct.ready [4, 1, 2, 3] [.vec 4] ∧ ct.ready [4, 1] [.vec 4] :=
  ⟨ct_ready _ _ (by simp), ct_ready _ _ (by simp), ct_ready _ _ (by simp)⟩
theorem witness_FloatPairResults : (f2 0 4 6 (.reg 8)).b = .reg 8 ∧ ct.ready [4, 5, 6, 7, 8, 9] [.vec 4, .vec 5] ∧
    ct.ready [4, 5, 6, 7, 8, 9, 10, 11] [.vec 4, .vec 5] := ⟨rfl, ct_ready _ _ (by simp), ct_ready _ _ (by simp)⟩
theorem witness_FloatCompareResults : 7 < 8 ∧ ct.ready [1, 2] [.mask 7] := ⟨by decide, ct_ready _ _ (by simp)⟩
theorem witness_FloatConversions : Cvt.fmtOk { rm := 0, sat := true, f := 6, j := 7, dst := 4, sa := 1 } = true ∧
    Cvt.intOk { rm := 5, sat := false, f := 7, j := 7, dst := 4, sa := 1 } = true ∧ ct.ready [4, 1] [.vec 4] :=
  ⟨by decide, by decide, ct_ready _ _ (by simp)⟩

/-- FMT.Q of the issuing slot. -/
def ctq (q : Nat) : State := State.withGroup ct fun g => { g with pri := { g.pri with fmt := BitVec.ofNat 32 (q * 2 ^ 10) } }
theorem ctq_ready (q : Nat) (vs : List Nat) (ds : List Dst) (k : ∀ v ∈ vs, v < 256) : (ctq q).ready vs ds := by
  refine ⟨fun v m => Nat.lt_of_lt_of_eq (k v m) (by rfl), .inr (by show (0 : Nat) < 24; decide), .inr fun d _ => ?_⟩
  cases d <;> rfl
theorem witness_BlockScaleResults : ct.ready [4, 1] [.vec 4] ∧ (ctq 19).ready [4, 1, 2] [.vec 4] ∧ 11 ≤ fmtQ (ctq 11).fmt ∧
    fmtQ (ctq 19).fmt = 19 ∧ quantOk 19 = true :=
  ⟨ct_ready _ _ (by simp), ctq_ready _ _ _ (by simp), by decide +kernel, by decide +kernel, by decide⟩
theorem witness_QuantisedPacking : (ctq 18).ready [4, 1, 2] [.vec 4] ∧ quantOk (fmtQ (ctq 18).fmt) = true ∧ quantOk (fmtQ (ctq 24).fmt) = true :=
  ⟨ctq_ready _ _ _ (by simp), by decide +kernel, by decide +kernel⟩
theorem witness_CrossLaneResults : 0 < ct.me.width ∧ ct.ready [4, 1, 2] [.vec 4] ∧ ct.ready [4, 1] [.vec 4] ∧ ct.ready [1] [.scal 3] ∧
    ct.ready [4] [.vec 4] ∧ 2 < 3 ∧ ct.ready [1] [.scal 3] :=
  ⟨by decide +kernel, ct_ready _ _ (by simp), ct_ready _ _ (by simp), ct_ready _ _ (by simp), ct_ready _ _ (by simp), by decide, ct_ready _ _ (by simp)⟩
theorem witness_ReductionsAscend : 10 < 11 ∧ ct.active plain ≠ 0 ∧ ct.ready [1] [.scal 3] ∧ ct.ready [4, 1] [.vec 4] :=
  ⟨by decide, by decide +kernel, ct_ready _ _ (by simp), ct_ready _ _ (by simp)⟩
/-- An SFU entry of the core starts at vc 1, one began at 0, and one of another core starts at 2. -/
def csf : State :=
  let e : SfuEntry := { train := 0, core := 0, start := 1, key := ct.cur.key, dst := 4, lanes := [], flags := 0 }
  { ct.modCore 0 (fun c => { c with lastSfu := some 0 }) with grid := { (ct.modCore 0 fun c => { c with lastSfu := some 0 }).grid with
      sfu := [e, { e with core := 1, start := 2 }] } }
theorem witness_SfuEntries : (f2 0 4 1 (.reg 2)).b = .reg 2 ∧
    (csf.grid.sfu.filter fun e => e.core = csf.me.core ∧ e.train = csf.cur.train).length < 64 ∧ cm.cur.cmd = true ∧
    csf.now = 1 ∧ (csf.core csf.me.core).lastSfu ≠ some 2 ∧ (∀ e ∈ csf.grid.sfu, ¬(e.core = csf.me.core ∧ e.start = 2)) ∧
    (∃ e ∈ csf.grid.sfu, e.core = csf.me.core ∧ e.start = 1) ∧ csf.ready [4, 1] [.vec 4] ∧ csf.ready [4, 1, 2] [.vec 4] ∧
    cm.ready [4, 1, 2] [.vec 4] := by
  unfold State.ready; decide +kernel
theorem witness_SfuEntries_special :
    let size (x : W32) : Nat := x.toNat % 2 ^ 31
    let sign (x : W32) : Nat := x.toNat / 2 ^ 31 * 2 ^ 31
    0x7F800000 < size 0xFF800001 ∧ size 0x80000000 = 0 ∧ (size 0x7F800000 = 0x7F800000 ∧ sign 0x7F800000 = 0) ∧
    (size 0xFF800000 = 0x7F800000 ∧ sign 0xFF800000 ≠ 0) ∧
    (sign 0x80000001 ≠ 0 ∧ 0 < size 0x80000001 ∧ size 0x80000001 ≤ 0x7F800000) ∧ (0 < size 0x7F7FFFFF ∧ size 0x7F7FFFFF < 0x7F800000) := by
  decide +kernel

/-- A .q access at the address that s0 holds. -/
def aq : MAddr := addr 3
theorem witness_PoolAccesses : sxOk true 1 = true ∧ (∀ l ∈ ct.live plain, aq.lane ct l + 8 ≤ ct.scratch) ∧ ct.live plain ≠ [] ∧
    ct.ready [4, 5] [.vec 4, .vec 5] ∧ ct.ready [4, 5] [] :=
  ⟨by decide, by decide +kernel, by decide +kernel, ct_ready _ _ (by simp), ct_ready _ _ (by simp)⟩
/-- The group with s0 = `a`. -/
def cta (a : W64) : State := State.withGroup ct fun g => { g with sreg := [(0, a)], mreg := [(1, 1)] }
theorem cta_ready (a : W64) (vs : List Nat) (ds : List Dst) (k : ∀ v ∈ vs, v < 256) : (cta a).ready vs ds := by
  refine ⟨fun v m => Nat.lt_of_lt_of_eq (k v m) (by rfl), .inr (by show (0 : Nat) < 24; decide), .inr fun d _ => ?_⟩
  cases d <;> rfl
theorem lowest_first (s : State) (bad : Nat → Prop) (a : (0 : Nat) ∈ s.live plain) (b : bad 0) : s.lowest plain 0 bad :=
  ⟨a, b, fun _ _ k => absurd k (Nat.not_lt_zero _)⟩
theorem witness_PoolAccesses_fault : (cta (BitVec.ofNat 64 ct.scratch)).ready [4, 5] [] ∧
    (let s := cta (BitVec.ofNat 64 ct.scratch); s.lowest plain 0 fun k => s.scratch < aq.lane s k + 8) :=
  ⟨cta_ready _ _ _ (by simp), lowest_first _ _ (by decide +kernel) (by decide +kernel)⟩
theorem witness_GlobalLoads : sxOk false 3 = true ∧ ct.cur.cmd = false ∧ ct.ready [4, 5] [.vec 4, .vec 5] ∧
    ∀ l ∈ ct.live plain, ct.reaches .load permR (aq.lane ct l) 8 1 :=
  ⟨by decide, by decide +kernel, ct_ready _ _ (by simp), by unfold State.reaches; decide +kernel⟩
/-- The launch leases nothing. -/
def ctn : State := State.withTrain ct fun t => { t with desc := { t.desc with foots := [] } }
theorem ctn_ready (vs : List Nat) (ds : List Dst) (k : ∀ v ∈ vs, v < 256) : ctn.ready vs ds := by
  refine ⟨fun v m => Nat.lt_of_lt_of_eq (k v m) (by rfl), .inr (by show (0 : Nat) < 24; decide), .inr fun d _ => ?_⟩
  cases d <;> rfl
/-- Of loads, stores and atomics. -/
theorem witness_GlobalLoads_faults :
    (∀ m ∈ [permR, permW, permA], (let s := cta (BitVec.ofNat 64 (2 ^ 40));
      s.lowest plain 0 fun k => ¬ (s.xlat [m] (aq.lane s k) 8).isSome = true) ∧
      ∀ l ∈ ctn.live plain, (ctn.xlat [m] (aq.lane ctn l) 8).isSome = true) ∧
    (∀ u ∈ [Use.load, .store, .atomic], ctn.lowest plain 0 fun k => ctn.leased u (aq.lane ctn k) 8 = false) := by
  refine ⟨fun m hm => ⟨lowest_first _ _ (by decide +kernel) ?_, ?_⟩, fun u hu => lowest_first _ _ (by decide +kernel) ?_⟩
  · simp only [List.mem_cons, List.not_mem_nil, or_false] at hm
    rcases hm with rfl | rfl | rfl <;> decide +kernel
  · simp only [List.mem_cons, List.not_mem_nil, or_false] at hm
    rcases hm with rfl | rfl | rfl <;> decide +kernel
  · simp only [List.mem_cons, List.not_mem_nil, or_false] at hu
    rcases hu with rfl | rfl | rfl <;> decide +kernel
theorem witness_GlobalStoresAreBuffered : ct.cur.cmd = false ∧ ct.ready [4, 5] [] ∧
    ∀ l ∈ ct.live plain, ct.reaches .store permW (aq.lane ct l) 8 1 :=
  ⟨by decide +kernel, ct_ready _ _ (by simp), by unfold State.reaches; decide +kernel⟩

def stored : BufStore := { train := 0, team := 0, group := 0, pos := 63, ord := 5, clk := 0, level := 0, ia := 64, data := [7, 8] }
def ctStored : State := { ct with grid := { ct.grid with stores := [{ stored with pos := 62, data := [1, 2] }, stored] } }
theorem witness_BufferedStoreIsRead : (let s := ctStored; stored ∈ s.grid.stores ∧ stored.train = s.cur.train ∧
      stored.team = s.cur.team ∧ stored.clk < s.now ∧ stored.pos < 64 ∧ stored.ia ≤ 62 + 3 ∧ 62 + 3 < stored.ia + stored.data.length) ∧
    (∀ c ∈ ctStored.grid.stores, c ≠ stored → c.group = stored.group ∧ c.pos < stored.pos) ∧
    (∀ b ∈ ctStored.grid.stores, ¬ (b.ia ≤ 62 + 1 ∧ 62 + 1 < b.ia + b.data.length)) ∧
    ∀ x ∈ [{ stored with team := 1 }, { stored with clk := ct.now }], ∀ b ∈ ({ ct with grid := { ct.grid with stores := [x] } } : State).grid.stores,
      ¬ (b.team = ct.cur.team ∧ b.clk < ct.now) := by refine ⟨?_, ?_, ?_, ?_⟩ <;> decide +kernel

/-- Command core 0 with s0 = `a`, and only its first lane live. -/
def cms (a : W64) : State := State.withGroup cm fun g => { g with sreg := [(0, a)], pri := { g.pri with mask := 1 } }
theorem cms_ready (a : W64) (vs : List Nat) (ds : List Dst) (k : ∀ v ∈ vs, v < 32) : (cms a).ready vs ds :=
  ⟨fun v m => Nat.lt_of_lt_of_eq (k v m) rfl, .inl rfl, .inl rfl⟩
theorem witness_CommandCoreAccesses : sxOk false 3 = true ∧ (cms 4096).cur.cmd = true ∧ (cms 4096).ready [4, 5] [] ∧
    (∀ l ∈ (cms 4096).live plain, (cms 4096).cmdReaches pmpLoad (aq.lane (cms 4096) l) 8 1) ∧
    (∀ l ∈ (cms 4096).live plain, (cms 4096).cmdReaches pmpStore (aq.lane (cms 4096) l) 8 1) ∧
    (let s := cms 0x8000000010000100
     (∀ l ∈ s.live plain, s.cmdReaches pmpStore (aq.lane s l) 8 1) ∧
      ∀ l ∈ s.live plain, 2 ^ 63 + 0x10000000 ≤ aq.lane s l ∧ aq.lane s l + 8 ≤ 2 ^ 63 + 0x12000000) ∧
    (∀ l ∈ (cms 4096).live plain, aq.lane (cms 4096) l + 8 ≤ 2 ^ 63 + keySlotBase) :=
  ⟨by decide, rfl, cms_ready _ _ _ (by simp), by unfold State.cmdReaches; decide +kernel, by unfold State.cmdReaches; decide +kernel,
    by unfold State.cmdReaches; decide +kernel, by decide +kernel⟩
theorem witness_AtomicsWaitForTheirBoundary : ct.cur.cmd = false ∧ ct.ready [4, 5, 8, 9, 10, 11] [.vec 4, .vec 5] ∧ 0 < 7 ∧ 0 ≠ 6 ∧
    (∀ l ∈ ct.live plain, ct.reaches .atomic permA (aq.lane ct l) 8 8) ∧ ¬(0 = 4 ∨ 0 = 5) :=
  ⟨by decide +kernel, ct_ready _ _ (by simp), by decide, by decide, by unfold State.reaches; decide +kernel, by decide⟩
/-- Virtual address 0 leads to another package. -/
def ctFar : State := State.withTrain ct fun t => { t with desc := { t.desc with
  windows := [(BitVec.ofNat 64 (2 ^ 32 * 16), BitVec.ofNat 64 (2 ^ 34 + 2 ^ 41 * 31 + 2 ^ 46 * 2))] } }
theorem witness_AtomicsWaitForTheirBoundary_faults : ct.active plain ≠ 0 ∧ ¬ 7 < 7 ∧ ct.podAllowed = false ∧
    (ctFar.lowest plain 0 fun k => ¬ ∀ x, ctFar.xlat [] (aq.lane ctFar k) 8 = some x → pkgOf x.ia = ctFar.pkg) ∧
    (∀ l ∈ ctFar.live plain, aq.lane ctFar l % 8 = 0 ∧ (ctFar.xlat [permA] (aq.lane ctFar l) 8).isSome = true) ∧
    ¬ aq.lane (cta 4) 0 % 8 = 0 := by
  refine ⟨by decide +kernel, by decide, by decide +kernel, lowest_first _ _ (by decide +kernel) ?_, by decide +kernel, by decide +kernel⟩
  intro k
  exact absurd (k _ rfl) (by decide +kernel)
/-- Command core 0 with all its lanes live, and with none. -/
def cmw (m : W64) : State := State.withGroup cm fun g => { g with sreg := [(0, 4096)], pri := { g.pri with mask := m } }
theorem cmw_ready (m : W64) (vs : List Nat) (ds : List Dst) (k : ∀ v ∈ vs, v < 32) : (cmw m).ready vs ds :=
  ⟨fun v m => Nat.lt_of_lt_of_eq (k v m) rfl, .inl rfl, .inl rfl⟩
theorem witness_CommandCoreAtomics : (cmw 0).active plain = 0 ∧ (cmw 3).live plain = [0, 1] ∧ (cmw 3).cur.cmd = true ∧
    (∀ l ∈ (cmw 3).live plain, (cmw 3).cmdReaches pmpStore (aq.lane (cmw 3) l) 8 8) ∧ (∀ m, (cmw m).ready [4, 5, 8, 9, 10, 11] []) :=
  ⟨by decide +kernel, by decide +kernel, rfl, by unfold State.cmdReaches; decide +kernel, fun _ => cmw_ready _ _ _ (by simp)⟩
theorem witness_CommandCoreAtomics_far :
    let s := State.withGroup (cmw 3) fun g => { g with sreg := [(0, BitVec.ofNat 64 (2 ^ 50))] }
    s.cur.cmd = true ∧ (∀ l ∈ s.live plain, s.cmdReaches pmpStore (aq.lane s l) 8 8) ∧
    s.lowest plain 0 fun k => ¬(aq.lane s k < 2 ^ 63 → 4 = 4 ∨ 4 = 5 → pkgOf (aq.lane s k) = s.pkg) := by
  refine ⟨rfl, by unfold State.cmdReaches; decide +kernel, lowest_first _ _ (by decide +kernel) (by decide +kernel)⟩

/-- A team area of 1 MiB, a pod launch whose Dial region is owner 1's, and a word of that region. -/
def cf : State := State.withTrain ct fun t => { t with
  pod := true, dial := [(1, BitVec.ofNat 64 (4160 + 16 * 2 ^ 20)), (4163, 9)], desc := { t.desc with foots := [{ vbase := 0, size := 4194304, kind := 3, stride := 1 }] } }
def cnt (scope : Nat) : Cnt := { scope := scope, sa := 0, b := .imm32 3 }
theorem witness_FencesAndCounters : cf.holds plain = true ∧ cf.ready [] [] ∧ cf.podAllowed = true ∧ cf.cur.cmd = false ∧
    (cnt 6).scope < 7 ∧ ¬((cnt 6).scope = 4 ∨ (cnt 6).scope = 5) ∧ cf.reaches .counterWait permA (cf.scalar 0).toNat 8 8 ∧
    (cf.myTrain.desc.saveArea cf.myTeam.idx).isSome = true ∧ cf.reaches .counterAdd permA (cf.scalar 0).toNat 8 8 ∧
    (cms 4096).holds plain = true ∧ (cms 4096).ready [] [] ∧ (cms 4096).cur.cmd = true ∧
    (cms 4096).cmdReaches pmpLoad ((cms 4096).scalar 0).toNat 8 8 ∧ (cms 4096).cmdReaches pmpStore ((cms 4096).scalar 0).toNat 8 8 := by
  unfold State.ready State.reaches State.cmdReaches; decide +kernel
/-- An address of package 1. -/
theorem witness_FencesAndCounters_far : let s := cms (BitVec.ofNat 64 (2 ^ 50))
    s.holds plain = true ∧ s.ready [] [] ∧ s.cur.cmd = true ∧ (s.scalar 0).toNat < 2 ^ 63 ∧ pkgOf (s.scalar 0).toNat ≠ s.pkg ∧ (cnt 4).scope = 4 ∧
    s.cmdReaches pmpLoad (s.scalar 0).toNat 8 8 ∧ s.cmdReaches pmpStore (s.scalar 0).toNat 8 8 := by
  unfold State.ready State.cmdReaches; decide +kernel

def dr (rop rlen : Nat) : Drec := { rop := rop, rlen := rlen, sa := 0, sb := 1 }
theorem witness_DialInstructions : cf.holds plain = true ∧ cf.ready [] [.scal 3] ∧ dialRegion cf.myTrain.dial cf.myTrain.owner = (4160, 16) ∧
    (cf.scalar 0).toNat + 15 < 16 ∧ (dr 3 2).rop < 4 ∧ lenOk 3 2 = true ∧ (dr 3 2).sb + (dr 3 2).rlen ≤ 128 ∧ cf.podAllowed = true ∧
    (cf.scalar 0).toNat + max 2 1 ≤ 16 ∧ cm.holds plain = true ∧ cm.ready [] [.scal 3] ∧ (dr 5 3).rop < 8 ∧ lenOk 5 3 = true ∧
    2 ≤ (cm.cmdCore cm.cur.key).level ∧ cm.podAllowed = true ∧ (cm.scalar 0).toNat + max 3 1 ≤ 1048576 ∧ cm.pod.offers.length < 64 := by
  unfold State.ready; decide +kernel
theorem witness_TransfersOfControl : ct.ready [] [.scal 5] ∧ ct.holds plain = true ∧ ct.me.readCond 0 = !false ∧ ct.scalar 5 - 1 ≠ 0 := by
  unfold State.ready; decide +kernel

/-- A group with a divergence share whose other slot is live. -/
def cd (other : W64) : State := State.withTrain (State.withGroup ct fun g => { g with
  mreg := [(1, 0xFF)], pri := { g.pri with mask := ~~~other, rcv := some 0x9000 }, alt := { mask := other, pc := 0x8040, rcv := some 0x9000 } })
  fun t => { t with desc := { t.desc with part := 0x010404 } }
theorem witness_DivergenceSplitsLanes : (cd 0).cur.cmd = false ∧ (cd 0).ready [] [] ∧ (cd 0).holds plain = true ∧
    ((cd 0).me.slot false).mask &&& (cd 0).me.readMask 1 ≠ 0 ∧ ((cd 0).me.slot false).mask &&& (cd 0).me.readMask 1 ≠ ((cd 0).me.slot false).mask ∧
    ((cd 0).me.slot true).mask = 0 ∧ ((cd 0).me.slot false).mask &&& (cd 0).me.readMask 2 = 0 ∧
    ((cd 0).me.slot false).mask &&& (cd 0).me.readMask 0 = ((cd 0).me.slot false).mask ∧ (cd 0xF).ready [] [] ∧
    ((cd 0xF).me.slot false).mask &&& (cd 0xF).me.readMask 1 = 0xF0 ∧ ((cd 0xF).me.slot true).mask ≠ 0 ∧
    (cd 0xF).me.stack.length < 8 * partDivg (cd 0xF).myTrain.desc.part := by unfold State.ready; decide +kernel
/-- Beside them eight entries fill the group's share; a team area of `n` bytes holds the save area and the spill area, if long enough. -/
def cds (n : Nat) (stack : List StackEntry) : State := State.withGroup (State.withTrain (cd 0xF) fun t => { t with
  desc := { t.desc with foots := t.desc.foots ++ [{ vbase := 0, size := n, kind := 3, stride := 1 }] } }) fun g => { g with stack := stack }
def full : List StackEntry := List.replicate 8 (.share { mask := 0x80 })
theorem witness_DivergenceSplitsLanes_spill : ∀ n ∈ [4096, 4194304], let s := cds n full
    s.cur.cmd = false ∧ s.ready [] [] ∧ s.holds plain = true ∧ (s.me.slot false).mask &&& s.me.readMask 1 = 0xF0 ∧
    (s.me.slot true).mask ≠ 0 ∧ 8 * partDivg s.myTrain.desc.part ≤ s.me.stack.length ∧
    (if n = 4096 then (s.myTrain.desc.spillPart s.myTeam.idx s.me.idx).2 < 32 * (s.me.spills + 1)
      else 32 * (s.me.spills + 1) ≤ (s.myTrain.desc.spillPart s.myTeam.idx s.me.idx).2) := by unfold State.ready; decide +kernel

/-- The other slot at its JOIN, the issuing slot at the same address, and a stack of one entry. -/
def cj (waiting : Bool) (stack : List StackEntry) : State := State.withGroup (cd 0xF) fun g => { g with
  pri := { g.pri with rcv := some 0x8000 }, alt := { g.alt with pc := 0x8000, waiting := waiting }, stack := stack }
theorem witness_JoinAndExit : ct.cur.cmd = false ∧ ct.ready [] [] ∧ ct.holds plain = true ∧ (ct.me.slot false).rcv = none ∧
    (let s := cj false []; s.ready [] [] ∧ s.holds plain = true ∧ (s.me.slot false).rcv = some s.cur.addr ∧ (s.me.slot true).mask ≠ 0 ∧
      (s.me.slot true).waiting = false) ∧
    (∀ st ∈ [[], [StackEntry.share { mask := 0x80, rcv := some 0x9000 }]], let s := cj true st; s.ready [] [] ∧ s.holds plain = true ∧
      (s.me.slot false).rcv = some s.cur.addr ∧ (s.me.slot true).waiting = true ∧ (s.me.slot true).pc = s.cur.addr ∧ s.me.stack = st) ∧
    ct.me.handler = none ∧ (ct.me.slot true).mask = 0 ∧ ct.me.stack = [] ∧
    (let s := State.withGroup ct fun g => { g with stack := [StackEntry.share { mask := 0x80 }] };
      s.ready [] [] ∧ s.me.handler = none ∧ (s.me.slot true).mask = 0 ∧ s.me.stack ≠ []) ∧
    (let s := State.withGroup ct fun g => { g with creg := [(1, false)] };
      s.ready [] [] ∧ s.me.handler = none ∧ s.holds { plain with pred := 1 } = false) := by
  unfold State.ready; decide +kernel
theorem witness_JoinAndExit_spilled :
    (let s := State.withGroup (cds 4194304 []) fun g => { g with
        pri := { g.pri with rcv := some 0x8000 }, alt := { g.alt with pc := 0x8000, waiting := true }, stack := .spilled :: full }
     s.ready [] [] ∧ s.holds plain = true ∧ (s.me.slot false).rcv = some s.cur.addr ∧ (s.me.slot true).waiting = true ∧
      (s.me.slot true).pc = s.cur.addr ∧ s.me.stack = .spilled :: full ∧ (s.spillAt (s.me.spills - 1)).isSome = true) ∧
    (let s := State.withGroup (cds 4194304 []) fun g => { g with alt := { mask := 0 }, stack := .spilled :: full, handler := some false }
     s.cur.cmd = false ∧ s.ready [] [] ∧ s.holds plain = true ∧ s.me.handler = some s.cur.alt ∧ (s.me.slot true).mask = 0 ∧
      s.me.stack = .spilled :: full) := by unfold State.ready; decide +kernel

/-- A team of two groups, the second blocked as given. -/
def cb (b : Block) : State :=
  let g := { ct.me with idx := 1, block := b }
  State.withTeam (ct.setGroup (groupKey 0 0 1) g) fun t => { t with groups := 2 }
theorem witness_BarriersReleaseTogether : ∀ x ∈ [(Block.none, none), (.bar 15 0x8000 false, some 15), (.bar 0 0x8000 false, some 0)],
    (cb x.1).cur.cmd = false ∧ (cb x.1).ready [] [] ∧ (cb x.1).holds plain = true ∧
    (let keys := ((cb x.1).teamGroups (cb x.1).myTeamKey).filter fun k => !((cb x.1).group k).ended
    (cb x.1).cur.key ∈ keys ∧ keys.length = 2 ∧ (∀ k ∈ keys, k ≠ (cb x.1).cur.key → ((cb x.1).group k).barrier = x.2) ∧
    ∃ k ∈ keys, k ≠ (cb x.1).cur.key) := by unfold State.ready; decide +kernel
theorem witness_BarriersReleaseTogether_exit :
    (∀ x ∈ [(Block.bar 15 0x8000 false, 15), (.bar 0 0x8000 false, 0)], let s := cb x.1
      ((s.me.slot true).mask = 0 ∧ s.me.stack = [] ∧ s.cur.key ∈ s.teamGroups s.myTeamKey) ∧
      let rest := ((s.teamGroups s.myTeamKey).filter fun k => !(s.group k).ended).filter fun k => k != s.cur.key
      rest = [groupKey 0 0 1] ∧ ∀ k ∈ rest, (s.group k).barrier = some x.2) ∧
    (let s := State.withTeam ((cb (.bar 3 0x8000 false)).setGroup (groupKey 0 0 2) { ct.me with idx := 2, block := .bar 4 0x9000 true })
        fun t => { t with groups := 3 }
     let rest := ((s.teamGroups s.myTeamKey).filter fun k => !(s.group k).ended).filter fun k => k != s.cur.key
     s.ready [] [] ∧ rest = [groupKey 0 0 1, groupKey 0 0 2] ∧ (s.group (groupKey 0 0 1)).barrier = some 3 ∧
       (s.group (groupKey 0 0 2)).barrier = some 4) := by unfold State.ready; decide +kernel
theorem witness_MarksAndFormats : ct.ready [] [] ∧ ct.holds plain = true ∧ ct.cur.cmd = false ∧
    bitOf 0xFFFFFFFF 15 = true ∧ bitsOf (0x20000 : W32).toNat 15 3 < 5 ∧ 5 ≤ bitsOf (0x28000 : W32).toNat 15 3 ∧
    (ct.me.slot ct.cur.alt).mask &&& ~~~ct.me.trig ≠ 0 ∧ ct.myTeamKey ∉ ct.myTrain.trigs ∧ ct.holds never = false := by
  unfold State.ready; decide +kernel
theorem witness_MarksAndFormats_again : (let s := State.withGroup ct fun g => { g with trig := ~~~0 }
      (s.me.slot s.cur.alt).mask &&& ~~~s.me.trig = 0 ∧ s.ready [] [] ∧ s.holds plain = true) ∧
    (let s := State.withTrain ct fun t => { t with trigs := [ct.myTeamKey] }; s.myTeamKey ∈ s.myTrain.trigs ∧ s.ready [] [] ∧ s.holds plain = true) := by
  unfold State.ready; decide +kernel
theorem witness_FormatIsRead : ct.ready [] [.scal 3] ∧ cm.ready [] [.scal 3] := by unfold State.ready; decide +kernel
theorem witness_TimeAndVector : ct.cur.cmd = false ∧ ct.ready [] [.scal 3] ∧ ct.holds plain = true ∧ ct.me.conductor = true ∧
    (∀ w ∈ ct.myTrain.alignWho, (ct.group w.1).team ≠ ct.cur.team) ∧ ct.myTrain.alignBad ≠ some ct.now ∧ ct.holds never = false := by
  unfold State.ready; decide +kernel

/-- A conductor whose train has a team waiting at a TALIGN of other operands. -/
def ctOther : State :=
  State.withTrain (ct.setGroup 999 { team := 1, block := .talign 7 7 3 }) fun t => { t with alignWho := [(999, 0x8000)] }
theorem witness_TimeAndVector_faults : ctOther.cur.cmd = false ∧ ctOther.ready [] [.scal 3] ∧ ctOther.holds plain = true ∧
    ctOther.me.conductor = true ∧ (∀ w ∈ ctOther.myTrain.alignWho, (ctOther.group w.1).team ≠ ctOther.cur.team) ∧
    (999, 0x8000) ∈ ctOther.myTrain.alignWho ∧ (ctOther.group 999).block = .talign 7 7 3 ∧ (7 : W64) ≠ ctOther.scalar 1 := by
  unfold State.ready; decide +kernel

/-- A conductor of a pod launch that holds all sixteen slots, owns three slot-table entries and has an ENGINE page. -/
def ce (rs : List (Nat × W64)) : State :=
  let s := State.withTeam (State.withTrain (State.withGroup ct fun g => { g with sreg := rs }) fun t => { t with
    pod := true, desc := { t.desc with foots := t.desc.foots ++ [{ vbase := 65536, size := 65536, kind := 3, cls := 1 }] } })
    fun t => { t with claims := [(0, 0xFFFF)] }
  { s with pod := { s.pod with slottab := (List.range 3).map fun k => (k, BitVec.ofNat 64 (2 ^ 63 + 2 ^ 26 + 2 ^ 8 * k)) } }
def now : Nat := 2 ^ 24 - 1
def accr : Acc := { acc with dk := true, ofs := now }
def mmaO : Mma := { tile := 0, sa := 14, sb := 13, nm1 := 0, k0 := 0, z := true, ofs := now }
def tfillO : Tfill := { slot := 15, sa := 4, f := 20, ss := 0, nrm1 := 127, row0 := 0, ofs := now }
def accO : Acc := { acc with ofs := now }
def ce0 : State := ce []
/-- FMT.A names a sparse format. -/
def cesp : State := State.withGroup ce0 fun g => { g with pri := { g.pri with fmt := 21 } }
theorem witness_MatrixCommandsEnterTheirColumns :
    ce0.mayCommand plain (.mma plain mmaO) now [] [] ∧ (pairKind false (fmtA ce0.fmt) (fmtB ce0.fmt)).isSome = true ∧
    (0 + 0 + 1) * pairDepth false (fmtA ce0.fmt) (fmtB ce0.fmt) ≤ min (rowLen (fmtA ce0.fmt)) (rowLen (fmtB ce0.fmt)) ∧
    0 < bitsOf ce0.myTrain.desc.part.toNat 8 8 / 4 ∧ (∀ n ∈ mmaO.slots ce0.fmt, bitOf (ce0.myTeam.claimed ce0.me.core) n = true) ∧
    cesp.mayCommand plain (.mmas plain mmaO) now [] [] ∧ (pairKind true (fmtA cesp.fmt) (fmtB cesp.fmt)).isSome = true ∧
    (0 + 0 + 1) * pairDepth true (fmtA cesp.fmt) (fmtB cesp.fmt) ≤ min (rowLen (fmtA cesp.fmt)) (rowLen (fmtB cesp.fmt)) ∧
    (∀ n ∈ mmaO.slots cesp.fmt, bitOf (cesp.myTeam.claimed cesp.me.core) n = true) ∧
    ce0.mayCommand plain (.accz plain 0 now) now [] [] ∧
    ce0.mayCommand plain (.accrd plain accr) now ((List.range (ceilDiv (1 * 128 * accWidth 31) (4 * ce0.me.width))).map (· + 4))
      (((List.range (ceilDiv (1 * 128 * accWidth 31) (4 * ce0.me.width))).map (· + 4)).map Dst.vec) ∧ accr.row0 + accr.nrm1 + 1 ≤ 128 ∧
    chkMovePools ce0 ((Instr.accrd plain accr).moves ((Instr.accrd plain accr).vals.map ce0.scalar)) = none ∧
    ce0.mayCommand plain (.accwr plain accO) now [] [] ∧
    chkMovePools ce0 ((Instr.accwr plain accO).moves ((Instr.accwr plain accO).vals.map ce0.scalar)) = none ∧
    ce0.mayCommand plain (.tfill plain tfillO) now [] [] ∧ tfillO.row0 + tfillO.nrm1 + 1 ≤ 128 ∧
    chkMovePools ce0 ((Instr.tfill plain tfillO).moves ((Instr.tfill plain tfillO).vals.map ce0.scalar)) = none ∧ fillOk tfillO.f = true ∧
    bitOf (ce0.myTeam.claimed ce0.me.core) tfillO.slot = true ∧ (layoutOf (ce0.scalar 4) (ce0.scalar 5) (ce0.scalar 6)).bad = false := by
  unfold State.mayCommand State.ready
  and_intros
  all_goals decide +kernel

/-- The registers of a copy of 64 bytes between pool byte 0 and virtual address 0. -/
def cc : State := ce [(8, BitVec.ofNat 64 (64 + 2 ^ 24 + 2 ^ 40 + 2 ^ 56))]
def copyC : Copy := { cpy with y := 20, eng := { cnt := 0, csel := 1, ofs := now } }
def copyR : Copy := { copyC with sk := 1, dk := 0, box := 8, x := 14 }
theorem witness_CopyCommandsEnterTheirColumn :
    (∀ i ∈ [Instr.cpy plain { copyC with box := 8, sb := 6 }, .cpyk plain { copyC with box := 8, sb := 6 }],
      let v := copyVals { copyC with box := 8, sb := 6 } (i.vals.map cc.scalar)
      let ms := cutMoves (copyMoves copyC v)
      let gs := globalSides ms
      cc.mayCommand plain i now [] [.scal 3, .scal 20] ∧ ms ≠ [] ∧ v.lay.bad = false ∧ chkCopyForm copyC v false = none ∧
      chkGlobals cc true gs = none ∧ chkMovePools cc ms = none ∧ chkSlots cc copyC.fills = none ∧ chkLeases cc true gs = none) ∧
    cc.reaches .counterAdd permA (cc.scalar 0).toNat 8 8 ∧
    (let i := Instr.cpyr plain copyR
     let v := copyVals copyR (i.vals.map cc.scalar)
     let rows := globalSides (cutMoves [{ off := 0, n := 4 * (v.box.n1 + 1), src := .global (nth 0 v.rest 0).toNat, dst := .data [] }])
     cc.mayCommand plain i now [] [.scal 3] ∧ (nth 0 v.rest 0).toNat % 4 = 0 ∧ v.lay.bad = false ∧ chkCopyForm copyR v true = none ∧
     chkGlobals cc true rows = none ∧ rows ≠ [] ∧ chkMovePools cc (raggedMoves copyR v []) = none ∧ chkSlots cc copyR.fills = none ∧
     chkLeases cc true rows = none) := by
  unfold State.mayCommand State.ready State.reaches; decide +kernel

/-- The registers of a walk of four bytes from pool byte 0 to pool byte 4096. -/
def cs : State := ce [(4, 0x0706050403020100), (8, BitVec.ofNat 64 (4 + 2 ^ 16 + 2 ^ 32 + 2 ^ 48)),
  (9, BitVec.ofNat 64 (1 + 2 ^ 16 + 2 ^ 32 + 2 ^ 48)), (14, 4096)]
/-- The length of a hall operation. -/
def chl (n : W64) : State := ce [(10, n)]
theorem witness_LinkCommandsEnterTheirColumns :
    (let o := { espl with eng := { espl.eng with ofs := now } }
     let i := Instr.esp plain o
     let v := espVals o (i.vals.map cs.scalar)
     let ms := cutMoves (espMoves o v)
     cs.mayCommand plain i now [] [.scal 3] ∧ ms.length = 4 ∧ v.lay.bad = false ∧ v.ok o = true ∧ chkGlobals cs false (globalSides ms) = none ∧
     chkMovePools cs ms = none ∧ chkEspSlots cs ms = none ∧ chkSlots cs (i.slotsRead 0 ++ i.slotsFilled) = none ∧
     chkLeases cs false (globalSides ms) = none) ∧
    (let o := { send with ofs := now }
     ∀ p ∈ [(Instr.lsend plain o, 0), (.lred plain { o with slot := 1 }, 1), (.lmcast plain { o with slot := 2 }, 2)],
      (ce []).mayCommand plain p.1 now [] [] ∧ chkMovePools (ce []) (p.1.moves (p.1.vals.map (ce []).scalar)) = none ∧
      let e := (ce []).slotEntry 0 p.2
      fieldOf e 63 1 = 1 ∧ fieldOf e 26 12 = (ce []).myTrain.owner ∧ fieldOf e 18 8 = (ce []).readCore (ce []).me ∧ fieldOf e 8 2 = p.2) ∧
    (ce []).mayCommand plain (.lrecv plain 63 255 4 now) now [] [] ∧
    chkMovePools (ce []) ((Instr.lrecv plain 63 255 4 now).moves ((Instr.lrecv plain 63 255 4 now).vals.map (ce []).scalar)) = none ∧
    (∀ p ∈ [(Instr.lput plain hall, (8192 : Nat), false), (.lget plain hall, 8192, true), (.lputAtomic plain { hall with aq := true }, 8, false)],
      let s := chl (BitVec.ofNat 64 p.2.1)
      s.mayCommand plain p.1 now [] [] ∧ (s.scalar 10).toNat = p.2.1 ∧ s.podAllowed = true ∧
      chkMovePools s (p.1.moves (p.1.vals.map s.scalar)) = none ∧ s.reaches .counterAdd permA (s.scalar 0).toNat 8 8) ∧
    (let s := chl 1048576
     let gs := (globalSides (cutMoves [{ off := 0, n := (s.scalar 10).toNat, src := .global (s.scalar 4).toNat, dst := .data [] }])).map
       fun g => (false, g.2)
     s.mayCommand plain (.lput plain { hall with lk := true }) now [] [] ∧ gs ≠ [] ∧ chkGlobals s false gs = none ∧ chkLeases s false gs = none) := by
  unfold State.mayCommand State.ready State.reaches
  refine ⟨?_, ?_, ?_, ?_, ?_, ?_⟩ <;> decide +kernel

/-- Scalar 5 names the ENGINE page, in a footprint of kind W too. -/
def cl : State := State.withTrain (ce [(5, 65536)]) fun t =>
  { t with desc := { t.desc with foots := t.desc.foots ++ [{ vbase := 65536, size := 65536, kind := 2, cls := 1 }] } }
theorem witness_ImmediateCommands : cl.cur.cmd = false ∧ cl.holds plain = true ∧ cl.me.conductor = true ∧ cl.ready [] [.scal 3] ∧
    (cl.engineXlat true true (cl.scalar 5).toNat 64).any (fun x =>
      engineLeased cl.myTrain cl.myTeam.idx true (cl.scalar 5).toNat 64 x &&
        cl.myTrain.desc.foots.any fun f => f.cls == 1 && f.kind == 2 && f.holds cl.myTeam.idx ((cl.scalar 5).toNat / 65536)) = true ∧
    cl.reaches .counterAdd permA (cl.scalar 0).toNat 8 8 ∧ cl.grid.cmds = [] ∧ (cl.scalar 6).toNat ≤ cl.myTeam.closed := by
  unfold State.ready State.reaches; decide +kernel

theorem witness_SystemRegisters : ct.holds plain = true ∧ ct.ready [] [.scal 3] ∧ ct.cur.cmd = false ∧ 0xF < 0x10 ∧ cm.holds plain = true ∧
    cm.ready [] [.scal 3] ∧ cm.cur.cmd = true ∧
    (∀ n ∈ [0x10, 0x11, 0x12, 0x13, 0x14, 0x15, 0x18, 0x27, 0x30, 0x31, 0x100, 0x4FF, 0x1000, 0x1FFF, 0x2000, 0x2FFF, 0x3000, 0x37FF],
      readLevel n ≤ (cm.cmdCore cm.cur.key).level) ∧
    writeLevel 0x15 ≤ (cm.cmdCore cm.cur.key).level ∧ writeLevel 0x14 ≤ (cm.cmdCore cm.cur.key).level ∧
    writeLevel 0x31 ≤ (cm.cmdCore cm.cur.key).level ∧
    (let s : State := { ct with sys := { ct.sys with banks := [(3, 1)] } }
     s.myTrain.owner = 1 ∧ ((s.sys.banks.find? fun b => b.2 == s.myTrain.owner).map (·.1)).getD 0 = 3 ∧ s.ready [] [.scal 3]) := by
  unfold State.ready; decide +kernel
theorem witness_TrimWatchdogAndHalt : cm.cur.cmd = true ∧ (cm.cmdCore cm.cur.key).level = 2 ∧ cm.ready [] [] ∧ cm.holds plain = true ∧
    (ct.team 0).wdLimit = 0 ∧ let s := State.withTeam ct fun t => { t with wdLimit := 1 };
    0 < (s.team 0).wdLimit ∧ (s.team 0).live = true ∧ (s.team 0).train = 0 ∧ (s.team 0).twin = false ∧ (s.team 0).ended = false ∧
      (s.team 0).wdBase + (s.team 0).wdLimit ≤ (s.train 0).clk := by unfold State.ready; decide +kernel

/-- Command core 0 beside a train, running or parked, of owner 1, which has cluster 0. -/
def cx (parked : Bool) : State :=
  let s := (State.reset.placeCompute []).placeCommand []
  let s := if parked then s.modTrain 0 fun t => { t with parked := true, cores := [], places := [0] } else s
  State.withGroup { s with cur := s.commandContext 0, sys := { s.sys with hpol := [(1, 1)] } } fun g => { g with sreg := [(2, 4096), (4, 2 ^ 32)] }
theorem witness_ContextRequests : (cx false).cur.cmd = true ∧ 1 ≤ ((cx false).cmdCore (cx false).cur.key).level ∧ (cx false).ready [] [] ∧
    (cx false).holds plain = true ∧ (cx false).residentTarget ((cx false).scalar 4) = none ∧
    (cx false).residentTarget ((cx false).scalar 1) = some (0, some 0) ∧
    (cx false).prePending 0 (if (cx false).together 0 then none else some 0) = false ∧ (cx false).scalar 2 ≠ 0 ∧
    (cx false).savedTarget ((cx false).scalar 2).toNat = none ∧ (cx true).cur.cmd = true ∧ 1 ≤ ((cx true).cmdCore (cx true).cur.key).level ∧
    (cx true).ready [] [] ∧ (cx true).holds plain = true ∧ (cx true).savedTarget ((cx true).scalar 2).toNat = some (0, none) ∧
    (cx true).prePending 0 none = false ∧ (cx true).restorable 0 none (fieldOf ((cx true).scalar 1) 0 8) = true := by
  unfold State.ready; decide +kernel

/-- A lease descriptor at 4096, whose w7 says that it is complete, and its lease. -/
def cle (ls : List Lease) : State := let s := (cms 4096).sysPutWord (4096 + 56) (2 ^ 63); { s with mem := { s.mem with leases := ls } }
theorem witness_LeasesAndOwners : (cms 4096).cur.cmd = true ∧ (cms 4096).ready [] [] ∧ (cms 4096).holds plain = true ∧
    ((cms 4096).cmdCore (cms 4096).cur.key).level = 2 ∧ (cms 4096).leaseAccepts 4096 = false ∧
    (cle []).cur.cmd = true ∧ (cle []).ready [] [] ∧ (cle []).holds plain = true ∧ (cle []).leaseAccepts 4096 = true ∧ (cle []).granted 4096 = none ∧
    (let l : Lease := { desc := 4096, state := 1 }; (cle [l]).ready [] [] ∧ (cle [l]).holds plain = true ∧ (cle [l]).leaseAccepts 4096 = true ∧
      (cle [l]).granted 4096 = some l) ∧
    (let p := fieldOf ((cms 4096).scalar 0) 0 56 / 65536; (cms 4096).pins p = 0 ∧ pkgOf (p * 65536) = (cms 4096).pkg ∧ hasEntry p = true) ∧
    (cms (BitVec.ofNat 64 (2 ^ 50))).ready [] [] ∧ pkgOf (fieldOf ((cms (BitVec.ofNat 64 (2 ^ 50))).scalar 0) 0 56 / 65536 * 65536) ≠ cm.pkg := by
  unfold State.ready; decide +kernel

/-- Command core 0 at a level, with both vectors set or not. -/
def ck (level : Nat) (vec : W64) : State := cm.modCmdCore 0 fun c => { c with level := level, svec := vec, mvec := vec }
theorem witness_PrivilegeFaults : ct.ready [] [] ∧ ct.cur.cmd = false ∧ ((ck 0 0).cmdCore 0).level < 1 ∧ (ck 0 0).ready [] [] ∧
    (ck 1 0).ready [] [] ∧ ((ck 1 0).cmdCore (ck 1 0).cur.key).level < 2 ∧ (ck 1 0).cur.cmd = true ∧
    ((ck 1 0).cmdCore (ck 1 0).cur.key).level < writeLevel 0x15 ∧ ((ck 1 0).cmdCore (ck 1 0).cur.key).level < readLevel 0x15 ∧
    programReads 0x11 = false ∧ ct.me.handler ≠ some ct.cur.alt := by unfold State.ready; decide +kernel
theorem witness_PrivilegeFaults_roles : (let s := State.withGroup ct fun g => { g with conductor := false }
      s.ready [] [] ∧ s.cur.cmd = false ∧ s.me.conductor = false ∧ s.ready (accRegs s.me.width accr) [] ∧ accRegs s.me.width accr ≠ []) ∧
    cm.cur.cmd = true := by unfold State.ready; decide +kernel
theorem witness_FaultsTrapsAndReturns : ct.cur.cmd = false ∧ ct.holds plain = true ∧ ct.ready [] [] ∧
    (∀ l ∈ [0, 1], let s := ck l 0x9000; s.cur.cmd = true ∧ (s.cmdCore s.cur.key).level < 2 ∧ s.holds plain = true ∧ s.ready [] [] ∧
      (if (s.cmdCore s.cur.key).level = 0 then (s.cmdCore s.cur.key).svec else (s.cmdCore s.cur.key).mvec) ≠ 0 ∧
      fieldOf (Sp.get 0 s.me.treg (16 * l)) 62 2 ≤ l) ∧
    (let s := ck 2 0x9000; s.cur.cmd = true ∧ 2 ≤ (s.cmdCore s.cur.key).level ∧ s.holds plain = true ∧ s.ready [] []) ∧
    ((ck 0 0).cmdCore (ck 0 0).cur.key).svec = 0 ∧ ct.me.allot ≤ 256 ∧
    (let s := { ct with grid := { ct.grid with pend := [{ train := 0, due := 9, key := ct.cur.key, what := .vec 4 [] }] } };
      s.ready [4, 1, 2] [] ∧ s.isPending (.vec 4) = true) ∧ cm.holds { plain with pred := 1 } = false ∧ ct.holds { plain with pred := 1 } = false ∧
    (let s := State.withGroup ct fun g => { g with handler := some false };
      s.ready [] [] ∧ s.holds plain = true ∧ s.me.handler = some s.cur.alt) := by unfold State.ready; decide +kernel

theorem witness_DecodeOfEncode : (Instr.add plain (s2 3 1 (.imm32 100))).isWord = true ∧ (Instr.add plain (s2 3 1 (.imm32 100))).wf = true ∧
    (Instr.cpy plain cpy).isWord = true ∧ (Instr.cpy plain cpy).wf = true := by decide +kernel

/-- The word of NOP or an undefined one where the next step fetches it; an input; a command core. -/
def fetchS (w : Nat) : State := State.reset.withFetchWord 64 w
def inS (x : Input) : State := { (State.reset.placeCommand [0x80, 0x22]) with inputs := [(0, x)] }
theorem witness_StepRunsTheDecodedInstruction :
    ((fetchS 0x2280).dueInput = none ∧ (fetchS 0x2280).dueWork = some (.issue 0) ∧
      let u := { fetchS 0x2280 with cur := (fetchS 0x2280).context 0 };
      u.poisonedCode = none ∧ u.decodeAt u.cur.addr = .ok (.nop plain 0, 0x2280, 8)) ∧
    ((fetchS 0xFE80).dueWork = some (.issue 0) ∧
      let u := { fetchS 0xFE80 with cur := (fetchS 0xFE80).context 0 };
      u.decodeAt u.cur.addr = .error { code := 1, t2 := 0xFE80 }) ∧
    (State.reset.dueInput = none ∧ State.reset.dueWork = none) ∧
    (let s := { fetchS 0x2280 with grid := { (fetchS 0x2280).grid with pend := [{ train := 0, due := 1, key := ct.cur.key, what := .tvec 8 }] } };
      s.dueInput = none ∧ s.dueWork = some (.event (.registerLanding 0))) ∧
    (inS (.op .powerOn)).dueInput = some (0, .op .powerOn) ∧ (inS (.command 16)).dueInput = some (0, .command 16) ∧
    (inS (.command 0)).dueInput = some (0, .command 0) ∧
    (let v := ({ inS (.command 0) with inputs := [] } : State).pollRecord 0;
      v.commandRuns 0 = true ∧ let c := { v with cur := v.commandContext 0 };
      c.decodeAt c.cur.addr = .ok (.nop plain 0, 0x2280, 8)) ∧
    (inS (.command 1)).commandRuns 1 = false := by
  refine ⟨?_, ?_, ?_, ?_, ?_, ?_, ?_, ?_, ?_⟩ <;> decide +kernel
theorem witness_MemoriesStayCanonical : State.reset.canonical ∧ ∃ s', step State.reset = .next s' := by
  refine ⟨?_, _, rfl⟩
  unfold State.canonical; decide +kernel
theorem witness_TrimStaysInRange : State.reset.trimmed ∧ ∃ s', step State.reset = .next s' :=
  ⟨by unfold State.trimmed; decide +kernel, _, rfl⟩

/-! Events of a train -/

def withGrid (f : Grid → Grid) : State := { ct with grid := f ct.grid }
def command (i : Instr) (started : Bool) : Cmd :=
  { id := 7, train := 0, team := 0, key := ct.cur.key, group := 0, core := 0, col := i.column, untimed := true, start := 0, occ := 1, land := 5,
    batch := 0, op := i, addr := 0, alt := false, fmt := 0, vals := [4, 5], started := started }
def pendP : Pend := { train := 0, due := 1, key := ct.cur.key, what := .tvec 8 }
def stpP : PoolWrite := { train := 0, due := 1, team := 0, group := 0, lane := 0, core := 0, addr := 8, data := [1] }
def sfuP : SfuEntry := { train := 0, core := 0, start := 1, key := ct.cur.key, dst := 4, lanes := [(0, 1)], flags := 1 }
def outP (w : OutWhat) : EngOut := { train := 0, due := 1, start := 0, col := 1, core := 0, team := 0, key := ct.cur.key, what := w }
def redC : Cmd := command (.lred plain { send with ofs := now }) true
def redS : State :=
  let s := withGrid fun g => { g with cmds := [redC] }
  s.modCore 0 fun c => { c with rx := [{ kind := 1, spkg := 0, sslot := 0, dest := 0, dcore := 0, flow := 0, rop := 0, payload := [1, 2] }] }
theorem witness_LandingEvents : ([pendP].filter fun p => p.train == 0 && p.due ≤ 1 && (ct.group p.key).resident) = [pendP] ∧
    (withGrid fun g => { g with pend := [pendP] }).grid.pend = [pendP] ∧ ([stpP].filter fun p => p.train == 0 && p.due ≤ 1) = [stpP] ∧
    ([sfuP].filter fun e => e.train == 0 && e.start ≤ 1) = [sfuP] ∧
    (withGrid fun g => { g with cmds := [command (.accz plain 0 now) false] }).dueCmds 0 = [command (.accz plain 0 now) false] ∧
    (withGrid fun g => { g with cmds := [command (.mma plain mmaO) true] }).dueSteps 0 = [command (.mma plain mmaO) true] ∧
    kPace (command (.mma plain mmaO) true).fmt = 1 ∧
    (∀ w ∈ [OutWhat.pool 0 8 [1], .slot 0 15 0 [1], .tileZero 0 0, .global 0 64 [1]], ([outP w].filter fun e => e.train == 0 && e.due ≤ 1) = [outP w]) ∧
    redS.dueReds 0 = [redC] ∧ ((redS.core 0).rx.find? (redC.matches redS)).isSome = true := by
  refine ⟨?_, ?_, ?_, ?_, ?_, ?_, ?_, ?_, ?_, ?_⟩ <;> decide +kernel
/-- A claim of slot 2 that lands for the group, and a team of the train that holds it or not. -/
def claimS (held : Bool) : State :=
  let s := withGrid fun g => { g with pend := [{ pendP with what := .claim 4 1 3 }] }
  if held then s.modTeam (teamKey 0 1) fun t => { t with live := true, claims := [(0, 4)] } else s
def freeS : State := State.withTeam (withGrid fun g => { g with pend := [{ pendP with what := .unclaim 4 }] }) fun t => { t with claims := [(0, 12)] }
def dueP (s : State) : List Pend := s.grid.pend.filter fun p => p.train == 0 && p.due ≤ (s.train 0).clk && (s.group p.key).resident
def heldBy (s : State) : Bool := s.grid.teams.any fun q => q.1 != teamKey 0 0 && q.2.live && !q.2.ended && !q.2.saved && q.2.train == 0 && Sp.get 0 q.2.claims 0 &&& 4 != 0
theorem witness_LandingEvents_claims : (∀ b ∈ [true, false], dueP (claimS b) = [{ pendP with what := .claim 4 1 3 }] ∧ heldBy (claimS b) = b) ∧
    dueP freeS = [{ pendP with what := .unclaim 4 }] ∧ (ct.group ct.cur.key).width ≠ 0 ∧
    sfuP.only = false ∧ ({ sfuP with only := true } : SfuEntry).only = true := by decide +kernel
/-- A due MMAS whose slot A holds one byte throughout: as indices 0x44 ascends and 0 does not (R103, R118). -/
theorem witness_LandingEvents_matrix : (let c := command (.mmas plain mmaO) true; (withGrid fun g => { g with cmds := [c] }).dueSteps 0 = [c]) ∧
    badGroup (2 ^ 2048 / 255 * 0x44) 0 = false ∧ badGroup 0 0 = true := by
  decide +kernel

/-! The starts of engine commands: one due command of each form -/

def begun (c : Cmd) (f : Pod → Pod) : State := let s := withGrid fun g => { g with cmds := [c] }; { s with pod := f s.pod }
def startForms : List Instr :=
  [.mma plain mmaO, .mmas plain mmaO, .accrd plain accr, .accrd plain accO, .accwr plain accO, .tfill plain tfillO, .cpy plain copyC,
   .cpyk plain copyC, .cpyr plain copyR, .esp plain espl, .lsend plain send, .lmcast plain send, .lred plain send, .lrecv plain 63 255 4 now,
   .lput plain hall, .lputAtomic plain hall, .lget plain { hall with lk := true }]
/-- A hall operation of 2048 bytes or of none, where every path is valid. -/
def hallC (len : W64) : Cmd := { command (.lput plain hall) false with vals := [0, 0, 0, 0, len] }
def paths (p : Pod) : Pod := { p with hpath := (List.range 2048).map fun i => (i, 0x8000000000000000) }
def rxCell (spkg : Nat) : LinkCell := { kind := 0, dest := 0, dcore := 0, spkg := spkg, sslot := 0, flow := 255, rop := 0, payload := [] }
theorem witness_EngineCommandStarts : (∀ i ∈ startForms, (begun (command i false) id).dueCmds 0 = [command i false]) ∧
    (begun redC id).pod.inPod = false ∧ (begun redC fun p => { p with inPod := true }).pod.inPod = true ∧
    (let s := (begun (command (.lrecv plain 63 255 4 now) false) fun p => { p with inPod := true }).modCore 0 fun c =>
        { c with rx := [rxCell 9, rxCell 63] }
     (s.core 0).rx.find? (fun x => x.spkg == 63 && x.flow == 255) = some (rxCell 63)) ∧
    (let s := begun (hallC 2048) paths; let fs := hallFrames 0 hall (hallC 2048).vals []
     s.dueCmds 0 = [hallC 2048] ∧ s.myTeam.twin = false ∧ fs.length = 2 ∧ ∀ f ∈ fs, fieldOf (s.hpath f.2.plane f.2.pod) 63 1 = 1) ∧
    (let s := begun (hallC 2048) id; ∃ f ∈ hallFrames 0 hall (hallC 2048).vals [], ¬ fieldOf (s.hpath f.2.plane f.2.pod) 63 1 = 1) := by
  refine ⟨?_, ?_, ?_, ?_, ?_, ?_⟩ <;> decide +kernel
theorem witness_TimePasses : State.reset.grid.trains = [] ∧ State.reset.awaitsCount = false ∧ State.reset.bcHold = 0 ∧ ({ State.reset with bcHold := 1 } : State).bcHold ≠ 0 ∧
    (∃ x, ct.grid.trains = [(0, x)] ∧ x.live = true ∧ x.parked = false ∧ x.finished = false ∧ x.boundary = false) ∧ (ct.advanceIdle.extendTrain 0).held 0 = false ∧
    (let s : State := { State.reset with grid := { State.reset.grid with trains := [(0, { live := true }), (1, { live := true }), (2, {})] } }
     (([0, 1, 2].foldl State.extendTrain s.advanceIdle).advanceTrain 0).held 1 = false) ∧
    ({ ct with sys := { ct.sys with thermal := true } } : State).late 0 = true :=
  ⟨rfl, rfl, rfl, by decide, ⟨_, rfl, by decide +kernel⟩, by decide +kernel, by decide +kernel, by decide +kernel⟩

/-- A train of owner 1 at its boundary, with page 1 of the owner resident, a footprint of that page, stores, actions and own bytes of its
team 0, which holds core 0. -/
def bd (stores : List BufStore) (what : List ActWhat) (own : List (Nat × Nat)) : State :=
  let d : Desc := { windows := placedDesc State.reset |>.windows, foots := [{ vbase := 0, size := 65536, kind := 3 }] }
  { State.reset with
    grid := { State.reset.grid with
      trains := [(0, { live := true, owner := 1, clk := 100000, desc := d })]
      teams := [(teamKey 0 0, { live := true, groups := 1 })]
      groups := [(groupKey 0 0 0, { width := 64 })]
      stores := stores
      acts := what.map fun w => { train := 0, team := 0, key := groupKey 0 0 0, group := 0, core := 0, ord := 0, due := 0, what := w } }
    mem := { State.reset.mem with
      pages := [(1, BitVec.ofNat 64 (2 ^ 52 + 2 ^ 41))], home := [(65536, 5)], cview := [(65544, 9)], own := own } }
theorem bd_clean (x : List BufStore) (y : List ActWhat) (z : List (Nat × Nat)) (p : Nat) : pePsn ((bd x y z).page p) = false := by
  show pePsn (Sp.get 0 [(1, BitVec.ofNat 64 (2 ^ 52 + 2 ^ 41))] p) = false
  by_cases k : 1 = p
  · simp only [Sp.get, if_pos k]; decide
  · simp only [Sp.get, if_neg k]; decide
def boundaryStores : List BufStore :=
  [{ train := 0, team := 0, group := 0, pos := 3, ord := 7, clk := 5, level := 0, ia := 65536, data := [1, 2] },
   { train := 0, team := 0, group := 0, pos := 2, ord := 8, clk := 5, level := 0, ia := 65537, data := [3, 4] },
   { train := 0, team := 0, group := 0, pos := 2, ord := 9, clk := 5, level := 2, ia := 65544, data := [6] }]
def atomW (scope p : Nat) : ActWhat := .atomic 4 true scope [(3, p, 7, 0)] (some 4) 640
def boundaryActs : List ActWhat :=
  [atomW 0 (2 ^ 57 + 65544), atomW 0 65536, atomW 4 (2 ^ 57 + 65536), .fence true true 4, .fence false true 5, .count 0 (2 ^ 57 + 65544) 3 none,
   .count 0 65536 3 none, .count 6 (2 ^ 57 + 65536) 3 none]
/-- The boundary's store must set its page aside, where no tier has a free frame. -/
theorem witness_TimePasses_held : let b := bd (boundaryStores.take 1) [] []
    let s : State := { b with mem := { b.mem with pins := [(1, 1)], laps := [{ number := 1, cover := [(1, 1)] }]
                                                  retired := [(0, capacityFrames), (1, bondedFrames)] } }
    (s.train 0).finished = false ∧ (s.train 0).boundary = false ∧ s.nextWork 0 = some (.event (.quantumBoundary 0)) ∧
    s.starves 0 (.event (.quantumBoundary 0)) = true ∧ (s.advanceIdle.extendTrain 0).held 0 = true := by decide +kernel
/-- A boundary with two stores to one word, atomics of two lanes on it, a fence and a counter add. -/
def mixedActs : List Act :=
  [.count 6 65536 3 none, .atomic 4 true 4 [(5, 65536, 7, 0), (2, 2 ^ 57 + 65536, 1, 0)] (some 4) 640, .fence true true 4].mapIdx fun i w =>
    { train := 0, team := 0, key := groupKey 0 0 0, group := 0, core := 0, ord := 10 + i, due := 0, what := w }
theorem witness_BoundaryCommits_mixed :
    let st := boundaryStores.take 2
    let b := bd st [] []
    let s : State := { b with grid := { b.grid with acts := mixedActs } }
    let a := nth (nth ⟨0, 0, 0, 0, 0, 0, 0, .fence false false 0⟩ mixedActs 0) mixedActs 1
    let lanes : List (Act × Nat × Nat × Nat × Nat) := [(a, 2, 2 ^ 57 + 65536, 1, 0), (a, 5, 65536, 7, 0)]
    s.boundaryDue 0 = true ∧ s.mem.own = [] ∧ Sp.get 0 s.fw.removals (s.train 0).owner = 0 ∧ (∀ b ∈ s.grid.stores, b.train = 0 ∧ b.team < 2 ^ 21 ∧ b.level = 0) ∧
    s.grid.acts.Pairwise (fun a b => a.ord ≠ b.ord) ∧ (∀ a ∈ s.grid.acts, a.train = 0 ∧ (s.team (teamKey 0 a.team)).train = 0 ∧ (s.group a.key).train = 0) ∧
    [nth (st.headD ⟨0, 0, 0, 0, 0, 0, 0, 0, [], none⟩) st 1, st.headD ⟨0, 0, 0, 0, 0, 0, 0, 0, [], none⟩].Pairwise (fun a b => lexLe b.key a.key = false) ∧
    lanes.Pairwise (fun a b => lexLe [b.1.team, b.1.group, b.2.1, b.1.ord] [a.1.team, a.1.group, a.2.1, a.1.ord] = false) ∧
    s.pageOk 1 (65536 / 65536) = true := by decide +kernel
theorem witness_BoundaryCommits : (∀ x y z p, pePsn ((bd x y z).page p) = false) ∧
    (∀ w ∈ [] :: boundaryActs.map fun w => [w], let s := bd (if w = [] then boundaryStores else []) w []
      s.boundaryDue 0 = true ∧ (s.train 0).desc.twin = false ∧ (s.train 0).alignWho = [] ∧ s.grid.cmds = [] ∧ s.pod.hallOps = [] ∧ s.fw.pre = [] ∧
      s.fw.queues = [] ∧ s.mem.leases = [] ∧ s.mem.laps = [] ∧ (∀ g ∈ s.grid.groups, g.2.block = .none) ∧
      (∀ p ∈ s.grid.teams, p.2.saved = false) ∧ (s.train 0).trigs = [] ∧ s.mem.own = [] ∧ s.fw.removals = []) ∧
    (∀ b ∈ boundaryStores, b.train = 0 ∧ b.bad = none ∧ b.team < 2 ^ 21 ∧ b.level < 3 ∧ b.ia + b.data.length ≤ 2 ^ 56) ∧
    (let s := bd [] [.fence true true 4] [(65544, 1)]
     Sp.Wf 0 s.mem.own ∧ Memory.wf s.mem.home ∧ Memory.wf s.mem.cview ∧ (s.team 0).live = true ∧ (s.team 0).twin = false ∧ (s.team 0).train = 0 ∧
       Sp.get 0 s.mem.own 65544 = teamKey 0 0 + 1 ∧ pkgOf 65544 = s.pkg ∧ s.pageOk 1 (65544 / 65536) = true ∧
       (65536, 65536) ∈ (s.train 0).desc.ranges (List.range (s.train 0).desc.grid)) ∧
    ((bd [] [] []).group (groupKey 0 0 0)).train = 0 := by
  refine ⟨bd_clean, ?_, ?_, ?_, ?_⟩ <;> decide +kernel


/-- One live train and nothing else. -/
def tr0 (x : Train) : State := { State.reset with grid := { State.reset.grid with trains := [(0, { x with live := true })] } }
def preR : PreReq := { id := 5, train := 0, team := none, handle := 0, deadline := 0, image := 0, decision := 0, done := false, restore := some 0, ring := false }
def askA : Ask := { ix := 3, train := 0, key := some ct.cur.key, resumable := true, code := 13, p := 4 }
def yieldedS : State := State.withTeam (State.withTrain ct fun t => { t with boundary := true }) fun t => { t with saved := true, yielded := true, ready := some 9 }
/-- An alignment that is due after its only team was saved at its boundary. -/
theorem witness_TrainEvents_align :
    let k := groupKey 0 0 0
    let s := tr0 { clk := 2, align := some (2, 0, 5), alignWho := [(k, 64)] }
    let s : State := { s with grid := { s.grid with groups := [(k, { width := 64, block := .talign 0 5 3 })] } }
    (s.train 0).align = some (2, 0, 5) ∧ (s.train 0).alignWho = [(k, 64)] ∧ (s.group k).resident = false ∧ (s.group k).block = .talign 0 5 3 := by
  decide +kernel
theorem witness_TrainEvents :
    (let s := State.withGroup ct fun g => { g with checks := [(1, 64)] };
      (s.issueSlot 0).busy = true ∧ (s.issueSlot 0).count = 0 ∧ s.dueChecks (s.issueSlot 0).key = [(1, 64)]) ∧
    ((tr0 { clk := 2, align := some (2, 0, 5) }).train 0).align = some (2, 0, 5) ∧ ct.boundaryDue 0 = false ∧
    (let s := tr0 { clk := 100000 }; s.boundaryDue 0 = true ∧ (s.train 0).desc.twin = false ∧ (s.train 0).trigs = [] ∧ s.grid.acts = [] ∧ s.grid.teams = [] ∧
      s.grid.groups = [] ∧ s.pod.hallOps = [] ∧ s.fw.pre = [] ∧ s.mem.leases = [] ∧ s.mem.laps = [] ∧ s.fw.removals = []) ∧
    (State.reset.train 0).live = false ∧
    (let s := { tr0 { launch := 1 } with fw := { launches := [(1, { id := 1, pod := true, attempts := 1 })] } };
      (s.train 0).live = true ∧ (s.launch (s.train 0).launch).pod = true ∧ (s.launch (s.train 0).launch).attempts + 1 < 3) ∧
    (ct.launch (ct.train 0).launch).pod = false ∧ (ct.train 0).live = true ∧ (tr0 { pause := 80001 }).overrunDue 0 = true ∧
    ct.time % 1024 = 0 ∧ ({ ct with time := 1 } : State).time % 1024 ≠ 0 ∧ (∀ h ∈ (ct.train 0).holds, h.2 ≠ .governor) ∧
    (let s := State.withTrain { ct with sys := { ct.sys with hpol := [(1, 1)] }, grid := { ct.grid with teams := [], groups := [] } } fun t =>
        { t with nextTeam := 0 };
      s.placeable 0 = true ∧ (s.train 0).requeue = []) ∧
    (yieldedS.train 0).boundary = true ∧ yieldedS.liveTeams 0 = [teamKey 0 0] ∧ (yieldedS.team (teamKey 0 0)).twin = false ∧
    (yieldedS.team (teamKey 0 0)).saved = true ∧ (yieldedS.team (teamKey 0 0)).yielded = true ∧ (yieldedS.team (teamKey 0 0)).ready = some 9 ∧
    ((yieldedS.team (teamKey 0 0)).parked = false ∧ yieldedS.leaving (yieldedS.team (teamKey 0 0)) = false) ∧
    (let s := State.withTeam ct fun t => { t with wdLimit := 1 }; s.watchdogDue 0 (teamKey 0 0) = true ∧ s.fw.posts = []) ∧
    (let s := { ct with fw := { ct.fw with pre := [preR] } }; s.fw.pre.find? (fun r => r.id == 5) = some preR ∧ preR.deadline ≤ s.bc.toNat) ∧
    (let s := { tr0 { parked := true } with fw := { pre := [preR] } }; s.fw.pre.find? (fun r => r.id == 5) = some preR ∧
      (s.train 0).parked = true ∧ s.liveTeams 0 = [] ∧ (s.trainPlaces 0 0).isSome = true) ∧
    ct.askOf 3 = none ∧
    (let s := { ct with fw := { ct.fw with asked := [askA] } }; s.askOf 3 = some askA ∧ (s.train (s.group ct.cur.key).train).desc.twin = false) := by
  refine ⟨?_, ?_, ?_, ?_, ?_, ?_, ?_, ?_, ?_, ?_, ?_, ?_, ?_, ?_, ?_, ?_, ?_, ?_, ?_, ?_, ?_, ?_, ?_, ?_, ?_⟩ <;> decide +kernel

/-! Events of the loop, the fabric and the hall, of queues and partitions, and of bring-up -/

/-- A member of a pod at ring position 1. -/
def pd (f : Pod → Pod) : State := { State.reset with sys := { boot := 8, podcfg := 0x100 }, pod := f { inPod := true } }
def lr (len daddr : Nat) (ws : List W64) : LoopRec := { len := len, daddr := daddr, tenant := 0, writer := 5, otag := 0, words := ws, rsvd := false }
def noteOp : Offer := { op := 6, rcd := lr 1 4096 [0] }
/-- What a tap at ring position 1 has heard: the reference package's tokens at position 0. -/
def hear0 : State := { pd (fun p => { p with heard := [(0, 10)], listen := 1 }) with time := 480 }
/-- Page 7 resident and encrypted with key slot 1; a record clears its KEY. -/
def keyed : State := { pd id with mem := { pages := [(7, BitVec.ofNat 64 (2 ^ 41 + 2 ^ 47))] } }
theorem witness_LoopEvents : ((keyed.pageKeys 7).isSome = true ∧ peLoc (keyed.page 7) ≠ 0 ∧
      (lr 3 0 [7, 0, BitVec.ofNat 64 (2 ^ 47)]).words.take 3 = [7, 0, BitVec.ofNat 64 (2 ^ 47)] ∧
      (after (exec (.recordTmap (lr 3 0 [7, 0, BitVec.ofNat 64 (2 ^ 47)]) true) keyed)).pageKeys 7 = none) ∧ (pd id).sys.boot = 8 ∧ (pd id).pod.inPod = true ∧ (lr 1 0 []).writer ≠ (pd id).pkg ∧
    (∀ p ∈ [(0, 6), (1, 1), (2, 1), (3, 2), (4, 6), (5, 3), (6, 1), (7, 0)], lenOk p.1 p.2 = true ∧
      (lr p.2 (1048576 - max p.2 1) []).rsvd = false ∧ 1048576 - max p.2 1 + max p.2 1 ≤ (dialRegion (pd id).pod.dial 0).2) ∧ lenOk 0 7 = false ∧
    bitAt (nth 0 (lr 4 0 [0, 0, 0, 1]).words 3) (pd id).pkg = true ∧ bitAt (nth 0 (lr 4 0 [0, 0, 0, 2]).words 3) (pd id).pkg = false ∧
    fieldOf 7 40 24 = 0 ∧ hasEntry (fieldOf 7 0 40) = true ∧ (pd id).pins (fieldOf 7 0 40) = 0 ∧ (lr 3 0 [7, 1, 1]).words.take 3 = [7, 1, 1] ∧
    ({ lr 0 0 [] with tenant := 1 } : LoopRec).tenant ≠ 0 ∧ (pd id).pod.regen = none ∧
    ((0, 10) ∈ hear0.pod.heard ∧ hear0.time < 10 + 2048 ∧ 0 < 2 ∧ 2 ≠ hear0.rpos ∧ 0 < hear0.rpos) ∧
    hear0.pod.heard.all (fun q => decide (0 ≤ q.1)) = true ∧ hear0.pod.listen ≠ 0 ∧ hear0.pod.listen + 474 ≤ hear0.time + 1 ∧
    (pd id).pod.stopped = false ∧ (pd id).pod.rejoining = false ∧ (pd id).pod.heard = [] ∧
    (pd id).pod.offers = [] ∧ (pd id).pod.lossRaised = false ∧ (pd id).fw.adds = [] ∧ bitAt (pd id).sys.modew 4 = false ∧
    pkgOf (fieldOf 7 0 40 * 65536) = (pd id).pkg ∧ pkgOf (fieldOf (2 ^ 39) 0 40 * 65536) ≠ (pd id).pkg ∧
    2048 < ({ pd id with time := 2049 } : State).time - (pd id).pod.lastToken ∧
    4096 < ({ pd id with time := 4097 } : State).time - (pd id).pod.lastToken ∧ (pd fun p => { p with lossRaised := true }).pod.lossRaised = true ∧
    (pd fun p => { p with rejoining := true, kept := [noteOp] }).pod.kept = [noteOp] ∧ noteOp.op = 6 ∧
    nth 0 noteOp.rcd.words 0 = BitVec.ofNat 64 (pd id).pkg :=
  ⟨by decide +kernel, by decide +kernel⟩
/-- A package at ring position 1 that joins, or that asks to rejoin, with what its tap has heard. -/
def jn (f : Pod → Pod) : State := { State.reset with sys := { boot := 7, podcfg := 0x100 }, pod := f {} }
def hears (p : Pod) : Pod := { p with heard := [(0, 10)], listen := 1 }
/-- A token 64 bc after a regenerated one of a lower position, one 65 bc after it, and a halted package. -/
theorem witness_LoopEvents_discard :
    (let s := { pd (fun p => { p with regen := some (0, 100) }) with time := 164 };
      ¬ ∀ low at_, s.pod.regen = some (low, at_) → low < 2 → at_ + 64 < s.time) ∧
    (let s := { pd (fun p => { p with regen := some (0, 100) }) with time := 165 };
      ∀ low at_, s.pod.regen = some (low, at_) → low < 2 → at_ + 64 < s.time) ∧
    ({ State.reset with sys := { boot := 15 } } : State).sys.boot = 15 :=
  ⟨fun h => absurd (h 0 100 rfl (by decide)) (by decide), fun low at_ h _ => by cases h; decide, rfl⟩
theorem witness_LoopEvents_joining :
    (∀ f ∈ [id, fun p : Pod => { p with rejoining := true }], let s := jn f
      s.sys.boot = 7 ∧ s.sys.joinStep < 2 ∧ s.pod.regen = none ∧ s.pod.heard = [] ∧ s.pod.loaded = false ∧ s.pod.stopped = false ∧
      s.pod.offers = [] ∧ s.rpos = 1 ∧ s.pod.listen = 0) ∧
    (let s := jn hears; (0, 10) ∈ s.pod.heard ∧ s.time < 10 + 2048 ∧ 0 ≠ 2 ∧ s.pod.first = none) ∧
    (let s := { jn (fun p => { p with listen := 1 }) with time := 475 }; s.pod.listen ≠ 0 ∧ s.pod.listen + 474 ≤ s.time) ∧
    (let s : State := { State.reset with sys := { boot := 7 }, pod := { heard := [(1, 10)] } }; s.rpos = 0 ∧ (1, 10) ∈ s.pod.heard ∧ 1 ≠ 2) ∧
    (∀ b ∈ [true, false], let s := jn fun p => hears { p with first := some (1, 5, 0), loaded := b };
      s.pod.first = some (1, 5, 0) ∧ ¬ 2 < 1 ∧ 0 < 1 ∧ s.pod.loaded = b) ∧
    (let s := pd fun p => { p with inPod := false, rejoining := true };
      s.sys.boot = 8 ∧ s.pod.rejoining = true ∧ s.pod.inPod = false ∧ s.pod.regen = none ∧ s.pod.loaded = false) ∧
    (let s := { pd (fun p => hears { p with loaded := true }) with time := 480 };
      s.pod.loaded = true ∧ s.pod.stopped = false ∧ s.pod.rejoining = false ∧ (0, 10) ∈ s.pod.heard ∧ s.time < 10 + 2048 ∧ 0 < 2 ∧ 2 ≠ s.rpos) ∧
    (let s := pd fun p => { p with loaded := true }; s.pod.loaded = true ∧ s.pod.heard = [] ∧ 0 < s.rpos) ∧
    (let s := { pd (fun p => { p with lossRaised := true }) with time := 4097 };
      s.pod.lossRaised = true ∧ 4096 < s.time - s.pod.lastToken ∧ s.pod.heard = [] ∧ s.pod.stopped = false) ∧
    (let s := { pd (fun p => { p with lossRaised := true }) with time := 4097, sys := { boot := 8, podcfg := 0x100, modew := 16 } };
      bitAt s.sys.modew 4 = true ∧ s.pod.chosen = none) ∧
    (let s := pd fun p => { p with chosen := some 1 }; s.pod.inPod = true ∧ s.pod.chosen = some s.rpos) ∧
    (let s := hear0; bitAt s.sys.modew 4 = false ∧ s.pod.lastToken < 10 + 2048 ∧ ¬ s.rpos ≤ 0) := by
  refine ⟨?_, ?_, ?_, ?_, ?_, ?_, ?_, ?_, ?_, ?_, ?_, ?_⟩ <;> decide +kernel

def cellC : LinkCell := { kind := 0, dest := 0, dcore := 3, spkg := 1, sslot := 0, flow := 0, rop := 0, payload := [] }
def outC : OutCell := { port := 2, slot := 0, ready := 0, cell := cellC }
def frame (op plane len : Nat) : HallFrame :=
  { op := op, plane := plane, pod := 0, pkg := 0, tag := 4095, inc := 0, owner := 1, offset := 0, acode := 0, len := len, payload := [1] }
def hallT : HallTag := { frame := frame 0 3 1, attempts := 1, sent := 0, opId := 2, first := 0 }
/-- A frame to send in plane 3, where HPATH of its pod is `v`. -/
def hs (v : W64) : State := pd fun p => { p with hallQ := [(3, hallT)], hpath := [(384, v)] }
/-- Owner 1's page 0, granted to it, and the same page exported. -/
def owned : State :=
  { State.reset with
    sys := { boot := 8, hpol := [(1, BitVec.ofNat 64 (2 ^ 63 + 2 ^ 32 + 1))] }
    mem := { pages := [(0, BitVec.ofNat 64 (2 ^ 52 + 2 ^ 41))], leases := [{ state := 1, owner := 1, page := 0, count := 1, holder := -1 }] } }
theorem witness_FabricEvents :
    (let s := pd fun p => { p with cells := [outC] };
      s.pod.cells.find? (fun x => x.port == 2 && x.slot == s.bc.toNat % 64) = some outC ∧ outC.ready ≤ s.bc.toNat ∧ s.bcHold = 0 ∧
      s.pod.stopped = false ∧ s.pod.lastSent = []) ∧
    (let s := pd fun p => { p with cells := [{ outC with ready := 5 }] };
      s.pod.cells.find? (fun x => x.port == 2 && x.slot == 0) = some { outC with ready := 5 } ∧ s.bc.toNat < 5 ∧
      s.pod.cells.find? (fun x => x.port == 2 && x.slot == 64) = none) ∧
    (let s := pd fun p => { p with cells := [{ outC with slot := 64 }] };
      s.pod.cells.find? (fun x => x.port == 2 && x.slot == 0) = none ∧
      s.pod.cells.find? (fun x => x.port == 2 && x.slot == 64) = some { outC with slot := 64 }) ∧
    (let s := pd fun p => { p with tags := [(4096 * 3 + 4095, { hallT with waiting := true })] };
      s.pod.tags.find? (fun x => x.2.waiting && x.1 / 4096 == 3) = some (4096 * 3 + 4095, { hallT with waiting := true })) ∧
    (let s := pd fun p => { p with answers := [(frame 5 3 0, false)] };
      s.pod.tags.find? (fun x => x.2.waiting && x.1 / 4096 == 3) = none ∧
      s.pod.answers.find? (fun r => r.1.plane == 3) = some (frame 5 3 0, false)) ∧
    (pd id).receivers (cellC.dcore % 256) = [3] ∧ ((pd id).core 3).rx.length < 256 ∧
    256 ≤ (((pd id).modCore 3 fun c => { c with rx := List.replicate 256 cellC }).core 3).rx.length ∧
    fieldOf (pd id).pod.lmgt 63 1 = 0 ∧ fieldOf (pd fun p => { p with lmgt := 0x8000000000000000 }).pod.lmgt 63 1 = 1 ∧
    ((hs 0).pod.hallQ.find? (fun q => q.1 == 3) = some (3, hallT) ∧ (hs 0).pod.hallLast = [] ∧
      fieldOf ((hs 0).hpath 3 hallT.frame.pod) 63 1 = 0) ∧
    ((hs 0x8000000000000000).pod.hallQ.find? (fun q => q.1 == 3) = some (3, hallT) ∧ (hs 0x8000000000000000).freeTag 3 = some 0 ∧
      fieldOf ((hs 0x8000000000000000).hpath 3 hallT.frame.pod) 63 1 = 1 ∧ hallT.frame.plane = 3 ∧ hallT.waiting = false) ∧
    (pd id).pod.tags = [] ∧ (frame 2 3 1025).len > 1024 ∧
    (let x : HallSeen := { request := frame 0 3 1, reply := frame 5 3 0, err := false }
     let s := pd fun p => { p with replies := [(seenKey (frame 0 3 1), x)] };
      s.pod.replies.find? (fun q => q.1 == seenKey (frame 0 3 1) && q.2.repeats (frame 0 3 1)) = some (seenKey (frame 0 3 1), x)) ∧
    (let s := pd fun p => { p with tags := [(4096 * 3 + 4095, hallT)] };
      s.pod.tags.find? (fun x => x.1 == 4096 * 3 + 4095) = some (4096 * 3 + 4095, hallT) ∧ hallT.frame.inc = (frame 2 3 0).inc ∧
      hallT.frame.inc ≠ ({ frame 2 3 0 with inc := 15 } : HallFrame).inc ∧ s.time < hallT.sent + 1600000 ∧
      hallT.sent + 1600000 ≤ ({ s with time := 1600000 } : State).time ∧ hallT.attempts < 4) ∧
    owned.sys.boot = 8 ∧ owned.pod.replies = [] ∧ owned.exports (frame 0 3 1024) = true ∧ owned.exports { frame 1 3 1024 with offset := 65536 } = false := by
  refine ⟨?_, ?_, ?_, ?_, ?_, ?_, ?_, ?_, ?_, ?_, ?_, ?_, ?_, ?_, ?_, ?_, ?_, ?_, ?_, ?_⟩ <;> decide +kernel
/-- A PUT sent again on a page that is no longer exported, and one that may still write. -/
theorem witness_FabricEvents_again : let x : HallSeen := { request := frame 0 3 1, reply := frame 5 3 0, err := false }
    (let s := pd fun p => { p with replies := [(seenKey (frame 0 3 1), x)] }; s.exports (frame 0 3 1) = false ∧ s.sys.boot = 8) ∧
    (let s : State := { owned with pod := { owned.pod with replies := [(seenKey (frame 0 3 1), x)] } };
      s.exports (frame 0 3 1) = true ∧ s.sys.boot = 8 ∧
      s.pod.replies.find? (fun q => q.1 == seenKey (frame 0 3 1) && q.2.repeats (frame 0 3 1)) = some (seenKey (frame 0 3 1), x)) := by
  refine ⟨?_, ?_⟩ <;> decide +kernel
theorem witness_FabricEvents_stopped : (let s := pd fun p => { p with stopped := true, stopBc := 64 }; s.pod.stopped = true ∧ s.bc.toNat < s.pod.stopBc) ∧
    (let s := pd fun p => { p with stopped := true }; ¬(s.pod.stopped = false ∨ s.bc.toNat < s.pod.stopBc)) := by decide +kernel

/-- Queue 7 of owner 1: its control block at 0, its ring of four entries at 4096, whose first entry is given from its word 1 on. -/
def qs (ws : List W64) : State :=
  let s := [(0, ([0, 0, 4096, BitVec.ofNat 64 (2 + 2 ^ 10)] : List W64)), (4096, 1 :: ws)].foldl (fun s p => s.homePut p.1 (wordBytes p.2)) owned
  s.setQueue 7 { listed := true, mapped := true, owner := 1, base := 4096, log := 2 }
def slotQ (owner qcb : Nat) : QSlot := { listed := true, qcb := qcb, owner := owner }
def polP : Policy := { rate := [(0, 5)], depth := [(0, 100)] }
/-- 1,600 bc after the last gain, with one owner's record and the queues given. -/
def bucketS (p : Policy) (qs : List (Nat × QSlot)) : State := { owned with fw := { policy := [(1, p)], queues := qs, refillBc := 1600 } }
def startS : State := owned.setLaunch 1 { id := 1, owner := 1, desc := { ct.myTrain.desc with foots := [] } }
theorem witness_QueueAndLaunchEvents : (qs []).sys.boot = 8 ∧ (qs []).tampered (slotQ 2 0) = true ∧
    ((qs []).tampered (slotQ 1 0) = false ∧ (qs []).ringBad 0 1 = false) ∧
    (owned.tampered (slotQ 0 0) = false ∧ owned.ringBad 0 0 = true) ∧ ((qs []).queue 8).listed = false ∧ ((qs []).queue 7).listed = true ∧
    ((qs [15]).mayAdmit 7 0 = true ∧ (qs [15]).entryError 7 ≠ 0) ∧
    (let s := qs [0, 8192, 16384]; s.mayAdmit 7 0 = true ∧ s.entryError 7 = 0 ∧ s.entryWord 7 4 = 0) ∧
    (let s := qs [0, 8192, 16384, 3]; s.mayAdmit 7 0 = true ∧ s.entryError 7 = 0 ∧ s.entryWord 7 4 ≠ 0) ∧
    (let s := qs [1, 8192, 0]; s.mayAdmit 7 1 = true ∧ s.entryError 7 = 0) ∧
    (let s := qs [2, 8192, 1]; s.mayAdmit 7 2 = true ∧ s.entryError 7 = 0 ∧ s.fw.launches = [] ∧ s.fw.podEntries = [] ∧ s.fw.adds = [] ∧
      (s.homeWrite 1 8192 (leBytes 8 (leNat (s.homeBytes 1 8192 8) + 1))).mem.starved = false) ∧
    (let s := qs [3]; s.mayAdmit 7 3 = true ∧ s.entryError 7 = 0) ∧ owned.mayAdmit 7 3 = false ∧ owned.fw.refillBc < 1600 ∧
    (let s := bucketS polP []; 1600 ≤ s.fw.refillBc ∧ s.fw.policy = [(1, polP)] ∧ s.fw.queues = [] ∧ s.grid.trains = []) ∧
    (startS.fw.queues = [] ∧ startS.fw.policy = [] ∧ (startS.launch 1).desc.twin = false ∧ startS.canStart (startS.launch 1) = true ∧
      (startS.launch 1).id = 1) ∧ (ct.train 0).finished = false ∧
    (let s := (tr0 { finished := true, launch := 1 }).setLaunch 1 { id := 1 }; (s.train 0).finished = true ∧ s.endShort 0 = false ∧ (s.launch (s.train 0).launch).id = 1) := by
  refine ⟨?_, ?_, ?_, ?_, ?_, ?_, ?_, ?_, ?_, ?_, ?_, ?_, ?_, ?_, ?_, ?_, ?_, ?_, ?_⟩ <;> decide +kernel
/-- The end of a launch whose counter's page must be set aside for a snapshot lap, where no tier has a free frame. -/
def shortS : State :=
  { (tr0 { finished := true, launch := 1 }).setLaunch 1 { id := 1, w5 := 65536 } with
    mem := { pages := [(1, BitVec.ofNat 64 (2 ^ 41))], pins := [(1, 1)], laps := [{ number := 1, cover := [(1, 1)] }]
             retired := [(0, capacityFrames), (1, bondedFrames)] } }
/-- An ADD whose counter's page must be set aside, where no tier has a free frame. -/
def shortAdd : State :=
  let s := qs [2, 8192, 1]
  { s with mem := { s.mem with pins := [(0, 1)], laps := [{ number := 1, cover := [(0, 1)] }]
                               retired := [(0, capacityFrames), (1, bondedFrames)] } }
/-- Buckets that keep above 0, that run dry with a mapped queue, that reach THRESH and that do not, and launches that wait for one. -/
theorem witness_QueueAndLaunchEvents_buckets :
    (let p : Policy := { level := [(0, 1), (1, 1), (2, 1), (3, 1)] };
      ∀ b < 4, 0 < min (p.levelOf b + (Sp.get 0 p.rate b : Nat)) (max (p.levelOf b) (Sp.get 0 p.depth b : Nat))) ∧
    (let p : Policy := { dried := [2], level := [(2, -9)], rate := [(2, 9)], depth := [(2, 9)] };
      min (p.levelOf 2 + (Sp.get 0 p.rate 2 : Nat)) (max (p.levelOf 2) (Sp.get 0 p.depth 2 : Nat)) = 0 ∧
      (bucketS p [(7, slotQ 1 0)]).grid.trains = [] ∧ ({ slotQ 1 0 with mapped := true, rclass := 2 } : QSlot).mapped = true) ∧
    (let p : Policy := { polP with dried := [0], thresh := [(0, 5)] }
     let y : QSlot := { slotQ 1 0 with dry := true };
      min (p.levelOf 0 + (Sp.get 0 p.rate 0 : Nat)) (max (p.levelOf 0) (Sp.get 0 p.depth 0 : Nat)) = 5 ∧ 0 ∈ p.dried ∧
      ({ qs [] with fw := (bucketS p [(7, y)]).fw } : State).tampered y = false ∧
      ({ qs [] with fw := (bucketS p [(7, y)]).fw } : State).ringBad 0 1 = false ∧ Sp.get 0 p.thresh 0 = 5) ∧
    (let p : Policy := { polP with dried := [0], thresh := [(0, 6)] };
      min (p.levelOf 0 + (Sp.get 0 p.rate 0 : Nat)) (max (p.levelOf 0) (Sp.get 0 p.depth 0 : Nat)) = 5 ∧ 0 ∈ p.dried) ∧
    (let s := (owned.setQueue 0 { listed := true, qcb := 64, dry := true }).setLaunch 1 { id := 1, qcb := 64 };
      (s.launch 1).away = none ∧ ∃ y ∈ s.fw.queues, y.2.listed = true ∧ y.2.qcb = (s.launch 1).qcb ∧ (s.queue y.1).dry = true) ∧
    (let s := (bucketS { polP with dried := [0] } []).setLaunch 1 { id := 1, owner := 1 };
      (∃ p ∈ s.fw.policy, p.1 = 1) ∧ 0 ∈ (s.policy 1).dried) := by
  refine ⟨?_, ?_, ?_, ?_, ?_, ?_⟩ <;> decide +kernel
/-- The end of a launch that holds slot 5 of port 2. -/
theorem witness_QueueAndLaunchEvents_slots :
    let s := (tr0 { finished := true, launch := 1 }).setLaunch 1
      { id := 1, desc := { slots := [{ port := 2, slot := 5, score := 0, dcore := 0, kind := 0, dest := 0 }] } }
    (s.train 0).finished = true ∧ s.endShort 0 = false ∧ (s.launch (s.train 0).launch).id = 1 ∧
    ∃ r ∈ (s.launch (s.train 0).launch).desc.slots, r.port = 2 ∧ r.slot = 5 ∧ r.slot < 64 := by decide +kernel
theorem witness_QueueAndLaunchEvents_short : shortS.endShort 0 = true ∧ shortAdd.mayAdmit 7 2 = true ∧ shortAdd.entryError 7 = 0 ∧
    shortAdd.fw.launches = [] ∧ shortAdd.fw.podEntries = [] ∧ shortAdd.fw.adds = [] ∧ shortAdd.mem.starved = false ∧
    (shortAdd.homeWrite 1 8192 (leBytes 8 (leNat (shortAdd.homeBytes 1 8192 8) + 1))).mem.starved = true := by decide +kernel
def awayS : State :=
  (owned.setQueue 0 { listed := true, dry := true }).setLaunch 1 { id := 1, owner := 1, away := some 3, desc := { ct.myTrain.desc with foots := [] } }
theorem witness_QueueAndLaunchEvents_away : (awayS.launch 1).away ≠ none ∧ (awayS.queue (awayS.launch 1).queue).dry = true ∧
    awayS.bucketDry (awayS.launch 1).owner (awayS.launch 1).rclass = false ∧ (awayS.launch 1).desc.twin = false ∧
    awayS.canStart (awayS.launch 1) = true ∧ (awayS.launch 1).id = 1 := by decide +kernel

def leaseL (state owner : Nat) : Lease := { desc := 2 ^ 64, state := state, owner := owner, page := 0, count := 1, remote := true }
def leased (l : Lease) : State := { owned with mem := { owned.mem with leases := [l], pins := [(0, 1)] } }
def lapL : Lap := { number := 1, gen := 4, targetComp := true }
theorem witness_PartitionEvents : State.reset.mem.leases = [] ∧
    (∀ o ∈ [1, 2], (leased (leaseL 0 o)).mem.leases.find? (fun l => l.desc == 2 ^ 64 && l.state == 0) = some (leaseL 0 o)) ∧
    (leased (leaseL 0 2)).leaseCause (leaseL 0 2) ≠ 0 ∧ (leased (leaseL 0 1)).leaseCause (leaseL 0 1) = 0 ∧
    (leased (leaseL 0 1)).framesFree (leaseL 0 1) = true ∧
    (leased (leaseL 5 1)).mem.leases.find? (fun l => l.desc == 2 ^ 64 && l.state == 5) = some (leaseL 5 1) ∧ (leaseL 5 1).counter = 0 ∧
    (leased (leaseL 5 1)).grid.cmds = [] ∧ (leaseL 5 1).holds 0 = true ∧
    (∃ p ∈ owned.sys.hpol, p.1 ≠ 2 ∧ fieldOf p.2 63 1 = 1 ∧ p.2 &&& ((1 : W64) &&& BitVec.ofNat 64 (2 ^ 32 - 1)) ≠ 0) ∧
    (¬ ∃ p ∈ owned.sys.hpol, p.1 ≠ 2 ∧ fieldOf p.2 63 1 = 1 ∧ p.2 &&& ((2 : W64) &&& BitVec.ofNat 64 (2 ^ 32 - 1)) ≠ 0) ∧
    owned.hpol 4095 &&& BitVec.ofNat 64 (2 ^ 32 - 1) &&& ~~~((2 : W64) &&& BitVec.ofNat 64 (2 ^ 32 - 1)) = 0 ∧ owned.vacated 1 = false ∧
    ({ owned with fw := { owned.fw with removals := [(1, 1)] } } : State).vacated 1 = true ∧ owned.mem.laps = [] ∧
    ({ owned with mem := { owned.mem with laps := [lapL] } } : State).mem.laps.find? (fun l => l.gen == 4 && l.number != 0 && !l.written) =
      some lapL := by
  refine ⟨?_, ?_, ?_, ?_, ?_, ?_, ?_, ?_, ?_, ?_, ?_, ?_, ?_, ?_, ?_, ?_⟩ <;> decide +kernel
/-- A removal of cluster 0, which holds an own byte of a team that has ended. -/
theorem witness_PartitionEvents_removal :
    (let s : State := { owned with fw := { owned.fw with removals := [(1, 1)] }, mem := { owned.mem with own := [(5, 1)], cview := [(5, 7)] } };
      s.vacated 1 = true ∧ bitAt (Sp.get 0 s.fw.removals 1) 0 = true ∧ Sp.get 0 s.mem.own (0 * 2 ^ 56 + 5) ≠ 0 ∧ Sp.Wf 0 s.mem.own ∧
      s.mem.laps = [] ∧ s.fw.queues = [] ∧ s.pageOk 1 (5 / 65536) = true ∧ Sp.get 0 s.mem.own (0 * 2 ^ 56 + 6) = 0) := by
  refine ⟨?_, ?_, ?_, ?_, ?_, ?_, ?_, ?_⟩ <;> decide +kernel
/-- A lease of owner 1's page 0 with its descriptor at 4096, and a train of owner 1 on cluster 0. -/
def leaseH (state : Nat) : Lease := { desc := 4096, state := state, owner := 1, page := 0, count := 1, kind := 1 }
def leasedH (l : Lease) : State := ((leased l).sysPutWord 4104 1).sysPutWord 4112 4097
def clusterS : State := { State.withTrain ct (fun t => { t with desc := { t.desc with det := false } }) with sys := { ct.sys with hpol := [(1, BitVec.ofNat 64 (2 ^ 63 + 1))] } }
theorem witness_PartitionEvents_local :
    (∀ st ∈ [0, 5], let s := leasedH (leaseH st)
      s.mem.leases.find? (fun l => l.desc == 4096 && l.state == st) = some (leaseH st) ∧ (leaseH st).remote = false ∧ s.fw.posts = [] ∧
      4096 + 64 ≤ 2 ^ 63 ∧ ringAt s.fw.fring s.fw.ringIx + 64 ≤ 4096 + 56 ∧ s.leaseCause (leaseH st) = 0 ∧ s.framesFree (leaseH st) = true) ∧
    (let s := leasedH { leaseH 0 with owner := 2 }; s.leaseCause { leaseH 0 with owner := 2 } ≠ 0) ∧
    (let s : State := { leasedH (leaseH 0) with mem := { (leasedH (leaseH 0)).mem with pins := [(0, 65535)] } };
      s.leaseCause (leaseH 0) = 0 ∧ s.framesFree (leaseH 0) = false) ∧
    (let l := { leaseH 5 with counter := 8192, target := 1 }; l.counter ≠ 0 ∧ ¬ l.target.toNat ≤ ((leasedH l).sysWord l.counter).toNat) ∧
    (let l := { leaseH 5 with counter := 8192 }; l.target.toNat ≤ ((leasedH l).sysWord l.counter).toNat ∧ (leasedH l).grid.cmds = []) ∧
    (let c := { command (.nop plain 0) true with pages := [0] }; 0 ∈ c.pages ∧ (leaseH 5).holds 0 = true) ∧
    (let s : State := { owned with fw := { owned.fw with removals := [(1, 1)] } };
      Sp.get 0 s.fw.removals 1 &&& ((1 : W64) &&& BitVec.ofNat 64 (2 ^ 32 - 1)) ≠ 0 ∧
      s.hpol 1 &&& BitVec.ofNat 64 (2 ^ 32 - 1) &&& ~~~((1 : W64) &&& BitVec.ofNat 64 (2 ^ 32 - 1)) = 0 ∧
      ∃ p ∈ s.fw.removals, p.1 ≠ 2 ∧ p.2 &&& ((1 : W64) &&& BitVec.ofNat 64 (2 ^ 32 - 1)) ≠ 0) ∧
    (clusterS.hpol 1 &&& BitVec.ofNat 64 (2 ^ 32 - 1) &&& ~~~((0 : W64) &&& BitVec.ofNat 64 (2 ^ 32 - 1)) = 1 ∧ clusterS.fw.removals = [] ∧
      (∀ p ∈ clusterS.sys.hpol, p.1 = 1) ∧ (∃ x, clusterS.grid.trains = [(0, x)] ∧ x.live = true ∧ x.owner = 1 ∧ x.parked = false) ∧
      clusterS.together 0 = false ∧ clusterS.concerned 0 none = [teamKey 0 0] ∧ clusterS.standsOn 1 (teamKey 0 0) = true ∧
      (State.withTrain clusterS fun t => { t with linked := true }).boundTo 1 0 = true) := by
  refine ⟨?_, ?_, ?_, ?_, ?_, ?_, ?_, ⟨?_, ?_, ?_, ⟨_, rfl, ?_⟩, ?_, ?_, ?_, ?_⟩⟩ <;> decide +kernel

def bootS (b : Nat) (f : Sys → Sys) : State := { State.reset with sys := f { boot := b } }
/-- Whether an image with a good header is accepted is a free value, so only a bad header's case has a state here. -/
theorem witness_BringUpEvents : (bootS 1 id).sys.boot ≠ 0 ∧ (bootS 2 id).sys.boot = 2 ∧ 0x10000000 + 2 ^ 25 ≤ 0x12000000 ∧
    (bootS 2 id).imageOk = false ∧ State.reset.sys.boot = 0 ∧ (bootS 6 id).sys.boot = 6 ∧
    ((bootS 6 fun y => { y with podcfg := 0x10000 }).psize ≠ 0 ∧ (bootS 6 id).psize = 0 ∧ (bootS 5 id).sys.boot = 5) ∧
    (let s := { bootS 7 fun y => { y with podcfg := 0x1010000 } with time := 4096 }; s.sys.boot = 7 ∧ s.sys.joinStep = 0 ∧
      s.sys.joinEntry + 4096 ≤ s.time ∧ s.form = true) ∧
    (let s := { bootS 7 fun y => { y with podcfg := 0x20000 } with time := 1600000 }; s.form = false ∧ s.psize ≠ 1 ∧ s.sys.joinStep < 2 ∧
      s.sys.joinEntry + 1600000 ≤ s.time) ∧
    (bootS 8 id).portGrants true 0x100 = false ∧ (bootS 8 fun y => { y with modew := 8 }).portGrants true 0x4FF = true ∧
    (bootS 2 id).sys.fuseBusy = false ∧ ¬(fieldOf (bootS 2 id).sys.fusea 0 6 < 12 ∧ bitOf (Sp.get 0 (bootS 2 id).sys.fuses 16).toNat 0 = true) ∧
    (fieldOf (bootS 2 fun y => { y with fuses := [(16, 1)] }).sys.fusea 0 6 < 12 ∧
      bitOf (Sp.get 0 (bootS 2 fun y => { y with fuses := [(16, 1)] }).sys.fuses 16).toNat 0 = true) ∧
    (bootS 3 id).grid.trains = [] ∧ (bootS 3 id).fw.posts = [] ∧ (bootS 3 id).sys.hpol = [] ∧ (bootS 3 id).sys.attesting = [] ∧
    (bootS 8 fun y => { y with attesting := [1] }).sys.attesting ≠ [] ∧ (bootS 3 id).pod.listen = 0 ∧
    (bootS 14 fun y => { y with cause := 1 }).sys.cause = 1 ∧
    (bootS 2 fun y => { y with fuseBusy := true }).sys.fuseBusy = true ∧ (bootS 8 id).powered = true ∧ State.reset.powered = false := by
  refine ⟨?_, ?_, ?_, ?_, ?_, ?_, ?_, ?_, ?_, ?_, ?_, ?_, ?_, ?_, ?_, ?_, ?_, ?_, ?_, ?_, ?_, ?_, ?_, ?_⟩ <;> decide +kernel
theorem witness_BringUpEvents_released : ((bootS 2 id).sys.boot ≠ 0 ∧ (bootS 2 id).sys.released = false) ∧ (bootS 15 id).sys.released = false ∧
    ¬((bootS 15 fun y => { y with released := true }).sys.boot ≠ 0 ∧ (bootS 15 fun y => { y with released := true }).sys.released = false) := by
  decide

end Sys2Proof.Tests
end

section
/-!
SUPPORT. Counting events: what it changes is the event counters alone (R407, R394).
-/

namespace Sys2Proof.Machine

/-- The state with other event counters (R407): what counting an event changes. -/
def State.recount (s : State) (c : List (Nat × W64)) : State := { s with sys := { s.sys with counters := c } }

section
variable {s : State} (c : List (Nat × W64))

@[simp] theorem State.recount_cur : (s.recount c).cur = s.cur := rfl
@[simp] theorem State.recount_mem : (s.recount c).mem = s.mem := rfl
@[simp] theorem State.recount_grid : (s.recount c).grid = s.grid := rfl
@[simp] theorem State.recount_myTrain : (s.recount c).myTrain = s.myTrain := rfl
@[simp] theorem State.recount_myTeam : (s.recount c).myTeam = s.myTeam := rfl
@[simp] theorem State.recount_me : (s.recount c).me = s.me := rfl
@[simp] theorem State.recount_readCore (g : Group) : (s.recount c).readCore g = s.readCore g := rfl
@[simp] theorem State.recount_level (x : Xlat) : (s.recount c).level x = s.level x := rfl
@[simp] theorem State.recount_viewBytes (owner core level ia n : Nat) :
    (s.recount c).viewBytes owner core level ia n = s.viewBytes owner core level ia n := rfl

/-- The event counters are no part of what a compute group fetches. -/
theorem State.recount_codeBytes (h : s.cur.cmd = false) (a : Addr48) (n : Nat) :
    (s.recount c).codeBytes a n = s.codeBytes a n := by
  simp [State.codeBytes, h]

theorem State.recount_decodeAt (h : s.cur.cmd = false) (a : Addr48) : (s.recount c).decodeAt a = s.decodeAt a := by
  simp only [State.decodeAt, State.fetchAt, State.recount_codeBytes c h]
end

/-- A page that passes its checks counts no mismatch (R394). -/
theorem State.countMisses_of_pageOk (s : State) (o : Nat) (ps : List Nat) (h : ∀ p ∈ ps, s.pageOk o p = true) :
    s.countMisses o ps = s := by
  have none : ps.filter (fun p => !s.pageOk o p) = [] := List.filter_eq_nil_iff.2 fun p hp => by simp [h p hp]
  simp only [State.countMisses, none, List.foldl_nil]

/-- What counting mismatches is: other event counters. -/
theorem State.countMisses_recount (s : State) (o : Nat) (ps : List Nat) : ∃ c, s.countMisses o ps = s.recount c := by
  unfold State.countMisses
  generalize ps.filter _ = qs
  induction qs generalizing s with
  | nil => exact ⟨s.sys.counters, rfl⟩
  | cons q qs ih =>
    obtain ⟨c, h⟩ := ih (s.bump 0 9)
    exact ⟨c, h⟩

end Sys2Proof.Machine
end

section
/-!
What one step does (spec/00_scope.md R1, spec/02_execution_model.md R45, spec/17_privilege_traps_preemption.md R363).
-/

namespace Sys2Proof.Machine

/-! ### What `step` answers -/

theorem step_of_dueInput {s : State} {p : Nat × Input} (h : s.dueInput = some p) : step s = s.takeInput p := by
  simp only [step, h]

theorem step_of_dueWork {s : State} {w : Work} (hi : s.dueInput = none) (h : s.dueWork = some w) : step s = s.doWork w := by
  simp only [step, hi, h]

theorem step_of_idle {s : State} (hi : s.dueInput = none) (h : s.dueWork = none) : step s = exec .vcAdvance s := by
  simp only [step, hi, h]

/-! ### The fetch of a compute group -/

/-- What a fetch counts: nothing, or the mismatch of its page (R394). -/
theorem State.countFetch_cases (s : State) : s.countFetch = s ∨ ∃ p, s.countFetch = s.countMisses s.myTrain.owner [p] := by
  simp only [State.countFetch]
  split
  · exact .inl rfl
  split
  · exact .inl rfl
  split
  · exact .inr ⟨_, rfl⟩
  · exact .inl rfl

theorem State.countFetch_of_pageOk (s : State) (h : ∀ p, s.pageOk s.myTrain.owner p = true) : s.countFetch = s := by
  obtain e | ⟨p, e⟩ := s.countFetch_cases
  · exact e
  · rw [e, s.countMisses_of_pageOk _ _ fun p _ => h p]

/-- The count of a fetch changes no byte that a compute group fetches. -/
theorem State.countFetch_decodeAt (s : State) (h : s.cur.cmd = false) (a : Addr48) : s.countFetch.decodeAt a = s.decodeAt a := by
  obtain e | ⟨p, e⟩ := s.countFetch_cases
  · rw [e]
  · obtain ⟨c, k⟩ := s.countMisses_recount s.myTrain.owner [p]
    rw [e, k, State.recount_decodeAt c h]

@[simp] theorem State.countFetch_cur (s : State) : s.countFetch.cur = s.cur := by
  obtain e | ⟨p, e⟩ := s.countFetch_cases <;> simp only [e, State.countMisses_cur]

/-! ### What an issue and a command core answer -/

/-- The state in which a slot's instruction is fetched. -/
def State.inSlot (s : State) (slot : Nat) : State := { s with cur := s.context slot }

/-- The state in which a command core's instruction is fetched. -/
def State.inCommand (s : State) (k : Nat) : State := { s with cur := s.commandContext k }

section
variable {s : State} {slot k w n : Nat} {i : Instr} {f : Flt}

theorem State.issueFrom_of_decode (hp : (s.inSlot slot).poisonedCode = none)
    (hd : (s.inSlot slot).decodeAt (s.inSlot slot).cur.addr = .ok (i, w, n)) :
    s.issueFrom slot = thenDo (exec i ((s.inSlot slot).countFetch.fetched w n)) (State.afterIssue i w) := by
  rw [← (s.inSlot slot).countFetch_decodeAt rfl, ← State.countFetch_cur] at hd
  unfold State.inSlot at *
  simp only [State.issueFrom, hp, hd]

theorem State.issueFrom_of_fault (hp : (s.inSlot slot).poisonedCode = none)
    (hd : (s.inSlot slot).decodeAt (s.inSlot slot).cur.addr = .error f) :
    s.issueFrom slot = .next (((s.inSlot slot).countFetch.raise f).issued 0 true).idle := by
  rw [← (s.inSlot slot).countFetch_decodeAt rfl, ← State.countFetch_cur] at hd
  unfold State.inSlot at *
  simp only [State.issueFrom, hp, hd]

theorem State.runCommand_of_decode (hr : (s.pollRecord k).commandRuns k = true)
    (hd : ((s.pollRecord k).inCommand k).decodeAt ((s.pollRecord k).inCommand k).cur.addr = .ok (i, w, n)) :
    s.runCommand k = thenDo (exec i (((s.pollRecord k).inCommand k).fetched w n)) State.idle := by
  unfold State.inCommand at *
  simp only [State.runCommand, hr, hd, if_true]

theorem State.runCommand_of_fault (hr : (s.pollRecord k).commandRuns k = true)
    (hd : ((s.pollRecord k).inCommand k).decodeAt ((s.pollRecord k).inCommand k).cur.addr = .error f) :
    s.runCommand k = .next (((s.pollRecord k).inCommand k).raise f).idle := by
  unfold State.inCommand at *
  simp only [State.runCommand, hr, hd, if_true]

theorem State.runCommand_of_stopped (hr : (s.pollRecord k).commandRuns k = false) : s.runCommand k = .next (s.pollRecord k) := by
  simp only [State.runCommand, hr, Bool.false_eq_true, if_false]

/-- A due input for a command core lets it run one instruction (log 9). -/
theorem step_of_command {at_ : Nat} (h : s.dueInput = some (at_, .command k)) (hk : k < 16) :
    step s = ({ s with inputs := eraseFirst (fun q => q == (at_, .command k)) s.inputs } : State).runCommand k :=
  (step_of_dueInput h).trans (if_pos hk)
end

/-- Settles O48: each clause is the branch of `step` that its hypotheses name. -/
theorem stepRunsTheDecodedInstruction : Obligations.StepRunsTheDecodedInstruction := by
  intro s i e f w n slot k at_ u without v c
  refine ⟨fun hi => ⟨fun hw hp => ⟨fun hd => ?_, fun hd => ?_, State.countFetch_of_pageOk u⟩, ?_, step_of_idle hi⟩, ?_, fun h => ⟨?_, ?_, ?_⟩⟩
  · exact (step_of_dueWork hi hw).trans (State.issueFrom_of_decode hp hd)
  · exact (step_of_dueWork hi hw).trans (State.issueFrom_of_fault hp hd)
  · exact fun hw => step_of_dueWork hi hw
  · exact fun h => step_of_dueInput h
  · exact fun hk => (step_of_dueInput h).trans (if_neg (by omega))
  · exact fun hk hr => ⟨fun hd => (step_of_command h hk).trans (State.runCommand_of_decode hr hd),
      fun hd => (step_of_command h hk).trans (State.runCommand_of_fault hr hd)⟩
  · exact fun hk hr => (step_of_command h hk).trans (State.runCommand_of_stopped hr)

end Sys2Proof.Machine
end

section
/-!
SUPPORT. What waiting records and entries, the count of bc and a report in progress leave of the registers, as time passes.
-/

namespace Sys2Proof.Machine

/-- What every step of a fold keeps, the fold keeps. -/
theorem foldl_keeps {σ β γ : Type} (p : σ → β) (f : σ → γ → σ) (h : ∀ u x, p (f u x) = p u) (xs : List γ) (u : σ) :
    p (xs.foldl f u) = p u := by
  induction xs generalizing u with
  | nil => rfl
  | cons x xs ih => rw [List.foldl_cons, ih, h]

/-! ### Writes at the home change no register but the event counters -/

/-- The registers without the event counters. -/
def Sys.uncounted (y : Sys) : Sys := { y with counters := [] }

theorem Sys.report_of_uncounted {x y : Sys} (h : x.uncounted = y.uncounted) : x.attesting = y.attesting ∧ x.report = y.report :=
  ⟨(congrArg Sys.attesting h :), (congrArg Sys.report h :)⟩

@[simp] theorem State.placePage_sys (s : State) (loc p : Nat) : (s.placePage loc p).sys = s.sys := rfl

theorem State.makeRoom_sys (s : State) (bonded : Bool) (die n gained : Nat) (ps : Nat → Bool) (kept : Nat × Nat) :
    (s.makeRoom bonded die n gained ps kept).sys = s.sys :=
  foldl_keeps State.sys _ (fun u p => u.placePage_sys _ p) _ s

theorem State.setAside_sys (s : State) (p : Nat) : (s.setAside p).sys = s.sys := by
  have placed {t : State} (h : t.sys = s.sys) (m : Mem) (e : W64) : (({ t with mem := m } : State).setPage p e).sys = s.sys := h
  unfold State.setAside
  split
  · rfl
  · exact placed (by rw [State.makeRoom_sys, State.makeRoom_sys]) _ _

@[simp] theorem State.homePut_sys (s : State) (ia : Nat) (bs : List Byte) : (s.homePut ia bs).sys = s.sys :=
  foldl_keeps State.sys _ (fun u _ => u.setAside_sys _) _ s

@[simp] theorem State.sysPut_sys (s : State) (a : Nat) (bs : List Byte) : (s.sysPut a bs).sys = s.sys := by
  unfold State.sysPut
  split
  · rfl
  · exact s.homePut_sys a bs

theorem State.homeWrite_uncounted (s : State) (owner ia : Nat) (bs : List Byte) :
    (s.homeWrite owner ia bs).sys.uncounted = s.sys.uncounted := by
  refine foldl_keeps (fun u => u.sys.uncounted) _ (fun u q => ?_) _ s
  split
  · rw [State.homePut_sys]
  · rfl

theorem State.bumpOwner_uncounted (s : State) (owner c : Nat) : (s.bumpOwner owner c).sys.uncounted = s.sys.uncounted := by
  obtain h | ⟨b, k, h⟩ := s.bumpOwner_cases owner c
  · rw [h]
  · rw [h]; rfl

/-! ### Waiting records and ADD entries -/

theorem State.postNow_sys (s : State) (p : Post) : (s.postNow p).sys = s.sys := by
  unfold State.postNow
  cases p.ask <;> simp [State.wakeLevel]

theorem State.flushPosts_sys (n : Nat) (s : State) : (s.flushPosts n).sys = s.sys := by
  induction n generalizing s with
  | zero => rfl
  | succ n ih =>
    unfold State.flushPosts
    cases s.fw.posts with
    | nil => rfl
    | cons p ps =>
      have posted (t : State) (h : t.sys = s.sys) :
          (if (t.postNow p).mem.starved && !s.mem.starved then s else State.flushPosts n (t.postNow p)).sys = s.sys := by
        split
        · rfl
        · rw [ih, State.postNow_sys, h]
      dsimp only
      split
      · exact posted _ (by cases p.train <;> rfl)
      · rfl

theorem State.flushAdds_uncounted (s : State) : s.flushAdds.sys.uncounted = s.sys.uncounted := by
  refine foldl_keeps (fun r : State × List QueueAdd => r.1.sys.uncounted) _ (fun r a => ?_) _ (s, [])
  dsimp only
  split
  · rfl
  · exact State.homeWrite_uncounted ..

theorem State.flushAdds_of_adds_nil {s : State} (h : s.fw.adds = []) : s.flushAdds = s := by
  simp only [State.flushAdds, h, List.filter_nil, List.foldl_nil, List.append_nil]
  rw [← h]

/-! ### The count of a joining package -/

theorem State.reloadBc_keeps (s : State) (x : W64) :
    (s.reloadBc x).sys = s.sys ∧ (s.reloadBc x).mem = s.mem ∧ (s.reloadBc x).grid = s.grid ∧ (s.reloadBc x).fw = s.fw := by
  unfold State.reloadBc
  split <;> exact ⟨rfl, rfl, rfl, rfl⟩

theorem State.loadCount_keeps (s : State) :
    s.loadCount.sys = s.sys ∧ s.loadCount.mem = s.mem ∧ s.loadCount.grid = s.grid ∧ s.loadCount.fw = s.fw := by
  unfold State.loadCount
  split
  · exact ⟨rfl, rfl, rfl, rfl⟩
  · split
    · exact s.reloadBc_keeps _
    · exact ⟨rfl, rfl, rfl, rfl⟩

/-- Outside JOIN nothing but the count of bc and the pod side change. -/
theorem State.joinListened_keeps {s : State} (h : s.sys.boot ≠ 7) :
    s.joinListened.sys = s.sys ∧ s.joinListened.mem = s.mem ∧ s.joinListened.grid = s.grid ∧ s.joinListened.fw = s.fw := by
  have keeps := s.loadCount_keeps
  have away : s.joinListened = s.loadCount := by
    simp [State.joinListened, keeps.1, h]
  rw [away]
  exact keeps

theorem State.offer_report (s : State) (op len daddr tenant : Nat) (ws : List W64) :
    (s.offer op len daddr tenant ws).sys.attesting = s.sys.attesting ∧ (s.offer op len daddr tenant ws).sys.report = s.sys.report :=
  Sys.report_of_uncounted (State.bumpOwner_uncounted ..)

theorem State.joinListened_report (s : State) :
    s.joinListened.sys.attesting = s.sys.attesting ∧ s.joinListened.sys.report = s.sys.report := by
  obtain ⟨hs, -⟩ := s.loadCount_keeps
  rw [← hs]
  simp only [State.joinListened]
  split
  · exact State.offer_report ..
  · exact ⟨rfl, rfl⟩

end Sys2Proof.Machine
end

section
/-!
SUPPORT. What bring-up, the aperture, the companion's accesses and the trips do, event by event (spec/21_host_link_and_bringup.md).
-/

namespace Sys2Proof.Machine

/-! ### Bytes and fields -/

@[simp] theorem leBytes_length (n w : Nat) : (leBytes n w).length = n := by
  induction n generalizing w with
  | zero => rfl
  | succ n ih => simp [leBytes, ih]

theorem leBytes_zero (n : Nat) : leBytes n 0 = List.replicate n 0 := by
  induction n with
  | zero => rfl
  | succ n ih => simp [leBytes, ih, List.replicate_succ]

/-- A number of one byte is followed by zeros. -/
theorem leBytes_byte (n w : Nat) (h : w < 256) : leBytes (n + 1) w = BitVec.ofNat 8 w :: List.replicate n 0 := by
  rw [leBytes, Nat.mod_eq_of_lt h, Nat.div_eq_of_lt h, leBytes_zero]

theorem leNat_replicate (n : Nat) : leNat (List.replicate n 0) = 0 := by
  induction n with
  | zero => rfl
  | succ n ih => rw [List.replicate_succ, leNat, ih]; rfl

theorem nth_append_right {α : Type} (d : α) (xs ys : List α) (i : Nat) : nth d (xs ++ ys) (xs.length + i) = nth d ys i := by
  induction xs with
  | nil => simp
  | cons x xs ih => rw [List.length_cons, Nat.add_right_comm, List.cons_append, nth, ih]

theorem nth_append_left {α : Type} (d : α) (xs ys : List α) (i : Nat) (h : i < xs.length) : nth d (xs ++ ys) i = nth d xs i := by
  rw [nth_getElem d _ i (by simp; omega), nth_getElem d xs i h, List.getElem_append_left h]

/-- A list written at an address reads back item by item. -/
theorem Memory.byte_put_nth (m : Memory) (base : Nat) (bs : List Byte) (i : Nat) (h : i < bs.length) :
    (Memory.put m base bs).byte (base + i) = nth 0 bs i := by
  rw [Memory.byte_put_same m base bs i h, nth_getElem 0 bs i h]

section
variable (w g : Bool) (n : Nat)

theorem sraddrAfter_toNat : (sraddrAfter w g n).toNat = n % 65536 + 2 ^ 62 * w.toNat + 2 ^ 61 * (!g).toNat := by
  have := w.toNat_le
  have := (!g).toNat_le
  rw [sraddrAfter, BitVec.toNat_ofNat]
  omega

theorem sraddrAfter_number : fieldOf (sraddrAfter w g n) 0 16 = n % 65536 := by
  rw [fieldOf, bitsOf, sraddrAfter_toNat]
  omega

theorem sraddrAfter_busy : fieldOf (sraddrAfter w g n) 63 1 = 0 := by
  have := w.toNat_le
  have := (!g).toNat_le
  rw [fieldOf, bitsOf, sraddrAfter_toNat]
  omega

theorem sraddrAfter_write : fieldOf (sraddrAfter w g n) 62 1 = w.toNat := by
  have := w.toNat_le
  have := (!g).toNat_le
  rw [fieldOf, bitsOf, sraddrAfter_toNat]
  omega

theorem sraddrAfter_denied : fieldOf (sraddrAfter w g n) 61 1 = (!g).toNat := by
  have := (!g).toNat_le
  rw [fieldOf, bitsOf, sraddrAfter_toNat]
  omega
end

/-! ### The companion's accesses (R444, R446) -/

theorem State.recount_homeBytes (s : State) (c : List (Nat × W64)) (owner ia n : Nat) :
    (s.recount c).homeBytes owner ia n = s.homeBytes owner ia n := rfl

section
variable {s : State} {owner a n : Nat} {bs : List Byte}

theorem State.companionRead_window (h : s.sys.boot ≠ 0) (ha : a < 2 ^ 63) :
    (s.companionRead owner a n).sys.response = s.homeBytes owner (s.windowIa a) n ∧
    (s.companionRead owner a n).mem.home = s.mem.home ∧ (s.companionRead owner a n).grid = s.grid := by
  obtain ⟨c, e⟩ := s.countMisses_recount owner ((pieces (s.windowIa a) n).map fun q => pageOf q.1)
  simp only [State.companionRead, h, Nat.not_le.2 ha, if_false, e, State.recount_mem, State.recount_grid,
    State.recount_homeBytes, and_self]

theorem State.companionWrite_window (h : s.sys.boot ≠ 0) (ha : a < 2 ^ 63) :
    s.companionWrite owner a bs = s.homeWrite owner (s.windowIa a) bs := by
  simp only [State.companionWrite, h, Nat.not_le.2 ha, if_false]

/-- In DOWNLOAD the companion writes the image into SRAM from its offset on (log 63). -/
theorem State.companionWrite_image (h : s.sys.boot = 2) {o : Nat} (lo : 0x10000000 ≤ o) (hi : o + bs.length ≤ 0x12000000) :
    s.companionWrite owner (2 ^ 63 + o) bs = { s with mem := { s.mem with priv := Memory.put s.mem.priv o bs } } := by
  have inSram : (s.sys.boot = bootDownload && sramBase ≤ o && o + bs.length ≤ sramBase + 0x2000000) = true := by
    simp [h, bootDownload, sramBase, lo, hi]
  have away : 2 ^ 63 + o - 2 ^ 63 = o := by omega
  unfold State.companionWrite
  rw [if_neg (by omega), if_pos (by omega)]
  simp only [away, inSram, if_true]
end

/-! ### Failures, halts and trips (R447, R458, R459) -/

theorem State.failBoot_fails (s : State) (c d : Nat) :
    (s.failBoot c d).sys.boot = 14 ∧ (s.failBoot c d).sys.cause = c ∧ (s.failBoot c d).mem = s.mem ∧ (s.failBoot c d).grid = s.grid :=
  ⟨rfl, rfl, rfl, rfl⟩

theorem State.haltPackage_ends (s : State) (c : Option Nat) : ∀ p ∈ (s.haltPackage c).grid.trains, p.2.endAll = true := by
  intro p hp
  obtain ⟨q, -, rfl⟩ := List.mem_map.1 hp
  rfl

theorem State.haltPackage_stops (s : State) (c : Option Nat) : ∀ p ∈ (s.haltPackage c).fw.cmds, p.2.on = false := by
  intro p hp
  obtain ⟨q, -, rfl⟩ := List.mem_map.1 hp
  rfl

theorem State.trip_of_powered {s : State} (h : s.powered = true) (c : Nat) : s.trip c = s.haltPackage (some c) := if_pos h

theorem State.trip_of_unpowered {s : State} (h : s.powered = false) (c : Nat) : s.trip c = s := by
  simp only [State.trip, h, Bool.false_eq_true, if_false]

/-- A thermal pause holds every train. -/
theorem State.late_of_thermal {s : State} (h : s.sys.thermal = true) (tr : Nat) : s.late tr = true := by
  simp [State.late, h]

end Sys2Proof.Machine
end

section
/-!
SUPPORT. A package without trains as time passes: bring-up's own states and a report in progress (R447, R450).
-/

namespace Sys2Proof.Machine

/-! ### RELEASE (R447, log 104) -/

/-- A command core started at M-level, as RELEASE starts each of them. -/
def State.startCore (s : State) (k : Nat) : State := (s.setGroup k (commandGroup k)).setCmdCore k { on := true, level := 2 }

theorem State.releaseCores_eq (s : State) : s.releaseCores = (List.range 16).foldl State.startCore s := rfl

@[simp] theorem State.releaseCores_mem (s : State) : s.releaseCores.mem = s.mem :=
  foldl_keeps State.mem State.startCore (fun _ _ => rfl) _ s
@[simp] theorem State.releaseCores_sys (s : State) : s.releaseCores.sys = s.sys :=
  foldl_keeps State.sys State.startCore (fun _ _ => rfl) _ s
@[simp] theorem State.releaseCores_posts (s : State) : s.releaseCores.fw.posts = s.fw.posts :=
  foldl_keeps (fun u => u.fw.posts) State.startCore (fun _ _ => rfl) _ s
@[simp] theorem State.releaseCores_adds (s : State) : s.releaseCores.fw.adds = s.fw.adds :=
  foldl_keeps (fun u => u.fw.adds) State.startCore (fun _ _ => rfl) _ s

/-- Cores started in turn are all started. -/
theorem State.startCores_mem (ks : List Nat) (s : State) {k : Nat}
    (h : k ∈ ks ∨ (s.cmdCore k = { on := true, level := 2 } ∧ s.group k = commandGroup k)) :
    (ks.foldl State.startCore s).cmdCore k = { on := true, level := 2 } ∧ (ks.foldl State.startCore s).group k = commandGroup k := by
  induction ks generalizing s with
  | nil => exact h.resolve_left (List.not_mem_nil)
  | cons j ks ih =>
    refine ih _ ?_
    by_cases e : k = j
    · exact .inr (by simp [State.startCore, e])
    · simpa [State.startCore, e] using h

theorem State.releaseCores_started (s : State) {k : Nat} (h : k < 16) :
    s.releaseCores.cmdCore k = { on := true, level := 2 } ∧ s.releaseCores.group k = commandGroup k :=
  State.startCores_mem _ s (.inl (List.mem_range.2 h))

theorem and_low5 (x : Byte) : BitVec.ofNat 8 (x.toNat % 32) = x &&& 0x1F := by
  apply BitVec.eq_of_toNat_eq
  have low : x.toNat &&& 31 = x.toNat % 32 := Nat.and_two_pow_sub_one_eq_mod x.toNat 5
  simp only [BitVec.toNat_ofNat, BitVec.toNat_and]
  change _ = x.toNat &&& 31
  omega

/-- What RELEASE writes into the event ring's control record after its first word. -/
def ringReset (low : Nat) : List Byte := leBytes 8 low ++ List.replicate 48 0

theorem ringReset_eq {low : Nat} (h : low < 256) : ringReset low = BitVec.ofNat 8 low :: List.replicate 55 0 := by
  rw [ringReset, leBytes_byte 7 low h]
  rfl

/-- RELEASE keeps the control record's first word, clears all of the second but its five low bits, and the reserved words after it
(R423). -/
theorem State.releaseResets_ring (s : State) (i : Nat) (h : i < 64) :
    s.releaseResets.mem.comp.byte (s.sys.evring.toNat + i) =
      if i < 8 then s.mem.comp.byte (s.sys.evring.toNat + i)
      else if i = 8 then s.mem.comp.byte (s.sys.evring.toNat + 8) &&& 0x1F else 0 := by
  let hd := s.sys.evring.toNat
  let b := s.mem.comp.byte (hd + 8)
  have comp : s.releaseResets.mem.comp = Memory.put s.mem.comp (hd + 8) (BitVec.ofNat 8 (b.toNat % 32) :: List.replicate 55 0) := by
    have one : Memory.nat s.mem.comp (hd + 8) 1 = b.toNat := by
      simp [Memory.nat, Memory.bytes, Sp.range_eq, leNat, b, Memory.byte]
    rw [← ringReset_eq (by omega), ← one]
    rfl
  rw [comp]
  split
  · exact Memory.byte_put_other _ _ _ _ (by omega)
  · obtain ⟨j, rfl⟩ : ∃ j, i = 8 + j := ⟨i - 8, by omega⟩
    rw [← Nat.add_assoc, Memory.byte_put_nth _ _ _ _ (by simp; omega)]
    cases j with
    | zero => exact and_low5 b
    | succ j =>
      rw [if_neg (by omega), nth, nth_getElem _ _ _ (by simp; omega), List.getElem_replicate]

theorem State.releaseResets_comp_other (s : State) (a : Nat) (h : a < s.sys.evring.toNat ∨ s.sys.evring.toNat + 64 ≤ a) :
    s.releaseResets.mem.comp.byte a = s.mem.comp.byte a :=
  Memory.byte_put_other _ _ _ _ (by simp; omega)

theorem State.cmdCore_congr {s t : State} (h : s.fw = t.fw) (k : Nat) : s.cmdCore k = t.cmdCore k :=
  congrArg (fun f : Fw => Sp.get ({} : CmdCore) f.cmds k) h

theorem State.group_congr {s t : State} (h : s.grid = t.grid) (k : Nat) : s.group k = t.group k :=
  congrArg (fun g : Grid => Sp.get ({} : Group) g.groups k) h

theorem State.releaseImage_eq (s : State) : s.releaseImage =
    ({ s.releaseResets with sys := { s.releaseResets.sys with boot := 6 } } : State).releaseCores := rfl

theorem State.releaseImage_sys (s : State) : s.releaseImage.sys = { s.releaseResets.sys with boot := 6 } := by
  rw [State.releaseImage_eq, State.releaseCores_sys]

theorem State.releaseImage_mem (s : State) : s.releaseImage.mem = s.releaseResets.mem := by
  rw [State.releaseImage_eq, State.releaseCores_mem]

theorem State.releaseImage_started (s : State) {k : Nat} (h : k < 16) :
    s.releaseImage.cmdCore k = { on := true, level := 2 } ∧ s.releaseImage.group k = commandGroup k := by
  rw [State.releaseImage_eq]
  exact State.releaseCores_started _ h

/-! ### The states that end of themselves -/

section
variable {s : State}

theorem State.bootStage_of_verify (h : s.sys.boot = 3) : s.bootStage = s.verifyImage := by simp only [State.bootStage, h]
theorem State.bootStage_of_measure (h : s.sys.boot = 4) : s.bootStage = s.measureImage := by simp only [State.bootStage, h]
theorem State.bootStage_of_release (h : s.sys.boot = 5) : s.bootStage = s.releaseImage := by simp only [State.bootStage, h]

/-- VERIFY has read the image's version. -/
def State.readSvn (s : State) : State :=
  { s with sys := { s.sys with imgSvn := BitVec.ofNat 32 (Memory.nat s.mem.priv (sramBase + 8) 4) } }

theorem State.verifyImage_eq (s : State) :
    s.verifyImage = if s.imageOk then { s.readSvn with sys := { s.readSvn.sys with boot := 4 } } else s.readSvn.failBoot 1 0 := rfl

theorem State.verifyImage_of_ok (h : s.imageOk = true) : s.verifyImage.sys.boot = 4 ∧ s.verifyImage.mem = s.mem := by
  rw [State.verifyImage_eq, if_pos h]
  exact ⟨rfl, rfl⟩

/-- An image that is not accepted fails bring-up with cause 1. -/
theorem State.verifyImage_of_bad (h : s.imageOk = false) :
    s.verifyImage.sys.boot = 14 ∧ s.verifyImage.sys.cause = 1 ∧ s.verifyImage.mem = s.mem ∧ s.verifyImage.grid = s.grid := by
  rw [State.verifyImage_eq, if_neg (by rw [h]; decide)]
  exact s.readSvn.failBoot_fails 1 0

/-- Bring-up by itself keeps the report, and the records and entries that wait. -/
theorem State.bootStage_keeps (s : State) :
    s.bootStage.sys.attesting = s.sys.attesting ∧ s.bootStage.sys.report = s.sys.report ∧
    s.bootStage.fw.posts = s.fw.posts ∧ s.bootStage.fw.adds = s.fw.adds := by
  unfold State.bootStage
  split
  · exact ⟨rfl, rfl, rfl, rfl⟩
  · rw [State.verifyImage_eq]
    split <;> exact ⟨rfl, rfl, rfl, rfl⟩
  · exact ⟨rfl, rfl, rfl, rfl⟩
  · simp [State.releaseImage, State.releaseResets]
  · exact ⟨rfl, rfl, rfl, rfl⟩
end

/-! ### One period of a package without trains -/

/-- bc counts, or holds (R167). -/
def State.countBc (s : State) : State :=
  { s with
    bc := if s.bcHold = 0 then s.bc + 1 else s.bc
    bcHold := s.bcHold - 1
    fw := { s.fw with refillBc := if s.bcHold = 0 then s.fw.refillBc + 1 else s.fw.refillBc } }

theorem State.countBc_eq (s : State) :
    s.countBc = if s.bcHold = 0 then { s with bc := s.bc + 1, fw := { s.fw with refillBc := s.fw.refillBc + 1 } }
      else { s with bcHold := s.bcHold - 1 } := by
  unfold State.countBc
  by_cases h : s.bcHold = 0 <;> simp [h]

/-- Time passes: the waiting fault records and ADD entries are written, and a joining package listens. -/
def State.elapse (s : State) : State :=
  let t := (s.flushPosts s.fw.posts.length).flushAdds
  ({ t with time := t.time + 1 } : State).joinListened

theorem State.advance_of_no_trains {s : State} (h : s.grid.trains = []) :
    s.advance = s.advanceIdle.countBc.finishReport.bootStage.elapse := by
  rw [State.countBc_eq]
  simp only [State.advance, State.elapse, h, List.map_nil, List.foldl_nil]

/-- The report in progress, and what is written of it, stay as time passes. -/
theorem State.elapse_report (s : State) : s.elapse.sys.attesting = s.sys.attesting ∧ s.elapse.sys.report = s.sys.report := by
  obtain ⟨ja, jr⟩ := State.joinListened_report { (s.flushPosts s.fw.posts.length).flushAdds with
    time := (s.flushPosts s.fw.posts.length).flushAdds.time + 1 }
  obtain ⟨fa, fr⟩ := Sys.report_of_uncounted (s.flushPosts s.fw.posts.length).flushAdds_uncounted
  rw [State.flushPosts_sys] at fa fr
  exact ⟨ja.trans fa, jr.trans fr⟩

/-- Outside JOIN, with nothing that waits, time alone passes. -/
theorem State.elapse_keeps {s : State} (hp : s.fw.posts = []) (ha : s.fw.adds = []) (h : s.sys.boot ≠ 7) :
    s.elapse.sys = s.sys ∧ s.elapse.mem = s.mem ∧ s.elapse.grid = s.grid ∧ s.elapse.fw = s.fw := by
  have still : (s.flushPosts s.fw.posts.length).flushAdds = s := by
    rw [hp]
    exact State.flushAdds_of_adds_nil ha
  simp only [State.elapse, still]
  exact State.joinListened_keeps (s := { s with time := s.time + 1 }) h

theorem State.advanceIdle_of_no_owners {s : State} (h : s.sys.hpol = []) : s.advanceIdle = s := by
  simp only [State.advanceIdle, h, List.filter_nil, List.foldl_nil, ite_self]

theorem State.advanceIdle_keeps (s : State) :
    s.advanceIdle.sys = s.sys := by
  unfold State.advanceIdle
  split
  · rfl
  · refine foldl_keeps State.sys _ (fun u p => ?_) _ s
    rfl

theorem State.finishReport_of_none {s : State} (h : s.sys.attesting = []) : s.finishReport = s := by
  simp [State.finishReport, h]

/-- A report in progress is complete after one period, behind it the signatures (R450, R456). -/
theorem State.finishReport_writes {s : State} (h : s.sys.attesting ≠ []) (hb : s.sys.boot ≠ 15) :
    s.finishReport.sys.attesting = [] ∧
    ∀ i < s.sys.attesting.length, Memory.byte s.finishReport.sys.report i = nth 0 s.sys.attesting i := by
  have run : (s.sys.attesting.isEmpty || Decidable.decide (s.sys.boot = 15)) = false := by simp [h, hb]
  simp only [State.finishReport, run, Bool.false_eq_true, if_false, true_and]
  intro i hi
  rw [← Nat.zero_add i, Memory.byte_put_nth _ _ _ _ (by simp; omega), Nat.zero_add, nth_append_left _ _ _ _ hi]

theorem State.advance_completes_report {s : State} (ht : s.grid.trains = []) (h : s.sys.attesting ≠ []) (hb : s.sys.boot ≠ 15) :
    s.advance.sys.attesting = [] ∧
    ∀ i < s.sys.attesting.length, Memory.byte s.advance.sys.report i = nth 0 s.sys.attesting i := by
  have sys : s.advanceIdle.countBc.sys = s.sys := s.advanceIdle_keeps
  obtain ⟨pa, pr⟩ := s.advanceIdle.countBc.finishReport.bootStage.elapse_report
  obtain ⟨ba, br, -, -⟩ := s.advanceIdle.countBc.finishReport.bootStage_keeps
  obtain ⟨fa, fr⟩ := State.finishReport_writes (s := s.advanceIdle.countBc) (by rwa [sys]) (by rwa [sys])
  rw [State.advance_of_no_trains ht, pa, pr, ba, br]
  rw [sys] at fr
  exact ⟨fa, fr⟩

/-- No train runs, nothing waits, nothing has an owner, and no report is in progress. -/
structure State.Quiet (s : State) : Prop where
  trains : s.grid.trains = []
  posts : s.fw.posts = []
  adds : s.fw.adds = []
  owners : s.sys.hpol = []
  report : s.sys.attesting = []

section
variable {s : State} (q : s.Quiet)
include q

/-- A quiet package goes through one state of bring-up in a period. -/
theorem State.Quiet.advance_eq (h : s.countBc.bootStage.sys.boot ≠ 7) :
    s.advance.sys = s.countBc.bootStage.sys ∧ s.advance.mem = s.countBc.bootStage.mem ∧
    s.advance.grid = s.countBc.bootStage.grid ∧ s.advance.fw = s.countBc.bootStage.fw := by
  obtain ⟨-, -, posts, adds⟩ := s.countBc.bootStage_keeps
  rw [State.advance_of_no_trains q.trains, State.advanceIdle_of_no_owners q.owners,
    State.finishReport_of_none (s := s.countBc) q.report]
  exact State.elapse_keeps (posts.trans q.posts) (adds.trans q.adds) h

theorem State.Quiet.accepts_image (h : s.sys.boot = 3) (hi : s.imageOk = true) :
    s.advance.sys.boot = 4 ∧ s.advance.mem = s.mem := by
  obtain ⟨boot, mem⟩ := State.verifyImage_of_ok (s := s.countBc) hi
  have stage := State.bootStage_of_verify (s := s.countBc) h
  obtain ⟨asys, amem, -, -⟩ := q.advance_eq (by rw [stage, boot]; decide)
  rw [asys, amem, stage]
  exact ⟨boot, mem⟩

theorem State.Quiet.rejects_image (h : s.sys.boot = 3) (hi : ¬ s.imageOk = true) :
    s.advance.sys.boot = 14 ∧ s.advance.sys.cause = 1 ∧ s.advance.mem = s.mem ∧ s.advance.grid = s.grid := by
  have failed := State.verifyImage_of_bad (s := s.countBc) (Bool.eq_false_iff.2 hi)
  have stage := State.bootStage_of_verify (s := s.countBc) h
  obtain ⟨asys, amem, agrid, -⟩ := q.advance_eq (by rw [stage, failed.1]; decide)
  rw [asys, amem, agrid, stage]
  exact failed

theorem State.Quiet.measures_image (h : s.sys.boot = 4) :
    s.advance.sys = s.measureImage.sys ∧ s.advance.mem = s.mem := by
  have stage := State.bootStage_of_measure (s := s.countBc) h
  obtain ⟨asys, amem, -, -⟩ := q.advance_eq (by rw [stage]; exact (by decide : 5 ≠ 7))
  rw [asys, amem, stage]
  exact ⟨rfl, rfl⟩

theorem State.Quiet.releases_image (h : s.sys.boot = 5) :
    s.advance.sys = { s.releaseResets.sys with boot := 6 } ∧ s.advance.mem = s.releaseResets.mem ∧
    ∀ k < 16, s.advance.cmdCore k = { on := true, level := 2 } ∧ s.advance.group k = commandGroup k := by
  have stage := State.bootStage_of_release (s := s.countBc) h
  have sys : s.countBc.releaseImage.sys = { s.releaseResets.sys with boot := 6 } := s.countBc.releaseImage_sys
  have mem : s.countBc.releaseImage.mem = s.releaseResets.mem := s.countBc.releaseImage_mem
  obtain ⟨asys, amem, agrid, afw⟩ := q.advance_eq (by rw [stage, sys]; exact (by decide : 6 ≠ 7))
  rw [stage] at asys amem agrid afw
  refine ⟨asys.trans sys, amem.trans mem, fun k hk => ?_⟩
  have started := s.countBc.releaseImage_started hk
  rw [← State.cmdCore_congr afw, ← State.group_congr agrid] at started
  exact started
end

end Sys2Proof.Machine
end

section
/-!
SUPPORT. Bring-up's events from TRAINING to JOIN, attestation, the system-register port, fuses and the aperture's writes
(spec/21_host_link_and_bringup.md R447 to R456).
-/

namespace Sys2Proof.Machine

theorem happens_of_eq {t u : State} (h : t = u) : happens t = .next u := congrArg Host.Outcome.next h

section
variable {s : State}

/-! ### TRAINING and JOIN (R447, R452) -/

theorem State.trained_of_part (h : s.sys.boot = 6) {c d : Nat} (lo : 2 ≤ c) (hi : c ≤ 4) :
    s.trained (some (c, d)) = s.failBoot c d := by
  simp [State.trained, h, lo, hi]

/-- JOIN begins. -/
def State.enterJoin (s : State) : State := { s with sys := { s.sys with boot := 7, joinEntry := s.time, joinStep := 0 } }

theorem State.trained_of_done (h : s.sys.boot = 6) (hp : s.psize ≠ 0) : s.trained none = s.enterJoin := by
  simp only [State.trained, h, bne_self_eq_false, Bool.false_eq_true, if_false]
  exact if_neg hp

theorem State.trained_of_no_pod (h : s.sys.boot = 6) (hp : s.psize = 0) : s.trained none = s.enterJoin.failJoin := by
  simp only [State.trained, h, bne_self_eq_false, Bool.false_eq_true, if_false]
  exact if_pos hp

theorem State.joinTokenTimeout_of_listening (h : s.pod.listen ≠ 0) : s.joinTokenTimeout = s := by
  simp [State.joinTokenTimeout, h]

theorem State.joinFailTimeout_of_listening (h : s.pod.listen ≠ 0) : s.joinFailTimeout = s := by
  simp [State.joinFailTimeout, h]

theorem State.joinTokenTimeout_eq (h7 : s.sys.boot = 7) (hl : s.pod.listen = 0) (h0 : s.sys.joinStep = 0)
    (ht : s.sys.joinEntry + 4096 ≤ s.time) :
    s.joinTokenTimeout = if s.form = true ∨ s.psize = 1 then s.formPod else { s with sys := { s.sys with joinStep := 1 } } := by
  simp [State.joinTokenTimeout, State.form, h7, hl, h0, ht]

theorem State.joinFailTimeout_eq (h7 : s.sys.boot = 7) (hl : s.pod.listen = 0) (h2 : s.sys.joinStep < 2)
    (ht : s.sys.joinEntry + 1600000 ≤ s.time) : s.joinFailTimeout = s.failJoin := by
  simp [State.joinFailTimeout, h7, hl, h2, ht]

/-! ### Attestation (R450, R456) -/

theorem State.attest_of_closed (h : s.sys.boot = 0 ∨ s.sys.boot = 15 ∨ s.sys.attesting ≠ []) : s.attest = s := by
  obtain h | h | h := h <;> simp [State.attest, h]

/-- The report's contents are taken, and its version word is cleared. -/
def State.beginReport (s : State) : State :=
  { s with sys := { s.sys with report := Memory.put s.sys.report 0 (List.replicate 8 0), attesting := s.reportBody } }

theorem State.attest_of_open (h0 : s.sys.boot ≠ 0) (h15 : s.sys.boot ≠ 15) (h : s.sys.attesting = []) : s.attest = s.beginReport := by
  simp [State.attest, State.beginReport, h0, h15, h]

theorem State.beginReport_version (s : State) : Memory.nat s.beginReport.sys.report 0 8 = 0 := by
  have bytes : Memory.bytes s.beginReport.sys.report 0 8 = List.replicate 8 0 := Memory.bytes_put _ 0 (List.replicate 8 0)
  rw [Memory.nat, bytes, leNat_replicate]

/-- The nonce follows the report's first word. -/
theorem State.reportBody_nonce (s : State) {i : Nat} (h : i < 32) : nth 0 s.reportBody (8 + i) = Sp.get 0 s.sys.nonce i := by
  have at8 : nth 0 s.reportBody (8 + i) = nth 0 ((List.range 32).map fun i => Sp.get 0 s.sys.nonce i) i := by
    simp only [State.reportBody, List.append_assoc]
    have skip (ys : List Byte) : nth 0 (leBytes 8 (1 + 65536 * reportBytes) ++ ys) (8 + i) = nth 0 ys i := by
      simpa using nth_append_right 0 (leBytes 8 (1 + 65536 * reportBytes)) ys i
    rw [skip, nth_append_left _ _ _ _ (by simpa using h)]
  rw [at8, nth_getElem _ _ _ (by simpa using h), List.getElem_map, List.getElem_range]

/-! ### The system-register port (R429, R454) -/

theorem State.portWrite_of_denied {n : Nat} (h : s.portGrants true n = false) :
    s.portWrite n = { s with sys := { s.sys with sraddr := sraddrAfter true false n } } := by
  simp only [State.portWrite, h, Bool.false_eq_true, if_false]

theorem State.portWrite_of_granted {n : Nat} (h : s.portGrants true n = true) :
    s.portWrite n = { s.writeReg 0 n s.sys.srdata with
      sys := { (s.writeReg 0 n s.sys.srdata).sys with sraddr := sraddrAfter true true n } } := by
  simp only [State.portWrite, h, if_true]

theorem State.writeReg_slottab {i : Nat} (h : i < 0x400) (v : W64) : s.writeReg 0 (0x100 + i) v = s.writeSlotTab i v := by
  unfold State.writeReg
  rw [if_neg (by omega), if_neg (by omega), if_neg (by omega), if_neg (by omega), if_neg (by simp; omega), if_neg (by omega),
    if_neg (by omega), if_pos (by simp; omega), Nat.add_sub_cancel_left]

theorem State.writeSlotTab_of_unlocked {i : Nat} (h : slotLocked (Sp.get 0 s.pod.slottab i) = false) (v : W64) :
    Sp.get 0 (s.writeSlotTab i v).pod.slottab i = v &&& slotTabMask := by
  rw [State.writeSlotTab, if_neg (by rw [h]; decide)]
  simp only [Sp.get_set, if_true]

/-! ### Fuses (R451, R455) -/

/-- Whether a program of the addressed word is locked: of the key hashes, once fuse bit 1024 is set. -/
def State.fuseLocked (s : State) : Bool := s.fuseIndex < 12 && bitOf (Sp.get 0 s.sys.fuses 16).toNat 0

theorem State.fuseLocked_iff :
    s.fuseLocked = true ↔ s.fuseIndex < 12 ∧ bitOf (Sp.get 0 s.sys.fuses 16).toNat 0 = true := by
  simp [State.fuseLocked]

theorem State.fusesOpen_iff : s.fusesOpen = true ↔ s.sys.boot = 1 ∨ s.sys.boot = 2 := by
  simp [State.fusesOpen, bootLoader, bootDownload]

/-- FUSED's bits are set in the addressed word. -/
def State.burnFuse (s : State) : State :=
  { s with sys := { s.sys with
      fuses := Sp.set 0 s.sys.fuses s.fuseIndex (Sp.get 0 s.sys.fuses s.fuseIndex ||| s.sys.fused), fuseBusy := true, fuseErr := false } }

theorem State.programFuse_eq (h : s.sys.boot ≠ 0) :
    s.programFuse = if s.sys.fuseBusy || !s.fusesOpen || s.fuseLocked then { s with sys := { s.sys with fuseErr := true } }
      else s.burnFuse :=
  if_neg h

theorem State.programFuse_of_open (hb : s.sys.fuseBusy = false) (ho : s.fusesOpen = true) (hl : ¬ s.fuseLocked = true) :
    s.programFuse = s.burnFuse := by
  have on : s.sys.boot ≠ 0 := by
    obtain h | h := State.fusesOpen_iff.1 ho <;> omega
  rw [State.programFuse_eq on, if_neg (by simp [hb, ho, hl])]

theorem State.programFuse_of_refused (h0 : s.sys.boot ≠ 0)
    (h : s.sys.fuseBusy = true ∨ ¬ s.fusesOpen = true ∨ s.fuseLocked = true) :
    s.programFuse = { s with sys := { s.sys with fuseErr := true } } := by
  rw [State.programFuse_eq h0, if_pos]
  obtain h | h | h := h <;> simp [h]

theorem State.burnFuse_word (s : State) :
    Sp.get 0 s.burnFuse.sys.fuses s.fuseIndex = Sp.get 0 s.sys.fuses s.fuseIndex ||| s.sys.fused :=
  (Sp.get_set ..).trans (if_pos rfl)

theorem State.burnFuse_other (s : State) {k : Nat} (h : k ≠ s.fuseIndex) : Sp.get 0 s.burnFuse.sys.fuses k = Sp.get 0 s.sys.fuses k :=
  (Sp.get_set ..).trans (if_neg h)

theorem State.fuseDone_of_busy (h : s.sys.fuseBusy = true) (bad : Bool) :
    s.fuseDone bad = { s with sys := { s.sys with fuseBusy := false, fuseErr := s.sys.fuseErr || bad } } := if_pos h

/-! ### Writes of the aperture (R453) -/

theorem State.aperWrite_srdata (h : s.sys.boot ≠ 0) (v : W64) : s.aperWrite 0x38 v = { s with sys := { s.sys with srdata := v } } := by
  simp [State.aperWrite, h]

theorem State.aperWrite_loopc (v : W64) :
    s.aperWrite 0x28 v = if s.fusesOpen then { s with sys := { s.sys with loopc := v &&& 0xFFFF } } else s := by
  by_cases h : s.sys.boot = 0
  · simp [State.aperWrite, State.fusesOpen, h, bootLoader, bootDownload]
  · simp [State.aperWrite, h, bitsMask]

theorem State.aperWrite_modew (v : W64) :
    s.aperWrite 0x18 v = if s.sys.boot ≠ 0 ∧ s.sys.released = false then { s with sys := { s.sys with modew := v &&& 0x3F } } else s := by
  by_cases h : s.sys.boot = 0 <;> simp [State.aperWrite, h, bitsMask]

end

end Sys2Proof.Machine
end

section
/-!
Bring-up's events as the companion and the package see them (spec/00_scope.md R10, spec/21_host_link_and_bringup.md R443 to R459).
-/

namespace Sys2Proof.Machine

/-- Settles O60: each clause is what its event's function does, by the laws above. -/
theorem bringUpEvents : Obligations.BringUpEvents := by
  intro owner addr n srn cause die bs v bad s ia foreign dark failed halts open_ word quiet unreleased locked
  have opens : s.fusesOpen = true ↔ open_ := State.fusesOpen_iff
  have locks : s.fuseLocked = true ↔ locked := State.fuseLocked_iff
  refine ⟨?companion, ?image, ?dark, ?powerOn, ?powered, ?go, ?download, ?stages, ?nonceClosed, ?nonceOpen, ?report, ?training,
    ?listening, ?token, ?fail, ?portRead, ?portDenied, ?portGranted, ?program, ?refused, ?busy, ?programmed, ?trips, ?resume,
    ?unpowered, ?srdata, ?loopcOpen, ?loopcShut, ?modewOpen, ?modewShut⟩
  case companion =>
    exact fun hb ha => ⟨⟨_, rfl, State.companionRead_window hb ha⟩, happens_of_eq (State.companionWrite_window hb ha)⟩
  case image => exact fun hb o lo hi => ⟨_, happens_of_eq (State.companionWrite_image hb lo hi), rfl⟩
  case dark => rfl
  case powerOn => exact fun hb => happens_of_eq (if_pos hb)
  case powered => exact fun hb => happens_of_eq (if_neg hb)
  case go => exact fun hb => happens_of_eq (if_neg hb)
  case download => exact fun hb => happens_of_eq (if_pos hb)
  case stages =>
    rintro ⟨trains, posts, adds, owners⟩ report
    have q : s.Quiet := ⟨trains, posts, adds, owners, report⟩
    refine ⟨fun hb => ⟨s.advance, rfl, ?_⟩, fun hb => ⟨s.advance, rfl, ?_⟩, fun hb => ⟨s.advance, rfl, ?_⟩⟩
    · rw [ite_prop_iff_and]
      exact ⟨q.accepts_image hb, q.rejects_image hb⟩
    · obtain ⟨sys, mem⟩ := q.measures_image hb
      rw [sys, mem]
      exact ⟨rfl, rfl, rfl⟩
    · obtain ⟨sys, mem, started⟩ := q.releases_image hb
      rw [sys, mem]
      refine ⟨rfl, rfl, rfl, s.releaseResets_ring, s.releaseResets_comp_other, rfl, rfl, rfl, rfl, rfl, fun k hk => ?_⟩
      rw [(started k hk).1, (started k hk).2]
      exact ⟨rfl, rfl, rfl, rfl⟩
  case nonceClosed => exact fun h => happens_of_eq (State.attest_of_closed h)
  case nonceOpen =>
    exact fun h0 h15 h => ⟨_, happens_of_eq (State.attest_of_open h0 h15 h), rfl, rfl, rfl, s.beginReport_version,
      fun i hi => s.reportBody_nonce hi⟩
  case report => exact fun ht h hb => ⟨s.advance, rfl, State.advance_completes_report ht h hb⟩
  case training =>
    exact fun hb => ⟨fun lo hi => ⟨_, happens_of_eq (State.trained_of_part hb lo hi), s.failBoot_fails cause die, rfl⟩,
      fun hp => ⟨_, happens_of_eq (State.trained_of_done hb hp), rfl, rfl, rfl, rfl⟩,
      fun hp => ⟨_, happens_of_eq (State.trained_of_no_pod hb hp), s.enterJoin.failBoot_fails 5 0⟩⟩
  case listening =>
    exact fun h => ⟨happens_of_eq (State.joinTokenTimeout_of_listening h), happens_of_eq (State.joinFailTimeout_of_listening h)⟩
  case token =>
    intro h7 hl h0 ht
    have e := State.joinTokenTimeout_eq h7 hl h0 ht
    refine ⟨fun h => ⟨_, happens_of_eq (e.trans (if_pos h)), rfl, rfl, rfl, rfl, rfl, rfl, rfl⟩, fun hf hp => ?_⟩
    exact ⟨_, happens_of_eq (e.trans (if_neg (by simp [hf, hp]))), h7, rfl⟩
  case fail => exact fun h7 hl h2 ht => ⟨_, happens_of_eq (State.joinFailTimeout_eq h7 hl h2 ht), s.failBoot_fails 5 0⟩
  case portRead =>
    exact ⟨_, rfl, rfl, sraddrAfter_busy _ _ _, sraddrAfter_write _ _ _, sraddrAfter_number _ _ _, sraddrAfter_denied _ _ _, rfl⟩
  case portDenied =>
    exact fun h => ⟨_, happens_of_eq (State.portWrite_of_denied h), rfl, rfl, rfl, sraddrAfter_denied _ _ _,
      sraddrAfter_write _ _ _⟩
  case portGranted =>
    refine fun h => ⟨_, happens_of_eq (State.portWrite_of_granted h), sraddrAfter_denied _ _ _, ?_⟩
    rintro i hi rfl hl
    have written := State.writeSlotTab_of_unlocked hl s.sys.srdata
    rwa [← State.writeReg_slottab hi] at written
  case program =>
    exact fun hb ho hl => ⟨_, happens_of_eq (State.programFuse_of_open hb (opens.2 ho) (mt locks.1 hl)), rfl,
      s.burnFuse_word, fun k hk => s.burnFuse_other hk⟩
  case refused =>
    exact fun h0 _ h => ⟨_, happens_of_eq (State.programFuse_of_refused h0 (.inr (h.imp (mt opens.1) locks.2))), rfl, rfl⟩
  case busy => exact fun hb h0 => happens_of_eq (State.programFuse_of_refused h0 (.inl hb))
  case programmed => exact fun hb => ⟨_, happens_of_eq (State.fuseDone_of_busy hb bad), rfl, rfl, rfl⟩
  case trips =>
    exact fun h => ⟨⟨_, happens_of_eq (if_pos h), rfl, rfl, State.late_of_thermal rfl⟩,
      ⟨_, happens_of_eq (State.trip_of_powered h 6), rfl, rfl, rfl, rfl, s.haltPackage_ends _, s.haltPackage_stops _⟩,
      ⟨_, happens_of_eq (State.trip_of_powered h 7), rfl, rfl, rfl, rfl, s.haltPackage_ends _, s.haltPackage_stops _⟩⟩
  case resume => exact ⟨_, rfl, rfl, rfl, rfl⟩
  case unpowered =>
    exact fun h => ⟨happens_of_eq (if_neg (Bool.eq_false_iff.1 h)), happens_of_eq (State.trip_of_unpowered h 6),
      happens_of_eq (State.trip_of_unpowered h 7)⟩
  case srdata => exact fun hb => happens_of_eq (State.aperWrite_srdata hb v)
  case loopcOpen => exact fun h => happens_of_eq ((State.aperWrite_loopc v).trans (if_pos (opens.2 h)))
  case loopcShut => exact fun h => happens_of_eq ((State.aperWrite_loopc v).trans (if_neg (mt opens.1 h)))
  case modewOpen => exact fun h => happens_of_eq ((State.aperWrite_modew v).trans (if_pos h))
  case modewShut => exact fun h => happens_of_eq ((State.aperWrite_modew v).trans (if_neg h))

end Sys2Proof.Machine
end

section
/-!
SUPPORT. The canonical memories (O50): what a step must keep of every part that holds bytes, and which changes of the state keep it.
-/

namespace Sys2Proof.Machine

/-! ### Sparse maps -/

section
variable {α : Type} {d : α} {m : List (Nat × α)}

theorem Sp.get_of_forall {P : α → Prop} (hd : P d) (h : ∀ p ∈ m, P p.2) (k : Nat) : P (Sp.get d m k) := by
  induction m with
  | nil => exact hd
  | cons p m ih =>
    rw [Sp.get_cons]
    split
    · exact h p (by simp)
    · exact ih fun q hq => h q (by simp [hq])

theorem Sp.forall_set [DecidableEq α] {P : α → Prop} {k : Nat} {x : α} (hx : P x) (h : ∀ p ∈ m, P p.2) :
    ∀ p ∈ Sp.set d m k x, P p.2 := by
  intro p hp
  simp only [Sp.set, Sp.put, Sp.entries, List.mem_append, List.mem_filter] at hp
  obtain (⟨hp, -⟩ | hp) | ⟨hp, -⟩ := hp
  · exact h p hp
  · split at hp
    · simp at hp
    · rw [List.mem_singleton.1 hp]
      exact hx
  · exact h p hp

theorem Sp.mem_window {base n : Nat} : ∀ p ∈ Sp.window m base n, base ≤ p.1 ∧ p.1 < base + n := by
  intro p hp
  simpa using (List.mem_filter.1 hp).2

theorem Sp.mem_rekey {base dest n : Nat} (h : ∀ p ∈ m, base ≤ p.1 ∧ p.1 < base + n) :
    ∀ p ∈ Sp.rekey m base dest, dest ≤ p.1 ∧ p.1 < dest + n := by
  intro p hp
  obtain ⟨q, hq, rfl⟩ := List.mem_map.1 hp
  have := h q hq
  simp only
  omega

/-- Keys that all reach `base` keep their order when they move together. -/
theorem Sp.wf_rekey {base dest : Nat} (hm : Sp.Wf d m) (h : ∀ p ∈ m, base ≤ p.1) : Sp.Wf d (Sp.rekey m base dest) := by
  refine ⟨List.pairwise_map.2 (hm.1.imp_of_mem fun {p q} hp hq lt => ?_), fun p hp => ?_⟩
  · have := h p hp
    simp only
    omega
  · obtain ⟨q, hq, rfl⟩ := List.mem_map.1 hp
    exact hm.2 q hq

/-- A range copied from one canonical map into another. -/
theorem Sp.wf_graft_window {w : List (Nat × α)} {base dest n : Nat} (hm : Sp.Wf d m) (hw : Sp.Wf d w) :
    Sp.Wf d (Sp.graft m (Sp.rekey (Sp.window w base n) base dest) dest n) :=
  Sp.wf_graft d _ _ _ _ hm (Sp.wf_rekey (Sp.wf_window d w base n hw) fun p hp => (Sp.mem_window p hp).1)
    (Sp.mem_rekey Sp.mem_window)

theorem Sp.wf_foldl {β : Type} {f : List (Nat × α) → β → List (Nat × α)} {xs : List β} (hm : Sp.Wf d m)
    (step : ∀ m x, Sp.Wf d m → Sp.Wf d (f m x)) : Sp.Wf d (xs.foldl f m) := by
  induction xs generalizing m with
  | nil => exact hm
  | cons x xs ih => exact ih (step m x hm)

end

/-! ### The parts that hold bytes -/

structure Leftover.Canonical (l : Leftover) : Prop where
  pool : Memory.wf l.pool
  slots : Memory.wf l.slots

structure Grid.Canonical (g : Grid) : Prop where
  pool : Memory.wf g.pool
  slots : Memory.wf g.slots
  left : ∀ p ∈ g.trains, p.2.left.Canonical

structure Mem.Canonical (m : Mem) : Prop where
  home : Memory.wf m.home
  comp : Memory.wf m.comp
  priv : Memory.wf m.priv
  cview : Memory.wf m.cview
  pview : Memory.wf m.pview
  aside : ∀ l ∈ m.laps, Memory.wf l.aside

theorem Leftover.canonical_empty : ({} : Leftover).Canonical := ⟨Sp.wf_nil 0, Sp.wf_nil 0⟩

section
variable {s t : State}

theorem State.canonical_iff : s.canonical ↔ s.mem.Canonical ∧ s.grid.Canonical := by
  constructor
  · rintro ⟨home, comp, priv, cview, pview, pool, slots, aside, left⟩
    exact ⟨⟨home, comp, priv, cview, pview, aside⟩, pool, slots, fun p hp => ⟨(left p hp).1, (left p hp).2⟩⟩
  · rintro ⟨⟨home, comp, priv, cview, pview, aside⟩, pool, slots, left⟩
    exact ⟨home, comp, priv, cview, pview, pool, slots, aside, fun p hp => ⟨(left p hp).pool, (left p hp).slots⟩⟩

theorem State.canonical.inMem (hs : s.canonical) : s.mem.Canonical := (State.canonical_iff.1 hs).1
theorem State.canonical.inGrid (hs : s.canonical) : s.grid.Canonical := (State.canonical_iff.1 hs).2

theorem State.canonical.intro (m : s.mem.Canonical) (g : s.grid.Canonical) : s.canonical := State.canonical_iff.2 ⟨m, g⟩

/-! ### One field of the state changes -/

theorem State.canonical.time (hs : s.canonical) {x} : ({ s with time := x } : State).canonical := hs
theorem State.canonical.inputs (hs : s.canonical) {x} : ({ s with inputs := x } : State).canonical := hs
theorem State.canonical.cur (hs : s.canonical) {x} : ({ s with cur := x } : State).canonical := hs
theorem State.canonical.pod (hs : s.canonical) {x} : ({ s with pod := x } : State).canonical := hs
theorem State.canonical.fw (hs : s.canonical) {x} : ({ s with fw := x } : State).canonical := hs
theorem State.canonical.sys (hs : s.canonical) {x} : ({ s with sys := x } : State).canonical := hs

theorem State.canonical.setGrid (hs : s.canonical) {g : Grid} (h : s.grid.Canonical → g.Canonical) :
    ({ s with grid := g } : State).canonical :=
  .intro hs.inMem (h hs.inGrid)

theorem State.canonical.setMem (hs : s.canonical) {m : Mem} (h : s.mem.Canonical → m.Canonical) :
    ({ s with mem := m } : State).canonical :=
  .intro (h hs.inMem) hs.inGrid

/-- What the grid holds beside pools, slots and trains. -/
theorem State.canonical.grid (hs : s.canonical) {g : Grid} (trains : g.trains = s.grid.trains := by rfl)
    (pool : g.pool = s.grid.pool := by rfl) (slots : g.slots = s.grid.slots := by rfl) : ({ s with grid := g } : State).canonical :=
  hs.setGrid fun ⟨p, l, t⟩ => ⟨pool ▸ p, slots ▸ l, trains ▸ t⟩

/-- What `mem` holds beside bytes. -/
theorem State.canonical.mem (hs : s.canonical) {m : Mem} (home : m.home = s.mem.home := by rfl) (comp : m.comp = s.mem.comp := by rfl)
    (priv : m.priv = s.mem.priv := by rfl) (cview : m.cview = s.mem.cview := by rfl) (pview : m.pview = s.mem.pview := by rfl)
    (laps : m.laps = s.mem.laps := by rfl) : ({ s with mem := m } : State).canonical :=
  hs.setMem fun ⟨h, c, p, cv, pv, a⟩ => ⟨home ▸ h, comp ▸ c, priv ▸ p, cview ▸ cv, pview ▸ pv, laps ▸ a⟩

/-! ### Bytes written, laps and trains -/

theorem State.canonical.putHome (hs : s.canonical) {a bs} :
    ({ s with mem := { s.mem with home := Memory.put s.mem.home a bs } } : State).canonical :=
  hs.setMem fun h => { h with home := Memory.wf_put _ _ _ h.home }

theorem State.canonical.putComp (hs : s.canonical) {a bs} :
    ({ s with mem := { s.mem with comp := Memory.put s.mem.comp a bs } } : State).canonical :=
  hs.setMem fun h => { h with comp := Memory.wf_put _ _ _ h.comp }

theorem State.canonical.putPriv (hs : s.canonical) {a bs} :
    ({ s with mem := { s.mem with priv := Memory.put s.mem.priv a bs } } : State).canonical :=
  hs.setMem fun h => { h with priv := Memory.wf_put _ _ _ h.priv }

/-- A new lap has set nothing aside. -/
theorem Mem.Canonical.aside_append {m : Mem} (h : m.Canonical) {l : Lap} (new : l.aside = []) :
    ∀ x ∈ m.laps ++ [l], Memory.wf x.aside := by
  intro x hx
  obtain hx | hx := List.mem_append.1 hx
  · exact h.aside x hx
  · rw [List.mem_singleton.1 hx, new]
    exact Sp.wf_nil 0

/-- Laps that set pages aside, and the note that frames were short. -/
theorem State.canonical.setLaps (hs : s.canonical) {laps : List Lap} {starved : Bool} (aside : ∀ l ∈ laps, Memory.wf l.aside) :
    ({ s with mem := { s.mem with laps := laps, starved := starved } } : State).canonical :=
  hs.setMem fun h => { h with aside := aside }

theorem State.canonical.filterLaps (hs : s.canonical) {f : Lap → Bool} :
    ({ s with mem := { s.mem with laps := s.mem.laps.filter f } } : State).canonical :=
  hs.setMem fun h => { h with aside := fun l hl => h.aside l (List.mem_of_mem_filter hl) }

theorem State.canonical.mapLaps (hs : s.canonical) {f : Lap → Lap} (aside : ∀ l, (f l).aside = l.aside) :
    ({ s with mem := { s.mem with laps := s.mem.laps.map f } } : State).canonical :=
  hs.setMem fun h => { h with aside := List.forall_mem_map.2 fun l hl => aside l ▸ h.aside l hl }

theorem State.canonical.mapTrains (hs : s.canonical) {f : Nat × Train → Nat × Train} (left : ∀ p, (f p).2.left = p.2.left) :
    ({ s with grid := { s.grid with trains := s.grid.trains.map f } } : State).canonical :=
  hs.setGrid fun h => { h with left := List.forall_mem_map.2 fun p hp => left p ▸ h.left p hp }

theorem State.canonical.trainLeft (hs : s.canonical) {tr} : (s.train tr).left.Canonical :=
  Sp.get_of_forall (P := fun t : Train => t.left.Canonical) Leftover.canonical_empty hs.inGrid.left tr

theorem State.canonical.setTrain (hs : s.canonical) {tr} {t : Train} (left : t.left.Canonical) : (s.setTrain tr t).canonical :=
  hs.setGrid fun h => { h with left := Sp.forall_set (P := fun t : Train => t.left.Canonical) left h.left }

/-- A train keeps what its cores left behind, as in nearly every change of it. -/
theorem State.canonical.modTrain (hs : s.canonical) {tr} {f : Train → Train} (left : ∀ t, (f t).left = t.left := by intro; rfl) :
    (s.modTrain tr f).canonical :=
  hs.setTrain (left (s.train tr) ▸ hs.trainLeft)

/-! ### Choices, repetitions and outcomes -/

theorem State.canonical.ite {c : Prop} [Decidable c] (hs : s.canonical) (ht : t.canonical) : (if c then s else t).canonical := by
  split <;> assumption

/-- A change made under a condition only. -/
theorem State.canonical.when {c : Prop} [Decidable c] (hs : s.canonical) (ht : s.canonical → t.canonical) :
    (if c then t else s).canonical :=
  .ite (ht hs) hs

theorem State.canonical.unless {c : Prop} [Decidable c] (hs : s.canonical) (ht : s.canonical → t.canonical) :
    (if c then s else t).canonical :=
  .ite hs (ht hs)

theorem State.canonical.foldlFst {α β : Type} {a : State × β} (hs : a.1.canonical) {f : State × β → α → State × β} {xs : List α}
    (step : ∀ a x, a.1.canonical → (f a x).1.canonical) : (xs.foldl f a).1.canonical := by
  induction xs generalizing a with
  | nil => exact hs
  | cons x xs ih => exact ih (step a x hs)

theorem State.canonical.foldl {α : Type} (hs : s.canonical) {f : State → α → State} {xs : List α}
    (step : ∀ s x, s.canonical → (f s x).canonical) : (xs.foldl f s).canonical := by
  induction xs generalizing s with
  | nil => exact hs
  | cons x xs ih => exact ih (step s x hs)

/-- A next state, if there is one, is canonical. -/
def GivesCanonical : Host.Outcome State Fault Refusal → Prop
  | .next s => s.canonical
  | .fault _ => True
  | .refused _ => True

end

end Sys2Proof.Machine
end

section
/-!
SUPPORT. Faults, pages, the partition and their reports keep the byte memories canonical (O50): one lemma per function.
-/

namespace Sys2Proof.Machine

section
-- Each lemma waits for those it uses: side by side they would hold a thread and its stack each.
set_option Elab.async false
variable {s : State}

/-! ### The faults, the costs and the offers -/

theorem State.canonical.setGroup (hs : s.canonical) {k x} : (s.setGroup k x).canonical := hs.grid

theorem State.canonical.setTeam (hs : s.canonical) {k x} : (s.setTeam k x).canonical := hs.grid

theorem State.canonical.setCore (hs : s.canonical) {c x} : (s.setCore c x).canonical := hs.grid

theorem State.canonical.setCmdCore (hs : s.canonical) {k x} : (s.setCmdCore k x).canonical := hs

theorem State.canonical.setLaunch (hs : s.canonical) {l x} : (s.setLaunch l x).canonical := hs

theorem State.canonical.modGroup (hs : s.canonical) {k f} : (s.modGroup k f).canonical := hs.setGroup

theorem State.canonical.modTeam (hs : s.canonical) {k f} : (s.modTeam k f).canonical := hs.setTeam

theorem State.canonical.modCore (hs : s.canonical) {c f} : (s.modCore c f).canonical := hs.setCore

theorem State.canonical.modCmdCore (hs : s.canonical) {k f} : (s.modCmdCore k f).canonical := hs.setCmdCore

theorem State.canonical.modLaunch (hs : s.canonical) {l f} : (s.modLaunch l f).canonical := hs.setLaunch

theorem State.canonical.spend (hs : s.canonical) : s.spend.canonical := hs

theorem State.canonical.land (hs : s.canonical) {key w} : (s.land key w).canonical := by
  unfold State.land
  dsimp only
  split
  · exact hs.modTeam
  · exact hs.setGroup.unless fun h => h.modTeam
  · exact hs.modTeam
  · exact hs.modCore
  · exact hs.setGroup

theorem State.canonical.later (hs : s.canonical) {lat w} : (s.later lat w).canonical := .ite hs.land hs

theorem State.canonical.owe (hs : s.canonical) {d} : (s.owe d).canonical := hs

theorem State.canonical.settleOwed (hs : s.canonical) {key r} : (s.settleOwed key r).canonical := hs

theorem State.canonical.haltPackage (hs : s.canonical) {cause} : (s.haltPackage cause).canonical :=
  .sys (.fw (.pod (hs.mapTrains (f := fun p => (p.1, { p.2 with endAll := true })) fun _ => rfl)))

theorem State.canonical.enterLevel (hs : s.canonical) {k resume alt f} : (s.enterLevel k resume alt f).canonical :=
  .ite hs.haltPackage hs.setGroup.modCmdCore

theorem State.canonical.raiseAt (hs : s.canonical) {p pvc resume f} : (s.raiseAt p pvc resume f).canonical :=
  .ite hs.cur.enterLevel hs.modTrain.cur

theorem State.canonical.raise (hs : s.canonical) {f} : (s.raise f).canonical := hs.raiseAt.spend

theorem State.canonical.attempt (hs : s.canonical) {checks} {effect : State → State} (he : (effect s).canonical) :
    GivesCanonical (attempt s checks effect) := by
  unfold Machine.attempt
  split
  · exact hs.raise
  · exact he

theorem State.canonical.enterHandler (hs : s.canonical) {r clk} : (s.enterHandler r clk).canonical := hs.setGroup

theorem State.canonical.jump (hs : s.canonical) {a} : (s.jump a).canonical := hs.modGroup.cur

theorem State.canonical.note (hs : s.canonical) {e} : (s.note e).canonical := hs

theorem State.canonical.bump (hs : s.canonical) {bank c} : (s.bump bank c).canonical := hs

theorem State.canonical.bumpOwner (hs : s.canonical) {owner c} : (s.bumpOwner owner c).canonical := .ite hs.bump (hs.when fun h => h.bump)

/-! ### The operands -/

theorem State.canonical.landVec (hs : s.canonical) {h lat dst xs} : (s.landVec h lat dst xs).canonical := hs.later

theorem State.canonical.landMask (hs : s.canonical) {h lat dst bs} : (s.landMask h lat dst bs).canonical := hs.later

theorem State.canonical.landLaneScalar (hs : s.canonical) {h lat dst x} : (s.landLaneScalar h lat dst x).canonical := hs.later

theorem State.canonical.landScalar (hs : s.canonical) {h lat dst x} : (s.landScalar h lat dst x).canonical := hs.later

/-! ### The flags -/

theorem State.canonical.landFlags (hs : s.canonical) {lat f} : (s.landFlags lat f).canonical := hs.unless fun h => h.later

theorem State.canonical.landFloat (hs : s.canonical) {h lat dst rs} : (s.landFloat h lat dst rs).canonical := hs.landVec.landFlags

/-! ### Translation -/

theorem State.canonical.setPage (hs : s.canonical) {p e} : (s.setPage p e).canonical := hs

/-! ### The views and the pages -/

theorem State.canonical.placePage (hs : s.canonical) {loc p} : (s.placePage loc p).canonical := hs.spend.setPage

theorem State.canonical.makeRoom (hs : s.canonical) {bonded die n gained ps kept} :
    (s.makeRoom bonded die n gained ps kept).canonical :=
  hs.foldl fun _ _ h => h.placePage

theorem State.canonical.setAside (hs : s.canonical) {p} : (s.setAside p).canonical := by
  refine .ite hs ?_
  extract_lets die n s₁ s₂ short gen keep
  have h₂ : s₂.canonical := hs.makeRoom.makeRoom
  refine .setPage (h₂.setLaps (List.forall_mem_map.2 fun l hl => ?_))
  unfold keep
  split
  · exact Sp.wf_graft _ _ _ _ _ (h₂.inMem.aside l hl) (Sp.wf_window _ _ _ _ h₂.inMem.home) Sp.mem_window
  · exact h₂.inMem.aside l hl

theorem State.canonical.setAsideRange (hs : s.canonical) {ia n} : (s.setAsideRange ia n).canonical := hs.foldl fun _ _ h => h.setAside

theorem State.canonical.homePut (hs : s.canonical) {ia bs} : (s.homePut ia bs).canonical :=
  hs.setAsideRange.setMem fun h => { h with home := Memory.wf_put _ _ _ h.home }

theorem State.canonical.homeWrite (hs : s.canonical) {owner ia bs} : (s.homeWrite owner ia bs).canonical :=
  hs.foldl fun _ _ h => .ite h.homePut h.bump

theorem State.canonical.countMisses (hs : s.canonical) {owner ps} : (s.countMisses owner ps).canonical := hs.foldl fun _ _ h => h.bump

theorem State.canonical.putCores (hs : s.canonical) {cores ia bs} : (s.putCores cores ia bs).canonical :=
  hs.setMem fun h => { h with pview := Sp.wf_foldl h.pview fun _ _ h => Memory.wf_put _ _ _ h }

theorem State.canonical.makeOwn (hs : s.canonical) {tk cluster cores ia bs} : (s.makeOwn tk cluster cores ia bs).canonical := by
  unfold State.makeOwn
  extract_lets s₁ m
  have h₁ : s₁.canonical := hs.setAsideRange
  refine .putCores ?_
  exact .intro { h₁.inMem with cview := Memory.wf_put _ _ _ h₁.inMem.cview } h₁.inGrid

theorem State.canonical.commit (hs : s.canonical) {owner tk cluster cores level ia bs} :
    (s.commit owner tk cluster cores level ia bs).canonical :=
  .ite hs.homeWrite hs.makeOwn

/-- Own bytes stay and the others take the home's, so no byte has two entries. -/
theorem State.canonical.refreshRange (hs : s.canonical) {owner cluster base n} : (s.refreshRange owner cluster base n).canonical := by
  refine hs.setMem fun h => { h with cview := Sp.wf_graft _ _ _ _ _ h.cview ?wf ?within }
  case wf =>
    refine Sp.wf_merge _ _ _ _ (Sp.wf_filter _ _ _ (Sp.wf_rekey (Sp.wf_window _ _ _ _ h.home) fun p hp => (Sp.mem_window p hp).1))
      (Sp.wf_filter _ _ _ (Sp.wf_window _ _ _ _ h.cview)) (fun p hp q hq e => ?_) le_rfl
    have fresh := (List.mem_filter.1 hp).2
    have kept := (List.mem_filter.1 hq).2
    rw [e, kept] at fresh
    exact absurd fresh (by simp)
  case within =>
    intro p hp
    obtain hp | hp := (Sp.mem_merge _ _ _ _).1 hp
    · exact Sp.mem_rekey Sp.mem_window p (List.mem_of_mem_filter hp)
    · exact Sp.mem_window p (List.mem_of_mem_filter hp)

theorem State.canonical.refreshCoreRange (hs : s.canonical) {core base n} : (s.refreshCoreRange core base n).canonical :=
  hs.setMem fun h => { h with pview := Sp.wf_graft_window h.pview h.cview }

theorem State.canonical.refreshCore (hs : s.canonical) {core} : (s.refreshCore core).canonical := hs.refreshCoreRange

theorem State.canonical.refreshCluster (hs : s.canonical) {tr cluster} : (s.refreshCluster tr cluster).canonical :=
  hs.foldl fun _ _ h => h.refreshRange

theorem State.canonical.push (hs : s.canonical) {owner tk cluster reach} : (s.push owner tk cluster reach).canonical :=
  .mem (hs.foldl fun _ _ h => h.homeWrite)

theorem State.canonical.release (hs : s.canonical) {tk scope} : (s.release tk scope).canonical := hs.unless fun h => h.push

theorem State.canonical.pushTeam (hs : s.canonical) {owner tk reach} : (s.pushTeam owner tk reach).canonical :=
  hs.foldl fun _ _ h => h.push

theorem State.canonical.touchLine (hs : s.canonical) {ia n} : (s.touchLine ia n).canonical := hs.modTeam

theorem State.canonical.bufferStore (hs : s.canonical) {pos level ia bs} : (s.bufferStore pos level ia bs).canonical := hs.touchLine.grid

/-! ### Faults and the records they make -/

theorem State.canonical.sysPut (hs : s.canonical) {a bs} : (s.sysPut a bs).canonical := .ite hs.putPriv hs.homePut

theorem State.canonical.sysPutWord (hs : s.canonical) {a x} : (s.sysPutWord a x).canonical := hs.sysPut

theorem State.canonical.wakeLevel (hs : s.canonical) {level} : (s.wakeLevel level).canonical := hs

theorem State.canonical.postNow (hs : s.canonical) {p} : (s.postNow p).canonical :=
  .wakeLevel (.note (by split; exacts [hs.sysPut.fw, hs.sysPut.fw.modTrain]))

theorem State.canonical.flushPosts (hs : s.canonical) {n} : (State.flushPosts n s).canonical := by
  induction n generalizing s with
  | zero => exact hs
  | succ n ih =>
    unfold State.flushPosts
    split
    · exact hs
    · refine .ite (.ite hs (ih (.postNow ?_))) hs
      split
      · exact hs.fw
      · exact .modTrain hs.fw

theorem State.canonical.post (hs : s.canonical) {p} : (s.post p).canonical := .flushPosts (.fw (by split; exacts [hs, hs.modTrain]))

theorem State.canonical.plainPost (hs : s.canonical) {code t2 t3 handle owner tr ask} :
    (s.plainPost code t2 t3 handle owner tr ask).canonical :=
  hs.spend.spend.post

theorem State.canonical.reportPost (hs : s.canonical) {code t2 t3 handle owner} : (s.reportPost code t2 t3 handle owner).canonical :=
  hs.plainPost

theorem State.canonical.setQueue (hs : s.canonical) {q x} : (s.setQueue q x).canonical := hs

theorem State.canonical.haltQueue (hs : s.canonical) {q ecode entry} : (s.haltQueue q ecode entry).canonical :=
  .setQueue (hs.when fun h => h.homePut)

theorem State.canonical.compPut (hs : s.canonical) {a bs} : (s.compPut a bs).canonical := hs.putComp

theorem State.canonical.hostEvent (hs : s.canonical) {q code owner entry halts} : (s.hostEvent q code owner entry halts).canonical := by
  unfold State.hostEvent
  extract_lets hd word put size s₁
  have written {t a x} (h : t.canonical) : (put t a x).canonical := h.putComp
  split
  · exact (written hs.note).foldl fun _ _ h => h.haltQueue
  · exact written (written (written (written (written hs.note))))

theorem State.canonical.queueError (hs : s.canonical) {q ecode entry} : (s.queueError q ecode entry).canonical := hs.haltQueue.hostEvent

theorem State.canonical.launchState (hs : s.canonical) {l st} : (s.launchState l st).canonical := hs.modLaunch.unless fun h => h.homeWrite

theorem State.canonical.stopTeam (hs : s.canonical) {tk code} : (s.stopTeam tk code).canonical :=
  .modTeam (.modTrain (.grid (hs.foldl fun _ _ h => h.modGroup)))

theorem State.canonical.teamFault (hs : s.canonical) {tk code} : (s.teamFault tk code).canonical := hs.stopTeam.bumpOwner.modLaunch

theorem State.canonical.endTrain (hs : s.canonical) {tr code team} : (s.endTrain tr code team).canonical :=
  .modLaunch (.modTrain (hs.foldl fun _ _ h => h.stopTeam))

/-! ### The partition -/

theorem State.canonical.pin (hs : s.canonical) {ps} : (s.pin ps).canonical := hs

theorem State.canonical.unpin (hs : s.canonical) {ps} : (s.unpin ps).canonical := hs

theorem State.canonical.swapLease (hs : s.canonical) {old new} : (s.swapLease old new).canonical := hs

theorem State.canonical.answerLease (hs : s.canonical) {l} : (s.answerLease l).canonical := hs

theorem State.canonical.makeResident (hs : s.canonical) {cls p} : (s.makeResident cls p).canonical := by
  have h : ({ s with mem := { s.mem with home := Sp.clear s.mem.home (p * 65536) 65536 } } : State).canonical :=
    hs.setMem fun h => { h with home := Sp.wf_clear _ _ _ _ h.home }
  exact .ite hs (.placePage (.ite h hs))

theorem State.canonical.leaseStatus (hs : s.canonical) {a st cause done} : (s.leaseStatus a st cause done).canonical :=
  hs.unless fun h => h.sysPutWord

theorem State.canonical.leaseReport (hs : s.canonical) {l} : (s.leaseReport l).canonical := hs.unless fun h => h.spend.reportPost

theorem State.canonical.completeGrant (hs : s.canonical) {l} : (s.completeGrant l).canonical := by
  unfold State.completeGrant
  dsimp only
  split
  · exact hs.answerLease.leaseStatus.leaseReport
  · refine hs.unless fun h => .unless (.answerLease (.pin (h.makeRoom.foldl fun _ _ h => h.makeResident))) fun h => ?_
    exact h.sysPutWord.spend.leaseStatus.leaseReport

theorem State.canonical.requestGrant (hs : s.canonical) {a} : (s.requestGrant a).canonical := hs.mem.leaseStatus

theorem State.canonical.endLease (hs : s.canonical) {l} : (s.endLease l).canonical := hs.unpin.swapLease.leaseStatus.leaseReport

theorem State.canonical.requestRevoke (hs : s.canonical) {l} : (s.requestRevoke l).canonical := hs.swapLease.leaseStatus

theorem State.canonical.requestRemote (hs : s.canonical) {page count owner kind cls holder} :
    (s.requestRemote page count owner kind cls holder).canonical :=
  hs.mem.spend

theorem State.canonical.removeRevoked (hs : s.canonical) {tr} : (s.removeRevoked tr).canonical := hs.mem.unless fun h => h.modTrain

theorem State.canonical.completeRevoke (hs : s.canonical) {l} : (s.completeRevoke l).canonical := hs.when fun h => h.endLease

theorem State.canonical.dropClusterLines (hs : s.canonical) {p cluster} : (s.dropClusterLines p cluster).canonical :=
  hs.unless fun h => h.mem.refreshRange.foldl fun _ _ h2 => h2.refreshCoreRange

theorem State.canonical.dropLines (hs : s.canonical) {p} : (s.dropLines p).canonical := hs.mem.foldl fun _ _ h => h.dropClusterLines

theorem State.canonical.rekeyPage (hs : s.canonical) {old new p} : (s.rekeyPage old new p).canonical := .ite hs hs.putHome

theorem State.canonical.rekey (hs : s.canonical) {before} : (s.rekey before).canonical := hs.foldl fun _ _ h => h.rekeyPage

theorem State.canonical.setOwner (hs : s.canonical) {p owner} : (s.setOwner p owner).1.canonical := by
  unfold State.setOwner
  extract_lets old
  split <;> dsimp only
  · exact hs
  · exact hs.setPage.dropLines

theorem State.canonical.tmapPage (hs : s.canonical) {v m p} : (s.tmapPage v m p).canonical :=
  .unless (.unless (.rekeyPage (.setPage (hs.when fun h => h.bump))) fun h => h.dropLines) fun h => h.bumpOwner

theorem State.canonical.applyTmap (hs : s.canonical) {ws} : (s.applyTmap ws).canonical :=
  hs.unless fun h => h.foldl fun _ _ h2 => h2.tmapPage

theorem State.canonical.poison (hs : s.canonical) {p} : (s.poison p).canonical := hs.setPage.bumpOwner

theorem State.canonical.assignBank (hs : s.canonical) {owner used} : (s.assignBank owner used).canonical := by
  unfold State.assignBank
  dsimp only
  split
  · split <;> exact hs
  · exact hs.when fun h => h.sys

end

end Sys2Proof.Machine
end

section
/-!
SUPPORT. Launches, the pod and what loads, stores and atomics are keep the byte memories canonical (O50).
-/

namespace Sys2Proof.Machine

section
-- Each lemma waits for those it uses: side by side they would hold a thread and its stack each.
set_option Elab.async false
variable {s : State}

/-! ### The command core's memory -/

theorem State.canonical.putPrivByte (hs : s.canonical) {level o b} : (s.putPrivByte level o b).canonical := by
  unfold State.putPrivByte
  split
  · exact hs
  · exact hs.putPriv
  · exact .ite hs.putPriv (.ite hs.sys hs)
  · exact .ite hs.putPriv hs
  · exact hs

theorem State.canonical.cmdPut (hs : s.canonical) {a bs} : (s.cmdPut a bs).canonical :=
  .ite (.when (hs.foldl fun _ _ h => h.putPrivByte) fun h => h.rekey) (hs.foldl fun _ _ h => h.when fun h2 => h2.homePut)

/-! ### Launches and teams -/

theorem State.canonical.remoteGrant (hs : s.canonical) {queue page count cls entry} :
    (s.remoteGrant queue page count cls entry).canonical :=
  hs.unless fun h => .spend (h.mem.foldl fun _ _ h2 => h2.setPage)

theorem State.canonical.endRemoteGrants (hs : s.canonical) {l} : (s.endRemoteGrants l).canonical := hs

theorem State.canonical.launchEvent (hs : s.canonical) {l code} : (s.launchEvent l code).canonical := hs.hostEvent

theorem State.canonical.enrol (hs : s.canonical) {q entry owner rclass desc status w5 w6 pod recSeq away mask qcb} :
    (s.enrol q entry owner rclass desc status w5 w6 pod recSeq away mask qcb).canonical :=
  .ite (hs.fw.setLaunch.launchState.unless fun h => h.launchState) hs.fw.setLaunch.launchState.launchEvent

theorem State.canonical.flushAdds (hs : s.canonical) : s.flushAdds.canonical :=
  .fw (hs.foldlFst fun _ _ h => by dsimp only; split; exacts [h, h.homeWrite])

theorem State.canonical.setSlotEntry (hs : s.canonical) {port slot x} : (s.setSlotEntry port slot x).canonical := hs

theorem State.canonical.placeTeam (hs : s.canonical) {tr idx core twin carve} : (s.placeTeam tr idx core twin carve).canonical :=
  hs.setTeam.foldl fun _ _ h => h.foldl fun _ _ h2 => h2.setGroup

theorem State.canonical.placeNext (hs : s.canonical) {tr} : (s.placeNext tr).canonical :=
  hs.unless fun h => by split; exacts [h, .modTrain (h.placeTeam.when fun h2 => h2.placeTeam)]

theorem State.canonical.placeAll (hs : s.canonical) {n tr} : (State.placeAll n tr s).canonical := by
  induction n generalizing s with
  | zero => exact hs
  | succ n ih => exact .ite (ih hs.placeNext) hs

theorem State.canonical.clearCore (hs : s.canonical) {c} : (s.clearCore c).canonical :=
  hs.setGrid fun h => { h with pool := Sp.wf_clear _ _ _ _ h.pool, slots := Sp.wf_clear _ _ _ _ h.slots }

theorem State.canonical.acquireAll (hs : s.canonical) {tr} : (s.acquireAll tr).canonical :=
  .foldl (hs.foldl fun _ _ h => h.refreshCluster) fun _ _ h => h.refreshCore

theorem State.canonical.openLaunchLap (hs : s.canonical) {l} : (s.openLaunchLap l).canonical :=
  hs.setMem fun h => { h with aside := h.aside_append rfl }

theorem State.canonical.startTrain (hs : s.canonical) {l cores mates} : (s.startTrain l cores mates).canonical :=
  .placeAll (.modLaunch (.openLaunchLap (.acquireAll (.foldl (.setTrain hs.grid Leftover.canonical_empty) fun _ _ h => h.clearCore))))

theorem State.canonical.joinCluster (hs : s.canonical) {tr k} : (s.joinCluster tr k).canonical := hs.refreshCluster.modTrain

theorem State.canonical.extendTrain (hs : s.canonical) {tr} : (s.extendTrain tr).canonical := by
  unfold State.extendTrain
  extract_lets t d cl free pairs n new cores joined s₁ s₂ s₃
  have h₂ : s₂.canonical := .modTrain (hs.foldl fun _ _ h => h.clearCore)
  have h₃ : s₃.canonical := h₂.foldl fun _ _ h => h.joinCluster
  exact hs.unless fun _ => hs.unless fun _ => .modLaunch (h₃.foldl fun _ _ h => h.refreshCore)

theorem State.canonical.startLaunch (hs : s.canonical) {id} : (s.startLaunch id).canonical := by
  unfold State.startLaunch
  dsimp only
  split
  · exact hs.launchState.launchEvent.flushAdds
  · exact hs.unless fun h => .startTrain (.launchState (.modLaunch (h.foldl fun _ _ h2 => h2.setSlotEntry)))

theorem State.canonical.releaseTrain (hs : s.canonical) {tr} : (s.releaseTrain tr).canonical := hs.foldl fun _ _ h => h.push

theorem State.canonical.pushCluster (hs : s.canonical) {owner k} : (s.pushCluster owner k).canonical := hs.foldl fun _ _ h => h.push

theorem State.canonical.dropTrain (hs : s.canonical) {tr} : (s.dropTrain tr).canonical := by
  unfold State.dropTrain
  extract_lets s₁ g keep _ _ s₂
  have h₁ : s₁.canonical := hs.unpin
  have h₂ : s₂.canonical :=
    .intro { h₁.inMem with aside := fun l hl => h₁.inMem.aside l (List.mem_of_mem_filter hl) } { h₁.inGrid with }
  exact .setTrain (h₂.foldl fun _ _ h => h.clearCore) Leftover.canonical_empty

theorem State.canonical.freeSlots (hs : s.canonical) {d} : (s.freeSlots d).canonical := hs.foldl fun _ _ h => h.setSlotEntry

theorem State.canonical.endLaunch (hs : s.canonical) {tr} : (s.endLaunch tr).canonical := by
  have removed := (hs.releaseTrain (tr := tr)).removeRevoked (tr := tr)
  refine .flushAdds (.endRemoteGrants (.dropTrain ?_))
  refine State.canonical.when (.launchState (.modLaunch (.filterLaps (.freeSlots ?_)))) fun h => h.launchEvent
  exact removed.unless fun h => h.homeWrite

theorem State.canonical.retireFrame (hs : s.canonical) {p} : (s.retireFrame p).canonical := hs.unless fun h => h.mem

theorem State.canonical.restorePage (hs : s.canonical) {l h} (aside : Memory.wf l.aside) : (s.restorePage l h).canonical := by
  unfold State.restorePage
  extract_lets p s₁ home _ s₂ s₃
  have h₁ : s₁.canonical := hs.setAside
  have h₂ : s₂.canonical := h₁.setMem fun m => { m with
    home := Sp.wf_graft _ _ _ _ _ m.home (Sp.wf_window _ _ _ _ aside) Sp.mem_window }
  have h₃ : s₃.canonical := h₂.foldl fun _ _ h => h.dropClusterLines
  exact .ite h₃.retireFrame.placePage.setPage h₃

theorem State.canonical.undoAttempt (hs : s.canonical) {tr} : (s.undoAttempt tr).canonical := by
  unfold State.undoAttempt
  extract_lets t lap opened _ s₁ s₂ back m
  have aside : Memory.wf lap.aside := by
    unfold lap
    cases e : s.mem.laps.find? fun p => p.number == 0 && p.launch == t.launch with
    | none => exact Sp.wf_nil 0
    | some l => exact hs.inMem.aside l (List.mem_of_find?_eq_some e)
  have h₁ : s₁.canonical := hs.filterLaps
  have h₂ : s₂.canonical := h₁.foldl fun _ _ h => h.restorePage aside
  have kept : ∀ l ∈ m.laps, Memory.wf (back l).aside := by
    intro l hl
    unfold back
    split <;> exact h₂.inMem.aside l hl
  refine .dropTrain ?_
  exact .intro { h₂.inMem with aside := List.forall_mem_map.2 kept } h₂.inGrid

theorem State.canonical.failReplay (hs : s.canonical) {tr} : (s.failReplay tr).canonical :=
  hs.removeRevoked.undoAttempt.freeSlots.modLaunch.launchState.launchEvent.endRemoteGrants.flushAdds

theorem State.canonical.followPre (hs : s.canonical) {old new} : (s.followPre old new).canonical := hs

theorem State.canonical.replay (hs : s.canonical) {tr} : (s.replay tr).canonical :=
  .ite hs.undoAttempt.modLaunch.freeSlots.fw.launchState hs.undoAttempt.modLaunch.startTrain.modTrain.followPre

/-! ### The pod -/

theorem State.canonical.offer (hs : s.canonical) {op len daddr tenant words} : (s.offer op len daddr tenant words).canonical :=
  hs.pod.bumpOwner

theorem State.canonical.offerFirst (hs : s.canonical) {op len daddr words} : (s.offerFirst op len daddr words).canonical := hs.offer.pod

theorem State.canonical.clearOfferHolds (hs : s.canonical) : s.clearOfferHolds.canonical := hs.mapTrains fun _ => rfl

theorem State.canonical.offerFrom (hs : s.canonical) {tr op len daddr tenant words} :
    (s.offerFrom tr op len daddr tenant words).canonical :=
  hs.offer.unless fun h => h.modTrain

theorem State.canonical.transmit (hs : s.canonical) : s.transmit.canonical := hs.when fun h => h.pod.clearOfferHolds

theorem State.canonical.reloadBc (hs : s.canonical) {x} : (s.reloadBc x).canonical := .ite hs hs

theorem State.canonical.leavePod (hs : s.canonical) : s.leavePod.canonical := hs

theorem State.canonical.recordOffset (hs : s.canonical) {pos tokenBc} : (s.recordOffset pos tokenBc).canonical :=
  hs.pod.when fun h => h.pod.leavePod

theorem State.canonical.noteToken (hs : s.canonical) {pos tokenBc} : (s.noteToken pos tokenBc).canonical := hs.when fun h => h.pod

theorem State.canonical.loadCount (hs : s.canonical) : s.loadCount.canonical := by
  unfold State.loadCount
  split
  · exact hs
  · exact hs.when fun h => h.reloadBc.pod

theorem State.canonical.joinListened (hs : s.canonical) : s.joinListened.canonical := hs.loadCount.when fun h => h.sys.offer

theorem State.canonical.hear (hs : s.canonical) {pos} : (s.hear pos).canonical := hs

theorem State.canonical.keepTime (hs : s.canonical) {pos tokenBc} : (s.keepTime pos tokenBc).canonical :=
  .ite hs.joinListened (.ite hs (hs.when fun h => h.recordOffset))

theorem State.canonical.passToken (hs : s.canonical) {pos tokenBc} : (s.passToken pos tokenBc).canonical := hs.transmit.pod

theorem State.canonical.tokenArrival (hs : s.canonical) {pos tokenBc malformed} : (s.tokenArrival pos tokenBc malformed).canonical :=
  .ite hs.passToken (hs.unless fun h => .ite (h.when fun h2 => h2.leavePod) h.noteToken.hear.keepTime.passToken)

theorem State.canonical.loseToken (hs : s.canonical) : s.loseToken.canonical := hs.when fun h => h.pod.note.wakeLevel

theorem State.canonical.regenerateToken (hs : s.canonical) : s.regenerateToken.canonical := hs.when fun h => h.pod.note.transmit.pod

theorem State.canonical.putDial (hs : s.canonical) {i ws} : (s.putDial i ws).canonical := hs

theorem State.canonical.admitRecord (hs : s.canonical) {r seq} : (s.admitRecord r seq).canonical :=
  .flushAdds (hs.fw.when fun h => h.enrol)

theorem State.canonical.markRecovery (hs : s.canonical) {w0} : (s.markRecovery w0).canonical :=
  .ite hs (hs.pod.foldl fun _ _ h => h.when fun h2 => h2.modTrain)

theorem State.canonical.transferTo (hs : s.canonical) {member m} : (s.transferTo member m).canonical := hs.when fun h => h.pod

theorem State.canonical.readNote (hs : s.canonical) {r seq} : (s.readNote r seq).canonical :=
  hs.pod.unless fun h => by dsimp only; split; exacts [h.replay, h.when fun h2 => h2.transferTo]

theorem State.canonical.applyRecord (hs : s.canonical) {op r seq} : (s.applyRecord op r seq).canonical := by
  unfold State.applyRecord
  dsimp only
  split
  · exact hs.putDial
  · exact hs.putDial
  · exact hs.when fun h => h.putDial
  · exact hs.when fun h => h.putDial
  · exact hs.putDial.admitRecord
  · exact hs.applyTmap
  · exact hs.putDial.markRecovery.when fun h => h.transferTo
  · exact hs.readNote

theorem State.canonical.stamp (hs : s.canonical) {op r} : (s.stamp op r).canonical :=
  .ite (.applyRecord (.pod (hs.pod.when fun h => h.pod))) (.bump (hs.pod.when fun h => h.pod))

theorem State.canonical.receive (hs : s.canonical) {op r crcOk} : (s.receive op r crcOk).canonical :=
  .ite (.ite hs.stamp hs.bump.leavePod) (hs.when fun h => .ite h h.bump.pod)

theorem State.canonical.rejoinAsked (hs : s.canonical) {member} : (s.rejoinAsked member).canonical := hs.when fun h => h.offer

theorem State.canonical.takeDial (hs : s.canonical) {m dial} : (s.takeDial m dial).canonical := by
  unfold State.takeDial
  split
  · exact hs
  · extract_lets joining _ s₁ _ _ s₂ s₃
    have h₁ : s₁.canonical := hs.pod
    have h₂ : s₂.canonical := h₁.when fun h => h
    have h₃ : s₃.canonical := h₂.foldl fun _ _ h => h.when fun h => h.stamp
    exact hs.unless fun _ => h₃.unless fun h => h.offerFirst.note

theorem State.canonical.formPod (hs : s.canonical) : s.formPod.canonical := hs

theorem State.canonical.failBoot (hs : s.canonical) {cause die} : (s.failBoot cause die).canonical := hs

theorem State.canonical.failJoin (hs : s.canonical) : s.failJoin.canonical := hs.failBoot

theorem State.canonical.joinTokenTimeout (hs : s.canonical) : s.joinTokenTimeout.canonical := hs.when fun h => .ite h.formPod h

theorem State.canonical.joinFailTimeout (hs : s.canonical) : s.joinFailTimeout.canonical := hs.when fun h => h.failJoin

theorem State.canonical.sendCell (hs : s.canonical) {port} : (s.sendCell port).canonical := by
  unfold State.sendCell
  split <;> exact hs

theorem State.canonical.delayPayload (hs : s.canonical) {port slot n} : (s.delayPayload port slot n).canonical := hs

theorem State.canonical.bufferCell (hs : s.canonical) {c core} : (s.bufferCell c core).canonical := .ite hs.bump hs.modCore

theorem State.canonical.cellArrives (hs : s.canonical) {c crcOk} : (s.cellArrives c crcOk).canonical :=
  hs.unless fun h => .ite h.bump (.ite h.bump (h.foldl fun _ _ h2 => h2.bufferCell))

theorem State.canonical.writeLmgt (hs : s.canonical) {v} : (s.writeLmgt v).canonical := hs.unless fun h => h.pod

theorem State.canonical.leafAck (hs : s.canonical) {err} : (s.leafAck err).canonical := hs.when fun h => h.pod

theorem State.canonical.reducedArrives (hs : s.canonical) {dcore members} : (s.reducedArrives dcore members).canonical := by
  unfold State.reducedArrives
  split
  · exact hs
  · exact .cellArrives (hs.foldl fun _ _ h => h.bump)

/-! ### Loads, stores and atomics -/

theorem State.canonical.storeParts (hs : s.canonical) {pos va bs} : (s.storeParts pos va bs).canonical :=
  hs.foldl fun _ _ h => h.bufferStore

theorem State.canonical.landData (hs : s.canonical) {sz lat dst xs} : (s.landData sz lat dst xs).canonical :=
  hs.later.when fun h => h.later

theorem State.canonical.noteLoad (hs : s.canonical) {lat pages} : (s.noteLoad lat pages).canonical := by
  unfold State.noteLoad
  dsimp only
  split
  · exact hs.countMisses
  · exact hs.countMisses.modTrain

theorem State.canonical.execLdg (hs : s.canonical) {h dst sx a} : GivesCanonical (execLdg h dst sx a s) := by
  unfold Machine.execLdg
  dsimp only
  split
  · exact hs.attempt hs.landData
  · exact hs.attempt hs.landData.noteLoad

theorem State.canonical.execStg (hs : s.canonical) {h dst a} : GivesCanonical (execStg h dst a s) := by
  unfold Machine.execStg
  dsimp only
  split
  · exact hs.attempt (hs.foldl fun _ _ h => h.cmdPut)
  · exact hs.attempt (hs.foldl fun _ _ h => h.storeParts)

theorem State.canonical.await (hs : s.canonical) {rs} : (s.await rs).canonical := hs

theorem State.canonical.atomic (hs : s.canonical) {op h o} : GivesCanonical (atomic op h o s) := by
  unfold Machine.atomic
  dsimp only
  split
  · exact hs.attempt (.ite (hs.foldlFst fun _ _ h => h.cmdPut) (.landData (hs.foldlFst fun _ _ h => h.cmdPut)))
  · exact hs.attempt (.await (.foldl (.grid (hs.foldl fun _ _ h => h.touchLine)) fun _ _ h => h.owe))

theorem State.canonical.act (hs : s.canonical) {w} : (s.act w).canonical := hs

theorem State.canonical.fence (hs : s.canonical) {rel acq h scope} : GivesCanonical (fence rel acq h scope s) :=
  hs.attempt (hs.when fun h => h.act)

theorem State.canonical.retry (hs : s.canonical) : s.retry.canonical := hs.jump

theorem State.canonical.block (hs : s.canonical) {b} : (s.block b).canonical := hs.modGroup

theorem State.canonical.execWaitc (hs : s.canonical) {h o} : GivesCanonical (execWaitc h o s) := by
  unfold Machine.execWaitc
  dsimp only
  split
  · exact hs.attempt (hs.when fun h => h.retry)
  · exact hs.attempt (hs.when fun h => h.block)

theorem State.canonical.execCntadd (hs : s.canonical) {h o} : GivesCanonical (execCntadd h o s) := by
  unfold Machine.execCntadd
  dsimp only
  split
  · exact hs.attempt (hs.when fun h => h.cmdPut)
  · exact hs.attempt (hs.when fun h => h.act)

theorem State.canonical.drecAct (hs : s.canonical) {o} : (s.drecAct o).canonical := hs.act

theorem State.canonical.drecCommand (hs : s.canonical) {o} {after : State → State}
    (ha : ∀ s, s.canonical → (after s).canonical) : (s.drecCommand o after).canonical :=
  .ite hs.retry (ha _ hs.offer)

end

end Sys2Proof.Machine
end

section
/-!
SUPPORT. Control, the vectors, the engines and the hall keep the byte memories canonical (O50).
-/

namespace Sys2Proof.Machine

section
-- Each lemma waits for those it uses: side by side they would hold a thread and its stack each.
set_option Elab.async false
variable {s : State}

/-! ### Control -/

theorem State.canonical.holdGroup (hs : s.canonical) : s.holdGroup.canonical := hs.modGroup

theorem State.canonical.pushSlot (hs : s.canonical) {p} : (s.pushSlot p).canonical := hs.modGroup.unless fun h => h.bufferStore.holdGroup

theorem State.canonical.popSlot (hs : s.canonical) : s.popSlot.1.canonical := by
  unfold State.popSlot
  split
  · exact hs
  · exact hs.modGroup
  · exact hs.modGroup.holdGroup.noteLoad

theorem State.canonical.alternate (hs : s.canonical) {before} : (s.alternate before).canonical := hs.when fun h => h.modGroup

theorem State.canonical.diverge (hs : s.canonical) {taken target rcv} : (s.diverge taken target rcv).canonical := hs.modGroup

theorem State.canonical.merge (hs : s.canonical) {j} : (s.merge j).canonical := hs.popSlot.modGroup

theorem State.canonical.blockedFault (hs : s.canonical) {tr key addr alt align} : (s.blockedFault tr key addr alt align).canonical :=
  hs.setTrain hs.trainLeft

theorem State.canonical.settleBarrier (hs : s.canonical) {tk} : (s.settleBarrier tk).canonical :=
  hs.unless fun h => .ite (h.foldl fun _ _ h2 => h2.modGroup) (h.foldl fun _ _ h2 => by split; exacts [h2.blockedFault, h2])

theorem State.canonical.endGroup (hs : s.canonical) : s.endGroup.canonical :=
  hs.unless fun h => h.modGroup.unless fun h2 => h2.settleBarrier

theorem State.canonical.execExit (hs : s.canonical) {h} : GivesCanonical (execExit h s) := by
  refine hs.attempt ?_
  split
  · exact hs
  · extract_lets before me other leaves s₁ r s₂ s₃
    have h₁ : s₁.canonical := hs.modGroup
    have h₂ : s₂.canonical := by
      refine .ite h₁.merge (.ite h₁ ?_)
      split
      · exact h₁
      · exact h₁.popSlot.modGroup
    have h₃ : s₃.canonical := h₂.when fun h => h.modGroup
    exact h₃.alternate.endGroup

theorem State.canonical.execTrig (hs : s.canonical) {h} : GivesCanonical (execTrig h s) := by
  refine hs.attempt (.ite (State.canonical.modGroup (.ite hs (hs.modTrain fun t => ?_))) hs)
  split <;> rfl

theorem State.canonical.alignFaults (hs : s.canonical) : s.alignFaults.canonical := .modTrain (hs.raise.foldl fun _ _ h => h.blockedFault)

theorem State.canonical.trapping (hs : s.canonical) {code h tcode} : GivesCanonical (trapping code h tcode s) :=
  hs.attempt (hs.unless fun h => .ite h.enterLevel h.modGroup.modTrain)

/-! ### Vectors of floats -/

theorem State.canonical.floatOp (hs : s.canonical) {h dst srcs f} : GivesCanonical (floatOp h dst srcs f s) := hs.attempt hs.landFloat

theorem State.canonical.arith2 (hs : s.canonical) {h o f} : GivesCanonical (arith2 h o f s) := hs.floatOp

theorem State.canonical.minMaxOp (hs : s.canonical) {h o wantMax} : GivesCanonical (minMaxOp h o wantMax s) := hs.floatOp

theorem State.canonical.pairOp (hs : s.canonical) {h dst srcs f} : GivesCanonical (pairOp h dst srcs f s) :=
  hs.attempt hs.landFloat.landFloat

theorem State.canonical.arithPair (hs : s.canonical) {h o f} : GivesCanonical (arithPair h o f s) := hs.pairOp

/-! ### Vectors of integers -/

theorem State.canonical.lanes2 (hs : s.canonical) {h o lat f} : GivesCanonical (lanes2 h o lat f s) := hs.attempt hs.landVec

theorem State.canonical.elems2 (hs : s.canonical) {h o lat f} : GivesCanonical (elems2 h o lat f s) := hs.lanes2

theorem State.canonical.lanes1 (hs : s.canonical) {h dst sa lat f} : GivesCanonical (lanes1 h dst sa lat f s) := hs.attempt hs.landVec

theorem State.canonical.elems1 (hs : s.canonical) {h o f} : GivesCanonical (elems1 h o f s) := hs.lanes1

theorem State.canonical.execImaxb (hs : s.canonical) {h dec o} : GivesCanonical (execImaxb h dec o s) := by
  unfold Machine.execImaxb
  refine hs.attempt ?_
  dsimp only
  split
  · exact hs.landVec.landMask
  · exact hs.landVec.landLaneScalar

theorem State.canonical.masks2 (hs : s.canonical) {h o f} : GivesCanonical (masks2 h o f s) := hs.attempt hs.later

/-! ### Across the lanes -/

theorem State.canonical.laneGather (hs : s.canonical) {h dst sa srcs f} : GivesCanonical (Machine.gather h dst sa srcs f s) :=
  hs.attempt hs.landVec

theorem State.canonical.enterSfu (hs : s.canonical) {h dst rs} : (s.enterSfu h dst rs).canonical := .ite hs.later.landFlags hs.owe.grid

theorem State.canonical.sfuOp (hs : s.canonical) {h o op} : GivesCanonical (sfuOp h o op s) := hs.attempt hs.enterSfu

/-! ### The engine's operands -/

theorem State.canonical.enterColumn (hs : s.canonical) {i ofs start lat batched dsts} :
    (s.enterColumn i ofs start lat batched dsts).canonical :=
  .foldl (hs.grid.when fun h => h.modTrain) fun _ _ h => h.owe

theorem State.canonical.command (hs : s.canonical) {h i ofs k} : GivesCanonical (command h i ofs k s) :=
  hs.attempt (hs.when fun h => h.enterColumn)

theorem State.canonical.matrix (hs : s.canonical) {sparse i h o} : GivesCanonical (matrix sparse i h o s) := hs.command

theorem State.canonical.copy (hs : s.canonical) {i h o dsts} : GivesCanonical (copy i h o dsts s) := hs.command

theorem State.canonical.send (hs : s.canonical) {kind i h o} : GivesCanonical (send kind i h o s) := hs.command

theorem State.canonical.hall (hs : s.canonical) {i h o sizeOk uses} : GivesCanonical (hall i h o sizeOk uses s) := hs.command

theorem State.canonical.busyFor (hs : s.canonical) {lat} : (s.busyFor lat).canonical := hs.modTeam

theorem State.canonical.immediate (hs : s.canonical) {h own dsts lat} {effect : State → State} (he : (effect s).canonical) :
    GivesCanonical (immediate h own dsts lat effect s) :=
  hs.attempt (.ite he.busyFor hs)

/-! ### The engines -/

theorem State.canonical.asIssuer (hs : s.canonical) {c} : (s.asIssuer c).canonical := hs

theorem State.canonical.setCmd (hs : s.canonical) {c} : (s.setCmd c).canonical := hs

theorem State.canonical.dropCmd (hs : s.canonical) {id} : (s.dropCmd id).canonical := hs

theorem State.canonical.addOutsFrom (hs : s.canonical) {c due ws} : (s.addOutsFrom c due ws).canonical := hs

theorem State.canonical.addOuts (hs : s.canonical) {c due ws} : (s.addOuts c due ws).canonical := hs.addOutsFrom

theorem State.canonical.landOwed (hs : s.canonical) {c due r w} : (s.landOwed c due r w).canonical := hs.settleOwed.grid

theorem State.canonical.landScalarOf (hs : s.canonical) {c n x} : (s.landScalarOf c n x).canonical := hs.landOwed

theorem State.canonical.poisoned (hs : s.canonical) {c at_ pages} : (s.poisoned c at_ pages).canonical := by
  unfold State.poisoned
  split
  · exact hs
  · exact hs.modTrain

theorem State.canonical.startMoves (hs : s.canonical) {c dst mode slot stop f ss ms crc} :
    (s.startMoves c dst mode slot stop f ss ms crc).canonical := by
  unfold State.startMoves
  extract_lets owner passed r read outs fills out wrong status pages writesGlobal s₁ s₂ s₃ s₄ s₅ s₆
  have h₄ : s₄.canonical := hs.poisoned.pin.setCmd.addOutsFrom.landScalarOf
  have h₅ : s₅.canonical := by
    unfold s₅
    clear_value out
    split
    · exact h₄.landScalarOf
    · exact h₄
  have h₆ : s₆.canonical := h₅.when fun h => h.modGroup
  split
  · exact h₆
  · exact .bumpOwner (h₆.when fun h => h.bump)

theorem State.canonical.clearTile (hs : s.canonical) {core tile} : (s.clearTile core tile).canonical := hs

theorem State.canonical.setKp (hs : s.canonical) {core tile x} : (s.setKp core tile x).canonical := hs.modCore

theorem State.canonical.startMatrix (hs : s.canonical) {c o} : (s.startMatrix c o).canonical :=
  .setCmd (.setKp (hs.when fun h => h.clearTile))

theorem State.canonical.startAccrd (hs : s.canonical) {c o} : (s.startAccrd c o).canonical :=
  .when (.unless (.ite (hs.setCmd.foldl fun _ _ h => h.landOwed) hs.setCmd.addOuts) fun h => h.grid) fun h => h.grid

theorem State.canonical.startAccwr (hs : s.canonical) {c o} : (s.startAccwr c o).canonical := hs.setCmd.addOuts.grid

theorem State.canonical.startAccz (hs : s.canonical) {c tile} : (s.startAccz c tile).canonical := hs.setCmd.addOuts.grid

theorem State.canonical.startTfill (hs : s.canonical) {c o} : (s.startTfill c o).canonical := hs.setCmd.addOuts

theorem State.canonical.startSend (hs : s.canonical) {c kind rop o} : (s.startSend c kind rop o).canonical :=
  hs.setCmd.act.unless fun h => h.pod

theorem State.canonical.takeCell (hs : s.canonical) {c a} : (s.takeCell c a).canonical := by
  unfold State.takeCell
  split
  · exact hs
  · exact hs.modCore.addOuts

theorem State.canonical.startRecv (hs : s.canonical) {c} : (s.startRecv c).canonical := hs.takeCell.setCmd

theorem State.canonical.startHall (hs : s.canonical) {c o op} : (s.startHall c o op).canonical := by
  unfold State.startHall
  dsimp only
  split
  · exact hs.setCmd
  · split
    · exact hs.setCmd
    · exact .pod (.setCmd (.pin (by split; exacts [.bump (hs.unless fun h => h.poisoned), hs.unless fun h => h.poisoned])))

theorem State.canonical.occupy (hs : s.canonical) {c} : (s.occupy c).canonical := hs.when fun h => h.modCore

theorem State.canonical.startCmd (hs : s.canonical) {c} : (s.startCmd c).canonical := by
  unfold State.startCmd
  dsimp only
  split
  · exact hs.asIssuer.occupy.startMatrix
  · exact hs.asIssuer.occupy.startMatrix
  · exact hs.asIssuer.occupy.startAccz
  · exact hs.asIssuer.occupy.startAccrd
  · exact hs.asIssuer.occupy.startAccwr
  · exact hs.asIssuer.occupy.startTfill
  · exact hs.asIssuer.occupy.startMoves
  · exact hs.asIssuer.occupy.startMoves
  · exact hs.asIssuer.occupy.countMisses.poisoned.startMoves
  · exact hs.asIssuer.occupy.startMoves
  · exact hs.asIssuer.occupy.startSend
  · exact hs.asIssuer.occupy.startSend
  · exact hs.asIssuer.occupy.startSend
  · exact hs.asIssuer.occupy.startRecv
  · exact hs.asIssuer.occupy.startHall
  · exact hs.asIssuer.occupy.startHall
  · exact hs.asIssuer.occupy.startHall
  · exact hs.asIssuer.occupy.setCmd

theorem State.canonical.startColumns (hs : s.canonical) {tr} : (s.startColumns tr).canonical :=
  .cur (hs.foldl fun _ _ h => h.unless fun h2 => h2.startCmd)

theorem State.canonical.receiveReds (hs : s.canonical) {tr} : (s.receiveReds tr).canonical :=
  hs.foldl fun _ _ h => h.when fun h2 => h2.takeCell.setCmd

theorem State.canonical.engineFault (hs : s.canonical) {c} : (s.engineFault c).canonical := hs.spend.modTrain.dropCmd

theorem State.canonical.stepMatrix (hs : s.canonical) {c sparse o} : (s.stepMatrix c sparse o).canonical :=
  .ite hs.engineFault hs.grid.setCmd

theorem State.canonical.stepMatrices (hs : s.canonical) {tr} : (s.stepMatrices tr).canonical :=
  hs.foldl fun _ _ h => by split; exacts [h.stepMatrix, h]

theorem State.canonical.arriveAt (hs : s.canonical) {p} : (s.arriveAt p).canonical := by
  unfold State.arriveAt
  split
  · exact hs.settleOwed
  · exact hs

theorem State.canonical.landRegisters (hs : s.canonical) {tr} : (s.landRegisters tr).canonical :=
  .grid (.foldl (hs.grid.foldl fun _ _ h => h.land.arriveAt) fun _ _ h => h.refreshCore)

theorem State.canonical.landStps (hs : s.canonical) {tr} : (s.landStps tr).canonical :=
  hs.setGrid fun h => { h with pool := Sp.wf_foldl h.pool fun _ _ h => Memory.wf_put _ _ _ h }

theorem State.canonical.finishCmd (hs : s.canonical) {id} : (s.finishCmd id).canonical := by
  unfold State.finishCmd
  split
  · exact hs
  · exact hs.unpin.setCmd.unless fun h => h.asIssuer.act.cur

theorem State.canonical.landOut (hs : s.canonical) {e} : (s.landOut e).canonical := by
  unfold State.landOut
  split
  · exact hs.setGrid fun h => { h with pool := Memory.wf_put _ _ _ h.pool }
  · exact hs.setGrid fun h => { h with slots := Memory.wf_put _ _ _ h.slots }
  · exact hs.grid
  · exact hs.clearTile
  · exact hs.grid
  · exact hs.finishCmd

theorem State.canonical.landOuts (hs : s.canonical) {tr} : (s.landOuts tr).canonical := hs.grid.foldl fun _ _ h => h.landOut

theorem State.canonical.startSfu (hs : s.canonical) {tr} : (s.startSfu tr).canonical :=
  hs.grid.foldl fun _ _ h => h.modCore.unless fun h2 => h2.settleOwed.grid

/-! ### The hall -/

theorem State.canonical.putFrame (hs : s.canonical) {f err} : (s.putFrame f err).canonical := hs

theorem State.canonical.sendRequest (hs : s.canonical) {q t} : (s.sendRequest q t).canonical := hs.pod.putFrame

theorem State.canonical.sendFrame (hs : s.canonical) {plane} : (s.sendFrame plane).canonical := by
  unfold State.sendFrame
  split
  · exact hs
  · exact hs.pod.putFrame
  · exact hs.pod.when fun h => h.putFrame
  · split
    · split
      · exact hs
      · exact hs.sendRequest
    · exact hs

theorem State.canonical.hallReply (hs : s.canonical) {f err} : (s.hallReply f err).canonical := by
  unfold State.hallReply
  dsimp only
  split
  · exact hs.bump
  · split
    · exact hs.bump
    · exact .ite hs.bump hs

theorem State.canonical.hallTimeout (hs : s.canonical) {plane tag} : (s.hallTimeout plane tag).canonical := by
  unfold State.hallTimeout
  dsimp only
  split
  · exact hs
  · exact hs.unless fun h => .ite h h

theorem State.canonical.performHall (hs : s.canonical) {f} : (s.performHall f).1.canonical := by
  unfold State.performHall
  dsimp only
  split
  · exact hs.homeWrite
  · split
    · exact hs
    · exact hs.homeWrite

theorem State.canonical.reply (hs : s.canonical) {r err} : (s.reply r err).canonical := hs

theorem State.canonical.answer (hs : s.canonical) {f r err} : (s.answer f r err).canonical := hs.pod.reply

theorem State.canonical.refuseHall (hs : s.canonical) {f} : (s.refuseHall f).canonical := hs.countMisses.answer

theorem State.canonical.repeatHall (hs : s.canonical) {x f} : (s.repeatHall x f).canonical :=
  .ite hs.reply (.ite hs.performHall.reply hs.refuseHall)

theorem State.canonical.hallRequest (hs : s.canonical) {f} : (s.hallRequest f).canonical := by
  unfold State.hallRequest
  split
  · exact hs
  · split
    · exact hs.bump
    · split
      · exact hs.repeatHall
      · exact .ite hs.performHall.answer hs.refuseHall

theorem State.canonical.frameArrives (hs : s.canonical) {bs err} : (s.frameArrives bs err).canonical :=
  hs.unless fun h => .ite h.bump (.ite h.hallRequest h.hallReply)

theorem State.canonical.storeVirtual (hs : s.canonical) {o va bs} : (s.storeVirtual o va bs).canonical :=
  hs.foldl fun _ _ h => by split <;> exact h

theorem State.canonical.putLocal (hs : s.canonical) {o off bs} : (s.putLocal o off bs).canonical :=
  .ite hs.storeVirtual (hs.setGrid fun h => { h with pool := Sp.wf_foldl h.pool fun _ _ h => Memory.wf_put _ _ _ h })

theorem State.canonical.landHall (hs : s.canonical) {tr} : (s.landHall tr).canonical := by
  refine hs.foldl fun _ _ h => .pod ?_
  split
  · exact .when (h.foldl fun _ _ h => h.putLocal) fun h => h.putLocal
  · exact h.foldl fun _ _ h => h.putLocal

theorem State.canonical.completeHall (hs : s.canonical) {tr} : (s.completeHall tr).canonical :=
  .pod (.grid (hs.unpin.foldl fun _ _ h => h.bumpOwner))

end

end Sys2Proof.Machine
end

section
/-!
SUPPORT. Laps, images and pre-emption keep the byte memories canonical (O50).
-/

namespace Sys2Proof.Machine

section
-- Each lemma waits for those it uses: side by side they would hold a thread and its stack each.
set_option Elab.async false
variable {s : State}

/-! ### Laps -/

theorem State.canonical.landFor (hs : s.canonical) {key due r w} : (s.landFor key due r w).canonical :=
  hs.foldl fun _ _ h => h.settleOwed.grid

theorem State.canonical.openLap (hs : s.canonical) {a target deadline cmd kind reg} :
    (s.openLap a target deadline cmd kind reg).canonical := by
  unfold State.openLap
  extract_lets tr clk live at_ setCmds n gen va lap m s₁
  have h₁ : s₁.canonical := .intro { hs.inMem with aside := hs.inMem.aside_append rfl } hs.inGrid
  exact .ite hs.landFor.grid h₁.landFor.grid

theorem State.canonical.releaseLap (hs : s.canonical) {a lap kind reg} : (s.releaseLap a lap kind reg).canonical :=
  .landFor (.foldl (hs.mapLaps fun l => by split <;> rfl) fun _ _ h => h.modTeam)

theorem State.canonical.spoilAside (hs : s.canonical) {gen p} : (s.spoilAside gen p).canonical :=
  hs.mapLaps fun l => by split <;> rfl

theorem State.canonical.copyTo (hs : s.canonical) {owner ia bs} : (s.copyTo owner ia bs).canonical :=
  hs.homeWrite.unless fun h => .bumpOwner (h.when fun h2 => h2.bump)

theorem State.canonical.drain (hs : s.canonical) {gen} : (s.drain gen).canonical := by
  unfold State.drain
  split
  · exact hs
  · refine State.canonical.mapLaps (.ite ?_ ?_) fun l => by split <;> rfl
    · exact (hs.foldl fun _ _ h => h.bumpOwner).compPut
    · exact (hs.foldl fun _ _ h => h.bumpOwner).copyTo

theorem State.canonical.addLap (hs : s.canonical) {c} : (s.addLap c).canonical := hs.foldl fun _ _ h => h.unless fun h2 => h2.grid

theorem State.canonical.countLaps (hs : s.canonical) {tr} : (s.countLaps tr).canonical :=
  hs.foldl fun _ _ h => .grid (.addLap (.mapLaps (.foldl h fun _ _ h => h.drain) fun l => by dsimp only; split <;> rfl))

theorem State.canonical.boundaryLaps (hs : s.canonical) {tr} : (s.boundaryLaps tr).canonical := hs.countLaps.foldl fun _ _ h => h.addLap

theorem State.canonical.moveLaps (hs : s.canonical) {tr} : (s.moveLaps tr).canonical :=
  .foldl (hs.foldl fun _ _ h => by split; exacts [h.openLap, h.releaseLap, h]) fun _ _ h => h.drain

theorem State.canonical.snapLaps (hs : s.canonical) {tr} : (s.snapLaps tr).canonical := hs.modTrain

/-! ### Images -/

theorem State.canonical.putPieces (hs : s.canonical) {ps bs} : (s.putPieces ps bs).canonical := hs.foldlFst fun _ _ h => h.sysPut

/-! ### Pre-emption -/

theorem State.canonical.requestPre (hs : s.canonical) {tr team handle d image force ring} :
    (s.requestPre tr team handle d image force ring).canonical :=
  hs

theorem State.canonical.setPre (hs : s.canonical) {r} : (s.setPre r).canonical := hs

theorem State.canonical.dropPre (hs : s.canonical) {id} : (s.dropPre id).canonical := hs

theorem State.canonical.finishPre (hs : s.canonical) {r imageVc} : (s.finishPre r imageVc).canonical :=
  .when (.ite hs.dropPre hs.setPre) fun h => h.reportPost

theorem State.canonical.drainLapsed (hs : s.canonical) {id} : (s.drainLapsed id).canonical := by
  unfold State.drainLapsed
  split
  · exact hs
  · exact hs.unless fun h => h.setPre

theorem State.canonical.vacateTrain (hs : s.canonical) {mask tr} : (s.vacateTrain mask tr).canonical :=
  .ite (hs.when fun h => h.unless fun h2 => h2.requestPre) (hs.foldl fun _ _ h => h.unless fun h2 => h2.requestPre)

theorem State.canonical.vacate (hs : s.canonical) {owner mask} : (s.vacate owner mask).canonical := hs.foldl fun _ _ h => h.vacateTrain

theorem State.canonical.forgetTeam (hs : s.canonical) {tk} : (s.forgetTeam tk).canonical := hs.unpin.grid.modTrain

theorem State.canonical.clearEnded (hs : s.canonical) {tr} : (s.clearEnded tr).canonical := hs.foldl fun _ _ h => h.forgetTeam

theorem State.canonical.discardTeam (hs : s.canonical) {tk} : (s.discardTeam tk).canonical := by
  unfold State.discardTeam
  extract_lets t s₁
  have h₁ : s₁.canonical := hs.forgetTeam.forgetTeam
  clear_value s₁
  exact h₁.modTrain

theorem State.canonical.releaseTeam (hs : s.canonical) {tk} : (s.releaseTeam tk).canonical := hs.push

theorem State.canonical.saveTeam (hs : s.canonical) {tk image yielded} : (s.saveTeam tk image yielded).canonical := by
  unfold State.saveTeam
  extract_lets s₁ bs t clk base keys s₂ free s₃ s₄ kept acqs sfus s₅ g s₆
  have h₂ : s₂.canonical := hs.releaseTeam.putPieces
  have h₃ : s₃.canonical := h₂.foldl fun _ _ h => h.modGroup
  have h₄ : s₄.canonical := h₃.foldl fun _ _ h => h.modCore
  have h₅ : s₅.canonical := h₄.foldl fun _ _ h => h.settleOwed
  have h₆ : s₆.canonical := h₅.grid
  exact h₆.modTeam

theorem State.canonical.saveTwin (hs : s.canonical) {tk image yielded} : (s.saveTwin tk image yielded).canonical :=
  hs.when fun h => h.saveTeam

theorem State.canonical.putLeftover (hs : s.canonical) {l places place} (hl : l.Canonical) : (s.putLeftover l places place).canonical := by
  unfold State.putLeftover
  extract_lets g move s₁
  have h₁ : s₁.canonical := .intro hs.inMem { hs.inGrid with
    pool := Sp.wf_foldl hs.inGrid.pool fun _ _ h => Sp.wf_graft_window h hl.pool
    slots := Sp.wf_foldl hs.inGrid.slots fun _ _ h => Sp.wf_graft_window h hl.slots }
  exact h₁.foldl fun _ _ h => h.modCore

theorem State.canonical.coresHeld (hs : s.canonical) {cores} : (s.coresHeld cores).Canonical :=
  ⟨Sp.wf_filter _ _ _ hs.inGrid.pool, Sp.wf_filter _ _ _ hs.inGrid.slots⟩

theorem State.canonical.saveTrain (hs : s.canonical) {tr ts images} : (s.saveTrain tr ts images).canonical := by
  unfold State.saveTrain
  extract_lets s₁ mark s₂
  have marked {s tk} (h : s.canonical) : (mark s tk).canonical := .ite h.modTeam h
  have h₂ : s₂.canonical := hs.clearEnded.foldl fun _ _ h => marked (marked h.saveTeam.saveTwin)
  exact h₂.setTrain h₂.coresHeld

theorem State.canonical.discardTrain (hs : s.canonical) {tr} : (s.discardTrain tr).canonical :=
  .launchState (.dropTrain (.freeSlots hs.filterLaps))

theorem State.canonical.dropTeamPre (hs : s.canonical) {tr id} : (s.dropTeamPre tr id).canonical := hs

theorem State.canonical.serveDiscards (hs : s.canonical) {tr} : (s.serveDiscards tr).canonical :=
  hs.foldl fun _ _ h => h.unless fun h2 => .ite h2.setPre (by split; exacts [h2.discardTeam.finishPre, h2.finishPre.discardTrain])

theorem State.canonical.leaveTrain (hs : s.canonical) {tk} : (s.leaveTrain tk).canonical := hs.unless fun h => h.modTeam.modTrain

theorem State.canonical.imagesFor (hs : s.canonical) {z image taken tks} :
    ∀ r ∈ State.imagesFor z image taken tks s, r.1.canonical := by
  induction tks generalizing image taken s with
  | nil =>
    rintro r ⟨⟩
    exact hs
  | cons tk tks ih =>
    intro r hr
    have mapped {s : State} {image taken} {x : Nat} (hs : s.canonical)
        (hr : r ∈ (State.imagesFor z image taken tks s).map fun r => (r.1, x :: r.2)) : r.1.canonical := by
      obtain ⟨q, hq, rfl⟩ := Option.map_eq_some_iff.1 hr
      exact ih hs q hq
    unfold State.imagesFor at hr
    dsimp only at hr
    split at hr
    · exact mapped hs hr
    · split at hr
      · exact mapped hs hr
      · split at hr
        · cases hr
        · exact mapped hs.spend hr

theorem State.canonical.servePre (hs : s.canonical) {tr} : (s.servePre tr).canonical := by
  refine hs.foldl fun s r h => .ite h ?_
  split
  · exact h
  · rename_i e
    have h := h.imagesFor _ e
    split
    · exact h.saveTeam.saveTwin.leaveTrain.leaveTrain.finishPre
    · exact h.saveTrain.dropTeamPre.finishPre

theorem State.canonical.endPre (hs : s.canonical) {tr} : (s.endPre tr).canonical := hs.foldl fun _ _ h => h.when fun h2 => h2.finishPre

theorem State.canonical.restorePool (hs : s.canonical) {d claims c core bs} : (s.restorePool d claims c core bs).canonical :=
  hs.setGrid fun h => { h with
    pool := Memory.wf_put _ _ _ h.pool
    slots := Sp.wf_foldl h.slots fun _ _ h => Memory.wf_put _ _ _ h }

theorem State.canonical.resumeRun (hs : s.canonical) {k base bs whole} : (s.resumeRun k base bs whole).canonical :=
  hs.unless fun h => .ite (.ite h.modGroup h) h

theorem State.canonical.restoreEntry (hs : s.canonical) {tk core base e} : (s.restoreEntry tk core base e).canonical := by
  unfold State.restoreEntry
  dsimp only
  split
  · exact hs
  · exact hs
  · exact hs.modCore
  · split
    · exact hs
    · exact .ite hs.land hs

theorem State.canonical.restoreCmds (hs : s.canonical) {tk core base shift cols copies} :
    (s.restoreCmds tk core base shift cols copies).canonical :=
  .modTeam (hs.grid.foldl fun _ _ h => h.occupy)

theorem State.canonical.consumeImage (hs : s.canonical) {tk base image img} : (s.consumeImage tk base image img).canonical := by
  unfold State.consumeImage
  dsimp only
  split
  · exact hs
  · exact hs.modTrain

theorem State.canonical.restoreTeam (hs : s.canonical) {tk core base image move carve alone whole} :
    (s.restoreTeam tk core base image move carve alone whole).canonical := by
  unfold State.restoreTeam
  extract_lets t tr d img w claims keys shift poolOf record place s₁ s₂ s₃ s₄ later s₅ residue residual _ s₆ s₇ s₈ s₉ s₁₀
  have placed {s c} (h : s.canonical) : (place s c).canonical := h.restorePool.foldl fun _ _ h => h.setGroup
  have h₁ : s₁.canonical := hs.foldl fun _ _ h => placed h
  have h₃ : s₃.canonical := h₁.restoreCmds.modTeam
  have h₄ : s₄.canonical := h₃.foldl fun _ _ h => h.restoreEntry
  have h₅ : s₅.canonical := h₄.modTrain
  have h₆ : s₆.canonical := h₅.grid
  have h₈ : s₈.canonical := h₆.consumeImage.foldl fun _ _ h => h.resumeRun
  have h₉ : s₉.canonical := h₈.when fun h => h.foldl fun _ _ h => h.modCore
  have h₁₀ : s₁₀.canonical := h₉.unless fun h => h.joinCluster
  exact h₁₀.foldl fun _ _ h => h.refreshCore

theorem State.canonical.landOwedScalar (hs : s.canonical) {tr key due n x} : (s.landOwedScalar tr key due n x).canonical :=
  hs.settleOwed.grid

theorem State.canonical.endTalign (hs : s.canonical) {tr key due dst late} : (s.endTalign tr key due dst late).canonical :=
  hs.landOwedScalar.modGroup

theorem State.canonical.joinAlign (hs : s.canonical) {tr ws} : (s.joinAlign tr ws).canonical :=
  .ite hs.modTrain (.modTrain (hs.foldl fun _ _ h => h.blockedFault))

theorem State.canonical.joinTrain (hs : s.canonical) {tk base} : (s.joinTrain tk base).canonical := by
  unfold State.joinTrain
  dsimp only
  split
  · exact hs.modTeam.modTrain.foldl fun _ _ h => by split; exacts [h.endTalign, h]
  · exact hs.modTeam.modTrain.unless fun h => h.joinAlign

theorem State.canonical.rejoinTeam (hs : s.canonical) {tk want} : (s.rejoinTeam tk want).canonical := by
  unfold State.rejoinTeam
  dsimp only
  split
  · exact hs
  · exact .when (hs.restoreTeam.joinTrain.foldl fun _ _ h => h.modGroup) fun h => h.restoreTeam.joinTrain.foldl fun _ _ h2 => h2.modGroup

theorem State.canonical.resumeTrain (hs : s.canonical) {tr first imageOf} : (s.resumeTrain tr first imageOf).canonical := by
  unfold State.resumeTrain
  split
  · exact hs
  · refine .modLaunch (.foldl (.foldl (.foldl (.setTrain ?_ Leftover.canonical_empty) ?_) ?_) ?_)
    · refine .putLeftover (.foldl hs.grid ?_) hs.trainLeft
      exact fun _ _ h => h.clearCore
    · exact fun _ _ h => h.joinCluster
    · exact fun _ _ h => h.refreshCore
    · exact fun _ _ h => h.restoreTeam

theorem State.canonical.serveRestore (hs : s.canonical) {id} : (s.serveRestore id).canonical := by
  unfold State.serveRestore
  dsimp only
  split
  · exact hs
  · split
    · exact hs
    · split
      · split
        · exact hs
        · exact .ite (hs.resumeTrain.dropPre.when fun h => h.spend.reportPost) hs.dropPre
      · exact .ite hs.dropPre (.ite hs (.when (.dropPre (.rejoinTeam (hs.unless fun h => h.modTeam))) fun h => h.spend.reportPost))

theorem State.canonical.saveYields (hs : s.canonical) {tr} : (s.saveYields tr).canonical := hs.foldl fun _ _ h => h.saveTeam.saveTwin

theorem State.canonical.restoreYields (hs : s.canonical) {tr} : (s.restoreYields tr).canonical := hs.foldl fun _ _ h => h.rejoinTeam

end

end Sys2Proof.Machine
end

section
/-!
SUPPORT. A train's boundary keeps the byte memories canonical (O50).
-/

namespace Sys2Proof.Machine

section
-- Each lemma waits for those it uses: side by side they would hold a thread and its stack each.
set_option Elab.async false
variable {s : State}

/-! ### Boundaries -/

theorem State.canonical.endAttempt (hs : s.canonical) {tr error page} : (s.endAttempt tr error page).canonical :=
  .ite hs.modLaunch.failReplay (.ite hs.modLaunch.replay hs.modLaunch.offer.modTrain)

theorem State.canonical.consume (hs : s.canonical) {tr page} : (s.consume tr page).canonical :=
  .endAttempt (.bumpOwner (by split; exacts [hs.unless fun h => h.poison, hs]))

theorem State.canonical.countWaitMisses (hs : s.canonical) {tr} : (s.countWaitMisses tr).canonical := hs.countMisses

theorem State.canonical.twinMismatch (hs : s.canonical) {tr} : (s.twinMismatch tr).canonical := hs.bumpOwner.endAttempt

theorem State.canonical.commitStore (hs : s.canonical) {b} : (s.commitStore b).canonical := .ite hs.compPut hs.commit

theorem State.canonical.commitStores (hs : s.canonical) {tr} : (s.commitStores tr).canonical := hs.grid.foldl fun _ _ h => h.commitStore

theorem State.canonical.pushWord (hs : s.canonical) {owner cluster ia n} : (s.pushWord owner cluster ia n).canonical :=
  .mem (hs.foldl fun _ _ h => h.homeWrite)

theorem State.canonical.rmw (hs : s.canonical) {tk scope x n f} : (s.rmw tk scope x n f).1.canonical := by
  unfold State.rmw
  extract_lets t owner ia cl old₀ old₁ s₁ old₂ s₂ bs
  split
  · exact hs.homeWrite
  · split
    · exact hs.makeOwn
    · have h₂ : s₂.canonical := hs.pushWord.homeWrite
      refine .putCores ?_
      exact .intro { h₂.inMem with cview := Memory.wf_put _ _ _ h₂.inMem.cview } h₂.inGrid

theorem State.canonical.landAtomic (hs : s.canonical) {a olds} : (s.landAtomic a olds).canonical := by
  unfold State.landAtomic
  dsimp only
  split
  · exact hs.landFor.when fun h => h.landFor
  · exact hs

theorem State.canonical.performAtomics (hs : s.canonical) {tr} : (s.performAtomics tr).canonical := by
  unfold State.performAtomics
  extract_lets acts lanes one r
  have one_canonical {a x} (h : a.1.canonical) : (one a x).1.canonical := h.rmw
  have hr : r.1.canonical := hs.foldlFst (a := (s, [])) fun _ _ h => one_canonical h
  exact hr.foldl fun _ _ h => h.landAtomic

theorem State.canonical.tellTag (hs : s.canonical) {key otag} : (s.tellTag key otag).canonical := hs.foldl fun _ _ h => h.modGroup

theorem State.canonical.phase3 (hs : s.canonical) {tr a} : (s.phase3 tr a).canonical := by
  unfold State.phase3
  dsimp only
  split
  · exact hs.when fun h => h.release
  · exact hs.unless fun h => h.release
  · exact hs.release
  · exact hs.release.offerFrom.unless fun h => h.tellTag
  · exact hs

theorem State.canonical.trigRelease (hs : s.canonical) {tr tk} : (s.trigRelease tr tk).canonical := hs.when fun h => h.pushTeam.modTrain

theorem State.canonical.releases (hs : s.canonical) {tr} : (s.releases tr).canonical :=
  hs.foldl fun _ _ h => .trigRelease (h.foldl fun _ _ h2 => h2.phase3)

theorem State.canonical.addCount (hs : s.canonical) {tr a} : (s.addCount tr a).canonical := by
  unfold State.addCount
  dsimp only
  split
  · split
    · split
      · exact hs
      · exact hs.commit
    · split
      · exact .rmw (by split; exacts [hs, hs.commit])
      · exact .homeWrite (by split; exacts [hs, hs.commit])
  · exact hs

theorem State.canonical.addCounts (hs : s.canonical) {tr} : (s.addCounts tr).canonical := hs.foldl fun _ _ h => h.addCount

theorem State.canonical.addAcquire (hs : s.canonical) {tr key due core} : (s.addAcquire tr key due core).canonical := hs

theorem State.canonical.wakeGroup (hs : s.canonical) {tr w} : (s.wakeGroup tr w).canonical := by
  unfold State.wakeGroup
  dsimp only
  split
  · split
    · exact hs.modGroup
    · exact hs.modGroup.landOwedScalar
  · exact .addAcquire (by split; exacts [hs.modGroup, hs.modGroup.landOwedScalar])

theorem State.canonical.waitsAndAcquires (hs : s.canonical) {tr} : (s.waitsAndAcquires tr).canonical := by
  unfold State.waitsAndAcquires
  extract_lets s₁ t ws ready yields acqs wide s₂ s₃ s₄ s₅
  have h₁ : s₁.canonical := hs.countWaitMisses.modTrain
  have h₂ : s₂.canonical := h₁.foldl fun _ _ h => h.wakeGroup
  have h₃ : s₃.canonical := h₂.foldl fun _ _ h => h.addAcquire
  have h₄ : s₄.canonical := h₃.foldl fun _ _ h => h.addAcquire
  have h₅ : s₅.canonical := h₄.foldl fun _ _ h => h.modTeam
  exact h₅.foldl fun _ _ h => h.refreshCluster

theorem State.canonical.markCommitted (hs : s.canonical) {tr} : (s.markCommitted tr).canonical :=
  .unless (hs.foldl fun _ _ h => h.modTeam) fun h => h.modTrain

theorem State.canonical.nextQuantum (hs : s.canonical) {tr} : (s.nextQuantum tr).canonical := hs.grid.modTrain.snapLaps

theorem State.canonical.startAlign (hs : s.canonical) {tr} : (s.startAlign tr).canonical := by
  unfold State.startAlign
  dsimp only
  split
  · exact hs
  · exact hs.setTrain hs.trainLeft

theorem State.canonical.lastBoundary (hs : s.canonical) {tr} : (s.lastBoundary tr).canonical := by
  unfold State.lastBoundary
  extract_lets t idle
  have ended : (s.setTrain tr { t with finished := true }).canonical := hs.setTrain hs.trainLeft
  exact .ite ended.modLaunch hs

theorem State.canonical.haltTrain (hs : s.canonical) {tr} : (s.haltTrain tr).canonical := hs.when fun h => h.endTrain

theorem State.canonical.serveTeamRestores (hs : s.canonical) {tr} : (s.serveTeamRestores tr).canonical :=
  hs.foldl fun _ _ h => h.serveRestore

theorem State.canonical.gather (hs : s.canonical) {tr} : (s.gather tr).canonical := hs.landHall.completeHall.boundaryLaps

theorem State.canonical.endTeam (hs : s.canonical) {tk} : (s.endTeam tk).canonical := hs.when fun h => h.modTeam

theorem State.canonical.endTeams (hs : s.canonical) {tr} : (s.endTeams tr).canonical := hs.foldl fun _ _ h => h.endTeam

theorem State.canonical.boundary (hs : s.canonical) {tr} : (s.boundary tr).canonical := by
  unfold State.boundary
  extract_lets align s₁ s₂ s₃ s₄ s₅ s₆ s₇
  have h₁ : s₁.canonical := hs.removeRevoked.vacateTrain.serveDiscards
  have h₂ : s₂.canonical := h₁.gather.markCommitted
  have h₅ : s₅.canonical := h₂.commitStores.performAtomics.releases.addCounts.moveLaps
  have h₆ : s₆.canonical := h₅.waitsAndAcquires.nextQuantum.serveTeamRestores
  have h₇ : s₇.canonical := h₆.when fun h => h.startAlign
  refine h₁.unless fun _ => .ite h₂.twinMismatch ?_
  split
  · exact h₂.consume
  · exact h₇.endTeams.saveYields.servePre

theorem State.canonical.afterBoundary (hs : s.canonical) {tr} : (s.afterBoundary tr).canonical :=
  hs.endPre.clearEnded.haltTrain.lastBoundary

theorem State.canonical.releaseAlign (hs : s.canonical) {tr} : (s.releaseAlign tr).canonical := by
  unfold State.releaseAlign
  dsimp only
  split
  · exact hs
  · exact .modTrain (hs.grid.foldl fun _ _ h => by split; exacts [.ite h.endTalign h.modTeam, h])

end

end Sys2Proof.Machine
end

section
/-!
SUPPORT. System registers, the aperture, the queues, the schedule and the events keep the byte memories canonical (O50).
-/

namespace Sys2Proof.Machine

section
-- Each lemma waits for those it uses: side by side they would hold a thread and its stack each.
set_option Elab.async false
variable {s : State}

/-! ### System registers -/

theorem State.canonical.dropAsks (hs : s.canonical) {tr} : (s.dropAsks tr).canonical := hs.modTrain.fw

theorem State.canonical.answerEnd (hs : s.canonical) {a} : (s.answerEnd a).canonical := hs.dropAsks.endTrain

theorem State.canonical.settleAsk (hs : s.canonical) {a} : (s.settleAsk a).canonical := hs.modTrain.fw

theorem State.canonical.answerResume (hs : s.canonical) {a} : (s.answerResume a).canonical := by
  unfold State.answerResume
  dsimp only
  split
  · exact hs.answerEnd
  · split
    · exact hs.settleAsk.modTeam
    · exact hs.settleAsk.foldl fun _ _ h => h.modGroup

theorem State.canonical.answerEndIx (hs : s.canonical) {ix} : (s.answerEndIx ix).canonical := by
  unfold State.answerEndIx
  split
  · exact hs
  · exact hs.answerEnd

theorem State.canonical.answerResumeIx (hs : s.canonical) {ix} : (s.answerResumeIx ix).canonical := by
  unfold State.answerResumeIx
  split
  · exact hs
  · exact hs.answerResume

theorem State.canonical.writeFans (hs : s.canonical) {v} : (s.writeFans v).canonical := .ite hs.answerEndIx hs.answerResumeIx

theorem State.canonical.requestRestores (hs : s.canonical) {owner} : (s.requestRestores owner).canonical := hs

theorem State.canonical.keepClusters (hs : s.canonical) {owner removed} : (s.keepClusters owner removed).canonical :=
  hs.fw.requestRestores

theorem State.canonical.writeHpol (hs : s.canonical) {owner v} : (s.writeHpol owner v).canonical := by
  unfold State.writeHpol
  extract_lets cl removed x back _ _ s₁ s₂ s₃
  have h₁ : s₁.canonical := hs
  have h₂ : s₂.canonical := h₁.assignBank
  have h₃ : s₃.canonical := h₂.unless fun h => h.keepClusters
  exact hs.unless fun _ => h₃.unless fun h => h.vacate

theorem State.canonical.scrubCluster (hs : s.canonical) {k} : (s.scrubCluster k).canonical := by
  unfold State.scrubCluster
  extract_lets m s₁
  have h₁ : s₁.canonical := .intro { hs.inMem with
    cview := Sp.wf_clear _ _ _ _ hs.inMem.cview
    pview := Sp.wf_clear _ _ _ _ hs.inMem.pview } hs.inGrid
  exact h₁.foldl fun _ _ h => h.clearCore.modCore

theorem Train.without_left (t : Train) (mask : W64) : (t.without mask).left = t.left := by
  unfold Train.without
  dsimp only
  split <;> rfl

theorem State.canonical.completeRemoval (hs : s.canonical) {owner} : (s.completeRemoval owner).canonical := by
  refine .ite hs (.requestRestores (.assignBank (.fw (.sys
    ((hs.foldl fun _ _ h => h.pushCluster.scrubCluster).mapTrains fun p => ?_)))))
  dsimp only
  split
  · exact Train.without_left _ _
  · rfl

theorem State.canonical.writeSlotTab (hs : s.canonical) {i v} : (s.writeSlotTab i v).canonical := hs.unless fun h => h.pod

theorem State.canonical.writeReg (hs : s.canonical) {k n v} : (s.writeReg k n v).canonical := by
  refine .ite hs.fw.flushPosts ?_
  refine .ite hs.writeFans ?_
  refine .ite hs.modCmdCore ?_
  refine .ite hs.modCmdCore ?_
  refine .ite (.ite hs.modCmdCore hs.modCmdCore) ?_
  refine .ite hs.writeLmgt ?_
  refine .ite hs.pod ?_
  refine .ite hs.writeSlotTab ?_
  refine .ite hs.writeHpol ?_
  exact .ite hs.pod hs

/-! ### The aperture -/

theorem State.canonical.dark (hs : s.canonical) : s.dark.canonical :=
  .intro ⟨hs.inMem.home, hs.inMem.comp, Sp.wf_nil 0, Sp.wf_nil 0, Sp.wf_nil 0, List.forall_mem_nil _⟩
    ⟨Sp.wf_nil 0, Sp.wf_nil 0, List.forall_mem_nil _⟩

theorem State.canonical.loseMemory (hs : s.canonical) : s.loseMemory.canonical :=
  hs.setMem fun h => { h with home := Sp.wf_filter _ _ _ h.home }

theorem State.canonical.powerRemove (hs : s.canonical) : s.powerRemove.canonical := hs.loseMemory.dark

theorem State.canonical.powerOn (hs : s.canonical) : s.powerOn.canonical := hs.when fun h => h.dark.sys

theorem State.canonical.releaseCores (hs : s.canonical) : s.releaseCores.canonical := hs.foldl fun _ _ h => h.setGroup.setCmdCore

theorem State.canonical.bootGo (hs : s.canonical) : s.bootGo.canonical := hs.when fun h => h.sys

theorem State.canonical.verifyImage (hs : s.canonical) : s.verifyImage.canonical := by
  unfold State.verifyImage
  extract_lets _ s₁
  have h₁ : s₁.canonical := hs.sys
  exact .ite h₁.sys h₁.failBoot

theorem State.canonical.measureImage (hs : s.canonical) : s.measureImage.canonical := hs

theorem State.canonical.releaseResets (hs : s.canonical) : s.releaseResets.canonical := hs.putComp.sys

theorem State.canonical.releaseImage (hs : s.canonical) : s.releaseImage.canonical := hs.releaseResets.sys.releaseCores

theorem State.canonical.bootStage (hs : s.canonical) : s.bootStage.canonical := by
  unfold State.bootStage
  split
  · exact hs
  · exact hs.verifyImage
  · exact hs.measureImage
  · exact hs.releaseImage
  · exact hs

theorem State.canonical.trained (hs : s.canonical) {fail} : (s.trained fail).canonical :=
  hs.unless fun h => by split; exacts [h.when fun h2 => h2.failBoot, h.sys.when fun h2 => h2.failJoin]

theorem State.canonical.attest (hs : s.canonical) : s.attest.canonical := hs.unless fun h => h.sys

theorem State.canonical.finishReport (hs : s.canonical) : s.finishReport.canonical := hs.unless fun h => h.sys

theorem State.canonical.programFuse (hs : s.canonical) : s.programFuse.canonical := hs.unless fun h => .ite h h

theorem State.canonical.fuseDone (hs : s.canonical) {failed} : (s.fuseDone failed).canonical := hs.when fun h => h.sys

theorem State.canonical.portRead (hs : s.canonical) {n} : (s.portRead n).canonical := hs

theorem State.canonical.portWrite (hs : s.canonical) {n} : (s.portWrite n).canonical := .sys (hs.when fun h => h.writeReg)

theorem State.canonical.aperWrite (hs : s.canonical) {offset v} : (s.aperWrite offset v).canonical := by
  unfold State.aperWrite
  dsimp only
  refine .ite hs (.ite (.ite ?_ ?_) ?_)
  · exact .bootGo (hs.when fun h => h.attest)
  · exact hs.when fun h => h.attest
  refine .ite (.ite hs hs) (.ite (.ite hs hs) (.ite (.ite hs hs) (.ite (.ite hs hs) (.ite ?_ (.ite hs (.ite (.ite hs hs) ?_))))))
  · exact .ite hs (.ite hs.portRead hs.portWrite)
  · exact .ite hs (.ite (.ite hs.putPriv hs) (.ite hs (.ite hs (.ite (.ite hs.programFuse hs) hs))))

theorem State.canonical.companionRead (hs : s.canonical) {owner a n} : (s.companionRead owner a n).canonical :=
  hs.unless fun h => .ite h h.countMisses.mem.sys

theorem State.canonical.companionWrite (hs : s.canonical) {owner a bs} : (s.companionWrite owner a bs).canonical :=
  .ite hs (.ite (.ite hs.putPriv hs) hs.homeWrite)

theorem State.canonical.trip (hs : s.canonical) {cause} : (s.trip cause).canonical := hs.when fun h => h.haltPackage

theorem State.canonical.governor (hs : s.canonical) {power draws} : (s.governor power draws).canonical := by
  unfold State.governor
  split
  · exact hs.mapTrains fun _ => rfl
  · dsimp only
    split
    · exact hs
    · exact hs.modTrain

/-! ### The queue -/

theorem State.canonical.mapQueue (hs : s.canonical) {q x} : (s.mapQueue q x).canonical :=
  .ite hs.setQueue.queueError (.ite hs.setQueue.queueError (.ite hs.setQueue.setQueue hs.setQueue.setQueue))

theorem State.canonical.queueMap (hs : s.canonical) {q x} : (s.queueMap q x).canonical := hs.when fun h => h.mapQueue

theorem State.canonical.queueRemap (hs : s.canonical) {q} : (s.queueRemap q).canonical :=
  hs.unless fun h => .ite h.mapQueue h.homePut.mapQueue

theorem State.canonical.advanceQueue (hs : s.canonical) {q} : (s.advanceQueue q).canonical := hs.homePut.fw.setQueue

theorem State.canonical.takeEntry (hs : s.canonical) {q kind} {effect : State → State} (he : (effect s).canonical) :
    (s.takeEntry q kind effect).canonical :=
  .ite hs (.ite hs.queueError he.advanceQueue)

theorem State.canonical.launchEntry (hs : s.canonical) {q} : (s.launchEntry q).canonical := .ite hs.enrol hs.fw.spend.offer

theorem State.canonical.addEntry (hs : s.canonical) {q} : (s.addEntry q).canonical := hs.fw.flushAdds

theorem State.canonical.setPolicy (hs : s.canonical) {owner p} : (s.setPolicy owner p).canonical := hs

theorem State.canonical.runDry (hs : s.canonical) {owner b} : (s.runDry owner b).canonical :=
  .foldl (hs.setPolicy.foldl fun _ _ h => h.when fun h2 => h2.setQueue) fun _ _ h => h.unless fun h2 => h2.requestPre

theorem State.canonical.requestReturns (hs : s.canonical) {owner b} : (s.requestReturns owner b).canonical := hs

theorem State.canonical.levelActs (hs : s.canonical) {owner b} : (s.levelActs owner b).canonical :=
  .ite hs.runDry (hs.unless fun h => .requestReturns (h.setPolicy.foldl fun _ _ h2 => h2.mapQueue))

theorem State.canonical.writePolicy (hs : s.canonical) {owner p} : (s.writePolicy owner p).canonical :=
  hs.setPolicy.foldl fun _ _ h => h.levelActs

theorem State.canonical.charge (hs : s.canonical) {tr} : (s.charge tr).canonical :=
  hs.unless fun h => h.setPolicy.when fun h2 => h2.runDry

theorem State.canonical.refillOne (hs : s.canonical) {owner b} : (s.refillOne owner b).canonical := hs.setPolicy.levelActs

theorem State.canonical.refill (hs : s.canonical) : s.refill.canonical :=
  hs.unless fun h => h.fw.foldl fun _ _ h2 => h2.foldl fun _ _ h3 => h3.refillOne

theorem State.canonical.watchdog (hs : s.canonical) {tr tk} : (s.watchdog tr tk).canonical := hs.unless fun h => h.modTeam.plainPost

/-! ### System operations -/

theorem State.canonical.contextSave (hs : s.canonical) {force handle image deadline} :
    (s.contextSave force handle image deadline).1.canonical := by
  unfold State.contextSave
  split
  · exact hs
  · extract_lets whole areas
    rw [apply_ite Prod.fst]
    exact .ite hs hs.requestPre

theorem State.canonical.contextLoad (hs : s.canonical) {image where_} : (s.contextLoad image where_).1.canonical := by
  unfold State.contextLoad
  extract_lets want
  split
  · exact hs
  · rw [apply_ite Prod.fst]
    exact .ite hs hs

theorem State.canonical.leaseOp (hs : s.canonical) {op a} : (s.leaseOp op a).1.canonical := by
  unfold State.leaseOp
  split
  · exact hs
  · split
    · exact hs.requestGrant
    · exact hs.endLease
    · exact hs.requestRevoke
    · exact hs

theorem State.canonical.leaseInstr (hs : s.canonical) {op h dst sa} : GivesCanonical (leaseInstr op h dst sa s) :=
  hs.attempt (.ite hs.leaseOp.landScalar hs)

theorem State.canonical.execWdog (hs : s.canonical) {h sa sb} : GivesCanonical (execWdog h sa sb s) := by
  refine hs.attempt ?_
  exact hs.unless fun h => by split; exacts [h, h.modTeam]

/-! ### The schedule -/

theorem State.canonical.setIssue (hs : s.canonical) {k x} : (s.setIssue k x).canonical := hs

theorem State.canonical.fetched (hs : s.canonical) {word len} : (s.fetched word len).canonical := hs.cur.modGroup

theorem State.canonical.retire (hs : s.canonical) {free} : (s.retire free).canonical := hs.setIssue.modTeam

theorem State.canonical.issued (hs : s.canonical) {d last} : (s.issued d last).canonical :=
  .ite hs.setIssue.modGroup (.ite hs.retire hs.setIssue)

theorem State.canonical.dropIssue (hs : s.canonical) {slot} : (s.dropIssue slot).canonical := hs.setIssue

theorem State.canonical.takeCheck (hs : s.canonical) {slot} : (s.takeCheck slot).canonical := by
  unfold State.takeCheck
  dsimp only
  split
  · exact hs
  · exact hs.cur.modGroup.raise.issued.cur

theorem State.canonical.decideSlot (hs : s.canonical) {tr core quad slot} : (s.decideSlot tr core quad slot).canonical := by
  refine hs.unless fun h => ?_
  split
  · exact h.grid.setIssue
  · extract_lets mine cands fresh s₁ pool role
    have h₁ : s₁.canonical := h.when fun h => h.foldl fun _ _ h => h.modGroup
    split
    · exact h
    · exact h₁.modGroup.setIssue.modCore

theorem State.canonical.decide (hs : s.canonical) {tr} : (s.decide tr).canonical :=
  hs.foldl fun _ _ h => h.foldl fun _ _ h2 => h2.decideSlot.decideSlot

theorem State.canonical.endByFault (hs : s.canonical) {tr r} : (s.endByFault tr r).canonical :=
  hs.unless fun h => .ite h.stopTeam h.teamFault

theorem State.canonical.toScheduler (hs : s.canonical) {tr r} : (s.toScheduler tr r).canonical := hs.modGroup.unless fun h => h.post

theorem State.canonical.recordFault (hs : s.canonical) {tr r handled} : (s.recordFault tr r handled).canonical :=
  hs.unless fun h => .ite h.post (.ite h.toScheduler (h.unless fun h2 => h2.enterHandler))

theorem State.canonical.settleFaults (hs : s.canonical) {tr} : (s.settleFaults tr).canonical := by
  unfold State.settleFaults
  dsimp only
  split
  · exact hs.spend.modTrain.grid.twinMismatch
  · exact .foldl (hs.spend.modTrain.grid.foldl fun _ _ h => h.endByFault) fun _ _ h => h.recordFault

theorem State.canonical.placeOne (hs : s.canonical) {tr} : (s.placeOne tr).canonical := by
  refine hs.unless fun h => ?_
  dsimp only
  split
  · exact h.placeNext
  · split
    · exact h
    · exact .modTrain (h.placeTeam.when fun h => h.placeTeam)

theorem State.canonical.reportOverrun (hs : s.canonical) {tr} : (s.reportOverrun tr).canonical :=
  hs.when fun h => h.modTrain.note.wakeLevel

theorem State.canonical.pruneCmds (hs : s.canonical) {tr} : (s.pruneCmds tr).canonical := hs

theorem State.canonical.advanceTrain (hs : s.canonical) {tr} : (s.advanceTrain tr).canonical :=
  hs.unless fun h => .ite h.modTrain (.unless (h.when fun h2 => h2.afterBoundary.modTrain) fun h2 => h2.decide.pruneCmds.charge.modTrain)

theorem State.canonical.advanceIdle (hs : s.canonical) : s.advanceIdle.canonical := hs.unless fun h => h.foldl fun _ _ h2 => h2.grid

theorem State.canonical.advance (hs : s.canonical) : s.advance.canonical := by
  unfold State.advance
  extract_lets s₁ _ s₂ s₃ s₄ s₅
  have h₁ : s₁.canonical := (hs.advanceIdle.foldl fun _ _ h => h.extendTrain).foldl fun _ _ h => h.advanceTrain
  clear_value s₁
  have h₂ : s₂.canonical := .ite h₁ h₁
  have h₃ : s₃.canonical := h₂.finishReport.bootStage
  have h₄ : s₄.canonical := h₃.flushPosts.flushAdds
  clear_value s₄
  have h₅ : s₅.canonical := h₄.time
  exact h₅.joinListened

theorem State.canonical.pollRecord (hs : s.canonical) {k} : (s.pollRecord k).canonical := by
  unfold State.pollRecord
  dsimp only
  split
  · exact hs.unless fun h => h.cur.land.modGroup.cur
  · exact hs

/-! ### Events -/

theorem State.canonical.execContextRestore (hs : s.canonical) {req} : GivesCanonical (execContextRestore req s) := by
  unfold Machine.execContextRestore
  split
  · exact hs.when fun h => h.serveRestore
  · exact hs

theorem State.canonical.execLoopTokenArrival (hs : s.canonical) {pos tokenBc malformed} :
    GivesCanonical (execLoopTokenArrival pos tokenBc malformed s) :=
  hs.tokenArrival

theorem State.canonical.execQueueMap (hs : s.canonical) {slot qcb prio rclass owner} :
    GivesCanonical (execQueueMap slot qcb prio rclass owner s) :=
  hs.queueMap

theorem State.canonical.execLeaseGrantComplete (hs : s.canonical) {desc} : GivesCanonical (execLeaseGrantComplete desc s) := by
  unfold Machine.execLeaseGrantComplete
  split
  · exact hs.completeGrant
  · exact hs

theorem State.canonical.execRevokeUnpin (hs : s.canonical) {desc} : GivesCanonical (execRevokeUnpin desc s) := by
  unfold Machine.execRevokeUnpin
  split
  · exact hs.completeRevoke
  · exact hs

theorem State.canonical.execRemoteLeaseRequest (hs : s.canonical) {page count owner kind cls holder} :
    GivesCanonical (execRemoteLeaseRequest page count owner kind cls holder s) :=
  hs.requestRemote

theorem State.canonical.execCompanionWrite (hs : s.canonical) {owner addr data} :
    GivesCanonical (execCompanionWrite owner addr data s) :=
  hs.companionWrite

/-! ### Scalars -/

theorem State.canonical.scalar2 (hs : s.canonical) {h o lat f} : GivesCanonical (scalar2 h o lat f s) := hs.attempt hs.landScalar

theorem State.canonical.scalar1 (hs : s.canonical) {h o f} : GivesCanonical (scalar1 h o f s) := hs.attempt hs.landScalar

end

end Sys2Proof.Machine
end

section
/-!
SUPPORT. Every instruction, every issue and every step keep the byte memories canonical (O50).
-/

namespace Sys2Proof.Machine

section
-- Each lemma waits for those it uses: side by side they would hold a thread and its stack each.
set_option Elab.async false
variable {s : State}

/-! ### Every instruction -/

theorem State.canonical.execMad (hs : s.canonical) {h o} : GivesCanonical (execMad h o s) := hs.attempt hs.landScalar

theorem State.canonical.execCmp (hs : s.canonical) {h cc o} : GivesCanonical (execCmp h cc o s) := hs.attempt hs.later

theorem State.canonical.execMovi (hs : s.canonical) {h dst x} : GivesCanonical (execMovi h dst x s) := hs.attempt hs.landScalar

theorem State.canonical.execImad (hs : s.canonical) {h o} : GivesCanonical (execImad h o s) := hs.attempt hs.landVec

theorem State.canonical.execIcmp (hs : s.canonical) {h cc el o} : GivesCanonical (execIcmp h cc el o s) := hs.attempt hs.landMask

theorem State.canonical.execIsel (hs : s.canonical) {h sm sn o} : GivesCanonical (execIsel h sm sn o s) := hs.attempt hs.landVec

theorem State.canonical.execImov (hs : s.canonical) {h dst x} : GivesCanonical (execImov h dst x s) := hs.attempt hs.landVec

theorem State.canonical.execImovi (hs : s.canonical) {h dst x} : GivesCanonical (execImovi h dst x s) := hs.attempt hs.landVec

theorem State.canonical.execMpop (hs : s.canonical) {h dst sa} : GivesCanonical (execMpop h dst sa s) := hs.attempt hs.landLaneScalar

theorem State.canonical.execFcmp (hs : s.canonical) {h cc o} : GivesCanonical (execFcmp h cc o s) := hs.attempt hs.landMask.landFlags

theorem State.canonical.execQamax (hs : s.canonical) {h sub8 dst sa} : GivesCanonical (execQamax h sub8 dst sa s) := hs.attempt hs.landVec

theorem State.canonical.execQscale (hs : s.canonical) {h dst sa sb} : GivesCanonical (execQscale h dst sa sb s) := by
  unfold Machine.execQscale
  exact hs.attempt hs.landFloat

theorem State.canonical.execQpack (hs : s.canonical) {h part eot o} : GivesCanonical (execQpack h part eot o s) := by
  unfold Machine.execQpack
  exact hs.attempt (hs.later.landFlags.when fun h => h.later)

theorem State.canonical.execQunpack (hs : s.canonical) {h qf part o} : GivesCanonical (execQunpack h qf part o s) := by
  unfold Machine.execQunpack
  exact hs.attempt hs.landFloat

theorem State.canonical.execPushl (hs : s.canonical) {h dst sa sb} : GivesCanonical (execPushl h dst sa sb s) := hs.attempt hs.later

theorem State.canonical.execGetln (hs : s.canonical) {h dst sa b} : GivesCanonical (execGetln h dst sa b s) :=
  hs.attempt hs.landLaneScalar

theorem State.canonical.execSetln (hs : s.canonical) {h dst sa b} : GivesCanonical (execSetln h dst sa b s) := hs.attempt hs.later

theorem State.canonical.execRed (hs : s.canonical) {h opk rm dst sa} : GivesCanonical (execRed h opk rm dst sa s) :=
  hs.attempt hs.landLaneScalar.landFlags

theorem State.canonical.execScan (hs : s.canonical) {h opk rm exc dst sa} : GivesCanonical (execScan h opk rm exc dst sa s) :=
  hs.attempt hs.later.landFlags

theorem State.canonical.execVote (hs : s.canonical) {h pk seg dst x} : GivesCanonical (execVote h pk seg dst x s) :=
  hs.attempt hs.landLaneScalar

theorem State.canonical.execFdiv (hs : s.canonical) {h o} : GivesCanonical (execFdiv h o s) := by
  unfold Machine.execFdiv
  exact hs.attempt hs.enterSfu

theorem State.canonical.execLdp (hs : s.canonical) {h dst sx a} : GivesCanonical (execLdp h dst sx a s) := by
  unfold Machine.execLdp
  exact hs.attempt hs.landData

theorem State.canonical.execStp (hs : s.canonical) {h dst a} : GivesCanonical (execStp h dst a s) := by
  unfold Machine.execStp
  exact hs.attempt hs

theorem State.canonical.execYield (hs : s.canonical) {h o} : GivesCanonical (execYield h o s) := hs.attempt (hs.when fun h => h.block)

theorem State.canonical.execDld (hs : s.canonical) {h dst sa imm} : GivesCanonical (execDld h dst sa imm s) := by
  unfold Machine.execDld
  exact hs.attempt hs.landScalar

theorem State.canonical.execDrec (hs : s.canonical) {h o} : GivesCanonical (execDrec h o s) := by
  unfold Machine.execDrec
  refine hs.attempt ?_
  exact hs.unless fun h => .ite (h.drecCommand fun _ h2 => h2) h.drecAct

theorem State.canonical.execDrecWait (hs : s.canonical) {h dst o} : GivesCanonical (execDrecWait h dst o s) := by
  unfold Machine.execDrecWait
  refine hs.attempt ?_
  exact hs.unless fun h => .ite (h.drecCommand fun _ h2 => h2.block) h.drecAct.owe.block

theorem State.canonical.execDwait (hs : s.canonical) {h b} : GivesCanonical (execDwait h b s) := by
  unfold Machine.execDwait
  refine hs.attempt ?_
  exact hs.unless fun h => .ite (h.when fun h2 => h2.retry) h.block

theorem State.canonical.execBra (hs : s.canonical) {h t} : GivesCanonical (execBra h t s) := hs.attempt (hs.when fun h => h.jump)

theorem State.canonical.execBrc (hs : s.canonical) {h cn neg t} : GivesCanonical (execBrc h cn neg t s) :=
  hs.attempt (hs.when fun h => h.jump)

theorem State.canonical.execBrd (hs : s.canonical) {h m neg tgt rcv} : GivesCanonical (execBrd h m neg tgt rcv s) := by
  unfold Machine.execBrd
  refine hs.attempt ?_
  exact hs.unless fun h => .ite h.jump (.alternate (.diverge (h.when fun h2 => h2.pushSlot)))

theorem State.canonical.execJoin (hs : s.canonical) {h} : GivesCanonical (execJoin h s) := by
  unfold Machine.execJoin
  refine hs.attempt ?_
  exact hs.unless fun h => h.modGroup.when fun h2 => h2.merge.alternate

theorem State.canonical.execCall (hs : s.canonical) {h dst t} : GivesCanonical (execCall h dst t s) :=
  hs.attempt (hs.landScalar.when fun h => h.jump)

theorem State.canonical.execRet (hs : s.canonical) {h sa} : GivesCanonical (execRet h sa s) := hs.attempt (hs.when fun h => h.jump)

theorem State.canonical.execLoop (hs : s.canonical) {h dst t} : GivesCanonical (execLoop h dst t s) :=
  hs.attempt (hs.landScalar.when fun h => h.jump)

theorem State.canonical.execNop (hs : s.canonical) {_h _len} : GivesCanonical (execNop _h _len s) := hs.attempt hs

theorem State.canonical.execBar (hs : s.canonical) {h n} : GivesCanonical (execBar h n s) :=
  hs.attempt (hs.when fun h => h.modGroup.settleBarrier)

theorem State.canonical.execSetfmt (hs : s.canonical) {h fsel x} : GivesCanonical (execSetfmt h fsel x s) :=
  hs.attempt (hs.when fun h => h.later)

theorem State.canonical.execSetfmtStatus (hs : s.canonical) {h x} : GivesCanonical (execSetfmtStatus h x s) :=
  hs.attempt (hs.when fun h => h.later)

theorem State.canonical.execGetfmt (hs : s.canonical) {h dst} : GivesCanonical (execGetfmt h dst s) := hs.attempt hs.landScalar

theorem State.canonical.execTbase (hs : s.canonical) {h sa imm} : GivesCanonical (execTbase h sa imm s) :=
  hs.attempt (hs.when fun h => h.later)

theorem State.canonical.execTwait (hs : s.canonical) {h o} : GivesCanonical (execTwait h o s) := hs.attempt (hs.when fun h => h.block)

theorem State.canonical.execTalign (hs : s.canonical) {h dst sa sb} : GivesCanonical (execTalign h dst sa sb s) := by
  unfold Machine.execTalign
  refine hs.attempt ?_
  exact hs.unless fun h => .ite h.alignFaults h.owe.block.modTrain

theorem State.canonical.execTvec (hs : s.canonical) {h x} : GivesCanonical (execTvec h x s) := hs.attempt (hs.when fun h => h.later)

theorem State.canonical.execTclaim (hs : s.canonical) {h dst mask} : GivesCanonical (execTclaim h dst mask s) := hs.immediate hs.later

theorem State.canonical.execTrel (hs : s.canonical) {h mask} : GivesCanonical (execTrel h mask s) := hs.immediate hs.later

theorem State.canonical.execCbatch (hs : s.canonical) {h dst} : GivesCanonical (execCbatch h dst s) := hs.immediate hs.landScalar.modTeam

theorem State.canonical.execCwait (hs : s.canonical) {h sa} : GivesCanonical (execCwait h sa s) := by
  unfold Machine.execCwait
  exact hs.immediate hs.block

theorem State.canonical.execLap (hs : s.canonical) {h dst sa sb eng} : GivesCanonical (execLap h dst sa sb eng s) := by
  unfold Machine.execLap
  exact hs.immediate hs.grid.act.owe

theorem State.canonical.execLapRel (hs : s.canonical) {h dst sa} : GivesCanonical (execLapRel h dst sa s) := hs.immediate hs.act.owe

theorem State.canonical.execLapq (hs : s.canonical) {h dst sa} : GivesCanonical (execLapq h dst sa s) := hs.immediate hs.landScalar

theorem State.canonical.execSysr (hs : s.canonical) {h dst srn} : GivesCanonical (execSysr h dst srn s) := hs.attempt hs.landScalar

theorem State.canonical.execSysw (hs : s.canonical) {h sa srn} : GivesCanonical (execSysw h sa srn s) :=
  hs.attempt (hs.when fun h => h.writeReg)

theorem State.canonical.execTret (hs : s.canonical) {h} : GivesCanonical (execTret h s) := by
  unfold Machine.execTret
  refine hs.attempt ?_
  exact hs.unless fun h => .ite h.jump.modCmdCore h.jump.modGroup.alternate

theorem State.canonical.execTrim (hs : s.canonical) {h x} : GivesCanonical (execTrim h x s) := hs.attempt (hs.when fun h => h.pod)

theorem State.canonical.execCtxsv (hs : s.canonical) {h force dst sa sb sc} : GivesCanonical (execCtxsv h force dst sa sb sc s) :=
  hs.attempt (.ite hs.contextSave.landScalar hs)

theorem State.canonical.execCtxld (hs : s.canonical) {h dst sa sb} : GivesCanonical (execCtxld h dst sa sb s) :=
  hs.attempt (.ite hs.contextLoad.landScalar hs)

theorem State.canonical.execPown (hs : s.canonical) {h dst sa sb} : GivesCanonical (execPown h dst sa sb s) :=
  hs.attempt (.ite hs.setOwner.landScalar hs)

theorem State.canonical.execHaltWait (hs : s.canonical) {h} : GivesCanonical (execHaltWait h s) :=
  hs.attempt (hs.when fun h => h.modCmdCore)

theorem State.canonical.execHaltPkg (hs : s.canonical) {h} : GivesCanonical (execHaltPkg h s) :=
  hs.attempt (hs.when fun h => h.haltPackage)

theorem State.canonical.execCheckFaultTaken (hs : s.canonical) {slot} : GivesCanonical (execCheckFaultTaken slot s) :=
  hs.when fun h => h.takeCheck

theorem State.canonical.execAlignmentRelease (hs : s.canonical) {tr} : GivesCanonical (execAlignmentRelease tr s) :=
  hs.when fun h => h.releaseAlign

theorem State.canonical.execQuantumBoundary (hs : s.canonical) {tr} : GivesCanonical (execQuantumBoundary tr s) :=
  hs.when fun h => h.boundary

theorem State.canonical.execErrorConsumption (hs : s.canonical) {tr page} : GivesCanonical (execErrorConsumption tr page s) :=
  hs.when fun h => h.consume

theorem State.canonical.execGovernorCheck (hs : s.canonical) {power draws} : GivesCanonical (execGovernorCheck power draws s) :=
  hs.when fun h => h.governor

theorem State.canonical.execYieldRestore (hs : s.canonical) {tr} : GivesCanonical (execYieldRestore tr s) :=
  hs.when fun h => h.restoreYields

theorem State.canonical.execQueueLaunchEntry (hs : s.canonical) {slot} : GivesCanonical (execQueueLaunchEntry slot s) :=
  hs.takeEntry hs.launchEntry

theorem State.canonical.execQueueWaitEntry (hs : s.canonical) {slot} : GivesCanonical (execQueueWaitEntry slot s) := hs.takeEntry hs

theorem State.canonical.execQueueAddEntry (hs : s.canonical) {slot} : GivesCanonical (execQueueAddEntry slot s) :=
  hs.takeEntry hs.addEntry

theorem State.canonical.execQueueNopEntry (hs : s.canonical) {slot} : GivesCanonical (execQueueNopEntry slot s) := hs.takeEntry hs

theorem State.canonical.execLaunchStart (hs : s.canonical) {launch} : GivesCanonical (execLaunchStart launch s) :=
  hs.unless fun h => h.startLaunch

theorem State.canonical.execLaunchEnd (hs : s.canonical) {tr} : GivesCanonical (execLaunchEnd tr s) := hs.when fun h => h.endLaunch

theorem State.canonical.execScrubPass (hs : s.canonical) {corrected poisoned} : GivesCanonical (execScrubPass corrected poisoned s) :=
  State.canonical.foldl (hs.foldl fun _ _ h => h.bumpOwner) fun _ _ h => h.poison

theorem State.canonical.execThermalPause (hs : s.canonical) : GivesCanonical (execThermalPause s) := hs.when fun h => h.sys

theorem State.canonical.execThermalResume (hs : s.canonical) : GivesCanonical (execThermalResume s) := hs

theorem State.canonical.exec (hs : s.canonical) {i} : GivesCanonical (exec i s) := by
  unfold Machine.exec
  cases i with
  | add | sub | mul | mulh | mulhu | and | or | xor | andn | shl | shr | sra | rol | min | max | minu | maxu | sel | bfi | lea
  | divu | remu => exact hs.scalar2
  | mad => exact hs.execMad
  | cmp => exact hs.execCmp
  | mov | clz | ctz | popc | brev | bfx | bfxu => exact hs.scalar1
  | movi => exact hs.execMovi
  | iadd | isub | imul | imulh | iabsd | imin | imax | iminu | imaxu | iadds | isubs | ishl | ishr | isra => exact hs.elems2
  | imad => exact hs.execImad
  | iabs | ipopc | iclz | ibrev => exact hs.elems1
  | imaxb => exact hs.execImaxb
  | iand | ior | ixor | ibfi => exact hs.lanes2
  | inot | ibfx => exact hs.lanes1
  | icmp => exact hs.execIcmp
  | isel => exact hs.execIsel
  | imov => exact hs.execImov
  | imovi => exact hs.execImovi
  | mand | mor | mxor => exact hs.masks2
  | mpop => exact hs.execMpop
  | fadd | fsub | fmul => exact hs.arith2
  | fma | fabs | frnd | fcvt | fcvtToF32 | fcvti | icvtf | fclass | fscale | fdot2 => exact hs.floatOp
  | fmin | fmax => exact hs.minMaxOp
  | fcmp => exact hs.execFcmp
  | fadd2 | fmul2 => exact hs.arithPair
  | fma2 => exact hs.pairOp
  | qamax => exact hs.execQamax
  | qscale => exact hs.execQscale
  | qpack => exact hs.execQpack
  | qunpack => exact hs.execQunpack
  | shfl | shflImm | shflx | bcast => exact hs.laneGather
  | pushl => exact hs.execPushl
  | getln => exact hs.execGetln
  | setln => exact hs.execSetln
  | red => exact hs.execRed
  | scan => exact hs.execScan
  | vote => exact hs.execVote
  | frcp | frsq | fsqrt | fexp2 | flog2 | fsin | fcos | ftanh => exact hs.sfuOp
  | fdiv => exact hs.execFdiv
  | ldp => exact hs.execLdp
  | stp => exact hs.execStp
  | ldg => exact hs.execLdg
  | stg => exact hs.execStg
  | aadd | aand | aor | axor | amin | amax | aminu | amaxu | aexch | acas | afadd | ainc => exact hs.atomic
  | fenceAcq | fenceRel | fenceAr => exact hs.fence
  | waitc => exact hs.execWaitc
  | cntadd => exact hs.execCntadd
  | yield => exact hs.execYield
  | dld => exact hs.execDld
  | drec => exact hs.execDrec
  | drecWait => exact hs.execDrecWait
  | dwait => exact hs.execDwait
  | bra => exact hs.execBra
  | brc => exact hs.execBrc
  | brd => exact hs.execBrd
  | join => exact hs.execJoin
  | call => exact hs.execCall
  | ret => exact hs.execRet
  | loop => exact hs.execLoop
  | exit => exact hs.execExit
  | nop => exact hs.execNop
  | bar => exact hs.execBar
  | trig => exact hs.execTrig
  | setfmt => exact hs.execSetfmt
  | setfmtStatus => exact hs.execSetfmtStatus
  | getfmt => exact hs.execGetfmt
  | tbase => exact hs.execTbase
  | twait => exact hs.execTwait
  | talign => exact hs.execTalign
  | trap | brk => exact hs.trapping
  | tvec => exact hs.execTvec
  | mma | mmas => exact hs.matrix
  | tclaim => exact hs.execTclaim
  | trel => exact hs.execTrel
  | tfill | accz | accrd | accwr | cpyr | esp | lrecv => exact hs.command
  | cpy | cpyk => exact hs.copy
  | cbatch => exact hs.execCbatch
  | cwait => exact hs.execCwait
  | lsend | lred | lmcast => exact hs.send
  | lput | lputAtomic | lget => exact hs.hall
  | lap => exact hs.execLap
  | lapRel => exact hs.execLapRel
  | lapq => exact hs.execLapq
  | sysr => exact hs.execSysr
  | sysw => exact hs.execSysw
  | tret => exact hs.execTret
  | trim => exact hs.execTrim
  | ctxsv => exact hs.execCtxsv
  | ctxld => exact hs.execCtxld
  | leaseGrant | leaseRelease | leaseRevoke => exact hs.leaseInstr
  | pown => exact hs.execPown
  | wdog => exact hs.execWdog
  | haltWait => exact hs.execHaltWait
  | haltPkg => exact hs.execHaltPkg
  | lateEventClear => exact hs.modTrain
  | registerLanding => exact hs.landRegisters
  | poolWriteLanding => exact hs.landStps
  | sfuEntryStart => exact hs.startSfu
  | columnEntryStart => exact hs.startColumns
  | matrixKstep => exact hs.stepMatrices
  | engineOutputLanding => exact hs.landOuts
  | lredReceive => exact hs.receiveReds
  | checkFaultTaken => exact hs.execCheckFaultTaken
  | alignmentRelease => exact hs.execAlignmentRelease
  | quantumBoundary => exact hs.execQuantumBoundary
  | errorConsumption => exact hs.execErrorConsumption
  | pauseOverrun => exact hs.reportOverrun
  | governorCheck => exact hs.execGovernorCheck
  | teamPlacement => exact hs.placeOne
  | yieldRestore => exact hs.execYieldRestore
  | teamEnd => exact hs.endTeam
  | watchdogExpiry => exact hs.watchdog
  | drainDeadline => exact hs.drainLapsed
  | contextRestore => exact hs.execContextRestore
  | fansEnd => exact hs.answerEndIx
  | fansResume => exact hs.answerResumeIx
  | loopTokenArrival => exact hs.execLoopTokenArrival
  | recordWrite | recordAdd | recordSetz | recordCas | recordLaunch | recordTmap | recordRecov | recordNote => exact hs.receive
  | rejoinRequest => exact hs.rejoinAsked
  | dialTransfer => exact hs.takeDial
  | cellSend => exact hs.sendCell
  | cellArrival => exact hs.cellArrives
  | leafManagementWrite => exact hs.writeLmgt
  | leafAckArrival => exact hs.leafAck
  | hallFrameSend => exact hs.sendFrame
  | hallReplyArrival => exact hs.hallReply
  | hallRequestArrival => exact hs.hallRequest
  | hallRetryTimeout => exact hs.hallTimeout
  | queueMap => exact hs.execQueueMap
  | queueRemap => exact hs.queueRemap
  | queueLaunchEntry => exact hs.execQueueLaunchEntry
  | queueWaitEntry => exact hs.execQueueWaitEntry
  | queueAddEntry => exact hs.execQueueAddEntry
  | queueNopEntry => exact hs.execQueueNopEntry
  | launchStart => exact hs.execLaunchStart
  | launchEnd => exact hs.execLaunchEnd
  | leaseGrantComplete => exact hs.execLeaseGrantComplete
  | revokeUnpin => exact hs.execRevokeUnpin
  | hpolWrite => exact hs.writeHpol
  | clusterRemovalComplete => exact hs.completeRemoval
  | lapDrain => exact hs.drain
  | scrubPass => exact hs.execScrubPass
  | companionRead => exact hs.companionRead
  | companionWrite => exact hs.execCompanionWrite
  | training => exact hs.trained
  | sraddrRead => exact hs.portRead
  | sraddrWrite => exact hs.portWrite
  | registerWrite => exact hs.aperWrite
  | fuseProgramComplete => exact hs.fuseDone
  | remoteLeaseRequest => exact hs.execRemoteLeaseRequest
  | vcAdvance => exact hs.advance
  | tokenLoss => exact hs.loseToken
  | tokenRegenerate => exact hs.regenerateToken
  | bucketRefill => exact hs.refill
  | powerOn => exact hs.powerOn
  | powerRemove => exact hs.powerRemove
  | bootctlGo => exact hs.bootGo
  | bootctlNonce => exact hs.attest
  | joinTokenTimeout => exact hs.joinTokenTimeout
  | joinFailTimeout => exact hs.joinFailTimeout
  | fusecProgram => exact hs.programFuse
  | thermalPause => exact hs.execThermalPause
  | thermalResume => exact hs.execThermalResume
  | thermalTrip | powerTrip => exact hs.trip

/-! ### Issue -/

theorem GivesCanonical.thenDo {o : Host.Outcome State Fault Refusal} (ho : GivesCanonical o) {f : State → State}
    (step : ∀ s, s.canonical → (f s).canonical) : GivesCanonical (thenDo o f) := by
  cases o with
  | next s => exact step s ho
  | fault _ => exact ho
  | refused _ => exact ho

theorem State.canonical.idle (hs : s.canonical) : s.idle.canonical := hs

theorem State.canonical.countFetch (hs : s.canonical) : s.countFetch.canonical :=
  hs.unless fun h => by split; exacts [h, h.when fun h2 => h2.countMisses]

theorem State.canonical.afterIssue (hs : s.canonical) {i w} : (s.afterIssue i w).canonical := hs.issued.idle

theorem State.canonical.issueFrom (hs : s.canonical) {slot} : GivesCanonical (s.issueFrom slot) := by
  unfold State.issueFrom
  extract_lets s₁
  have h₁ : s₁.canonical := hs.cur
  split
  · exact h₁.modTrain.idle
  · split
    · exact h₁.countFetch.raise.issued.idle
    · exact h₁.countFetch.fetched.exec.thenDo fun _ h => h.afterIssue

theorem State.canonical.survey (hs : s.canonical) {tr} : (s.survey tr).canonical := hs.modTrain.foldl fun _ _ h => h.dropIssue

theorem State.canonical.runCommand (hs : s.canonical) {k} : GivesCanonical (s.runCommand k) := by
  have h₁ := hs.pollRecord (k := k)
  unfold State.runCommand
  dsimp only
  split
  · split
    · exact h₁.cur.raise.idle
    · exact h₁.cur.fetched.exec.thenDo fun _ h => h.idle
  · exact h₁

theorem State.canonical.countCorrected (hs : s.canonical) {kind core} : (s.countCorrected kind core).canonical := by
  unfold State.countCorrected
  split
  · exact hs.bumpOwner
  · exact hs.bumpOwner
  · exact hs.bump
  · exact hs.bump

theorem State.canonical.dialWordError (hs : s.canonical) : s.dialWordError.canonical := hs.bump.when fun h => h.leavePod

theorem State.canonical.perform (hs : s.canonical) {x} : GivesCanonical (s.perform x) := by
  cases x with
  | op i => exact hs.exec
  | late tr pkg => exact hs.modTrain
  | command k =>
    show GivesCanonical (if k < 16 then s.runCommand k else .fault (.noCommandCore k))
    split
    · exact hs.runCommand
    · trivial
  | remote owner a bs => exact hs.homeWrite
  | remoteGrant q page n cls entry => exact hs.remoteGrant
  | policy o ws => exact hs.writePolicy
  | companion a bs => exact hs.compPut
  | sponsor pos => exact hs.pod
  | record bs => exact hs.receive
  | cell bs => exact hs.cellArrives
  | reduced k cells => exact hs.reducedArrives
  | payloadLate port slot n => exact hs.delayPayload
  | frame bs err => exact hs.frameArrives
  | corrected kind core => exact hs.countCorrected
  | dialError => exact hs.dialWordError
  | asideError gen p => exact hs.spoilAside

theorem State.canonical.takeInput (hs : s.canonical) {p} : GivesCanonical (s.takeInput p) := hs.inputs.perform

theorem State.canonical.doWork (hs : s.canonical) {x} : GivesCanonical (s.doWork x) := by
  unfold State.doWork
  split
  · exact hs.exec
  · exact hs.issueFrom
  · exact hs.survey
  · exact hs.settleFaults

/-! ### A step -/

theorem State.canonical.step (hs : s.canonical) : GivesCanonical (step s) := by
  unfold Machine.step
  split
  · exact hs.takeInput
  · split
    · exact hs.doWork
    · exact hs.exec

end

end Sys2Proof.Machine
end

section
/-!
O50. Every function that a step is made of keeps the memories canonical, so every step does (R20, R142, R375, R434).
-/

namespace Sys2Proof.Machine

/-- Settles O50: each function of the model changes bytes by puts, copies, clears and filters of canonical maps alone, and a step is made of them. -/
theorem memoriesStayCanonical : Obligations.MemoriesStayCanonical := by
  intro s s' hs h
  have given := hs.step
  rwa [h] at given

end Sys2Proof.Machine
end

section
/-!
SUPPORT. What each event of a train does to the state (O55): its train, its groups, the records and counters it leaves.
-/

namespace Sys2Proof.Machine

section
-- Each lemma waits for those it uses: side by side they would hold a thread and its stack each.
set_option Elab.async false

variable {s : State} {tr : Nat}

/-! ### Faults of checks (R36, R367) -/

/-- The record of a fault that the group at issue takes. -/
def State.faultOf (s : State) (f : Flt) : FaultRec :=
  { team := s.cur.team, group := s.me.idx, key := s.cur.key, code := f.code, lane := f.lane, tcode := f.tcode
    resume := s.cur.addr, alt := s.cur.alt, t2 := f.t2, p := s.now, pvc := s.myTrain.vc, align := f.align }

/-- The issuing group's train with one record more. -/
def State.withFault (s : State) (r : FaultRec) : State := s.modTrain s.cur.train fun t => { t with faults := t.faults ++ [r] }

theorem State.train_withFault (r : FaultRec) :
    (s.withFault r).train s.cur.train = { s.train s.cur.train with faults := (s.train s.cur.train).faults ++ [r] } := by
  simp [State.withFault]

/-- A fault on a compute core is recorded in its train. -/
theorem State.raise_of_compute (h : s.cur.cmd = false) (f : Flt) :
    s.raise f = { s.withFault (s.faultOf f) with cur := { s.cur with failed := true }, fresh := s.fresh + 1 } := by
  simp only [State.raise, State.raiseAt, h]
  rfl

/-- The issue slot of an instruction that failed is free from this vc. -/
theorem State.issued_of_failed (h : s.cur.failed = true) (d : Nat) (last : Bool) :
    s.issued d last = (s.setIssue s.cur.slot { s.issueSlot s.cur.slot with busy := false, free := s.now }).modGroup s.cur.key
      fun g => g.setSlot s.cur.alt { g.slot s.cur.alt with pc := s.cur.addr } := if_pos h

theorem State.issueSlot_setIssue (k : Nat) (x : IssueSlot) : (s.setIssue k x).issueSlot k = x :=
  (Sp.get_set _ _ _ _ _).trans (if_pos rfl)

/-- The group of an issue slot about to take the fault of its check `c` (R367). -/
def State.atCheck (s : State) (slot : Nat) (c : Nat × Addr48) : State :=
  ({ s with cur := s.context slot }).modGroup (s.issueSlot slot).key fun g => { g with checks := eraseFirst (fun y => y == c) g.checks }

theorem State.atCheck_idx (slot : Nat) (c : Nat × Addr48) : (s.atCheck slot c).me.idx = (s.group (s.issueSlot slot).key).idx := by
  show ((s.atCheck slot c).group (s.issueSlot slot).key).idx = _
  rw [State.atCheck, State.group_modGroup, if_pos rfl]
  rfl

section
variable {slot : Nat} {c : Nat × Addr48} (due : s.dueChecks (s.issueSlot slot).key = [c])
include due

theorem State.takeCheck_of_due :
    s.takeCheck slot = { ((s.atCheck slot c).raise { code := 11, t2 := c.2.zeroExtend 64 }).issued 0 true with cur := {} } := by
  simp only [State.takeCheck, due]
  rfl

theorem State.takeCheck_mem : (s.takeCheck slot).mem = s.mem := by
  rw [State.takeCheck_of_due due]
  rfl

theorem State.takeCheck_issueSlot : (s.takeCheck slot).issueSlot slot =
    { s.issueSlot slot with busy := false, free := (s.train (s.group (s.issueSlot slot).key).train).clk } := by
  rw [State.takeCheck_of_due due, State.raise_of_compute rfl, State.issued_of_failed rfl]
  refine (State.issueSlot_setIssue slot _).trans ?_
  have clk := congrArg Train.clk (State.train_withFault (s := s.atCheck slot c)
    ((s.atCheck slot c).faultOf { code := 11, t2 := c.2.zeroExtend 64 }))
  exact congrArg (fun n => { s.issueSlot slot with busy := false, free := n }) clk

theorem State.takeCheck_faults : let i := s.issueSlot slot
    let g := s.group i.key
    ((s.takeCheck slot).train g.train).faults = (s.train g.train).faults ++ [{
      team := g.team, group := g.idx, key := i.key, code := 11, lane := 255, tcode := 0, resume := (g.slot i.alt).pc, alt := i.alt
      t2 := c.2.zeroExtend 64, p := (s.train g.train).clk, pvc := (s.train g.train).vc }] := by
  intro i g
  rw [State.takeCheck_of_due due, State.raise_of_compute rfl, State.issued_of_failed rfl]
  refine (congrArg Train.faults (State.train_withFault (s := s.atCheck slot c) _)).trans ?_
  rw [State.faultOf, State.atCheck_idx]
  rfl

end

/-! ### Alignments (R57, R58) -/

/-- What the release of an alignment does to one group that waits for it. -/
def State.releaseGroup (tr clk : Nat) (late : W64) (s : State) (w : Nat × Nat) : State :=
  match (s.group w.1).block with
  | .talign _ _ dst =>
    if (s.group w.1).resident then s.endTalign tr w.1 clk dst late
    else s.modTeam (teamKey tr (s.group w.1).team) fun y => { y with late := some late }
  | _ => s

section
variable {clk : Nat} {late : W64} {w : Nat × Nat}

/-- A group that waits in place ends its TALIGN, a saved one's team notes the lateness (logs 112 and 126), any other stays as it is. -/
theorem State.releaseGroup_cases (tr clk : Nat) (late : W64) (s : State) (w : Nat × Nat) :
    (∃ a b d, (s.group w.1).block = .talign a b d ∧ (s.group w.1).resident = true ∧
      s.releaseGroup tr clk late w = s.endTalign tr w.1 clk d late) ∨
    (∃ a b d, (s.group w.1).block = .talign a b d ∧ (s.group w.1).resident = false ∧
      s.releaseGroup tr clk late w = s.modTeam (teamKey tr (s.group w.1).team) fun y => { y with late := some late }) ∨
    ((∀ a b d, (s.group w.1).block ≠ .talign a b d) ∧ s.releaseGroup tr clk late w = s) := by
  unfold State.releaseGroup
  split
  next a b d h =>
    cases hr : (s.group w.1).resident with
    | true => exact .inl ⟨a, b, d, h, rfl, if_pos rfl⟩
    | false => exact .inr (.inl ⟨a, b, d, h, rfl, if_neg (by simp)⟩)
  next h => exact .inr (.inr ⟨fun a b d e => h a b d e, rfl⟩)

theorem State.group_endTalign (s : State) (tr k due dst : Nat) (late : W64) (a : Nat) :
    (s.endTalign tr k due dst late).group a = if a = k then { s.group k with block := .none, wake := none } else s.group a :=
  State.group_modGroup _ _ _ _

theorem State.releaseGroup_trains (tr clk : Nat) (late : W64) (s : State) (w : Nat × Nat) :
    (s.releaseGroup tr clk late w).grid.trains = s.grid.trains := by
  obtain ⟨_, _, _, _, _, e⟩ | ⟨_, _, _, _, _, e⟩ | ⟨_, e⟩ := s.releaseGroup_cases tr clk late w <;> rw [e] <;> rfl

theorem State.releaseGroup_mem (tr clk : Nat) (late : W64) (s : State) (w : Nat × Nat) : (s.releaseGroup tr clk late w).mem = s.mem := by
  obtain ⟨_, _, _, _, _, e⟩ | ⟨_, _, _, _, _, e⟩ | ⟨_, e⟩ := s.releaseGroup_cases tr clk late w <;> rw [e] <;> rfl

theorem State.releaseGroup_teams (h : (s.group w.1).resident = true) : (s.releaseGroup tr clk late w).grid.teams = s.grid.teams := by
  obtain ⟨_, _, _, _, _, e⟩ | ⟨_, _, _, _, hr, e⟩ | ⟨_, e⟩ := s.releaseGroup_cases tr clk late w
  · rw [e]; rfl
  · rw [h] at hr; cases hr
  · rw [e]

theorem State.releaseGroup_resident (tr clk : Nat) (late : W64) (s : State) (w : Nat × Nat) (k : Nat) :
    ((s.releaseGroup tr clk late w).group k).resident = (s.group k).resident := by
  obtain ⟨_, _, _, _, _, e⟩ | ⟨_, _, _, _, _, e⟩ | ⟨_, e⟩ := s.releaseGroup_cases tr clk late w
  · rw [e, State.group_endTalign]
    split
    next h => rw [h]
    next => rfl
  · rw [e]; rfl
  · rw [e]

/-- No group waits for an alignment that did not before. -/
theorem State.releaseGroup_keeps_free {k : Nat} (h : ∀ a b d, (s.group k).block ≠ .talign a b d) (a b : W64) (d : Nat) :
    ((s.releaseGroup tr clk late w).group k).block ≠ .talign a b d := by
  obtain ⟨_, _, _, _, _, e⟩ | ⟨_, _, _, _, _, e⟩ | ⟨_, e⟩ := s.releaseGroup_cases tr clk late w
  · rw [e, State.group_endTalign]
    split
    · simp
    · exact h a b d
  · rw [e]; exact h a b d
  · rw [e]; exact h a b d

theorem State.releaseGroup_frees (h : (s.group w.1).resident = true) (a b : W64) (d : Nat) :
    ((s.releaseGroup tr clk late w).group w.1).block ≠ .talign a b d := by
  obtain ⟨_, _, _, _, _, e⟩ | ⟨_, _, _, _, hr, e⟩ | ⟨hn, e⟩ := s.releaseGroup_cases tr clk late w
  · rw [e, State.group_endTalign, if_pos rfl]
    simp
  · rw [h] at hr; cases hr
  · rw [e]; exact hn a b d

theorem State.releaseGroups_keep_free {k : Nat} (ws : List (Nat × Nat)) (h : ∀ a b d, (s.group k).block ≠ .talign a b d)
    (a b : W64) (d : Nat) :
    ((ws.foldl (State.releaseGroup tr clk late) s).group k).block ≠ .talign a b d := by
  induction ws generalizing s with
  | nil => exact h a b d
  | cons w ws ih => exact ih fun a b d => State.releaseGroup_keeps_free h a b d

theorem State.releaseGroups_free {ws : List (Nat × Nat)} : ∀ w ∈ ws, (s.group w.1).resident = true → ∀ a b d,
    ((ws.foldl (State.releaseGroup tr clk late) s).group w.1).block ≠ .talign a b d := by
  induction ws generalizing s with
  | nil => simp
  | cons x ws ih =>
    intro w hw hr
    obtain rfl | hw := List.mem_cons.1 hw
    · exact State.releaseGroups_keep_free ws (State.releaseGroup_frees hr)
    · exact ih w hw ((State.releaseGroup_resident ..).trans hr)

theorem State.releaseGroups_teams {ws : List (Nat × Nat)} (h : ∀ w ∈ ws, (s.group w.1).resident = true) :
    (ws.foldl (State.releaseGroup tr clk late) s).grid.teams = s.grid.teams := by
  induction ws generalizing s with
  | nil => rfl
  | cons x ws ih =>
    have kept := ih (s := s.releaseGroup tr clk late x) fun w hw =>
      (State.releaseGroup_resident ..).trans (h w (List.mem_cons_of_mem _ hw))
    exact kept.trans (State.releaseGroup_teams (h x List.mem_cons_self))

end

/-- The state in which an alignment releases its groups: the timetable bases have moved (R57). -/
def State.moveBases (s : State) (tr : Nat) (move : W64) : State :=
  let aim (w : Landing) : Landing := match w with
    | .tb b => .tb (b + move)
    | w => w
  { s with grid := { s.grid with
      teams := s.grid.teams.map fun p : Nat × Team => if p.2.train = tr then (p.1, { p.2 with tb := p.2.tb + move }) else p
      pend := s.grid.pend.map fun p : Pend => if p.train = tr then { p with what := aim p.what } else p } }

@[simp] theorem State.group_moveBases (s : State) (tr : Nat) (move : W64) (k : Nat) : (s.moveBases tr move).group k = s.group k := rfl

theorem State.releaseAlign_eq {c : Nat} {t v : W64} (h : (s.train tr).align = some (c, t, v)) : s.releaseAlign tr =
    ((s.train tr).alignWho.foldl (State.releaseGroup tr (s.train tr).clk (s.bc - t)) (s.moveBases tr (v - (s.train tr).vc))).modTrain tr
      fun t => { t with vc := v, align := none, alignWho := [] } := by
  simp only [State.releaseAlign, h]
  rfl

theorem State.train_congr {s t : State} (h : s.grid.trains = t.grid.trains) (a : Nat) : s.train a = t.train a :=
  congrArg (fun m => Sp.get ({} : Train) m a) h

section
variable {c : Nat} {t v : W64} (h : (s.train tr).align = some (c, t, v))
include h

theorem State.releaseAlign_train :
    (s.releaseAlign tr).train tr = { s.train tr with vc := v, align := none, alignWho := [] } := by
  rw [State.releaseAlign_eq h, State.train_modTrain, if_pos rfl]
  rw [State.train_congr (foldl_keeps (fun u : State => u.grid.trains) _ (State.releaseGroup_trains tr _ _) ..)]
  rfl

theorem State.releaseAlign_mem : (s.releaseAlign tr).mem = s.mem := by
  rw [State.releaseAlign_eq h]
  exact foldl_keeps State.mem _ (State.releaseGroup_mem tr _ _) ..

theorem State.releaseAlign_frees : ∀ w ∈ (s.train tr).alignWho, (s.group w.1).resident = true →
    ∀ a b d, ((s.releaseAlign tr).group w.1).block ≠ .talign a b d := by
  rw [State.releaseAlign_eq h]
  exact State.releaseGroups_free (s := s.moveBases tr _)

theorem State.releaseAlign_teams (all : ∀ w ∈ (s.train tr).alignWho, (s.group w.1).resident = true) :
    (s.releaseAlign tr).grid.teams =
      s.grid.teams.map fun p => if p.2.train = tr then (p.1, { p.2 with tb := p.2.tb + (v - (s.train tr).vc) }) else p := by
  rw [State.releaseAlign_eq h]
  exact State.releaseGroups_teams (s := s.moveBases tr _) all

theorem State.releaseAlign_saved {w : Nat × Nat} (who : (s.train tr).alignWho = [w]) (away : (s.group w.1).resident = false)
    {a b : W64} {d : Nat} (waits : (s.group w.1).block = .talign a b d) :
    ((s.releaseAlign tr).team (teamKey tr (s.group w.1).team)).late = some (s.bc - t) ∧
      (s.releaseAlign tr).group w.1 = s.group w.1 := by
  rw [State.releaseAlign_eq h, who]
  obtain ⟨_, _, _, _, hr, _⟩ | ⟨_, _, _, _, _, e⟩ | ⟨hn, _⟩ :=
    State.releaseGroup_cases tr (s.train tr).clk (s.bc - t) (s.moveBases tr (v - (s.train tr).vc)) w
  · exact absurd (away.symm.trans hr) (by simp)
  · rw [List.foldl_cons, List.foldl_nil, e]
    refine ⟨?_, rfl⟩
    simp
  · exact absurd waits (hn a b d)

end

/-! ### A boundary at which nothing waits (R54, R55) -/

theorem State.removeRevoked_of_no_leases (h : s.mem.leases = []) : s.removeRevoked tr = s := by
  have same : ({ s with mem := { s.mem with leases := [] } } : State) = s := by rw [← h]
  simp [State.removeRevoked, h, same]

theorem bitAt_zero (n : Nat) : bitAt 0 n = false := by
  simp [bitAt, bitOf]

/-- No core stands on a cluster of an empty mask. -/
theorem State.standsOn_zero (tk : Nat) : s.standsOn 0 tk = false := by
  simp only [State.standsOn, bitAt_zero]
  simp

theorem State.boundTo_zero : s.boundTo 0 tr = false := by
  simp only [State.boundTo, bitAt_zero]
  simp

theorem State.vacateTrain_zero : s.vacateTrain 0 tr = s := by
  simp only [State.vacateTrain, State.boundTo_zero, State.standsOn_zero]
  simp

theorem State.openPre_of_no_requests (h : s.fw.pre = []) : s.openPre tr = [] := by
  simp [State.openPre, h]

theorem State.serveDiscards_of_no_requests (h : s.fw.pre = []) : s.serveDiscards tr = s := by
  simp [State.serveDiscards, State.openPre_of_no_requests h]

theorem State.servePre_of_no_requests (h : s.fw.pre = []) : s.servePre tr = s := by
  simp [State.servePre, State.openPre_of_no_requests h]

theorem State.serveTeamRestores_of_no_requests (h : s.fw.pre = []) : s.serveTeamRestores tr = s := by
  simp [State.serveTeamRestores, h]

theorem State.liveTeams_of_no_teams (h : s.grid.teams = []) : s.liveTeams tr = [] := by
  simp [State.liveTeams, h]

theorem State.endTeams_of_no_teams (h : s.grid.teams = []) : s.endTeams tr = s := by
  simp [State.endTeams, State.liveTeams_of_no_teams h]

theorem State.saveYields_of_no_teams (h : s.grid.teams = []) : s.saveYields tr = s := by
  simp [State.saveYields, State.liveTeams_of_no_teams h]

theorem State.landHall_of_no_operations (h : s.pod.hallOps = []) : s.landHall tr = s := by
  simp [State.landHall, h]

/-- The state after a completion of no operations: the count of acts has grown. -/
def State.nextOrd (s : State) : State := { s with grid := { s.grid with ord := s.grid.ord + 1 } }

theorem State.completeHall_of_no_operations (hall : s.pod.hallOps = []) (cmds : s.grid.cmds = []) (acts : s.grid.acts = []) :
    s.completeHall tr = s.nextOrd := by
  simp only [State.completeHall, State.emptyHalls, hall, cmds, acts, State.nextOrd, State.unpin, List.filter_nil,
    List.filterMap_nil, List.flatMap_nil, List.map_nil, List.foldl_nil, List.append_nil]
  simp only [← hall, ← cmds, ← acts]

theorem State.boundaryLaps_of_no_commands (cmds : s.grid.cmds = []) : s.boundaryLaps tr = s := by
  have none_ : s.countLaps tr = s := by simp [State.countLaps, State.lapsDue, cmds]
  simp only [State.boundaryLaps, none_, cmds, List.filter_nil]
  simp [List.flatMap_eq_nil_iff.2]

theorem State.markCommitted_of_nothing (stores : s.grid.stores = []) (acts : s.grid.acts = []) (hall : s.pod.hallOps = []) :
    s.markCommitted tr = s := by
  simp [State.markCommitted, stores, acts, hall]

theorem State.twinsDiffer_of_single (h : (s.train tr).desc.twin = false) : s.twinsDiffer tr = false := by
  simp [State.twinsDiffer, h]

theorem State.boundaryError_of_nothing (acts : s.grid.acts = []) (groups : s.grid.groups = []) (stores : s.grid.stores = []) :
    s.boundaryError tr = none := by
  simp [State.boundaryError, State.boundaryReads, State.waitReads, acts, groups, stores]

theorem State.commitStores_of_no_stores (h : s.grid.stores = []) : s.commitStores tr = s := by
  have same : ({ s with grid := { s.grid with stores := [] } } : State) = s := by rw [← h]
  simp [State.commitStores, h, sortBy, same]

theorem State.actsOf_of_no_acts (h : s.grid.acts = []) : s.actsOf tr = [] := by
  simp [State.actsOf, h]

theorem State.performAtomics_of_no_acts (h : s.grid.acts = []) : s.performAtomics tr = s := by
  simp [State.performAtomics, State.actsOf_of_no_acts h, sortBy]

theorem State.releases_of_no_teams (teams : s.grid.teams = []) (trigs : (s.train tr).trigs = []) : s.releases tr = s := by
  simp [State.releases, teams, trigs, sortBy]

theorem State.addCounts_of_no_acts (h : s.grid.acts = []) : s.addCounts tr = s := by
  simp [State.addCounts, State.actsOf_of_no_acts h, sortBy]

theorem State.moveLaps_of_no_laps (acts : s.grid.acts = []) (laps : s.mem.laps = []) : s.moveLaps tr = s := by
  simp [State.moveLaps, State.lapActs, acts, laps, sortBy]

/-- Where no group waits a train takes the Dial at its boundary and no more (R54). -/
theorem State.waitsAndAcquires_of_no_groups (groups : s.grid.groups = []) (teams : s.grid.teams = []) (acts : s.grid.acts = []) :
    s.waitsAndAcquires tr = s.modTrain tr fun t => { t with seq := s.pod.top, dial := s.pod.dial } := by
  have misses : s.countWaitMisses tr = s := by simp [State.countWaitMisses, State.waitReads, groups, State.countMisses]
  simp [State.waitsAndAcquires, misses, State.wakes, groups, State.liveTeams, teams, State.actsOf, acts]

theorem State.aligned_of_no_groups (groups : s.grid.groups = []) : s.aligned tr = false := by
  have none_ (k : Nat) : s.talignOf k = none := by simp [State.talignOf, State.group, groups]
  simp [State.aligned, none_]

/-- A boundary of the train finds nothing to serve. -/
structure State.Idles (s : State) (tr : Nat) : Prop where
  single : (s.train tr).desc.twin = false
  acts : s.grid.acts = []
  stores : s.grid.stores = []
  cmds : s.grid.cmds = []
  groups : s.grid.groups = []
  teams : s.grid.teams = []
  trigs : (s.train tr).trigs = []
  hall : s.pod.hallOps = []
  requests : s.fw.pre = []
  leases : s.mem.leases = []
  laps : s.mem.laps = []
  removals : Sp.get 0 s.fw.removals (s.train tr).owner = 0

theorem State.Idles.nextOrd (h : s.Idles tr) : s.nextOrd.Idles tr := { h with }

/-- The start of the boundary: nothing is revoked, vacated or discarded. -/
theorem State.Idles.served (h : s.Idles tr) :
    ((s.removeRevoked tr).vacateTrain (Sp.get 0 s.fw.removals (s.train tr).owner) tr).serveDiscards tr = s := by
  rw [h.removals, State.removeRevoked_of_no_leases h.leases, State.vacateTrain_zero, State.serveDiscards_of_no_requests h.requests]

theorem State.Idles.gathers (h : s.Idles tr) : (s.gather tr).markCommitted tr = s.nextOrd := by
  rw [State.gather, State.landHall_of_no_operations h.hall, State.completeHall_of_no_operations h.hall h.cmds h.acts,
    State.boundaryLaps_of_no_commands h.nextOrd.cmds, State.markCommitted_of_nothing h.nextOrd.stores h.nextOrd.acts h.nextOrd.hall]

/-- The phases of the boundary: no store, atomic, release, count or lap. -/
theorem State.Idles.phases (h : s.Idles tr) :
    (((((s.commitStores tr).performAtomics tr).releases tr).addCounts tr).moveLaps tr) = s := by
  rw [State.commitStores_of_no_stores h.stores, State.performAtomics_of_no_acts h.acts, State.releases_of_no_teams h.teams h.trigs,
    State.addCounts_of_no_acts h.acts, State.moveLaps_of_no_laps h.acts h.laps]

/-- The train takes the Dial and begins its next quantum. -/
def State.passQuantum (s : State) (tr : Nat) : State :=
  (s.nextOrd.modTrain tr fun t => { t with seq := s.pod.top, dial := s.pod.dial }).nextQuantum tr

theorem State.passQuantum_fw (s : State) (tr : Nat) : (s.passQuantum tr).fw = s.fw := rfl

theorem State.passQuantum_teams (h : s.grid.teams = []) : (s.passQuantum tr).grid.teams = [] := by
  show s.grid.teams.map _ = []
  rw [h]
  rfl

theorem State.Idles.boundary (h : s.Idles tr) (live : (s.train tr).live = true) : s.boundary tr = s.passQuantum tr := by
  have u := h.nextOrd
  have dial : (s.nextOrd.waitsAndAcquires tr).nextQuantum tr = s.passQuantum tr :=
    congrArg (State.nextQuantum · tr) (State.waitsAndAcquires_of_no_groups u.groups u.teams u.acts)
  have requests : (s.passQuantum tr).fw.pre = [] := h.requests
  have teams := State.passQuantum_teams (tr := tr) h.teams
  have after : ((((s.passQuantum tr).serveTeamRestores tr).endTeams tr).saveYields tr).servePre tr = s.passQuantum tr := by
    rw [State.serveTeamRestores_of_no_requests requests, State.endTeams_of_no_teams teams, State.saveYields_of_no_teams teams,
      State.servePre_of_no_requests requests]
  simp only [State.boundary, h.served, h.gathers, State.aligned_of_no_groups h.groups, State.twinsDiffer_of_single u.single,
    State.boundaryError_of_nothing u.acts u.groups u.stores, u.phases, dial]
  simp [live, after]

theorem State.nextQuantum_train (s : State) (tr : Nat) : ∃ pod laps, (s.nextQuantum tr).train tr =
    { s.train tr with qt := (s.train tr).qt + 1, qstart := (s.train tr).clk + 1, pod := pod, boundary := true, laps := laps } := by
  rw [State.nextQuantum, State.snapLaps, State.train_modTrain, if_pos rfl, State.train_modTrain, if_pos rfl]
  exact ⟨_, _, rfl⟩

theorem State.passQuantum_train (s : State) (tr : Nat) : ∃ pod laps, (s.passQuantum tr).train tr =
    { s.train tr with
      seq := s.pod.top, dial := s.pod.dial, qt := (s.train tr).qt + 1, qstart := (s.train tr).clk + 1
      pod := pod, boundary := true, laps := laps } := by
  obtain ⟨pod, laps, e⟩ := (s.nextOrd.modTrain tr fun t => { t with seq := s.pod.top, dial := s.pod.dial }).nextQuantum_train tr
  refine ⟨pod, laps, e.trans ?_⟩
  rw [State.train_modTrain, if_pos rfl]
  rfl

theorem State.live_of_boundaryDue (h : s.boundaryDue tr = true) : (s.train tr).live = true := by
  simp only [State.boundaryDue, Bool.and_eq_true] at h
  obtain ⟨⟨⟨⟨⟨live, -⟩, -⟩, -⟩, -⟩, -⟩ := h
  exact live

theorem State.Idles.boundaryShort (h : s.Idles tr) (live : (s.train tr).live = true) : s.boundaryShort tr = false := by
  rw [State.boundaryShort, h.boundary live]
  cases hs : s.mem.starved with
  | true => simp
  | false =>
    have same : (s.passQuantum tr).mem.starved = s.mem.starved := rfl
    simp [same, hs]

/-! ### Errors and replays (R425, R432) -/

theorem State.launch_bumpOwner (s : State) (o c l : Nat) : (s.bumpOwner o c).launch l = s.launch l :=
  congrArg (fun fw : Fw => Sp.get ({} : Launch) fw.launches l) (s.bumpOwner_fw o c)

theorem State.train_bumpOwner (s : State) (o c a : Nat) : (s.bumpOwner o c).train a = s.train a :=
  congrArg (fun g : Grid => Sp.get ({} : Train) g.trains a) (s.bumpOwner_grid o c)

/-- The error is counted at the train's owner and at its launch (R425). -/
def State.countError (s : State) (tr : Nat) : State :=
  (s.bumpOwner (s.train tr).owner 3).modLaunch (s.train tr).launch fun y =>
    { y with attempts := (s.launch (s.train tr).launch).attempts + 1 }

theorem State.consume_of_own (h : (s.launch (s.train tr).launch).pod = false) : s.consume tr none =
    if (s.launch (s.train tr).launch).attempts + 1 < 3 then (s.countError tr).replay tr else (s.countError tr).failReplay tr := by
  simp only [State.consume, State.endAttempt, State.hopeless, State.launch_bumpOwner, State.train_bumpOwner, h, State.countError]
  by_cases n : (s.launch (s.train tr).launch).attempts + 1 < 3
  · simp [n, Nat.not_le.2 n]
  · simp [n, Nat.not_lt.1 n]

/-- The NOTE that offers the replay of a pod launch is appended and its vc held, whatever the number of offers (logs 34 and 121). -/
theorem State.consume_of_pod (pod : (s.launch (s.train tr).launch).pod = true) (n : (s.launch (s.train tr).launch).attempts + 1 < 3) :
    s.consume tr none = ((s.countError tr).offer 7 1 0 0 [(s.launch (s.train tr).launch).recSeq]).modTrain tr
      fun t => { t with holds := t.holds ++ [(t.clk, Hold.replay)], bad := [], faults := [] } := by
  simp only [State.consume, State.endAttempt, State.hopeless, State.launch_bumpOwner, State.train_bumpOwner, pod, State.countError]
  simp [Nat.not_le.2 n]

theorem State.offer_offers (s : State) (op len daddr tenant : Nat) (ws : List W64) :
    (s.offer op len daddr tenant ws).pod.offers.length = s.pod.offers.length + 1 := by
  simp [State.offer]

theorem State.train_offer (s : State) (op len daddr tenant : Nat) (ws : List W64) (a : Nat) :
    (s.offer op len daddr tenant ws).train a = s.train a := State.train_bumpOwner ..

theorem State.consume_of_pod_holds (pod : (s.launch (s.train tr).launch).pod = true)
    (n : (s.launch (s.train tr).launch).attempts + 1 < 3) :
    (s.consume tr none).train tr =
      { s.train tr with holds := (s.train tr).holds ++ [((s.train tr).clk, .replay)], bad := [], faults := [] } ∧
    (s.consume tr none).pod.offers.length = s.pod.offers.length + 1 := by
  rw [State.consume_of_pod pod n]
  constructor
  · simp [State.train_offer, State.countError, State.train_bumpOwner]
  · simp [State.offer_offers, State.countError]

/-! ### Pauses and the governor (R376, log 60) -/

theorem State.reportOverrun_of_due (h : s.overrunDue tr = true) :
    s.reportOverrun tr = ((s.modTrain tr fun t => { t with overrun := true }).note (.pauseOverrun tr)).wakeLevel 1 := if_pos h

theorem State.reportOverrun_train (h : s.overrunDue tr = true) : ((s.reportOverrun tr).train tr).overrun = true := by
  rw [State.reportOverrun_of_due h]
  show ((s.modTrain tr fun t => { t with overrun := true }).train tr).overrun = true
  simp

/-- No command core at or below the woken level still waits. -/
theorem State.wakeLevel_wakes (s : State) (level : Nat) :
    ∀ p ∈ (s.wakeLevel level).fw.cmds, p.2.level ≤ level → p.2.waiting = false := by
  intro p hp hl
  obtain ⟨q, -, rfl⟩ := List.mem_map.1 hp
  by_cases h : q.2.level ≤ level
  · simp [h]
  · simp [h] at hl

theorem State.governor_of_low {power : Nat} (h : power ≤ 2400) (draws : List (Nat × Nat)) :
    (s.governor power draws).mem = s.mem ∧ ∀ p ∈ (s.governor power draws).grid.trains, ∀ h ∈ p.2.holds, h.2 ≠ .governor := by
  have ends : s.governor power draws = { s with grid := { s.grid with
      trains := s.grid.trains.map fun p : Nat × Train =>
        (p.1, { p.2 with holds := p.2.holds.filter fun h => h.2 != Hold.governor }) } } := if_pos h
  rw [ends]
  refine ⟨rfl, fun p hp x hx => ?_⟩
  obtain ⟨q, -, rfl⟩ := List.mem_map.1 hp
  simpa using (List.mem_filter.1 hx).2

theorem State.governor_pauses {power draw : Nat} (h : 2400 < power) (live : (s.train tr).live = true)
    (free : ∀ h ∈ (s.train tr).holds, h.2 ≠ .governor) :
    s.governor power [(tr, draw)] = s.modTrain tr fun t => { t with holds := t.holds ++ [(t.clk, Hold.governor)] } := by
  have running : ((s.train tr).holds.any fun h => h.2 == Hold.governor) = false := by simpa using free
  refine (if_neg (Nat.not_le.2 h)).trans ?_
  simp [live, running]

/-! ### Placement, yields and pre-emption (R31, R248, R374, R376) -/

/-- The trains and the memory, which placing a team leaves as they are. -/
def State.unplaced (s : State) : List (Nat × Train) × Mem := (s.grid.trains, s.mem)

theorem State.train_of_unplaced {t : State} (h : t.unplaced = s.unplaced) (a : Nat) : t.train a = s.train a :=
  congrArg (fun x : List (Nat × Train) × Mem => Sp.get ({} : Train) x.1 a) h

theorem State.placeTeam_unplaced (s : State) (tr idx core : Nat) (twin : Bool) (carve : List (Nat × Nat × Nat)) :
    (s.placeTeam tr idx core twin carve).unplaced = s.unplaced := by
  refine (foldl_keeps State.unplaced _ (fun u c => ?_) _ _).trans rfl
  refine foldl_keeps State.unplaced _ (fun _ _ => ?_) _ _
  rfl

/-- The next team of a train in its place, with its twin where it has one (R437). -/
def State.placePair (s : State) (tr core : Nat) (carve : List (Nat × Nat × Nat)) : State :=
  let t := s.train tr
  let s := s.placeTeam tr t.nextTeam core false carve
  if t.desc.twin then s.placeTeam tr t.nextTeam (t.mateCore core) true (carve.map fun x => (t.mateCore x.1, x.2.1, x.2.2)) else s

theorem State.placePair_unplaced (s : State) (tr core : Nat) (carve : List (Nat × Nat × Nat)) :
    (s.placePair tr core carve).unplaced = s.unplaced := by
  unfold State.placePair
  dsimp only
  split
  · rw [State.placeTeam_unplaced, State.placeTeam_unplaced]
  · rw [State.placeTeam_unplaced]

theorem State.placeNext_counts (more : (s.train tr).nextTeam < (s.train tr).desc.grid)
    (room : (s.findRoom tr fun _ => true).isSome = true) :
    ((s.placeNext tr).train tr).nextTeam = (s.train tr).nextTeam + 1 ∧ (s.placeNext tr).mem = s.mem := by
  obtain ⟨⟨core, carve⟩, hr⟩ := Option.isSome_iff_exists.1 room
  have next : s.placeNext tr = (s.placePair tr core carve).modTrain tr fun t => { t with nextTeam := t.nextTeam + 1 } := by
    simp only [State.placeNext, hr, if_neg (Nat.not_le.2 more)]
    rfl
  have placed := s.placePair_unplaced tr core carve
  rw [next]
  constructor
  · rw [State.train_modTrain, if_pos rfl, State.train_of_unplaced placed]
  · exact congrArg Prod.snd placed

theorem State.placeOne_counts (can : s.placeable tr = true) (queue : (s.train tr).requeue = []) :
    ((s.placeOne tr).train tr).nextTeam = (s.train tr).nextTeam + 1 ∧ (s.placeOne tr).mem = s.mem := by
  have next : s.placeOne tr = s.placeNext tr := by simp [State.placeOne, can, queue]
  simp only [State.placeable, queue, Bool.and_eq_true, Bool.or_eq_true] at can
  obtain ⟨⟨-, more⟩, room⟩ := can
  rw [next]
  exact State.placeNext_counts (by simpa using more) room

theorem State.restoreYields_of_one {tk b : Nat} (team : s.liveTeams tr = [tk]) (single : (s.team tk).twin = false)
    (saved : (s.team tk).saved = true) (yielded : (s.team tk).yielded = true) (running : (s.team tk).parked = false)
    (ready : (s.team tk).ready = some b) (back : s.leaving (s.team tk) = false) : s.restoreYields tr = s.rejoinTeam tk fun _ => true := by
  have returns : (s.team tk).returns = true := by simp [Team.returns, single, saved, yielded, running, ready]
  simp [State.restoreYields, team, returns, ready, back, sortBy, insertBy]

theorem State.drainLapsed_decides {id : Nat} {r : PreReq} (found : s.fw.pre.find? (fun r => r.id == id) = some r) (open_ : r.done = false)
    (undecided : r.decision = 0) (lapsed : r.deadline ≤ s.bc.toNat) :
    s.drainLapsed id = s.setPre { r with decision := if s.hasCommitted r.train (s.preTeam r) then 2 else 1 } := by
  have decision : s.decidePre r.train (s.preTeam r) 0 false = if s.hasCommitted r.train (s.preTeam r) then 2 else 1 := by
    cases h : s.hasCommitted r.train (s.preTeam r) <;> simp [State.decidePre, h]
  simp [State.drainLapsed, found, open_, undecided, Nat.not_lt.2 lapsed, decision]

/-! ### Watchdogs (R367) -/

theorem State.makeRoom_grid (s : State) (bonded : Bool) (die n gained : Nat) (ps : Nat → Bool) (kept : Nat × Nat) :
    (s.makeRoom bonded die n gained ps kept).grid = s.grid := by
  refine foldl_keeps State.grid _ (fun _ _ => ?_) _ s
  rfl

theorem State.setAside_grid (s : State) (p : Nat) : (s.setAside p).grid = s.grid := by
  have placed {t : State} (h : t.grid = s.grid) (m : Mem) (e : W64) : (({ t with mem := m } : State).setPage p e).grid = s.grid := h
  unfold State.setAside
  split
  · rfl
  · exact placed (by rw [State.makeRoom_grid, State.makeRoom_grid]) _ _

theorem State.sysPut_grid (s : State) (a : Nat) (bs : List Byte) : (s.sysPut a bs).grid = s.grid := by
  unfold State.sysPut
  split
  · rfl
  · exact foldl_keeps State.grid _ (fun u _ => u.setAside_grid _) _ s

@[simp] theorem State.train_note (s : State) (e : Event) (a : Nat) : (s.note e).train a = s.train a := rfl
@[simp] theorem State.train_wakeLevel (s : State) (level a : Nat) : (s.wakeLevel level).train a = s.train a := rfl

/-- A record with an answer to wait for: posted, the train waits for the answer of its place in the ring. -/
theorem State.postNow_asks (s : State) {p : Post} {a : Ask} (h : p.ask = some a) :
    (s.postNow p).grid.teams = s.grid.teams ∧ (a.p, Hold.answer s.fw.ringIx) ∈ ((s.postNow p).train a.train).holds := by
  have kept := s.sysPut_grid (ringAt s.fw.fring s.fw.ringIx)
    (wordBytes (p.words ++ [s.bc, BitVec.ofNat 64 (2 ^ 63 + s.fw.ringIx % 2 ^ 16)]))
  unfold State.postNow
  simp only [h]
  generalize s.sysPut _ _ = u at kept ⊢
  constructor
  · show u.grid.teams = _
    rw [kept]
  · simp

/-- A single waiting record is posted or still waits. -/
theorem State.flushPosts_of_one {p : Post} (one : s.fw.posts = [p]) : s.flushPosts 1 = s ∨
    ∃ u : State, s.flushPosts 1 = u.postNow p ∧ u.grid.teams = s.grid.teams ∧ u.fw.ringIx = s.fw.ringIx := by
  have posted (t : State) (teams : t.grid.teams = s.grid.teams) (ring : t.fw.ringIx = s.fw.ringIx) :
      let v := if (t.postNow p).mem.starved && !s.mem.starved then s else State.flushPosts 0 (t.postNow p)
      v = s ∨ ∃ u : State, v = u.postNow p ∧ u.grid.teams = s.grid.teams ∧ u.fw.ringIx = s.fw.ringIx := by
    dsimp only
    split
    · exact .inl rfl
    · exact .inr ⟨t, rfl, teams, ring⟩
  unfold State.flushPosts
  rw [one]
  dsimp only
  by_cases free : s.ringFree = true
  · rw [if_pos free]
    exact posted _ (by cases p.train <;> rfl) (by cases p.train <;> rfl)
  · rw [if_neg free]
    exact .inl rfl

/-- A train that holds from its vc on. -/
def State.withHold (s : State) (tr : Nat) (h : Hold) : State := s.modTrain tr fun t => { t with holds := t.holds ++ [(t.clk, h)] }

/-- The record of a train: it waits for a place in the ring or for the answer of the place it took. -/
theorem State.post_asks {p : Post} {a : Ask} (none_ : s.fw.posts = []) (train : p.train = some tr) (ask : p.ask = some a)
    (asks : a.train = tr) :
    (s.post p).grid.teams = s.grid.teams ∧
      ∃ h ∈ ((s.post p).train tr).holds, h.2 = .ringFull ∨ h = (a.p, .answer s.fw.ringIx) := by
  have posted : s.post p = State.flushPosts 1 { s.withHold tr .ringFull with fw := { s.fw with posts := [p] } } := by
    simp only [State.post, train, State.modTrain_fw, none_]
    rfl
  rw [posted]
  obtain e | ⟨u, e, teams, ring⟩ := State.flushPosts_of_one (p := p)
    (s := { s.withHold tr .ringFull with fw := { s.fw with posts := [p] } }) rfl
  · rw [e]
    refine ⟨rfl, ((s.train tr).clk, .ringFull), ?_, .inl rfl⟩
    show _ ∈ ((s.withHold tr .ringFull).train tr).holds
    simp [State.withHold]
  · have asked := u.postNow_asks ask
    rw [e]
    refine ⟨asked.1.trans teams, _, asks ▸ asked.2, .inr ?_⟩
    rw [ring]

theorem State.plainPost_posts (s : State) (code : Nat) (t2 t3 handle : W64) (owner : Nat) (tr : Option Nat) (ask : Option Ask) :
    ∃ p, s.plainPost code t2 t3 handle owner tr ask = s.spend.spend.post p ∧ p.train = tr ∧ p.ask = ask := ⟨_, rfl, rfl, rfl⟩

theorem State.watchdog_asks {tk : Nat} (due : s.watchdogDue tr tk = true) (none_ : s.fw.posts = []) :
    ((s.watchdog tr tk).team tk).wdBase = (s.train tr).clk ∧
      ∃ h ∈ ((s.watchdog tr tk).train tr).holds, h.2 = .ringFull ∨ h = ((s.train tr).clk + 1, .answer s.fw.ringIx) := by
  have posted : ∃ p a, s.watchdog tr tk = (s.modTeam tk fun x => { x with wdBase := (s.train tr).clk }).spend.spend.post p ∧
      p.train = some tr ∧ p.ask = some a ∧ a.train = tr ∧ a.p = (s.train tr).clk + 1 := by
    have running : ∃ code t2 t3 handle owner, s.watchdog tr tk =
        (s.modTeam tk fun x => { x with wdBase := (s.train tr).clk }).plainPost code t2 t3 handle owner (some tr)
          (some { train := tr, key := none, resumable := true, code := 19, p := (s.train tr).clk + 1 }) := by
      rw [State.watchdog, if_neg (by simp [due])]
      exact ⟨_, _, _, _, _, rfl⟩
    obtain ⟨_, _, _, _, _, e⟩ := running
    obtain ⟨p, posted, train, ask⟩ := State.plainPost_posts ..
    exact ⟨p, _, e.trans posted, train, ask, rfl, rfl⟩
  obtain ⟨p, a, e, train, ask, asks, at_⟩ := posted
  obtain ⟨teams, holds⟩ :=
    State.post_asks (s := (s.modTeam tk fun x => { x with wdBase := (s.train tr).clk }).spend.spend) none_ train ask asks
  rw [e]
  refine ⟨?_, at_ ▸ holds⟩
  have team := congrArg (fun m => Sp.get ({} : Team) m tk) teams
  refine (congrArg Team.wdBase team).trans ?_
  exact (congrArg Team.wdBase (s.team_modTeam tk (fun x => { x with wdBase := (s.train tr).clk }) tk)).trans (by simp)

/-! ### Restores of trains (R375) -/

/-- What the repair of a train's cores and views leaves as it is, and whether the train is parked. -/
def State.resumes (tr : Nat) (s : State) : List (Nat × Team) × Bool := (s.grid.teams, (s.train tr).parked)

theorem State.clearCore_teams (s : State) (c : Nat) : (s.clearCore c).grid.teams = s.grid.teams := rfl

theorem State.putLeftover_teams (s : State) (l : Leftover) (places : List Nat) (place : Nat → Nat) :
    (s.putLeftover l places place).grid.teams = s.grid.teams := by
  refine (foldl_keeps (fun u : State => u.grid.teams) _ (fun _ _ => ?_) _ _).trans rfl
  rfl

theorem State.joinCluster_resumes (s : State) (k : Nat) : (s.joinCluster tr k).resumes tr = s.resumes tr := by
  have kept : (s.refreshCluster (s.train tr) k).grid = s.grid := by
    refine foldl_keeps State.grid _ (fun _ _ => ?_) _ _
    rfl
  have teams : (s.joinCluster tr k).grid.teams = s.grid.teams := by
    rw [State.joinCluster, State.modTrain_teams, kept]
  have parked : ((s.joinCluster tr k).train tr).parked = (s.train tr).parked := by
    rw [State.joinCluster, State.train_modTrain, if_pos rfl]
    exact congrArg (fun g : Grid => (Sp.get ({} : Train) g.trains tr).parked) kept
  exact Prod.ext teams parked

theorem State.refreshCore_resumes (s : State) (c : Nat) : (s.refreshCore c).resumes tr = s.resumes tr := rfl

theorem State.resumeTrain_runs {first : Nat} {imageOf : Nat → Nat} (fits : (s.trainPlaces tr first).isSome = true)
    (alone : s.liveTeams tr = []) : ((s.resumeTrain tr first imageOf).train tr).parked = false := by
  unfold State.resumeTrain
  split
  next h => simp [h] at fits
  extract_lets t low place cluster gone g s₁ s₂ s₃ moved s₄ s₅ s₆
  have teams₂ : s₂.grid.teams = s.grid.teams := by
    refine (State.putLeftover_teams ..).trans ?_
    refine (foldl_keeps (fun u : State => u.grid.teams) _ (fun _ _ => ?_) _ _).trans rfl
    rfl
  have run₃ : s₃.resumes tr = (s.grid.teams, false) := Prod.ext teams₂ (by simp [s₃, State.resumes])
  have run₄ : s₄.resumes tr = (s.grid.teams, false) :=
    (foldl_keeps (State.resumes tr) _ (fun u k => u.joinCluster_resumes k) ..).trans run₃
  have run₅ : s₅.resumes tr = (s.grid.teams, false) :=
    (foldl_keeps (State.resumes tr) _ (fun u k => u.refreshCore_resumes k) ..).trans run₄
  have none_ : s₅.parkedTeams tr = [] := by
    have teams : s₅.grid.teams = s.grid.teams := congrArg Prod.fst run₅
    have live : s₅.liveTeams tr = [] := by
      rw [State.liveTeams, teams]
      exact alone
    rw [State.parkedTeams, live]
    rfl
  have run₆ : s₆ = s₅ := by
    unfold s₆
    rw [none_]
    rfl
  rw [State.train_modLaunch, run₆]
  exact congrArg Prod.snd run₅

theorem State.firstFor_of_fits {c : Nat} (below : c < 256) (fits : (s.trainPlaces tr c).isSome = true) :
    ∃ first, s.firstFor tr c = some first ∧ (s.trainPlaces tr first).isSome = true :=
  ⟨c, by simp [State.firstFor, anyCore, Nat.ne_of_lt below, fits], fits⟩

/-- The first element of a kind is the first of a narrower kind, where it is of that kind itself. -/
theorem find?_and_of_find? {α : Type} {p q : α → Bool} {xs : List α} {a : α} (h : xs.find? p = some a) (hq : q a = true) :
    xs.find? (fun x => p x && q x) = some a := by
  obtain ⟨hp, as, bs, rfl, before⟩ := List.find?_eq_some_iff_append.1 h
  refine List.find?_eq_some_iff_append.2 ⟨by simp [hp, hq], as, bs, rfl, fun x hx => ?_⟩
  have other : p x = false := by simpa using before x hx
  simp [other]

theorem State.serveRestore_resumes {r : PreReq} {id c : Nat} (found : s.fw.pre.find? (fun r => r.id == id) = some r)
    (open_ : r.done = false) (whole : r.team = none) (parked : (s.train r.train).parked = true) (restore : r.restore = some c)
    (below : c < 256) (fits : (s.trainPlaces r.train c).isSome = true) (quiet : r.ring = false) :
    ∃ first, (s.trainPlaces r.train first).isSome = true ∧
      s.serveRestore id = (s.resumeTrain r.train first (s.trainImage r.train r.image)).dropPre id := by
  obtain ⟨first, hf, fits'⟩ := State.firstFor_of_fits below fits
  refine ⟨first, fits', ?_⟩
  simp [State.serveRestore, find?_and_of_find? (q := fun r => !r.done) found (by simp [open_]), restore, whole, hf, parked, quiet]

/-! ### Answers of S-level (R367, R368) -/

/-- What stopping a team leaves as it is. -/
def State.unstopped (tr : Nat) (s : State) : Mem × Fw × Nat := (s.mem, s.fw, (s.train tr).launch)

theorem State.modTrain_unstopped (k : Nat) (f : Train → Train) (h : (f (s.train k)).launch = (s.train k).launch) :
    (s.modTrain k f).unstopped tr = s.unstopped tr := by
  have launch : ((s.modTrain k f).train tr).launch = (s.train tr).launch := by
    rw [State.train_modTrain]
    split
    next e => rw [h, e]
    next => rfl
  exact Prod.ext rfl (Prod.ext rfl launch)

theorem State.stopTeam_unstopped (s : State) (tk code : Nat) : (s.stopTeam tk code).unstopped tr = s.unstopped tr := by
  unfold State.stopTeam
  extract_lets keys clk s₁ free g s₂ s₃
  have h₁ : s₁.unstopped tr = s.unstopped tr := by
    refine foldl_keeps (State.unstopped tr) _ (fun _ _ => ?_) _ _
    rfl
  have h₃ : s₃.unstopped tr = s₂.unstopped tr := by
    refine State.modTrain_unstopped _ _ ?_
    rfl
  exact h₃.trans h₁

theorem State.endTrain_fails (s : State) (tr code team : Nat) :
    ((s.endTrain tr code team).train tr).failing = true ∧
    ((s.endTrain tr code team).launch (s.train tr).launch).fcode = code ∧
    (s.endTrain tr code team).fw.asked = s.fw.asked ∧ (s.endTrain tr code team).mem = s.mem := by
  unfold State.endTrain
  extract_lets s₁ s₂
  have h₁ : s₁.unstopped tr = s.unstopped tr := foldl_keeps (State.unstopped tr) _ (fun u tk => u.stopTeam_unstopped tk code) _ _
  have h₂ : s₂.unstopped tr = s.unstopped tr := (State.modTrain_unstopped _ _ rfl).trans h₁
  simp only [State.unstopped, Prod.mk.injEq] at h₂
  obtain ⟨mem, fw, launch⟩ := h₂
  refine ⟨?_, ?_, ?_, mem⟩
  · simp [s₂]
  · simp [launch]
  · show s₂.fw.asked = _
    rw [fw]

theorem State.dropAsks_asked (s : State) (tr : Nat) : ∀ y ∈ (s.dropAsks tr).fw.asked, y.train ≠ tr := by
  intro y hy
  simpa using (List.mem_filter.1 hy).2

theorem State.dropAsks_launch (s : State) (tr : Nat) : ((s.dropAsks tr).train tr).launch = (s.train tr).launch := by
  have kept := State.modTrain_unstopped (s := s) (tr := tr) tr (fun t => { t with holds := t.holds.filter fun h => match h.2 with
    | .answer _ => false
    | _ => true }) rfl
  exact congrArg (fun x : Mem × Fw × Nat => x.2.2) kept

theorem State.answerEnd_fails (a : Ask) :
    ((s.answerEnd a).train a.train).failing = true ∧ ((s.answerEnd a).launch (s.train a.train).launch).fcode = a.code ∧
    (∀ y ∈ (s.answerEnd a).fw.asked, y.train ≠ a.train) ∧ (s.answerEnd a).mem = s.mem := by
  obtain ⟨fails, code, asked, mem⟩ :=
    (s.dropAsks a.train).endTrain_fails a.train a.code (fieldOf ((s.dropAsks a.train).ringWord a.ix 4) 0 21)
  rw [s.dropAsks_launch] at code
  exact ⟨fails, code, asked ▸ s.dropAsks_asked a.train, mem⟩

theorem State.settleAsk_desc (a : Ask) (k : Nat) : ((s.settleAsk a).train k).desc = (s.train k).desc := by
  refine (congrArg Train.desc (s.train_modTrain a.train
    (fun t => { t with holds := t.holds.filter fun h => h.2 != Hold.answer a.ix }) k)).trans ?_
  split
  next e => rw [e]
  next => rfl

/-- A group resumed by S-level. -/
def Group.resumedAt (g : Group) (a : Ask) (pc : Addr48) : Group :=
  { g.setSlot a.alt { g.slot a.alt with pc := pc } with halted := false, hold := max g.hold (a.p + 8) }

theorem Group.slot_resumedAt (g : Group) (a : Ask) (pc : Addr48) : (g.resumedAt a pc).slot a.alt = { g.slot a.alt with pc := pc } := by
  unfold Group.resumedAt Group.setSlot Group.slot
  cases a.alt <;> rfl

theorem State.answerResume_of_single {a : Ask} {k : Nat} (can : a.resumable = true) (key : a.key = some k)
    (single : (s.train (s.group k).train).desc.twin = false) :
    s.answerResume a = (s.settleAsk a).modGroup k fun g => g.resumedAt a (BitVec.ofNat 48 (fieldOf (s.ringWord a.ix 1) 0 48)) := by
  have alone : (s.settleAsk a).withTwin k = [k] := by
    have twin : ((s.settleAsk a).train ((s.settleAsk a).group k).train).desc.twin = false := by
      rw [State.settleAsk_desc]
      exact single
    simp [State.withTwin, twin]
  simp only [State.answerResume, can, key, alone]
  rfl

section
variable {a : Ask} {k : Nat} (can : a.resumable = true) (key : a.key = some k) (single : (s.train (s.group k).train).desc.twin = false)
include can key single

theorem State.group_answerResume (o : Nat) : (s.answerResume a).group o =
    if o = k then (s.group k).resumedAt a (BitVec.ofNat 48 (fieldOf (s.ringWord a.ix 1) 0 48)) else s.group o := by
  rw [State.answerResume_of_single can key single, State.group_modGroup]
  rfl

theorem State.answerResume_mem : (s.answerResume a).mem = s.mem := by
  rw [State.answerResume_of_single can key single]
  rfl

theorem State.answerResume_asked : ∀ y ∈ (s.answerResume a).fw.asked, y.ix ≠ a.ix := by
  rw [State.answerResume_of_single can key single]
  intro y hy
  simpa using (List.mem_filter.1 hy).2

end

end

end Sys2Proof.Machine
end

section
/-!
O55. The events of a train, one by one (R31, R36, R54, R57, R58, R248, R324, R367, R374, R376, R425, R432).
-/

namespace Sys2Proof.Machine

/-- Settles O55, event by event: each case is the lemma about its event's function. -/
theorem trainEvents : Obligations.TrainEvents := by
  intro tr team slot ix id power draw page s x l committed
  refine ⟨?checks, ?aligns, ?early, ?boundary, ?dead, ?pod, ?own, ?overrun, ?unseen, ?low, ?pauses, ?places, ?unyielded, ?yields,
    ?ends, ?watchdog, ?lapses, ?restores, ?unasked, ?answersEnd, ?answersResume⟩
  case checks =>
    intro c i g busy count due
    exact ⟨_, happens_of_eq (if_pos (by simp [i, busy, count])), State.takeCheck_mem due, State.takeCheck_issueSlot due,
      State.takeCheck_faults due⟩
  case aligns =>
    intro c t0 v align clk bc
    have due : s.alignDue tr = true := by simpa [State.alignDue, align, x] using ⟨clk, bc⟩
    have train := State.releaseAlign_train align
    exact ⟨_, happens_of_eq (if_pos due), by rw [train], by rw [train], by rw [train], State.releaseAlign_mem align,
      State.releaseAlign_frees align, State.releaseAlign_teams align,
      fun w a b d who away waits => State.releaseAlign_saved align who away waits⟩
  case early => exact fun h => happens_of_eq (if_neg (by simp [h]))
  case boundary =>
    intro due single acts stores cmds groups teams trigs hall requests leases laps removals
    have idles : s.Idles tr := ⟨single, acts, stores, cmds, groups, teams, trigs, hall, requests, leases, laps, removals⟩
    have live := State.live_of_boundaryDue due
    obtain ⟨pod, snapped, train⟩ := s.passQuantum_train tr
    have passes : exec (.quantumBoundary tr) s = .next (s.passQuantum tr) :=
      happens_of_eq ((if_pos (by simp [due, idles.boundaryShort live])).trans (idles.boundary live))
    refine ⟨_, passes, ?_⟩
    rw [train]
    exact ⟨rfl, rfl, rfl, rfl, rfl, rfl, rfl⟩
  case dead => exact fun h => happens_of_eq (if_neg (Bool.eq_false_iff.1 h))
  case pod =>
    intro live pod n
    obtain ⟨train, offers⟩ := State.consume_of_pod_holds pod n
    exact ⟨_, happens_of_eq (if_pos live), by rw [train], by rw [train], offers⟩
  case own => exact fun live own => happens_of_eq ((if_pos live).trans (State.consume_of_own own))
  case overrun =>
    intro due
    have e := State.reportOverrun_of_due due
    refine ⟨s.reportOverrun tr, rfl, State.reportOverrun_train due, by rw [e]; rfl, by rw [e]; rfl, ?_⟩
    rw [e]
    exact State.wakeLevel_wakes _ 1
  case unseen => exact fun ht hp => happens_of_eq (if_neg (by simp [governorPeriod, envelopeWatts, ht, Nat.not_le.2 hp]))
  case low =>
    intro h
    exact ⟨_, happens_of_eq (if_pos (by simp [envelopeWatts, h])), State.governor_of_low h []⟩
  case pauses =>
    intro ht hp live free
    refine ⟨_, happens_of_eq ((if_pos (by simp [governorPeriod, ht])).trans (State.governor_pauses hp live free)), ?_, fun o ho => ?_⟩
    · simp [x]
    · simp [ho]
  case places => exact fun can queue => ⟨_, rfl, State.placeOne_counts can queue⟩
  case unyielded => exact fun h => happens_of_eq (if_neg (Bool.eq_false_iff.1 h))
  case yields =>
    exact fun tk b boundary live single saved yielded running ready back =>
      happens_of_eq ((if_pos boundary).trans (State.restoreYields_of_one live single saved yielded running ready back))
  case ends => rfl
  case watchdog => exact fun due none_ => ⟨_, rfl, State.watchdog_asks due none_⟩
  case lapses =>
    intro r found open_ undecided lapsed
    have named : r.id = id := by simpa using List.find?_some found
    refine ⟨_, happens_of_eq (State.drainLapsed_decides found open_ undecided lapsed), rfl, rfl, ?_⟩
    have same : committed r = s.hasCommitted r.train (s.preTeam r) := rfl
    simp [State.setPre, named, same]
  case restores =>
    intro r c found open_ whole parked restore below fits alone quiet
    obtain ⟨first, fits', e⟩ := State.serveRestore_resumes found open_ whole parked restore below fits quiet
    refine ⟨s.serveRestore id, happens_of_eq (by simp [found, whole, parked]), ?_, ?_⟩
    · rw [e]
      exact State.resumeTrain_runs fits' alone
    · rw [e]
      intro y hy
      simpa using (List.mem_filter.1 hy).2
  case unasked =>
    intro h
    have ended : s.answerEndIx ix = s := by simp [State.answerEndIx, h]
    have resumed : s.answerResumeIx ix = s := by simp [State.answerResumeIx, h]
    exact ⟨happens_of_eq ended, happens_of_eq resumed⟩
  case answersEnd =>
    intro a h
    have e : s.answerEndIx ix = s.answerEnd a := by simp [State.answerEndIx, h]
    exact ⟨_, happens_of_eq e, State.answerEnd_fails a⟩
  case answersResume =>
    intro a k h can key single
    have e : s.answerResumeIx ix = s.answerResume a := by simp [State.answerResumeIx, h]
    have group := State.group_answerResume can key single
    refine ⟨_, happens_of_eq e, ?_, ?_, ?_, State.answerResume_mem can key single, fun o ho => ?_,
      State.answerResume_asked can key single⟩
    · rw [group, if_pos rfl]
      rfl
    · rw [group, if_pos rfl]
      rfl
    · rw [group, if_pos rfl]
      rw [Group.slot_resumedAt]
    · rw [group, if_neg ho]

end Sys2Proof.Machine
end

section
/-!
SUPPORT. The first failing check of an instruction by the level, the role and the kind of core that issues it (R43, R208, R363, R365, R382).
-/

namespace Sys2Proof.Machine

/-- An instruction whose checks begin with those of `first` (R208). -/
def ChecksFirst (s : State) (first : List (Option Flt)) (i : Instr) : Prop :=
  ∃ cs e, exec i s = attempt s (first ++ cs) e

section
variable {s : State}

theorem ChecksFirst.raises {first : List (Option Flt)} {i : Instr} {f : Flt} (k : ChecksFirst s first i)
    (h : first.findSome? id = some f) : exec i s = .next (s.raise f) := by
  obtain ⟨cs, e, k⟩ := k
  rw [k]
  exact attempt_fail s _ e f (by rw [List.findSome?_append, h, Option.some_or])

theorem ChecksFirst.of_append {a b : List (Option Flt)} {i : Instr} (k : ChecksFirst s (a ++ b) i) : ChecksFirst s a i := by
  obtain ⟨cs, e, k⟩ := k
  exact ⟨b ++ cs, e, by rw [k, List.append_assoc]⟩

theorem chkTrain_of_compute (h : s.cur.cmd = false) : chkTrain s = none := check_pass _ _ (by simp [h])

theorem chkTrain_of_command (h : s.cur.cmd = true) : chkTrain s = some (fltIllegal s) := check_fail _ _ (by simp [h])

theorem chkLevel_of_below {level : Nat} (h : s.cur.cmd = false ∨ (s.cmdCore s.cur.key).level < level) :
    chkLevel s level = some { code := 5 } := by
  refine check_fail _ _ (Bool.and_eq_false_iff.2 (h.imp id fun h => ?_))
  simpa using h

theorem chkRegs_eq_or (s : State) (vs : List Nat) : chkRegs s vs = none ∨ chkRegs s vs = some (fltIllegal s) := ite_eq_or_eq _ _ _

/-- A check after those of the instruction's run fails (R208). -/
theorem ChecksFirst.raises_second {c : Option Flt} {i : Instr} {f : Flt} (k : ChecksFirst s [chkRegs s [], c] i) (r : s.ready [] [])
    (h : c = some f) : exec i s = .next (s.raise f) := k.raises (by simp [chkRegs_ready s [] [] r, h])

/-- Where a train is needed, a command core's instruction is illegal (R363). -/
theorem ChecksFirst.illegal {i : Instr} (k : ChecksFirst s [chkTrain s] i) (h : s.cur.cmd = true) :
    exec i s = .next (s.raise (fltIllegal s)) := k.raises (by simp [chkTrain_of_command h])

/-- A worker group's instruction of class 6 raises a role fault (R43). -/
theorem ChecksFirst.worker {vs : List Nat} {i : Instr} (k : ChecksFirst s [chkTrain s, chkRegs s vs, chkRole s] i) (r : s.ready vs [])
    (h : s.cur.cmd = false) (worker : s.me.conductor = false) : exec i s = .next (s.raise { code := 4 }) :=
  k.raises (by simp [chkTrain_of_compute h, chkRegs_ready s vs [] r, chkRole, check, worker])

end

/-- Settles O44: of each group of instructions, the check that fails comes before any effect. -/
theorem privilegeFaults : Obligations.PrivilegeFaults := by
  intro h x force neg dst sa sb sc n tile ofs spkg flow m imm tgt rcv o a f c e l p g y s below denied engine
  have role : ∀ i ∈ engine ++ [.tbase h sa imm], ChecksFirst s [chkTrain s, chkRegs s [], chkRole s] i := by
    simp only [engine, List.cons_append, List.nil_append, List.forall_mem_cons]
    and_intros
    on_goal 25 => exact fun _ k => nomatch k
    all_goals exact ⟨_, _, rfl⟩
  have accrd : ChecksFirst s [chkTrain s, chkRegs s (if a.dk then accRegs s.me.width a else []), chkRole s] (.accrd h a) := ⟨_, _, rfl⟩
  have brd : ChecksFirst s [chkTrain s] (.brd h m neg tgt rcv) := by
    rw [ChecksFirst, exec_brd, execBrd]
    exact ⟨_, _, rfl⟩
  have join : ChecksFirst s [chkTrain s] (.join h) := by
    rw [ChecksFirst, exec_join, execJoin]
    exact ⟨_, _, rfl⟩
  have talign : ChecksFirst s [chkTrain s] (.talign h dst sa sb) := by
    rw [ChecksFirst, exec_talign, execTalign]
    exact ⟨_, _, rfl⟩
  have tret : ChecksFirst s [chkRegs s [], chkReturn s (s.holds h)] (.tret h) := by
    rw [ChecksFirst, exec_tret, execTret]
    exact ⟨_, _, rfl⟩
  have yield : ChecksFirst s [chkRegs s [], chkTrain s] (.yield h y) := ⟨_, _, rfl⟩
  have leveled (i : Instr) (level : Nat) (r : s.ready [] []) (b : below level) (k : ChecksFirst s [chkRegs s [], chkLevel s level] i) :
      denied i := k.raises_second r (chkLevel_of_below b)
  refine ⟨fun r => ⟨fun b => ?firmware, fun b => ?machine, fun b => ?writes, fun cmd low => ?reads, fun cmd unread => ?program,
    fun cmd outside => ?returns, fun cmd worker i hi => (role i hi).worker r cmd worker⟩, fun r cmd worker => ?accrd, fun cmd => ?command⟩
  case firmware =>
    and_intros
    on_goal 7 => exact leveled _ 1 r b ⟨_, _, exec_wdog h sa sb s⟩
    all_goals exact leveled _ 1 r b ⟨_, _, rfl⟩
  case machine => exact ⟨leveled _ 2 r b ⟨_, _, rfl⟩, leveled _ 2 r b ⟨_, _, rfl⟩⟩
  case writes => exact leveled _ _ r b ⟨_, _, rfl⟩
  case reads => exact ChecksFirst.raises_second (c := chkRegRead s n) ⟨_, _, exec_sysr h dst n s⟩ r (check_fail _ _ (by simpa [cmd] using low))
  case program => exact ChecksFirst.raises_second (c := chkRegRead s n) ⟨_, _, exec_sysr h dst n s⟩ r (check_fail _ _ (by simpa [cmd] using unread))
  case returns =>
    exact ChecksFirst.raises_second (c := chkReturn s (s.holds h)) tret r (check_fail _ _ (by simpa [cmd] using outside))
  case accrd =>
    refine accrd.worker ?_ cmd worker
    cases a.dk
    · exact ⟨fun _ k => (nomatch k), r.2⟩
    · exact r
  case command =>
    rw [List.forall_mem_append]
    refine ⟨fun i hi => ((role i (List.mem_append_left _ hi)).of_append (a := [chkTrain s])).illegal cmd, ?_⟩
    simp only [List.forall_mem_cons]
    have yields : exec (.yield h y) s = .next (s.raise (fltIllegal s)) := by
      refine yield.raises ?_
      rcases chkRegs_eq_or s [] with run | run <;> simp [run, chkTrain_of_command cmd]
    exact ⟨(accrd.of_append (a := [chkTrain s])).illegal cmd, brd.illegal cmd, join.illegal cmd, ChecksFirst.illegal ⟨_, _, rfl⟩ cmd,
      ChecksFirst.illegal ⟨_, _, rfl⟩ cmd, ChecksFirst.illegal ⟨_, _, rfl⟩ cmd, ChecksFirst.illegal ⟨_, _, rfl⟩ cmd,
      talign.illegal cmd, yields, ChecksFirst.illegal ⟨_, _, rfl⟩ cmd, fun _ k => nomatch k⟩

end Sys2Proof.Machine
end

section
/-!
SUPPORT. TBASE, TWAIT, TVEC and TALIGN, whose waiting teams fault together where their operands differ (R58, R246 to R248, R250).
-/

namespace Sys2Proof.Machine

section
variable {s : State}

/-- The checks of the instructions that only a train's group may issue. -/
theorem attempt_train_ready (cmd : s.cur.cmd = false) (r : s.ready [] []) (e : State → State) :
    attempt s [chkTrain s, chkRegs s []] e = .next (e s) :=
  attempt_pass s _ e (by simp [chkTrain_of_compute cmd, chkRegs_ready s [] [] r])

/-! ### Faults of waiting groups (R58) -/

/-- The fault of a group that waits at a TALIGN of train `tr`, which holds its address and slot. -/
def State.waitFault (s : State) (tr : Nat) (w : Nat × Nat) : FaultRec :=
  { team := (s.group w.1).team, group := (s.group w.1).idx, key := w.1, code := 10, lane := 255, tcode := 0, resume := BitVec.ofNat 48 w.2
    alt := bitOf w.2 48, t2 := 0, p := (s.train tr).clk, pvc := (s.train tr).vc, align := true }

/-- The faults of the groups `ws` that wait at a TALIGN of the issuer's train. -/
def State.faultWaiting (ws : List (Nat × Nat)) (s : State) : State :=
  ws.foldl (fun t w => t.blockedFault t.cur.train w.1 (BitVec.ofNat 48 w.2) (bitOf w.2 48) true) s

@[simp] theorem State.faultWaiting_mem (ws : List (Nat × Nat)) : (s.faultWaiting ws).mem = s.mem :=
  foldl_keeps State.mem (fun t _ => State.blockedFault t _ _ _ _ _) (fun _ _ => rfl) ws s

@[simp] theorem State.faultWaiting_cur (ws : List (Nat × Nat)) : (s.faultWaiting ws).cur = s.cur :=
  foldl_keeps State.cur (fun t _ => State.blockedFault t _ _ _ _ _) (fun _ _ => rfl) ws s

@[simp] theorem State.faultWaiting_groups (ws : List (Nat × Nat)) : (s.faultWaiting ws).grid.groups = s.grid.groups :=
  foldl_keeps (fun s => s.grid.groups) (fun t _ => State.blockedFault t _ _ _ _ _) (fun _ _ => rfl) ws s

theorem State.faultWaiting_train (ws : List (Nat × Nat)) (s : State) : (s.faultWaiting ws).train s.cur.train =
    { s.train s.cur.train with faults := (s.train s.cur.train).faults ++ ws.map (s.waitFault s.cur.train) } := by
  induction ws generalizing s with
  | nil => simp [State.faultWaiting]
  | cons w ws ih =>
    have step := ih (s.blockedFault s.cur.train w.1 (BitVec.ofNat 48 w.2) (bitOf w.2 48) true)
    have train : (s.blockedFault s.cur.train w.1 (BitVec.ofNat 48 w.2) (bitOf w.2 48) true).train s.cur.train =
        { s.train s.cur.train with faults := (s.train s.cur.train).faults ++ [s.waitFault s.cur.train w] } := by
      simp [State.blockedFault, State.waitFault]
    have cur : (s.blockedFault s.cur.train w.1 (BitVec.ofNat 48 w.2) (bitOf w.2 48) true).cur = s.cur := rfl
    have same : (s.blockedFault s.cur.train w.1 (BitVec.ofNat 48 w.2) (bitOf w.2 48) true).waitFault s.cur.train =
        s.waitFault s.cur.train := by
      funext v
      simp only [State.waitFault, train]
      rfl
    rw [cur, train, same] at step
    simpa [State.faultWaiting] using step

/-- What the TALIGNs of a train leave of it where they fault together. -/
theorem State.alignFaults_train (cmd : s.cur.cmd = false) : s.alignFaults.train s.cur.train =
    { s.myTrain with
      alignWho := [], alignBad := some s.now
      faults := s.myTrain.faults ++ s.faultOf { code := 10, align := true } :: s.myTrain.alignWho.map (s.waitFault s.cur.train) } := by
  let r := s.raise { code := 10, align := true }
  have raised : r = { s.withFault (s.faultOf { code := 10, align := true }) with cur := { s.cur with failed := true }, fresh := s.fresh + 1 } :=
    s.raise_of_compute cmd _
  have train : r.train s.cur.train =
      { s.myTrain with faults := s.myTrain.faults ++ [s.faultOf { code := 10, align := true }] } := by
    rw [raised]
    exact s.train_withFault _
  have same : r.waitFault s.cur.train = s.waitFault s.cur.train := by
    funext w
    simp only [State.waitFault, train]
    rw [raised]
    rfl
  have cur : r.cur.train = s.cur.train := by rw [raised]
  have waiting := r.faultWaiting_train s.myTrain.alignWho
  rw [cur, train, same] at waiting
  have all : s.alignFaults = (r.faultWaiting s.myTrain.alignWho).modTrain r.cur.train
      fun t => { t with alignWho := [], alignBad := some s.now } := rfl
  rw [all, cur, State.train_modTrain, if_pos rfl, waiting]
  simp

theorem State.alignFaults_keeps (cmd : s.cur.cmd = false) : s.alignFaults.mem = s.mem ∧ s.alignFaults.grid.groups = s.grid.groups ∧
    s.alignFaults.cur = { s.cur with failed := true } := by
  have all : s.alignFaults = ((s.raise { code := 10, align := true }).faultWaiting s.myTrain.alignWho).modTrain _
      fun t => { t with alignWho := [], alignBad := some s.now } := rfl
  rw [all]
  simp only [State.modTrain_mem, State.modTrain_groups, State.modTrain_cur, State.faultWaiting_mem, State.faultWaiting_groups,
    State.faultWaiting_cur, s.raise_of_compute cmd]
  exact ⟨rfl, rfl, trivial⟩

/-! ### TALIGN (R58, R248) -/

theorem State.alignDiffers_iff {t v : W64} : s.alignDiffers t v = true ↔
    ∃ w ∈ s.myTrain.alignWho, ∃ t' v' d, (s.group w.1).block = .talign t' v' d ∧ (t' ≠ t ∨ v' ≠ v) := by
  simp only [State.alignDiffers, List.any_eq_true]
  refine exists_congr fun w => and_congr_right fun _ => ?_
  cases (s.group w.1).block <;> simp

theorem State.alignedTeam_eq_false (h : ∀ w ∈ s.myTrain.alignWho, (s.group w.1).team ≠ s.cur.team) : s.alignedTeam = false := by
  simpa [State.alignedTeam, List.any_eq_false] using fun w k hw => h (w, k) hw

/-- A TALIGN that its checks let issue faults with the waiting ones, or waits. -/
theorem execTalign_of_issue (cmd : s.cur.cmd = false) {h : Head} {dst : Nat} (sa sb : Nat) (runs : s.holds h = true)
    (ready : s.ready [] [.scal dst]) (conductor : s.me.conductor = true)
    (single : ∀ w ∈ s.myTrain.alignWho, (s.group w.1).team ≠ s.cur.team) :
    exec (.talign h dst sa sb) s = .next (
      if s.alignDiffers (s.scalar sa) (s.scalar sb) || s.myTrain.alignBad == some s.now then s.alignFaults
      else ((s.owe (.scal dst)).block (.talign (s.scalar sa) (s.scalar sb) (s.boundDst dst))).modTrain s.cur.train fun x =>
        { x with alignWho := x.alignWho ++ [(s.cur.key, s.cur.addr.toNat + 2 ^ 48 * s.cur.alt.toNat)] }) := by
  rw [exec_talign, execTalign, attempt_pass]
  · simp only [runs]
    rfl
  · simp [chkTrain_of_compute cmd, chkRegs_ready s [] _ ready, chkPend_ready s [] _ ready, State.alignedTeam_eq_false single, conductor,
      runs, check]

theorem State.isPending_owe (s : State) (d : Dst) : (s.owe d).isPending d = true := by
  have same : (s.owe d).dstReg d = s.dstReg d := rfl
  simp only [State.isPending, same, Bool.or_eq_true, List.any_eq_true]
  exact .inr ⟨_, List.mem_append_right _ (List.mem_singleton_self _), by simp [State.owe]⟩

@[simp] theorem State.me_block (s : State) (b : Block) : (s.block b).me = { s.me with block := b } := by simp [State.me, State.block]

theorem State.dstReg_block (b : Block) (d : Dst) : (s.block b).dstReg d = s.dstReg d := by
  have bank : (s.block b).bank = s.bank := by
    rw [State.bank, State.me_block]
    rfl
  cases d <;> simp only [State.dstReg, State.scalarDst, bank]

theorem State.isPending_block (s : State) (b : Block) (d : Dst) : (s.block b).isPending d = s.isPending d := by
  rw [State.isPending, State.dstReg_block]
  rfl

end

/-- Settles O34: each instruction by its checks, and TALIGN by whether the waiting ones have its operands. -/
theorem timeAndVector : Obligations.TimeAndVector := by
  intro h sa sb dst o imm x s cmd r
  refine ⟨fun off => ⟨fun conductor => ?_, ?_, ?_, ?_⟩, fun runs => ⟨fun conductor => ?_, ?_, ?_, fun ready conductor single good same => ?_,
    fun ready conductor single differ => ?_⟩⟩
  · rw [exec_tbase, execTbase, attempt_pass]
    · simp [off]
    · simp [chkTrain_of_compute cmd, chkRegs_ready s [] [] r, chkRole, check, conductor]
  · rw [exec_twait, execTwait, attempt_train_ready cmd r]
    simp [off]
  · rw [exec_tvec, execTvec.eq_def, attempt_train_ready cmd r]
    simp [off]
  · rw [exec_talign, execTalign, attempt_pass]
    · simp [off]
    · simp [chkTrain_of_compute cmd, chkRegs_ready s [] [] r, check, off]
  · rw [exec_tbase, execTbase, attempt_pass]
    · simp only [runs, if_true, State.later_result]
      cases imm <;> rfl
    · simp [chkTrain_of_compute cmd, chkRegs_ready s [] [] r, chkRole, check, conductor]
  · rw [exec_twait, execTwait, attempt_train_ready cmd r]
    simp only [runs, if_true]
    rfl
  · rw [exec_tvec, execTvec.eq_def, attempt_train_ready cmd r]
    simp only [runs, if_true, State.later_result]
    cases x <;> rfl
  · have agree : s.alignDiffers (s.scalar sa) (s.scalar sb) = false := by
      rw [Bool.eq_false_iff, ne_eq, State.alignDiffers_iff]
      rintro ⟨w, hw, t, v, d, block, differ⟩
      obtain ⟨ht, hv⟩ := same w hw t v d block
      exact differ.elim (· ht) (· hv)
    refine ⟨_, execTalign_of_issue cmd sa sb runs ready conductor single, ?_⟩
    rw [if_neg (by simp [agree, good])]
    refine ⟨congrArg Group.block ((s.owe (.scal dst)).me_block _), ((s.owe (.scal dst)).isPending_block _ _).trans (s.isPending_owe _), rfl, ?_⟩
    exact congrArg Train.alignWho ((State.train_modTrain _ _ _ _).trans (if_pos rfl))
  · obtain ⟨mem, groups, cur⟩ := State.alignFaults_keeps cmd
    have train := State.alignFaults_train cmd
    have mine : s.alignFaults.myTrain = s.alignFaults.train s.cur.train := by rw [State.myTrain, cur]
    refine ⟨s.alignFaults, (execTalign_of_issue cmd sa sb runs ready conductor single).trans ?_, by rw [cur], mem, groups, ?_⟩
    · rw [if_pos (by simp [State.alignDiffers_iff.2 differ])]
    · rw [mine, train]
      refine ⟨rfl, rfl, by simp; omega, ?_⟩
      rintro k (rfl | ⟨w, hw, rfl⟩)
      · exact ⟨s.faultOf { code := 10, align := true }, by simp, rfl, rfl, rfl⟩
      · exact ⟨s.waitFault s.cur.train w, List.mem_append_right _ (List.mem_cons_of_mem _ (List.mem_map_of_mem hw)), rfl, rfl, rfl⟩

end Sys2Proof.Machine
end

section
/-!
SUPPORT. Lanes and their checks, and buffered stores: what a store of the issuing group leaves as it was (R55, R56, R280, R281, R285).
-/

namespace Sys2Proof.Machine

/-! ### Lanes (R280, R281) -/

/-- The first element of a rising list for which a test holds is the lowest. -/
theorem find?_of_lowest {p : Nat → Bool} {l : Nat} : ∀ {xs : List Nat}, xs.Pairwise (· < ·) → l ∈ xs → p l = true →
    (∀ k ∈ xs, k < l → p k = false) → xs.find? p = some l
  | x :: xs, rising, hl, hp, low => by
    obtain ⟨above, rest⟩ := List.pairwise_cons.1 rising
    rcases List.mem_cons.1 hl with rfl | hl
    · rw [List.find?_cons, hp]
    · rw [List.find?_cons, low x (by simp) (above l hl)]
      exact find?_of_lowest rest hl hp fun k hk => low k (by simp [hk])

section
variable (s : State) (h : Head)

theorem State.live_rising : (s.live h).Pairwise (· < ·) := List.pairwise_lt_range.filter _

theorem State.lt_width_of_live {l : Nat} (hl : l ∈ s.live h) : l < s.me.width := List.mem_range.1 (List.mem_filter.1 hl).1

theorem MAddr.ea_lanes (a : MAddr) : a.ea s = (List.range s.me.width).map (a.lane s) := by
  have offsets : (if a.nov then List.replicate s.me.width (0 : Int) else (s.me.vec a.sb).map fun x => if a.vs then x.toInt else x.toNat) =
      (List.range s.me.width).map fun l => if a.nov then 0 else if a.vs then (s.v a.sb l).toInt else (s.v a.sb l).toNat := by
    cases a.nov
    · simp only [Group.vec_eq, List.map_map]
      rfl
    · simp [List.map_const']
  simp only [MAddr.ea, offsets, List.map_map]
  refine List.map_congr_left fun l _ => ?_
  cases i : a.imm <;> simp [MAddr.lane, wrapOf, i]

theorem MAddr.lanes_live (a : MAddr) : a.lanes s h = (s.live h).map fun l => (l, a.lane s l) := by
  rw [MAddr.lanes, MAddr.ea_lanes, pick_map]
  rfl

theorem State.dataOf_lanes (sz r : Nat) : s.dataOf sz r = (List.range s.me.width).map (s.dataLane sz r) := by
  unfold State.dataOf
  split
  case isTrue q =>
    simp only [State.pair, Group.vec_eq, zipWith_lanes, List.map_map]
    refine List.map_congr_left fun l _ => ?_
    have lo := (s.v r l).isLt
    have joined : ((s.v (r + 1) l).append (s.v r l)).toNat = (s.v r l).toNat + 2 ^ 32 * (s.v (r + 1) l).toNat := by
      rw [BitVec.append_eq, BitVec.toNat_append, Nat.shiftLeft_eq, Nat.mul_comm, ← Nat.two_pow_add_eq_or_of_lt lo, Nat.add_comm]
    rw [State.dataLane, if_pos q, ← joined]
    rfl
  case isFalse q =>
    simp only [Group.vec_eq, List.map_map]
    refine List.map_congr_left fun l _ => ?_
    simp [State.dataLane, q, State.v]

theorem State.nth_dataOf (sz r : Nat) {l : Nat} (hl : l ∈ s.live h) : nth 0 (s.dataOf sz r) l = s.dataLane sz r l := by
  rw [State.dataOf_lanes, nth_getElem _ _ _ (by simpa using s.lt_width_of_live h hl)]
  simp

/-- Every active lane passes a lane check. -/
theorem chkLanes_of_all {code : Nat} {ok : Nat → Bool} (f : Nat → Nat) (all : ∀ l ∈ s.live h, ok (f l) = true) :
    chkLanes code ((s.live h).map fun l => (l, f l)) ok = none := by
  simpa [chkLanes] using all

/-- The lowest active lane that fails a lane check raises its fault (R281). -/
theorem chkLanes_of_lowest {code l : Nat} {ok : Nat → Bool} (f : Nat → Nat) (low : s.lowest h l fun k => ok (f k) = false) :
    chkLanes code ((s.live h).map fun l => (l, f l)) ok = some { code := code, lane := l, t2 := BitVec.ofNat 64 (f l) } := by
  obtain ⟨hl, bad, good⟩ := low
  have found := find?_of_lowest (p := fun k => !ok (f k)) (s.live_rising h) hl (by simp [bad]) fun k hk lt => by simpa using good k hk lt
  rw [chkLanes, List.find?_map]
  simp [found]

end

/-! ### Buffered stores (R55, R56, R285) -/

/-- The state with other teams and more stores in the buffer. -/
def State.withStores (s : State) (teams : List (Nat × Team)) (bs : List BufStore) : State :=
  { s with grid := { s.grid with teams := teams, stores := s.grid.stores ++ bs, ord := s.grid.ord + bs.length } }

/-- `t` is `s` with the stores `bs` of the issuing group's team in the buffer: of the teams only the lines of that one may differ. -/
def State.Buffers (s t : State) (bs : List BufStore) : Prop :=
  ∃ teams, t = s.withStores teams bs ∧ (∀ k, k ≠ s.myTeamKey → t.team k = s.team k) ∧ ∃ ls, t.myTeam = { s.myTeam with lines := ls }

/-- The `i`-th store from now on that the issuing group makes: position, tagged place and bytes. -/
def State.storeOf (s : State) (i pos x : Nat) (data : List Byte) : BufStore :=
  { train := s.cur.train, team := s.cur.team, group := s.me.idx, pos := pos, ord := s.grid.ord + i, clk := s.now
    level := x / 2 ^ 56, ia := x % 2 ^ 56, data := data }

section
variable {s t u : State}

theorem State.Buffers.refl (s : State) : s.Buffers s [] := ⟨s.grid.teams, by simp [State.withStores], fun _ _ => rfl, s.myTeam.lines, rfl⟩

theorem State.Buffers.trans {bs cs : List BufStore} (h : s.Buffers t bs) (k : t.Buffers u cs) : s.Buffers u (bs ++ cs) := by
  obtain ⟨a, rfl, others, ls, mine⟩ := h
  obtain ⟨b, rfl, others', ls', mine'⟩ := k
  refine ⟨b, ?_, fun k hk => (others' k hk).trans (others k hk), ls', ?_⟩
  · simp [State.withStores, Nat.add_assoc]
  · rw [mine', mine]

theorem State.touchLine_team (s : State) (ia n : Nat) : ∃ ls, (s.touchLine ia n).team s.myTeamKey = { s.myTeam with lines := ls } :=
  ⟨_, (State.team_modTeam _ _ _ _).trans (if_pos rfl)⟩

theorem State.touchLine_other (s : State) (ia n : Nat) {k : Nat} (h : k ≠ s.myTeamKey) : (s.touchLine ia n).team k = s.team k :=
  (State.team_modTeam _ _ _ _).trans (if_neg h)

theorem State.bufferStore_buffers (s : State) (pos x : Nat) (data : List Byte) :
    s.Buffers (s.bufferStore pos (tagLevel x) (tagAddr x) data) [s.storeOf 0 pos x data] :=
  ⟨(s.touchLine (tagAddr x) data.length).grid.teams, rfl, fun _ => s.touchLine_other (tagAddr x) data.length,
    s.touchLine_team (tagAddr x) data.length⟩

/-- Stores made one after another, each at the place of its page. -/
theorem State.foldl_bufferStore (data : Nat × Nat × Nat → List Byte) (ps : List (Nat × Nat × Nat)) (s : State) :
    s.Buffers
      (ps.foldl (fun s p => s.bufferStore p.1 (tagLevel (s.place p.2.1 p.2.2)) (tagAddr (s.place p.2.1 p.2.2)) (data p)) s)
      (ps.mapIdx fun i p => s.storeOf i p.1 (s.place p.2.1 p.2.2) (data p)) := by
  induction ps generalizing s with
  | nil => exact .refl s
  | cons p ps ih =>
    have first := s.bufferStore_buffers p.1 (s.place p.2.1 p.2.2) (data p)
    have rest := ih (s.bufferStore p.1 (tagLevel (s.place p.2.1 p.2.2)) (tagAddr (s.place p.2.1 p.2.2)) (data p))
    obtain ⟨teams, e, -⟩ := first
    have later (i : Nat) (q : Nat × Nat × Nat) : (s.withStores teams [s.storeOf 0 p.1 (s.place p.2.1 p.2.2) (data p)]).storeOf i q.1
        ((s.withStores teams [s.storeOf 0 p.1 (s.place p.2.1 p.2.2) (data p)]).place q.2.1 q.2.2) (data q) =
        s.storeOf (i + 1) q.1 (s.place q.2.1 q.2.2) (data q) := by
      simp only [State.storeOf, State.withStores, List.length_singleton, Nat.add_assoc, Nat.add_comm 1]
      rfl
    rw [e] at rest
    simp only [later] at rest
    rw [List.foldl_cons, List.mapIdx_cons, e]
    exact State.Buffers.trans (e ▸ s.bufferStore_buffers _ _ _) rest

/-- The stores of all active lanes, lane by lane and page by page. -/
theorem State.foldl_storeParts (s : State) (h : Head) (sz dst n : Nat) (a : Nat → Nat) :
    ((s.live h).map fun l => (l, a l)).foldl (fun t p => t.storeParts p.1 p.2 (leBytes n (nth 0 (s.dataOf sz dst) p.1))) s =
      ((s.live h).flatMap fun l => (pieces (a l) n).map fun q => (l, q)).foldl
        (fun t p => t.bufferStore p.1 (tagLevel (t.place p.2.1 p.2.2)) (tagAddr (t.place p.2.1 p.2.2))
          (((leBytes n (s.dataLane sz dst p.1)).drop (p.2.1 - a p.1)).take p.2.2)) s := by
  rw [List.foldl_map, List.foldl_flatMap]
  refine List.foldl_ext _ _ _ fun t l hl => ?_
  rw [List.foldl_map, s.nth_dataOf h sz dst hl, State.storeParts, leBytes_length]

end

/-- Settles O21: the checks lane by lane, then the stores one after another. -/
theorem globalStoresAreBuffered : Obligations.GlobalStoresAreBuffered := by
  intro h dst a s cmd n parts mapped fault r
  have regs : chkRegs s (memRegs a (dataRegs a.sz dst)) = none := chkRegs_ready s _ _ r
  have issued : exec (.stg h dst a) s = attempt s (chkRegs s (memRegs a (dataRegs a.sz dst)) :: chkGlobal s .store permW n 1 (a.lanes s h))
      fun s' => (a.lanes s h).foldl (fun t p => t.storeParts p.1 p.2 (leBytes n (nth 0 (s.dataOf a.sz dst) p.1))) s' := by
    rw [exec_stg, execStg]
    simp only [cmd]
    rfl
  have inside (l : Nat) : (a.lane s l % 1 == 0 && (s.xlat [permW] (a.lane s l) n).isSome) = (s.xlat [permW] (a.lane s l) n).isSome := by
    simp [Nat.mod_one]
  refine ⟨fun l low => ?_, fun all l low => ?_, fun all => ?_⟩
  · refine issued.trans (attempt_fail s _ _ _ ?_)
    rw [MAddr.lanes_live]
    have bad := chkLanes_of_lowest s h (code := 8) (ok := fun va => va % 1 == 0 && (s.xlat [permW] va n).isSome) (a.lane s)
      (by simpa [inside, mapped] using low)
    simp [regs, chkGlobal, bad]
  · refine issued.trans (attempt_fail s _ _ _ ?_)
    rw [MAddr.lanes_live]
    have good := chkLanes_of_all s h (code := 8) (ok := fun va => va % 1 == 0 && (s.xlat [permW] va n).isSome) (a.lane s)
      (by simpa [inside, mapped] using all)
    have bad := chkLanes_of_lowest s h (code := 9) (ok := fun va => s.leased .store va n) (a.lane s) low
    simp [regs, chkGlobal, good, bad]
  · have good := chkLanes_of_all s h (code := 8) (ok := fun va => va % 1 == 0 && (s.xlat [permW] va n).isSome) (a.lane s)
      fun l hl => by simpa [inside] using (all l hl).2.1
    have free := chkLanes_of_all s h (code := 9) (ok := fun va => s.leased .store va n) (a.lane s) fun l hl => (all l hl).2.2
    refine ⟨_, issued.trans (attempt_pass s _ _ ?_), ?_⟩
    · rw [MAddr.lanes_live]
      simp [regs, chkGlobal, good, free]
    · rw [MAddr.lanes_live, State.foldl_storeParts]
      obtain ⟨teams, e, others, mine⟩ := s.foldl_bufferStore _ parts
      rw [e] at others mine ⊢
      exact ⟨rfl, rfl, rfl, rfl, rfl, rfl, rfl, rfl, rfl, rfl, others, mine, rfl⟩

end Sys2Proof.Machine
end

section
/-!
SUPPORT. The two slots of a group and its divergence stack: a push, in the group's share or as a store of the spill area, and the split of the
issuing slot's lanes (R38, R40, R85, R238).
-/

namespace Sys2Proof.Machine

/-! ### Slots of a group -/

section
variable (g : Group) (alt b : Bool) (p : PcSlot)

@[simp] theorem Group.slot_setSlot : (g.setSlot alt p).slot b = if b = alt then p else g.slot b := by
  cases alt <;> cases b <;> rfl
@[simp] theorem Group.stack_setSlot : (g.setSlot alt p).stack = g.stack := by cases alt <;> rfl
@[simp] theorem Group.hold_setSlot : (g.setSlot alt p).hold = g.hold := by cases alt <;> rfl
@[simp] theorem Group.vreg_setSlot : (g.setSlot alt p).vreg = g.vreg := by cases alt <;> rfl
@[simp] theorem Group.sreg_setSlot : (g.setSlot alt p).sreg = g.sreg := by cases alt <;> rfl
@[simp] theorem Group.mreg_setSlot : (g.setSlot alt p).mreg = g.mreg := by cases alt <;> rfl

end

section
variable {s : State}

@[simp] theorem State.me_modGroup (s : State) (f : Group → Group) : (s.modGroup s.cur.key f).me = f s.me := by simp [State.me]

/-! ### The alternation of two issuable slots (R41) -/

theorem State.alternate_cases (b : Group) (s : State) :
    s.alternate b = s ∨ s.alternate b = s.modGroup s.cur.key fun g => { g with altNext := false } := (ite_eq_or_eq _ _ _).symm

@[simp] theorem State.alternate_mem (b : Group) (s : State) : (s.alternate b).mem = s.mem := by
  rcases s.alternate_cases b with e | e <;> rw [e]; rfl
@[simp] theorem State.alternate_cur (b : Group) (s : State) : (s.alternate b).cur = s.cur := by
  rcases s.alternate_cases b with e | e <;> rw [e]; rfl
@[simp] theorem State.alternate_stores (b : Group) (s : State) : (s.alternate b).grid.stores = s.grid.stores := by
  rcases s.alternate_cases b with e | e <;> rw [e]; rfl

theorem State.alternate_me (b : Group) (s : State) : ∃ next, (s.alternate b).me = { s.me with altNext := next } := by
  rcases s.alternate_cases b with e | e
  · exact ⟨s.me.altNext, by rw [e]⟩
  · exact ⟨false, by rw [e, State.me_modGroup]⟩

theorem State.alternate_other (b : Group) (s : State) {k : Nat} (h : k ≠ s.cur.key) : (s.alternate b).group k = s.group k := by
  rcases s.alternate_cases b with e | e <;> rw [e]
  rw [State.group_modGroup, if_neg h]

/-! ### Pushes (R40, R85) -/

/-- The place of the spill area's entry `i`, as the model keys addresses. -/
def State.spillPlace (s : State) (i : Nat) : Nat := s.place ((s.spillAt i).getD 0) 32

theorem State.spillAt_of_le {i : Nat} (h : 32 * (i + 1) ≤ (s.myTrain.desc.spillPart s.myTeam.idx s.me.idx).2) :
    s.spillAt i = some ((s.myTrain.desc.spillPart s.myTeam.idx s.me.idx).1 + 32 * i) := if_pos h

theorem State.spillAt_of_lt {i : Nat} (h : (s.myTrain.desc.spillPart s.myTeam.idx s.me.idx).2 < 32 * (i + 1)) : s.spillAt i = none :=
  if_neg (by omega)

theorem State.pushSpills_iff : s.pushSpills = true ↔ 8 * partDivg s.myTrain.desc.part ≤ s.me.stack.length := by
  simp [State.pushSpills]

/-- An entry within the group's share stays in it. -/
theorem State.pushSlot_of_share (h : s.pushSpills = false) (p : PcSlot) :
    s.pushSlot p = s.modGroup s.cur.key fun g => { g with stack := .share { p with waiting := false } :: g.stack } := by
  simp [State.pushSlot, h]

/-- What a push into the spill area leaves: a store of the entry's bytes, and the hold. -/
theorem State.pushSlot_of_spill (h : s.pushSpills = true) (p : PcSlot) :
    (s.pushSlot p).cur = s.cur ∧ (s.pushSlot p).mem = s.mem ∧
    (s.pushSlot p).me = { s.me with stack := .spilled :: s.me.stack, hold := max s.me.hold (s.now + 640) } ∧
    (s.pushSlot p).grid.stores = s.grid.stores ++ [s.storeOf 0 0 (s.spillPlace s.me.spills) p.bytes] := by
  let u := s.modGroup s.cur.key fun g => { g with stack := .spilled :: g.stack }
  let x := s.spillPlace s.me.spills
  have me : u.me = { s.me with stack := .spilled :: s.me.stack } := s.me_modGroup _
  have place : u.place ((u.spillAt s.me.spills).getD 0) 32 = x := by
    rw [State.spillAt, me]
    rfl
  have e : s.pushSlot p = (u.bufferStore 0 (tagLevel x) (tagAddr x) p.bytes).holdGroup := by
    rw [← place]
    simp only [State.pushSlot, h]
    rfl
  obtain ⟨teams, stored, -⟩ := u.bufferStore_buffers 0 x p.bytes
  rw [e, stored]
  refine ⟨rfl, rfl, ?_, ?_⟩
  · exact (State.me_modGroup _ _).trans (congrArg (fun g : Group => { g with hold := max g.hold (s.now + 640) }) me)
  · exact congrArg (fun g : Group => s.grid.stores ++ [{ s.storeOf 0 0 x p.bytes with group := g.idx }]) me

/-! ### The split (R38) -/

/-- The group with its issuing slot's lanes split. -/
def Group.diverge (g : Group) (alt : Bool) (taken : W64) (target rcv : Addr48) : Group :=
  (g.setSlot alt { g.slot alt with mask := (g.slot alt).mask &&& ~~~taken, rcv := some rcv, jfmt := (g.slot alt).fmt }).setSlot (!alt)
    { pc := target, mask := taken, rcv := some rcv, fmt := (g.slot alt).fmt, jfmt := (g.slot alt).fmt }

theorem State.me_diverge (s : State) (taken : W64) (target rcv : Addr48) :
    (s.diverge taken target rcv).me = s.me.diverge s.cur.alt taken target rcv := s.me_modGroup _

/-- What the split leaves of the issuing group: its slots, the rest as it was. -/
theorem State.diverge_splits (s : State) (b : Group) (taken : W64) (target rcv : Addr48) {alt : Bool} {me : PcSlot} (issues : s.cur.alt = alt)
    (slot : s.me.slot alt = me) :
    let t := (s.diverge taken target rcv).alternate b
    t.me.slot alt = { me with mask := me.mask &&& ~~~taken, rcv := some rcv, jfmt := me.fmt } ∧
    t.me.slot (!alt) = { pc := target, mask := taken, rcv := some rcv, fmt := me.fmt, jfmt := me.fmt } ∧
    t.me.stack = s.me.stack ∧ t.me.hold = s.me.hold ∧ t.me.vreg = s.me.vreg ∧ t.me.sreg = s.me.sreg ∧ t.me.mreg = s.me.mreg ∧
    t.mem = s.mem ∧ t.grid.stores = s.grid.stores ∧ ∀ k, k ≠ s.cur.key → t.group k = s.group k := by
  subst issues slot
  obtain ⟨next, me⟩ := (s.diverge taken target rcv).alternate_me b
  rw [State.me_diverge] at me
  have slot (alt : Bool) : ((s.diverge taken target rcv).alternate b).me.slot alt = (s.me.diverge s.cur.alt taken target rcv).slot alt := by
    rw [me]
    rfl
  refine ⟨by simp [slot, Group.diverge], by simp [slot, Group.diverge], ?_, ?_, ?_, ?_, ?_, by simp [State.diverge], by simp [State.diverge],
    fun k hk => ?_⟩
  case refine_6 => exact (State.alternate_other b (s.diverge taken target rcv) hk).trans ((State.group_modGroup _ _ _ _).trans (if_neg hk))
  all_goals
    rw [me]
    simp [Group.diverge]

/-- What BRD does once its checks have passed. -/
theorem execBrd_of_pass {h : Head} {m : Nat} {neg : Bool} (tgt rcv : W32) (cmd : s.cur.cmd = false) (r : s.ready [] [])
    (spill : chkSpill s ((s.taken h m neg != 0 && s.taken h m neg != (s.me.slot s.cur.alt).mask) && (s.me.slot !s.cur.alt).live) = none) :
    exec (.brd h m neg tgt rcv) s = .next (
      if s.taken h m neg = 0 then s
      else if s.taken h m neg = (s.me.slot s.cur.alt).mask then s.jump (plusDisp s.cur.addr tgt)
      else ((if (s.me.slot !s.cur.alt).live then s.pushSlot (s.me.slot !s.cur.alt) else s).diverge (s.taken h m neg)
        (plusDisp s.cur.addr tgt) (plusDisp s.cur.addr rcv)).alternate s.me) := by
  rw [exec_brd, execBrd]
  refine attempt_pass s _ _ ?_
  rw [spill, chkTrain_of_compute cmd, chkRegs_ready s [] [] r]
  simp

theorem chkSpill_of_no_push {pushes : Bool} (h : pushes = false ∨ s.pushSpills = false) : chkSpill s pushes = none :=
  check_pass _ _ (by rcases h with h | h <;> simp [h])

theorem chkSpill_of_within {pushes : Bool} (h : 32 * (s.me.spills + 1) ≤ (s.myTrain.desc.spillPart s.myTeam.idx s.me.idx).2) :
    chkSpill s pushes = none :=
  check_pass _ _ (by simp [State.spillAt_of_le h])

theorem chkSpill_of_beyond (spills : s.pushSpills = true)
    (h : (s.myTrain.desc.spillPart s.myTeam.idx s.me.idx).2 < 32 * (s.me.spills + 1)) : chkSpill s true =
      some { code := 9, t2 := BitVec.ofNat 64 ((s.myTrain.desc.spillPart s.myTeam.idx s.me.idx).1 + 32 * s.me.spills) } :=
  check_fail _ _ (by simp [State.spillAt_of_lt h, spills])

end

/-- Settles O29: by the lanes taken, whether the other slot is live, and where its entry goes. -/
theorem divergenceSplitsLanes : Obligations.DivergenceSplitsLanes := by
  intro h m neg tgt rcv s cmd r runs me other taken target join
  have takes : s.taken h m neg = taken := if_pos runs
  have live : other.live = (other.mask != 0) := rfl
  refine ⟨fun none => ?none, fun some all => ?all, fun some part dead => ?dead, fun some part pushed room => ?share,
    fun some part pushed full => ⟨fun beyond => ?beyond, fun within => ?spill⟩⟩
  case none =>
    rw [execBrd_of_pass tgt rcv cmd r (chkSpill_of_no_push (.inl (by simp [takes, none]))), takes, if_pos none]
  case all =>
    have whole : taken = (s.me.slot s.cur.alt).mask := all
    rw [execBrd_of_pass tgt rcv cmd r (chkSpill_of_no_push (.inl (by simp [takes, whole]))), takes, if_neg some, if_pos all]
    rfl
  case dead =>
    have idle : other.live = false := by simpa [live] using dead
    refine ⟨_, execBrd_of_pass tgt rcv cmd r (chkSpill_of_no_push (.inl (by rw [idle, Bool.and_false]))), ?_⟩
    rw [takes, if_neg some, if_neg part, if_neg (by simpa using idle)]
    obtain ⟨mine, others, stack, -, vreg, sreg, mreg, mem, -, rest⟩ := s.diverge_splits s.me taken target join rfl rfl
    exact ⟨mine, others, stack, mem, vreg, sreg, mreg, rest⟩
  case share =>
    have alive : other.live = true := by simpa [live] using pushed
    have fits : s.pushSpills = false := by simpa [Bool.eq_false_iff, State.pushSpills_iff] using room
    refine ⟨_, execBrd_of_pass tgt rcv cmd r (chkSpill_of_no_push (.inr fits)), ?_⟩
    rw [takes, if_neg some, if_neg part, if_pos alive, State.pushSlot_of_share fits]
    let u := s.modGroup s.cur.key fun g => { g with stack := .share { other with waiting := false } :: g.stack }
    have same : u.me = { s.me with stack := .share { other with waiting := false } :: s.me.stack } := s.me_modGroup _
    obtain ⟨mine, others, stack, -, -, -, -, mem, -, -⟩ :=
      u.diverge_splits s.me taken target join (alt := s.cur.alt) (me := me) rfl (by rw [same]; rfl)
    exact ⟨mine, others, stack.trans (congrArg Group.stack same), mem⟩
  case beyond =>
    have spills : s.pushSpills = true := State.pushSpills_iff.2 full
    have alive : other.live = true := by simpa [live] using pushed
    have lanes : (s.taken h m neg != 0 && s.taken h m neg != (s.me.slot s.cur.alt).mask) = true := by simpa [takes] using ⟨some, part⟩
    rw [exec_brd, execBrd]
    refine attempt_fail s _ _ _ ?_
    have pushes : ((s.taken h m neg != 0 && s.taken h m neg != (s.me.slot s.cur.alt).mask) && (s.me.slot !s.cur.alt).live) = true := by
      rw [lanes, Bool.true_and]
      exact alive
    rw [pushes, chkTrain_of_compute cmd, chkRegs_ready s [] [] r, chkSpill_of_beyond spills beyond]
    rfl
  case spill =>
    have spills : s.pushSpills = true := State.pushSpills_iff.2 full
    have alive : other.live = true := by simpa [live] using pushed
    refine ⟨_, execBrd_of_pass tgt rcv cmd r (chkSpill_of_within within), ?_⟩
    rw [takes, if_neg some, if_neg part, if_pos alive]
    obtain ⟨cur, mem, same, stores⟩ := State.pushSlot_of_spill spills other
    obtain ⟨mine, others, stack, hold, -, -, -, kept, buffer, -⟩ :=
      (s.pushSlot other).diverge_splits s.me taken target join (alt := s.cur.alt) (me := me) (by rw [cur]) (by rw [same]; rfl)
    refine ⟨mine, others, stack.trans (congrArg Group.stack same), hold.trans (congrArg Group.hold same), kept.trans mem, ?_⟩
    refine buffer.trans (stores.trans ?_)
    rw [State.spillPlace, State.spillAt_of_le within]
    rfl

end Sys2Proof.Machine
end

section
/-!
SUPPORT. Pops of the divergence stack, the merge of two slots, and what an EXIT leaves of its group (R39, R40, R239, R240, R372).
-/

namespace Sys2Proof.Machine

/-! ### Pops (R40, R85) -/

/-- The group without the top of its stack; an entry of the spill area holds it until `now` + 640. -/
def Group.popped (g : Group) (now : Nat) : Group :=
  match g.stack with
  | [] => g
  | .share _ :: rest => { g with stack := rest }
  | .spilled :: rest => { g with stack := rest, hold := max g.hold (now + 640) }

/-- The top entry of the spill area as its 32 bytes read. -/
def State.filledSlot (s : State) : PcSlot :=
  slotOf s.me.width (s.sample (tagLevel (s.spillPlace (s.me.spills - 1))) (tagAddr (s.spillPlace (s.me.spills - 1))) 32)

/-- The top of the issuing group's stack. -/
def State.top (s : State) : Option PcSlot :=
  match s.me.stack with
  | [] => none
  | .share p :: _ => some p
  | .spilled :: _ => some s.filledSlot

section
variable {s : State}

@[simp] theorem Group.pri_popped (g : Group) (now : Nat) : (g.popped now).pri = g.pri := by unfold Group.popped; split <;> rfl
@[simp] theorem Group.alt_popped (g : Group) (now : Nat) : (g.popped now).alt = g.alt := by unfold Group.popped; split <;> rfl
@[simp] theorem Group.handler_popped (g : Group) (now : Nat) : (g.popped now).handler = g.handler := by
  unfold Group.popped; split <;> rfl
@[simp] theorem Group.ended_popped (g : Group) (now : Nat) : (g.popped now).ended = g.ended := by unfold Group.popped; split <;> rfl
@[simp] theorem Group.vreg_popped (g : Group) (now : Nat) : (g.popped now).vreg = g.vreg := by unfold Group.popped; split <;> rfl
@[simp] theorem Group.sreg_popped (g : Group) (now : Nat) : (g.popped now).sreg = g.sreg := by unfold Group.popped; split <;> rfl

theorem State.noteLoad_keeps (s : State) (lat : Nat) (ps : List Nat) :
    (s.noteLoad lat ps).cur = s.cur ∧ (s.noteLoad lat ps).mem = s.mem ∧ (s.noteLoad lat ps).grid.groups = s.grid.groups := by
  have counted : (s.countMisses s.myTrain.owner ps).cur = s.cur ∧ (s.countMisses s.myTrain.owner ps).mem = s.mem ∧
      (s.countMisses s.myTrain.owner ps).grid.groups = s.grid.groups := by simp
  simp only [State.noteLoad]
  split
  · exact counted
  · exact counted

theorem State.noteLoad_me (s : State) (lat : Nat) (ps : List Nat) : (s.noteLoad lat ps).me = s.me := by
  obtain ⟨cur, -, groups⟩ := s.noteLoad_keeps lat ps
  simp only [State.me, State.group, cur, groups]

theorem State.top_of_nil (h : s.me.stack = []) : s.top = none := by rw [State.top, h]
theorem State.top_of_share {p : PcSlot} {rest : List StackEntry} (h : s.me.stack = .share p :: rest) : s.top = some p := by
  rw [State.top, h]
theorem State.top_of_spilled {rest : List StackEntry} (h : s.me.stack = .spilled :: rest) : s.top = some s.filledSlot := by
  rw [State.top, h]

theorem Group.popped_of_nil {g : Group} (h : g.stack = []) (now : Nat) : g.popped now = g := by rw [Group.popped, h]
theorem Group.popped_of_share {g : Group} {p : PcSlot} {rest : List StackEntry} (h : g.stack = .share p :: rest) (now : Nat) :
    g.popped now = { g with stack := rest } := by rw [Group.popped, h]
theorem Group.popped_of_spilled {g : Group} {rest : List StackEntry} (h : g.stack = .spilled :: rest) (now : Nat) :
    g.popped now = { g with stack := rest, hold := max g.hold (now + 640) } := by rw [Group.popped, h]

/-- What a pop leaves, and the slot it gives. -/
theorem State.popSlot_pops (s : State) :
    s.popSlot.1.cur = s.cur ∧ s.popSlot.1.mem = s.mem ∧ s.popSlot.1.me = s.me.popped s.now ∧ s.popSlot.2 = s.top := by
  cases stack : s.me.stack with
  | nil =>
    rw [State.popSlot, stack, Group.popped_of_nil stack, State.top_of_nil stack]
    exact ⟨rfl, rfl, rfl, rfl⟩
  | cons e rest =>
    cases e with
    | share p =>
      rw [State.popSlot, stack, Group.popped_of_share stack, State.top_of_share stack]
      exact ⟨rfl, rfl, s.me_modGroup _, rfl⟩
    | spilled =>
      rw [State.popSlot, stack, Group.popped_of_spilled stack, State.top_of_spilled stack]
      let v := s.modGroup s.cur.key fun g => { g with stack := rest }
      obtain ⟨cur, mem, -⟩ := v.holdGroup.noteLoad_keeps spillHold [pageOf (tagAddr (s.spillPlace (s.me.spills - 1)))]
      have held : v.holdGroup.me = { v.me with hold := max v.me.hold (s.now + 640) } := v.me_modGroup _
      refine ⟨cur, mem, (v.holdGroup.noteLoad_me _ _).trans ?_, rfl⟩
      rw [held, s.me_modGroup]

/-! ### The merge (R39, R239) -/

/-- The group with both slots' lanes in the primary one and `e` in the other. -/
def Group.merged (g : Group) (j : Addr48) (e : Option PcSlot) : Group :=
  let p : PcSlot :=
    { g.pri with
      mask := g.pri.mask ||| g.alt.mask, pc := nextAddr j 8, fmt := if g.pri.waiting then g.pri.jfmt else g.alt.jfmt
      waiting := false, rcv := none }
  match e with
  | none => { g with pri := p, alt := {} }
  | some e => { g with pri := { p with rcv := e.rcv, jfmt := e.jfmt }, alt := e }

section
variable (g : Group) (j : Addr48) (e : Option PcSlot)

@[simp] theorem Group.handler_merged : (g.merged j e).handler = g.handler := by cases e <;> rfl
@[simp] theorem Group.stack_merged : (g.merged j e).stack = g.stack := by cases e <;> rfl
@[simp] theorem Group.hold_merged : (g.merged j e).hold = g.hold := by cases e <;> rfl
@[simp] theorem Group.vreg_merged : (g.merged j e).vreg = g.vreg := by cases e <;> rfl
@[simp] theorem Group.sreg_merged : (g.merged j e).sreg = g.sreg := by cases e <;> rfl
@[simp] theorem Group.mask_merged : (g.merged j e).pri.mask = g.pri.mask ||| g.alt.mask := by cases e <;> rfl
@[simp] theorem Group.pc_merged : (g.merged j e).pri.pc = nextAddr j 8 := by cases e <;> rfl
@[simp] theorem Group.waiting_merged : (g.merged j e).pri.waiting = false := by cases e <;> rfl
@[simp] theorem Group.fmt_merged : (g.merged j e).pri.fmt = if g.pri.waiting then g.pri.jfmt else g.alt.jfmt := by cases e <;> rfl

end

theorem State.me_modGroup_of {k : Nat} (h : s.cur.key = k) (f : Group → Group) : (s.modGroup k f).me = f s.me := by
  subst h
  exact s.me_modGroup f

theorem State.me_merge_eq (s : State) (j : Addr48) : (s.merge j).me =
    let p : PcSlot :=
      { s.popSlot.1.me.pri with
        mask := s.popSlot.1.me.pri.mask ||| s.popSlot.1.me.alt.mask, pc := nextAddr j 8
        fmt := if s.me.pri.waiting then s.me.pri.jfmt else s.me.alt.jfmt, waiting := false, rcv := none }
    match s.popSlot.2 with
    | none => { s.popSlot.1.me with pri := p, alt := {} }
    | some e => { s.popSlot.1.me with pri := { p with rcv := e.rcv, jfmt := e.jfmt }, alt := e } := by
  obtain ⟨cur, -⟩ := s.popSlot_pops
  exact State.me_modGroup_of (congrArg Cur.key cur) _

theorem State.merge_merges (s : State) (j : Addr48) :
    (s.merge j).cur = s.cur ∧ (s.merge j).mem = s.mem ∧ (s.merge j).me = (s.me.popped s.now).merged j s.top := by
  obtain ⟨cur, mem, me, top⟩ := s.popSlot_pops
  refine ⟨cur, mem, ?_⟩
  refine (State.me_merge_eq s j).trans ?_
  rw [me, top]
  cases s.top <;> simp [Group.merged]

/-! ### The entry that a fill reads (R85) -/

theorem leNat_lt (bs : List Byte) : leNat bs < 256 ^ bs.length := by
  induction bs with
  | nil => simp [leNat]
  | cons b bs ih =>
    have := b.isLt
    rw [leNat, List.length_cons, Nat.pow_succ]
    omega

theorem slotOf_fields (width : Nat) (bs : List Byte) :
    let word (o n : Nat) : Nat := leNat ((bs.drop o).take n)
    let e := slotOf width bs
    e.mask = BitVec.ofNat 64 (word 0 8) &&& laneMask width ∧ e.pc = BitVec.ofNat 48 (word 8 6) ∧
      e.rcv = (if word 16 6 = 2 ^ 48 - 1 then none else some (BitVec.ofNat 48 (word 16 6))) ∧ e.fmt = BitVec.ofNat 32 (word 24 4) ∧
      e.jfmt = BitVec.ofNat 32 (word 28 4) ∧ e.waiting = false := by
  intro word e
  have small : word 16 6 < 2 ^ 48 :=
    calc word 16 6 < 256 ^ ((bs.drop 16).take 6).length := leNat_lt _
      _ ≤ 256 ^ 6 := Nat.pow_le_pow_right (by decide) (List.length_take_le _ _)
      _ = 2 ^ 48 := by decide
  have marks : BitVec.ofNat 48 (word 16 6) = noRcv ↔ word 16 6 = 2 ^ 48 - 1 := by
    rw [← BitVec.toNat_inj, BitVec.toNat_ofNat, Nat.mod_eq_of_lt small]
    rfl
  exact ⟨rfl, rfl, if_congr marks rfl rfl, rfl, rfl, rfl⟩

/-- An update of the issuing group that keeps its place and its stack keeps the entry that a fill reads. -/
theorem State.filledSlot_modGroup (s : State) (f : Group → Group)
    (h : (f s.me).stack = s.me.stack ∧ (f s.me).idx = s.me.idx ∧ (f s.me).width = s.me.width ∧ (f s.me).train = s.me.train ∧
      (f s.me).team = s.me.team ∧ (f s.me).core = s.me.core) : (s.modGroup s.cur.key f).filledSlot = s.filledSlot := by
  obtain ⟨stack, idx, width, train, team, core⟩ := h
  let u := s.modGroup s.cur.key f
  have me : u.me = f s.me := s.me_modGroup f
  have place (i : Nat) : u.spillPlace i = s.spillPlace i := by
    rw [State.spillPlace, State.spillAt, me, idx]
    rfl
  have spills : u.me.spills = s.me.spills := by rw [Group.spills, me, stack, ← Group.spills]
  have reads : u.readCore u.me = s.readCore s.me := by
    rw [State.readCore, me, train, team, core]
    rfl
  have samples (level ia : Nat) : u.sample level ia 32 = s.sample level ia 32 := by
    simp only [State.sample, reads]
    rfl
  show slotOf u.me.width (u.sample (tagLevel (u.spillPlace (u.me.spills - 1))) (tagAddr (u.spillPlace (u.me.spills - 1))) 32) = _
  rw [spills, place, samples, me, width]
  rfl

theorem State.top_modGroup (s : State) (f : Group → Group)
    (h : (f s.me).stack = s.me.stack ∧ (f s.me).idx = s.me.idx ∧ (f s.me).width = s.me.width ∧ (f s.me).train = s.me.train ∧
      (f s.me).team = s.me.team ∧ (f s.me).core = s.me.core) : (s.modGroup s.cur.key f).top = s.top := by
  simp only [State.top, s.filledSlot_modGroup f h, State.me_modGroup, h.1]

/-! ### JOIN (R239) -/

/-- The group with a slot that waits at its JOIN, whose address its PC is. -/
def Group.waitsAt (g : Group) (alt : Bool) (j : Addr48) : Group := g.setSlot alt { g.slot alt with pc := j, waiting := true }

theorem Group.masks_waitsAt (g : Group) (alt : Bool) (j : Addr48) :
    (g.waitsAt alt j).pri.mask ||| (g.waitsAt alt j).alt.mask = g.pri.mask ||| g.alt.mask := by cases alt <;> rfl

theorem Group.fmt_waitsAt (g : Group) (alt : Bool) (j : Addr48) :
    (if (g.waitsAt alt j).pri.waiting then (g.waitsAt alt j).pri.jfmt else (g.waitsAt alt j).alt.jfmt) =
      if alt = false ∨ g.pri.waiting then g.pri.jfmt else g.alt.jfmt := by
  cases alt <;> simp [Group.waitsAt, Group.setSlot, Group.slot]

/-- The issuing slot waits at its JOIN. -/
def State.waitJoin (s : State) : State := s.modGroup s.cur.key fun g => g.waitsAt s.cur.alt s.cur.addr

/-- A JOIN that reconverges: the slot waits, or both slots merge. -/
theorem execJoin_of_rcv {h : Head} (cmd : s.cur.cmd = false) (r : s.ready [] []) (runs : s.holds h = true)
    (rcv : (s.me.slot s.cur.alt).rcv = some s.cur.addr)
    (meets : (s.me.slot !s.cur.alt).mask = 0 ∨ (s.me.slot !s.cur.alt).waiting = false ∨ (s.me.slot !s.cur.alt).pc = s.cur.addr) :
    exec (.join h) s = .next (
      if !(s.me.slot !s.cur.alt).live || (s.me.slot !s.cur.alt).waiting then (s.waitJoin.merge s.cur.addr).alternate s.me
      else s.waitJoin) := by
  have passes : chkJoin s true = none := by
    refine check_pass _ _ ?_
    rcases meets with m | m | m <;> simp [rcv, m, PcSlot.live]
  rw [exec_join, execJoin, attempt_pass]
  · simp only [runs, rcv]
    rfl
  · simp [chkTrain_of_compute cmd, chkRegs_ready s [] [] r, runs, passes]

/-! ### EXIT (R240, R372) -/

/-- The group without the lanes of one slot. -/
def Group.vacated (g : Group) (alt : Bool) : Group :=
  { (g.setSlot alt { g.slot alt with mask := 0, waiting := false }) with gone := g.gone ||| (g.slot alt).mask }

section
variable (g : Group) (alt : Bool)

theorem Group.handler_vacated : (g.vacated alt).handler = g.handler := by cases alt <;> rfl
theorem Group.stack_vacated : (g.vacated alt).stack = g.stack := by cases alt <;> rfl
theorem Group.hold_vacated : (g.vacated alt).hold = g.hold := by cases alt <;> rfl
theorem Group.ended_vacated : (g.vacated alt).ended = g.ended := by cases alt <;> rfl
theorem Group.mask_vacated : ((g.vacated alt).slot alt).mask = 0 := by cases alt <;> rfl
theorem Group.other_vacated : (g.vacated alt).slot (!alt) = g.slot !alt := by cases alt <;> rfl
theorem Group.masks_vacated : (g.vacated alt).pri.mask ||| (g.vacated alt).alt.mask = (g.slot !alt).mask := by
  cases alt <;> simp [Group.vacated, Group.setSlot, Group.slot]
theorem Group.live_vacated : ((g.vacated alt).pri.live || (g.vacated alt).alt.live) = (g.slot !alt).live := by
  cases alt <;> simp [Group.vacated, Group.setSlot, Group.slot, PcSlot.live]

end

/-- The group once its last issuing lanes have left: the other slot `other` merges where it waits, and where it is not live the top of the
stack, `top`, takes the primary slot. -/
def Group.refilled (g : Group) (other : PcSlot) (now : Nat) (top : Option PcSlot) : Group :=
  if other.live && other.waiting then (g.popped now).merged other.pc top
  else if other.live then g
  else match top with
    | none => g
    | some e => { g.popped now with pri := e, alt := { g.alt with mask := 0 } }

theorem Group.handler_refilled (g : Group) (other : PcSlot) (now : Nat) (top : Option PcSlot) :
    (g.refilled other now top).handler = g.handler := by
  unfold Group.refilled
  split
  · simp
  · split
    · rfl
    · cases top <;> simp

theorem Group.without_handler {g : Group} (h : g.handler = none) : g = { g with handler := none } := by
  cases g
  cases h
  rfl

/-- The group's slots after an EXIT took the lanes of the issuing one. -/
def State.refillSlots (s : State) (other : PcSlot) : State :=
  if other.live && other.waiting then s.merge other.pc
  else if other.live then s
  else
    let r := s.popSlot
    match r.2 with
    | none => s
    | some e => r.1.modGroup s.cur.key fun g => { g with pri := e, alt := { g.alt with mask := 0 } }

theorem State.refillSlots_refills (s : State) (other : PcSlot) :
    (s.refillSlots other).cur = s.cur ∧ (s.refillSlots other).mem = s.mem ∧ (s.refillSlots other).me = s.me.refilled other s.now s.top := by
  unfold State.refillSlots Group.refilled
  split
  case isTrue => exact s.merge_merges other.pc
  case isFalse =>
    split
    case isTrue => exact ⟨rfl, rfl, rfl⟩
    case isFalse =>
      obtain ⟨cur, mem, me, top⟩ := s.popSlot_pops
      simp only [top]
      cases s.top with
      | none => exact ⟨rfl, rfl, rfl⟩
      | some e =>
        refine ⟨cur, mem, (State.me_modGroup_of (congrArg Cur.key cur) _).trans ?_⟩
        simp [me]

/-- The end of a handler, where the EXIT issued in its slot. -/
def State.leaveHandler (s : State) (leaves : Bool) : State :=
  if leaves then s.modGroup s.cur.key fun g => { g with handler := none } else s

theorem State.leaveHandler_leaves (s : State) (leaves : Bool) : (s.leaveHandler leaves).cur = s.cur ∧ (s.leaveHandler leaves).mem = s.mem ∧
    (s.leaveHandler leaves).me = if leaves then { s.me with handler := none } else s.me := by
  cases leaves
  · exact ⟨rfl, rfl, rfl⟩
  · have me : (s.modGroup s.cur.key fun g => { g with handler := none }).me = { s.me with handler := none } := s.me_modGroup _
    exact ⟨rfl, rfl, me⟩

/-- A barrier that is completed changes of each group at most its wake. -/
theorem State.settleBarrier_keeps (s : State) (tk : Nat) : (s.settleBarrier tk).cur = s.cur ∧ (s.settleBarrier tk).mem = s.mem ∧
    ∀ k, ∃ wake, (s.settleBarrier tk).group k = { s.group k with wake := wake } := by
  have waken (w : Nat) (keys : List Nat) (u : State) (k : Nat) : ∃ wake,
      (keys.foldl (fun s k => s.modGroup k fun g => { g with wake := some w }) u).group k = { u.group k with wake := wake } := by
    induction keys generalizing u with
    | nil => exact ⟨_, rfl⟩
    | cons y keys ih =>
      obtain ⟨wake, e⟩ := ih (u.modGroup y fun g => { g with wake := some w })
      refine ⟨wake, ?_⟩
      rw [List.foldl_cons, e, State.group_modGroup]
      split
      case isTrue h => rw [h]
      case isFalse => rfl
  unfold State.settleBarrier
  simp only
  split
  case isTrue => exact ⟨rfl, rfl, fun k => ⟨_, rfl⟩⟩
  case isFalse =>
    split
    case isTrue =>
      exact ⟨foldl_keeps State.cur (fun s k => s.modGroup k _) (fun _ _ => rfl) _ s,
        foldl_keeps State.mem (fun s k => s.modGroup k _) (fun _ _ => rfl) _ s, waken _ _ s⟩
    case isFalse =>
      have cur : ∀ u : State, ∀ k, (match (u.group k).block with
          | .bar _ addr alt => u.blockedFault (s.team tk).train k addr alt false
          | _ => u).cur = u.cur := fun u k => by split <;> rfl
      have mem : ∀ u : State, ∀ k, (match (u.group k).block with
          | .bar _ addr alt => u.blockedFault (s.team tk).train k addr alt false
          | _ => u).mem = u.mem := fun u k => by split <;> rfl
      have group (y : Nat) : ∀ u : State, ∀ k, (match (u.group k).block with
          | .bar _ addr alt => u.blockedFault (s.team tk).train k addr alt false
          | _ => u).group y = u.group y := fun u k => by split <;> rfl
      exact ⟨foldl_keeps State.cur _ cur _ s, foldl_keeps State.mem _ mem _ s,
        fun k => ⟨_, foldl_keeps (fun s => s.group k) _ (group k) _ s⟩⟩

/-- A group ends where neither slot is live and its stack is empty. -/
theorem State.endGroup_ends (s : State) : s.endGroup.mem = s.mem ∧ ∃ wake, s.endGroup.me =
    { s.me with ended := s.me.ended || !(s.me.pri.live || s.me.alt.live || !s.me.stack.isEmpty), wake := wake } := by
  unfold State.endGroup
  simp only
  split
  case isTrue stays => exact ⟨rfl, s.me.wake, by rw [stays, Bool.not_true, Bool.or_false]⟩
  case isFalse ends =>
    rw [Bool.not_eq_true] at ends
    let u := s.modGroup s.cur.key fun g => { g with ended := true }
    have me : u.me = { s.me with ended := true } := s.me_modGroup _
    split
    case isTrue => exact ⟨rfl, s.me.wake, by rw [ends]; simp⟩
    case isFalse =>
      obtain ⟨cur, mem, groups⟩ := u.settleBarrier_keeps u.myTeamKey
      obtain ⟨wake, e⟩ := groups u.cur.key
      refine ⟨mem, wake, ?_⟩
      have same : (u.settleBarrier u.myTeamKey).me = { u.me with wake := wake } := by rw [State.me, cur]; exact e
      refine same.trans ?_
      rw [me, ends]
      simp

/-- The state in which the lanes of the issuing slot have left. -/
def State.vacateLanes (s : State) : State :=
  s.modGroup s.cur.key fun g => { (g.setSlot s.cur.alt { s.me.slot s.cur.alt with mask := 0, waiting := false }) with
    gone := g.gone ||| (s.me.slot s.cur.alt).mask }

theorem State.vacateLanes_me (s : State) : s.vacateLanes.me = s.me.vacated s.cur.alt := s.me_modGroup _

theorem State.vacateLanes_top (s : State) : s.vacateLanes.top = s.top :=
  s.top_modGroup _ (by cases s.cur.alt <;> exact ⟨rfl, rfl, rfl, rfl, rfl, rfl⟩)

theorem execExit_of_holds {h : Head} (r : s.ready [] []) (runs : s.holds h = true) : exec (.exit h) s =
    .next (((s.vacateLanes.refillSlots (s.me.slot !s.cur.alt)).leaveHandler (s.me.handler == some s.cur.alt)).alternate s.me).endGroup := by
  rw [exec_exit, execExit, attempt_pass]
  · simp only [runs]
    rfl
  · simp [chkRegs_ready s [] [] r]

/-- The group after an EXIT, its slots as in `x`: no handler, and ended where nothing is left. -/
def Group.exited (x : Group) (next : Bool) (wake : Option Nat) : Group :=
  { x with
    handler := none, altNext := next, ended := x.ended || !(x.pri.live || x.alt.live || !x.stack.isEmpty), wake := wake }

/-- What an EXIT leaves of its group. -/
theorem execExit_leaves {h : Head} (r : s.ready [] []) (runs : s.holds h = true) (own : s.me.handler = none ∨ s.me.handler = some s.cur.alt) :
    ∃ t next wake, exec (.exit h) s = .next t ∧ t.mem = s.mem ∧
      t.me = ((s.me.vacated s.cur.alt).refilled (s.me.slot !s.cur.alt) s.now s.top).exited next wake := by
  let x := (s.me.vacated s.cur.alt).refilled (s.me.slot !s.cur.alt) s.now s.top
  let v := s.vacateLanes.refillSlots (s.me.slot !s.cur.alt)
  obtain ⟨-, vmem, vme⟩ := s.vacateLanes.refillSlots_refills (s.me.slot !s.cur.alt)
  obtain ⟨-, wmem, wme⟩ := v.leaveHandler_leaves (s.me.handler == some s.cur.alt)
  obtain ⟨next, ame⟩ := (v.leaveHandler (s.me.handler == some s.cur.alt)).alternate_me s.me
  obtain ⟨emem, wake, eme⟩ := ((v.leaveHandler (s.me.handler == some s.cur.alt)).alternate s.me).endGroup_ends
  have left : v.me = x := by
    rw [vme, s.vacateLanes_me, s.vacateLanes_top]
    rfl
  have handler : x.handler = s.me.handler := by rw [Group.handler_refilled, Group.handler_vacated]
  have none_ : (if s.me.handler == some s.cur.alt then { x with handler := none } else x) = { x with handler := none } := by
    rcases own with own | own
    · rw [if_neg (by simp [own]), Group.without_handler (handler.trans own)]
    · simp [own]
  refine ⟨_, next, wake, execExit_of_holds r runs, ?_, ?_⟩
  · rw [emem, State.alternate_mem, wmem, vmem]
    rfl
  · rw [eme, ame, wme, left, none_]
    rfl

end

/-- Settles O30: JOIN by the other slot, EXIT by the other slot and the top of the stack. -/
theorem joinAndExit : Obligations.JoinAndExit := by
  intro h s me other j x word filled
  have fills : filled s.filledSlot := slotOf_fields _ _
  refine ⟨fun cmd r runs => ⟨fun free => ?free, fun rcv alive awake => ?waits, fun rcv meets => ?merges⟩,
    fun r own => ⟨fun off => ?off, fun runs => ?exits⟩⟩
  case free =>
    have passes : chkJoin s true = none := check_pass _ _ (by simp [me, free])
    rw [exec_join, execJoin, attempt_pass]
    · have idle : (s.me.slot s.cur.alt).rcv.isNone = true := by simpa [me] using free
      simp only [runs, idle]
      rfl
    · simp [chkTrain_of_compute cmd, chkRegs_ready s [] [] r, runs, passes]
  case waits =>
    rw [execJoin_of_rcv cmd r runs rcv (.inr (.inl awake)), if_neg]
    · rfl
    · simpa [PcSlot.live] using ⟨alive, awake⟩
  case merges =>
    have both : (!(s.me.slot !s.cur.alt).live || (s.me.slot !s.cur.alt).waiting) = true := by
      rcases meets with dead | ⟨waits, -⟩
      · have dead : (s.me.slot !s.cur.alt).mask = 0 := dead
        simp [PcSlot.live, dead]
      · have waits : (s.me.slot !s.cur.alt).waiting = true := waits
        simp [waits]
    refine ⟨_, execJoin_of_rcv cmd r runs rcv (meets.imp id fun m => .inr m.2), ?_⟩
    rw [if_pos both]
    obtain ⟨-, mem, merged⟩ := s.waitJoin.merge_merges s.cur.addr
    obtain ⟨next, alternated⟩ := (s.waitJoin.merge s.cur.addr).alternate_me s.me
    have waiting : s.waitJoin.me = s.me.waitsAt s.cur.alt s.cur.addr := s.me_modGroup _
    have top : s.waitJoin.top = s.top := s.top_modGroup _ (by cases s.cur.alt <;> exact ⟨rfl, rfl, rfl, rfl, rfl, rfl⟩)
    have stack : (s.me.waitsAt s.cur.alt s.cur.addr).stack = s.me.stack := Group.stack_setSlot _ _ _
    have hold : (s.me.waitsAt s.cur.alt s.cur.addr).hold = s.me.hold := Group.hold_setSlot _ _ _
    have now : s.waitJoin.now = s.now := rfl
    rw [merged, waiting, top, now] at alternated
    rw [alternated]
    refine ⟨?_, Group.pc_merged _ _ _, Group.waiting_merged _ _ _, ?_, fun empty => ?_, fun e rest full => ?_, fun rest full => ?_,
      (State.alternate_mem _ _).trans mem, ?_, ?_⟩
    · refine (Group.mask_merged _ _ _).trans ?_
      rw [Group.pri_popped, Group.alt_popped]
      exact Group.masks_waitsAt _ _ _
    · refine (Group.fmt_merged _ _ _).trans ?_
      rw [Group.pri_popped, Group.alt_popped]
      exact Group.fmt_waitsAt _ _ _
    · rw [State.top_of_nil empty, Group.popped_of_nil (stack.trans empty)]
      exact ⟨rfl, rfl, stack.trans empty⟩
    · rw [State.top_of_share full, Group.popped_of_share (stack.trans full)]
      exact ⟨rfl, rfl, rfl, rfl⟩
    · rw [State.top_of_spilled full, Group.popped_of_spilled (stack.trans full), hold]
      exact ⟨fills, rfl, rfl, rfl, rfl⟩
    · exact (Group.vreg_merged _ _ _).trans ((Group.vreg_popped _ _).trans (Group.vreg_setSlot _ _ _))
    · exact (Group.sreg_merged _ _ _).trans ((Group.sreg_popped _ _).trans (Group.sreg_setSlot _ _ _))
  case off =>
    rw [exec_exit, execExit, attempt_pass]
    · simp [off]
    · simp [chkRegs_ready s [] [] r]
  case exits =>
    obtain ⟨t, next, wake, run, mem, left⟩ := execExit_leaves r runs own
    let g := s.me.vacated s.cur.alt
    have stack : g.stack = s.me.stack := Group.stack_vacated _ _
    have ended : g.ended = s.me.ended := Group.ended_vacated _ _
    have hold : g.hold = s.me.hold := Group.hold_vacated _ _
    have live : (g.pri.live || g.alt.live) = other.live := Group.live_vacated _ _
    have idle (dead : other.mask = 0) : other.live = false := by simpa [PcSlot.live] using dead
    have busy (alive : other.mask ≠ 0) : other.live = true := by simpa [PcSlot.live] using alive
    refine ⟨t, run, mem, by rw [left]; rfl, fun dead empty => ?_, fun alive awake => ?_, fun alive waits => ?_, fun dead e rest full => ?_,
      fun cmd dead rest full => ?_⟩
    · have x : g.refilled other s.now s.top = g := by simp [Group.refilled, idle dead, State.top_of_nil empty]
      rw [left, x]
      refine ⟨?_, Group.mask_vacated _ _⟩
      show (g.ended || !(g.pri.live || g.alt.live || !g.stack.isEmpty)) = true
      rw [live, stack, empty, idle dead]
      simp
    · have x : g.refilled other s.now s.top = g := by simp [Group.refilled, busy alive, awake]
      rw [left, x]
      refine ⟨Group.mask_vacated _ _, Group.other_vacated _ _, ?_, stack⟩
      show (g.ended || !(g.pri.live || g.alt.live || !g.stack.isEmpty)) = s.me.ended
      rw [live, busy alive, ended]
      simp
    · have x : g.refilled other s.now s.top = (g.popped s.now).merged other.pc s.top := by simp [Group.refilled, busy alive, waits]
      rw [left, x]
      refine ⟨(Group.mask_merged _ _ _).trans ?_, Group.pc_merged _ _ _⟩
      rw [Group.pri_popped, Group.alt_popped]
      exact Group.masks_vacated _ _
    · have x : g.refilled other s.now s.top = { g with stack := rest, pri := e, alt := { g.alt with mask := 0 } } := by
        simp [Group.refilled, idle dead, State.top_of_share full, Group.popped_of_share (stack.trans full)]
      rw [left, x]
      refine ⟨rfl, rfl, rfl, fun alive => ?_⟩
      have live : e.live = true := by simpa [PcSlot.live] using alive
      simp [Group.exited, live, ended]
    · have x : g.refilled other s.now s.top =
          { g with stack := rest, hold := max g.hold (s.now + 640), pri := s.filledSlot, alt := { g.alt with mask := 0 } } := by
        simp [Group.refilled, idle dead, State.top_of_spilled full, Group.popped_of_spilled (stack.trans full)]
      rw [left, x, hold]
      exact ⟨fills, rfl, rfl, rfl⟩

end Sys2Proof.Machine
end

section
/-!
SUPPORT. Insertion sorts of keys: the same elements, in order.
-/

namespace Sys2Proof.Machine

section
variable {α : Type} (le : α → α → Bool)

theorem insertBy_perm (x : α) (xs : List α) : (insertBy le x xs).Perm (x :: xs) := by
  induction xs with
  | nil => exact .refl _
  | cons y ys ih =>
    rw [insertBy]
    split
    · exact (ih.cons y).trans (.swap x y ys)
    · exact .refl _

theorem foldl_insertBy_perm (xs acc : List α) : (xs.foldl (fun acc x => insertBy le x acc) acc).Perm (xs ++ acc) := by
  induction xs generalizing acc with
  | nil => exact .refl _
  | cons x xs ih => exact (ih _).trans (((insertBy_perm le x acc).append_left xs).trans List.perm_middle)

theorem sortBy_perm (xs : List α) : (sortBy le xs).Perm xs := by simpa [sortBy] using foldl_insertBy_perm le xs []

@[simp] theorem mem_sortBy {xs : List α} {x : α} : x ∈ sortBy le xs ↔ x ∈ xs := (sortBy_perm le xs).mem_iff

@[simp] theorem sortBy_singleton (x : α) : sortBy le [x] = [x] := rfl

end

end Sys2Proof.Machine
end

section
/-!
SUPPORT. What lands and starts in a vc: registers, pool writes, SFU entries, column entries, k-steps, engine outputs and receives of LRED (R49,
R54, R103, R134, R276, R304, R308, R309, R313, R329).
-/

namespace Sys2Proof.Machine

section
variable {s : State} {tr : Nat}

/-! ### Registers (R49, R309) -/

theorem State.land_mem (s : State) (k : Nat) (w : Landing) : (s.land k w).mem = s.mem := by
  cases w <;> simp [State.land]
  split <;> simp

theorem State.land_pend (s : State) (k : Nat) (w : Landing) : (s.land k w).grid.pend = s.grid.pend := by
  cases w <;> simp [State.land]
  split <;> simp

theorem State.land_pool (s : State) (k : Nat) (w : Landing) : (s.land k w).grid.pool = s.grid.pool := by
  cases w <;> simp [State.land]
  split <;> simp

theorem State.land_other (s : State) {k y : Nat} (h : y ≠ k) (w : Landing) : (s.land k w).group y = s.group y := by
  cases w <;> simp [State.land, h]
  split <;> simp [h]

theorem State.land_group (s : State) (k : Nat) {w : Landing} (h : ∀ m kind r, w ≠ .claim m kind r) :
    (s.land k w).group k = (s.group k).land w := by
  cases w with
  | claim m kind r => exact absurd rfl (h m kind r)
  | _ => simp [State.land, Group.land]

/-- A landing, and an atomic's result that is then awaited no more. -/
def State.landPend (s : State) (p : Pend) : State := (s.land p.key p.what).arriveAt p

/-- An atomic's arrival changes the owed registers alone. -/
theorem State.arriveAt_eq (s : State) (p : Pend) : ∃ owed, s.arriveAt p = { s with grid := { s.grid with owed := owed } } := by
  unfold State.arriveAt
  split
  · exact ⟨_, rfl⟩
  · exact ⟨s.grid.owed, rfl⟩

theorem State.landPend_keeps (s : State) (p : Pend) : (s.landPend p).mem = s.mem ∧ (s.landPend p).grid.pend = s.grid.pend ∧
    (s.landPend p).grid.pool = s.grid.pool ∧ (∀ k, k ≠ p.key → (s.landPend p).group k = s.group k) ∧
    (s.landPend p).grid.teams = (s.land p.key p.what).grid.teams ∧ (s.landPend p).grid.groups = (s.land p.key p.what).grid.groups := by
  obtain ⟨owed, e⟩ := (s.land p.key p.what).arriveAt_eq p
  rw [State.landPend, e]
  exact ⟨s.land_mem _ _, s.land_pend _ _, s.land_pool _ _, fun k hk => s.land_other hk _, rfl, rfl⟩

theorem State.landPends_keep (ps : List Pend) (s : State) :
    (ps.foldl State.landPend s).mem = s.mem ∧ (ps.foldl State.landPend s).grid.pend = s.grid.pend ∧
    (ps.foldl State.landPend s).grid.pool = s.grid.pool ∧ ∀ k, (∀ p ∈ ps, p.key ≠ k) → (ps.foldl State.landPend s).group k = s.group k := by
  induction ps generalizing s with
  | nil => exact ⟨rfl, rfl, rfl, fun _ _ => rfl⟩
  | cons p ps ih =>
    obtain ⟨mem, pend, pool, groups⟩ := ih (s.landPend p)
    obtain ⟨mem', pend', pool', groups', -⟩ := s.landPend_keeps p
    refine ⟨mem.trans mem', pend.trans pend', pool.trans pool', fun k hk => ?_⟩
    exact (groups k fun q hq => hk q (by simp [hq])).trans (groups' k (hk p (by simp)).symm)

/-- Acquires that complete refresh the views of cores alone. -/
theorem State.refreshCores_keep (as : List Acquire) (s : State) : (as.foldl (fun s a => s.refreshCore a.core) s).mem.home = s.mem.home ∧
    (as.foldl (fun s a => s.refreshCore a.core) s).grid = s.grid := by
  induction as generalizing s with
  | nil => exact ⟨rfl, rfl⟩
  | cons a as ih => exact ih (s.refreshCore a.core)

/-- Whether a pending write of train `tr` lands in this vc. -/
def State.landsNow (s : State) (tr : Nat) (p : Pend) : Bool := p.train == tr && p.due ≤ (s.train tr).clk && (s.group p.key).resident

/-- The pending writes that land in this vc, in their order. -/
def State.landings (s : State) (tr : Nat) : List Pend :=
  sortBy (fun a b => a.what.rank ≤ b.what.rank) (s.grid.pend.filter (s.landsNow tr))

/-- The state without the pending writes that land in this vc. -/
def State.unpended (s : State) (tr : Nat) : State :=
  { s with grid := { s.grid with pend := s.grid.pend.filter fun p => !s.landsNow tr p } }

/-- The state once the pending writes of this vc have landed. -/
def State.landed (s : State) (tr : Nat) : State := (s.landings tr).foldl State.landPend (s.unpended tr)

theorem State.group_of_groups {t u : State} (h : t.grid.groups = u.grid.groups) (k : Nat) : t.group k = u.group k := by
  rw [State.group, h, ← State.group]

theorem State.team_of_teams {t u : State} (h : t.grid.teams = u.grid.teams) (k : Nat) : t.team k = u.team k := by
  rw [State.team, h, ← State.team]

/-- Acquires that complete change the views of cores and the awaited acquires alone. -/
theorem State.landRegisters_lands (s : State) (tr : Nat) : (s.landRegisters tr).mem.home = (s.landed tr).mem.home ∧
    (s.landRegisters tr).grid.pend = (s.landed tr).grid.pend ∧ (s.landRegisters tr).grid.pool = (s.landed tr).grid.pool ∧
    (∀ k, (s.landRegisters tr).group k = (s.landed tr).group k) ∧ ∀ k, (s.landRegisters tr).team k = (s.landed tr).team k := by
  obtain ⟨home, grid⟩ := State.refreshCores_keep (((s.landed tr).grid.acquires.filter fun a => a.train == tr && a.due ≤ (s.train tr).clk).filter
    fun a => ((s.landed tr).group a.key).width = 0 || ((s.landed tr).group a.key).resident) (s.landed tr)
  have pend := congrArg Grid.pend grid
  have pool := congrArg Grid.pool grid
  have groups := congrArg Grid.groups grid
  have teams := congrArg Grid.teams grid
  exact ⟨home, pend, pool, State.group_of_groups groups, State.team_of_teams teams⟩

theorem State.landed_single {p : Pend} (h : s.grid.pend.filter (s.landsNow tr) = [p]) : s.landed tr =
    (s.unpended tr).landPend p := by
  rw [State.landed, State.landings, h]
  rfl

theorem Team.claims_setClaims_or (t : Team) (core m c : Nat) : Sp.get 0 (t.setClaims core (t.claimed core ||| m)).claims c =
    Sp.get 0 t.claims c ||| if c = core then m else 0 := by
  refine (Sp.get_set _ _ _ _ _).trans ?_
  by_cases same : c = core
  · rw [if_pos same, if_pos same, same, Team.claimed]
  · rw [if_neg same, if_neg same, Nat.or_zero]

/-- Whether another team of the group's train holds a slot of `m` on the group's core (R309). -/
def State.claimHeld (s : State) (g : Group) (m : Nat) : Prop :=
  ∃ q ∈ s.grid.teams, q.1 ≠ teamKey g.train g.team ∧ q.2.live = true ∧ q.2.ended = false ∧ q.2.saved = false ∧ q.2.train = g.train ∧
    Sp.get 0 q.2.claims g.core &&& m ≠ 0

theorem State.claimHeld_iff (g : Group) (m : Nat) : s.claimHeld g m ↔ (s.grid.teams.any fun p =>
    p.1 != teamKey g.train g.team && p.2.live && !p.2.ended && !p.2.saved && p.2.train == g.train && p.2.claimed g.core &&& m != 0) = true := by
  simp [State.claimHeld, Team.claimed, and_assoc]

/-- The landing of a claim's success. -/
def claimLanding (kind r : Nat) (x : W64) : Landing := if kind = 2 then .trapr r (some x) else .scal r (some x)

theorem State.land_claim_of_held {k m kind r : Nat} (h : s.claimHeld (s.group k) m) :
    s.land k (.claim m kind r) = s.setGroup k ((s.group k).land (claimLanding kind r 0)) := by
  rw [State.claimHeld_iff] at h
  simp [State.land, h, claimLanding]

theorem State.land_claim_of_free {k m kind r : Nat} (h : ¬ s.claimHeld (s.group k) m) : s.land k (.claim m kind r) =
    (s.setGroup k ((s.group k).land (claimLanding kind r 1))).modTeam (teamKey (s.group k).train (s.group k).team) fun t =>
      t.setClaims (s.group k).core (t.claimed (s.group k).core ||| m) := by
  rw [State.claimHeld_iff, Bool.not_eq_true] at h
  simp [State.land, h, claimLanding]

/-- What waits still, once what is due by `clk` in train `tr` has been taken. -/
theorem mem_filter_waiting {α : Type} {xs : List α} {train due : α → Nat} {clk : Nat} {x : α} :
    x ∈ xs.filter (fun y => !(train y == tr && due y ≤ clk)) ↔ x ∈ xs ∧ ¬(train x = tr ∧ due x ≤ clk) :=
  List.mem_filter.trans (and_congr_right fun _ => by simp [Decidable.imp_iff_not_or])

/-! ### Pool writes, SFU entries and the start of ACCZ (R134, R276, R304) -/

theorem State.landStps_single {p : PoolWrite} (h : s.grid.stps.filter (fun p => p.train == tr && p.due ≤ (s.train tr).clk) = [p]) :
    s.landStps tr = { s with grid := { s.grid with
      stps := s.grid.stps.filter fun p => !(p.train == tr && p.due ≤ (s.train tr).clk)
      pool := Memory.put s.grid.pool (p.core * 2 ^ 32 + p.addr) p.data } } := by
  simp only [State.landStps, h]
  rfl

/-- The core's latest SFU start is an entry's. -/
def State.entryStarted (s : State) (e : SfuEntry) : State := s.modCore e.core fun k => { k with lastSfu := some e.start }

/-- An entry whose landings become pending. -/
def State.entryPends (s : State) (e : SfuEntry) : State :=
  let u := s.settleOwed e.key (0, e.dst)
  { u with grid := { u.grid with pend := u.grid.pend ++ e.lands } }

/-- The start of an SFU entry, whose landings become pending where its group still has registers. -/
def State.startEntry (s : State) (e : SfuEntry) : State :=
  let u := s.entryStarted e
  if e.only || (u.group e.key).width = 0 then u else u.entryPends e

theorem State.startEntry_of_only {e : SfuEntry} (h : e.only = true ∨ (s.group e.key).width = 0) : s.startEntry e = s.entryStarted e :=
  if_pos (Bool.or_eq_true_iff.2 (h.imp id decide_eq_true))

theorem State.startEntry_of_lands {e : SfuEntry} (h : ¬ (e.only = true ∨ (s.group e.key).width = 0)) :
    s.startEntry e = (s.entryStarted e).entryPends e :=
  if_neg fun fails => h ((Bool.or_eq_true_iff.1 fails).imp id of_decide_eq_true)

theorem State.lastSfu_entryStarted (s : State) (e : SfuEntry) : ((s.entryStarted e).core e.core).lastSfu = some e.start :=
  (congrArg Core.lastSfu (State.core_modCore s e.core (fun k => { k with lastSfu := some e.start }) e.core)).trans
    (congrArg Core.lastSfu (if_pos rfl))

theorem State.startSfu_single {e : SfuEntry} (h : s.grid.sfu.filter (fun e => e.train == tr && e.start ≤ (s.train tr).clk) = [e]) :
    s.startSfu tr = ({ s with grid := { s.grid with
      sfu := s.grid.sfu.filter fun e => !(e.train == tr && e.start ≤ (s.train tr).clk) } } : State).startEntry e := by
  simp only [State.startSfu, h]
  rfl

theorem State.startColumns_accz {c : Cmd} {h : Head} {tile ofs : Nat} (due : s.dueCmds tr = [c]) (op : c.op = .accz h tile ofs) :
    s.startColumns tr = { (((s.asIssuer c).occupy c).startAccz c tile) with cur := s.cur } := by
  have onTime : s.cmdLate c = false := by rw [State.cmdLate, op]
  simp only [State.startColumns, due, List.foldl_cons, List.foldl_nil, onTime]
  rw [if_neg Bool.false_ne_true, State.startCmd, op]

theorem State.occupy_eq (s : State) (c : Cmd) : ∃ cores, s.occupy c = { s with grid := { s.grid with cores := cores } } := by
  unfold State.occupy
  split
  · exact ⟨_, rfl⟩
  · exact ⟨s.grid.cores, rfl⟩

/-- Of the commands, those of `c`'s number are `c`. -/
theorem State.mem_setCmd {c x : Cmd} (h : x ∈ (s.setCmd c).grid.cmds) (id : x.id = c.id) : x = c := by
  obtain ⟨y, -, rfl⟩ := List.mem_map.1 h
  by_cases same : y.id = c.id
  · rw [if_pos same]
  · rw [if_neg same] at id
    exact absurd id same

/-! ### k-steps (R103, R313) -/

theorem State.stepMatrices_single {c : Cmd} {sparse : Bool} {o : Mma} (due : s.dueSteps tr = [c]) (op : Instr.mmaOf c.op = some (sparse, o)) :
    s.stepMatrices tr = s.stepMatrix c sparse o := by
  simp only [State.stepMatrices, due, List.foldl_cons, List.foldl_nil, op]

/-- The record of a fault that an engine detects: code 6 of the conductor that issued. -/
def State.engineRecord (s : State) (c : Cmd) : FaultRec :=
  let g := s.group c.key
  let alt := if g.ended then bitAt (Config.value s.fresh) 48 else g.nextSlot
  { team := c.team, group := c.group, key := c.key, code := 6, lane := 255, tcode := 0
    resume := if g.ended then (Config.value s.fresh).truncate 48 else (g.slot alt).pc
    alt := alt, t2 := 0, p := (s.train c.train).clk, pvc := (s.train c.train).vc }

theorem State.engineFault_faults (s : State) (c : Cmd) :
    ((s.engineFault c).train c.train).faults = (s.train c.train).faults ++ [s.engineRecord c] :=
  (congrArg Train.faults (State.train_modTrain s.spend c.train
    (fun t => { t with faults := t.faults ++ [s.engineRecord c] }) c.train)).trans (congrArg Train.faults (if_pos rfl))

theorem State.engineFault_cmds (s : State) (c x : Cmd) (h : x ∈ (s.engineFault c).grid.cmds) : x.id ≠ c.id := by
  simpa using (List.mem_filter.1 h).2

section
variable {α : Type} {done : Prop} [Decidable done] (xs : List α) (a b : α) (last iov : Bool)

/-- What a pass that is not its step's last appends: nothing. -/
theorem append_unless (h : ¬ done) : xs ++ (if done then [a] else []) ++ (if decide done && last && iov then [b] else []) = xs := by
  simp [h]

/-- What a step's last pass appends. -/
theorem append_last {n m : Nat} {x y : Bool} (h : done) :
    xs ++ (if done then [a] else []) ++ (if decide done && decide (n = m) && (x || y) then [b] else []) =
      xs ++ a :: if n = m ∧ (x = true ∨ y = true) then [b] else [] := by
  simp [h]

end

theorem mmaOf_mma (h : Head) (o : Mma) (sp : Bool) : Instr.mmaOf (if sp = true then .mmas h o else .mma h o) = some (sp, o) := by
  cases sp <;> rfl

theorem State.train_of_dueSteps {c : Cmd} (h : c ∈ s.dueSteps tr) : c.train = tr := by
  have := (List.mem_filter.1 h).2
  simp only [Bool.and_eq_true, beq_iff_eq] at this
  exact this.1.1.1

/-! ### Engine outputs and receives of LRED (R308, R329) -/

theorem State.landOuts_single {e : EngOut} (h : s.grid.outs.filter (fun e => e.train == tr && e.due ≤ (s.train tr).clk) = [e]) :
    s.landOuts tr = ({ s with grid := { s.grid with
      outs := s.grid.outs.filter fun e => !(e.train == tr && e.due ≤ (s.train tr).clk) } } : State).landOut e := by
  simp only [State.landOuts, h]
  rfl

theorem tileAt_zero (core n : Nat) : tileAt core n 0 = core * 2 ^ 32 + 16384 * n := Nat.add_zero _

theorem State.receiveReds_single {c : Cmd} {x : LinkCell} (due : s.dueReds tr = [c])
    (found : (s.core c.core).rx.find? (c.matches s) = some x) :
    s.receiveReds tr = (s.takeCell c (nth 0 c.vals 1).toNat).setCmd { c with steps := 1 } := by
  have here : s.arrived c = true := List.any_eq_true.2 ⟨x, List.mem_of_find?_eq_some found, List.find?_some found⟩
  simp [State.receiveReds, due, here]

theorem State.takeCell_of_found {c : Cmd} {x : LinkCell} (a : Nat) (found : (s.core c.core).rx.find? (c.matches s) = some x) :
    s.takeCell c a = (s.modCore c.core fun k => { k with rx := eraseFirst (c.matches s) k.rx }).addOuts c c.land
      [.pool c.core a x.payload] := by
  rw [State.takeCell, found]

end

/-- Settles O52, by what each event makes of the one thing due: a landing of its group (`land_group`, `land_claim_of_held`,
`land_claim_of_free`), a write of the pool, an entry that starts, a k-step or its fault, an output, a cell that is taken. -/
theorem landingEvents : Obligations.LandingEvents := by
  intro tr s clk due same
  refine ⟨?late, ?registers, fun p m k r one claim => ?claims, fun p m one what => ?unclaims, fun p one => ?pool, fun e one => ?sfu,
    fun c h tile ofs one op => ?accz, fun c h o sp one op => ?steps, fun e one => ?outputs, fun c x one found => ?reds⟩
  case late =>
    refine ⟨_, rfl, rfl, rfl, ?_, fun h => ?_, fun o other => ?_⟩
    · rw [State.train_modTrain, if_pos rfl]
    · rw [State.train_modTrain, if_pos rfl, List.mem_filter]
      refine and_congr_right fun _ => ?_
      cases h.2 <;> simp
    · rw [State.train_modTrain, if_neg other]
  case registers =>
    obtain ⟨home, pend, pool, groups, -⟩ := s.landRegisters_lands tr
    obtain ⟨mem', pend', pool', groups'⟩ := State.landPends_keep (s.landings tr) (s.unpended tr)
    refine ⟨_, rfl, fun p => ?_, fun k none => ?_, home.trans (congrArg Mem.home mem'), pool.trans pool', fun p one plain => ?_⟩
    · rw [pend.trans pend', State.unpended, List.mem_filter, Bool.not_eq_true']
      rfl
    · refine (groups k).trans (groups' k fun p hp => ?_)
      obtain ⟨mine, now⟩ := List.mem_filter.1 ((mem_sortBy _).1 hp)
      exact none p mine now
    · rw [groups, State.landed_single one]
      obtain ⟨-, -, -, -, -, same⟩ := (s.unpended tr).landPend_keeps p
      exact (State.group_of_groups same _).trans (State.land_group _ _ plain)
  case claims =>
    intro g tk held lands
    obtain ⟨-, -, -, groups, teams⟩ := s.landRegisters_lands tr
    obtain ⟨-, -, -, -, teams', groups'⟩ := (s.unpended tr).landPend_keeps p
    have team (o : Nat) : (s.landRegisters tr).team o = ((s.unpended tr).land p.key (.claim m k r)).team o := by
      rw [teams, State.landed_single one, State.team_of_teams teams', claim]
    have group : (s.landRegisters tr).group p.key = ((s.unpended tr).land p.key (.claim m k r)).group p.key := by
      rw [groups, State.landed_single one, State.group_of_groups groups', claim]
    refine ⟨fun h => ⟨_, ⟨rfl, ?_, fun o _ => ?_⟩, ?_⟩, fun h => ⟨_, ⟨rfl, ?_, fun o other => ?_⟩, fun c => ?_⟩⟩
    · rw [group, State.land_claim_of_held (s := s.unpended tr) h, State.group_setGroup, if_pos rfl]
      rfl
    · rw [team, State.land_claim_of_held (s := s.unpended tr) h]
      rfl
    · rw [team, State.land_claim_of_held (s := s.unpended tr) h]
      rfl
    · rw [group, State.land_claim_of_free (s := s.unpended tr) h, State.group_modTeam, State.group_setGroup, if_pos rfl]
      rfl
    · rw [team, State.land_claim_of_free (s := s.unpended tr) h]
      exact (State.team_modTeam _ _ _ _).trans (if_neg other)
    · rw [team, State.land_claim_of_free (s := s.unpended tr) h]
      refine (congrArg (fun t : Team => t.claimed c) ((State.team_modTeam _ _ _ _).trans (if_pos rfl))).trans ?_
      exact Team.claims_setClaims_or _ _ _ _
  case unclaims =>
    obtain ⟨-, -, -, -, teams⟩ := s.landRegisters_lands tr
    obtain ⟨-, -, -, -, teams', -⟩ := (s.unpended tr).landPend_keeps p
    refine ⟨_, rfl, ?_⟩
    intro g mine
    rw [teams, State.landed_single one, State.team_of_teams teams', what]
    refine (congrArg (fun t : Team => t.claimed g.core) ((State.team_modTeam (s.unpended tr) _ _ _).trans (if_pos rfl))).trans ?_
    exact (Sp.get_set _ _ _ _ _).trans (if_pos rfl)
  case pool =>
    refine ⟨_, happens_of_eq (State.landStps_single one), ⟨rfl, rfl, rfl, rfl, rfl⟩, rfl, fun q => mem_filter_waiting⟩
  case sfu =>
    let u : State := { s with grid := { s.grid with sfu := s.grid.sfu.filter fun e => !(e.train == tr && e.start ≤ clk) } }
    have starts : exec (.sfuEntryStart tr) s = .next (u.startEntry e) := happens_of_eq (State.startSfu_single one)
    by_cases gone : e.only = true ∨ (s.group e.key).width = 0
    · rw [State.startEntry_of_only (s := u) gone] at starts
      refine ⟨_, starts, ⟨rfl, rfl, rfl, rfl, rfl⟩, u.lastSfu_entryStarted e, fun only width => ?_, fun _ => rfl, fun q => mem_filter_waiting⟩
      exact absurd gone (by simp [only, width])
    · rw [State.startEntry_of_lands (s := u) gone] at starts
      have due : e ∈ s.grid.sfu.filter fun e => e.train == tr && e.start ≤ clk := by rw [one]; exact List.mem_singleton_self e
      have mine : e.train = tr := eq_of_beq (Bool.and_eq_true_iff.1 (List.mem_filter.1 due).2).1
      refine ⟨_, starts, ⟨rfl, rfl, rfl, rfl, rfl⟩, u.lastSfu_entryStarted e, fun _ _ => ?_, fun h => absurd h gone,
        fun q => mem_filter_waiting⟩
      rw [← mine]
      rfl
  case accz =>
    obtain ⟨cores, e⟩ := (s.asIssuer c).occupy_eq c
    refine ⟨_, happens_of_eq (State.startColumns_accz one op), ?_⟩
    rw [e]
    refine ⟨⟨rfl, rfl, rfl, rfl, rfl⟩, rfl, rfl, fun x hx id => ?_⟩
    rw [State.mem_setCmd hx id]
  case steps =>
    intro A B depth bad r kp iov
    have mma : Instr.mmaOf c.op = some (sp, o) := by rw [op, mmaOf_mma]
    have steps : exec (.matrixKstep tr) s = .next (s.stepMatrix c sp o) := happens_of_eq (State.stepMatrices_single one mma)
    refine ⟨fun good => ?_, fun fails => ?_⟩
    · have pass : s.stepMatrix c sp o = _ := if_neg fun h => good (Bool.and_eq_true_iff.1 h)
      rw [pass] at steps
      refine ⟨_, steps, ⟨rfl, rfl, rfl, rfl, rfl⟩, rfl, fun x hx id => ?_, fun more => ⟨?_, fun x hx id => ?_⟩,
        fun last => ⟨fun x hx id => ?_, ?_⟩⟩
      · by_cases last : c.pass + 1 = kPace c.fmt
        · simp only [if_pos last] at hx
          rw [State.mem_setCmd hx id]
        · simp only [if_neg last] at hx
          rw [State.mem_setCmd hx id]
      · exact append_unless _ _ _ _ _ more
      · simp only [if_neg more] at hx
        rw [State.mem_setCmd hx id]
        exact ⟨rfl, rfl⟩
      · simp only [if_pos last] at hx
        rw [State.mem_setCmd hx id]
        exact ⟨rfl, rfl⟩
      · exact append_last _ _ _ last
    · have fault : s.stepMatrix c sp o = s.engineFault c := if_pos (Bool.and_eq_true_iff.2 fails)
      rw [fault] at steps
      have mine : c.train = tr := State.train_of_dueSteps (by rw [one]; exact List.mem_singleton_self c)
      exact ⟨_, steps, rfl, rfl, rfl, s.engineFault_cmds c, s.engineRecord c, s.engineFault_faults c, rfl, rfl, rfl,
        congrArg (fun k => (s.train k).clk) mine, rfl⟩
  case outputs =>
    refine ⟨_, happens_of_eq (State.landOuts_single one), ?_, ?_, ?_, ?_⟩
    · intro core a bs what
      rw [State.landOut, what]
      exact ⟨⟨rfl, rfl, rfl, rfl, rfl⟩, rfl⟩
    · intro core n o bs what
      rw [State.landOut, what]
      exact ⟨⟨rfl, rfl, rfl, rfl, rfl⟩, rfl⟩
    · intro core n what
      rw [State.landOut, what, ← tileAt_zero]
      exact ⟨⟨rfl, rfl, rfl, rfl, rfl⟩, rfl⟩
    · intro level ia bs what
      rw [State.landOut, what]
      exact ⟨⟨rfl, rfl, rfl, rfl, rfl⟩, _, rfl, rfl, rfl, rfl, rfl, rfl⟩
  case reds =>
    refine ⟨_, happens_of_eq (State.receiveReds_single one found), ?_⟩
    rw [State.takeCell_of_found _ found]
    refine ⟨rfl, rfl, ?_, fun y hy id => ?_, rfl⟩
    · exact (congrArg Core.rx (State.core_modCore s c.core (fun k => { k with rx := eraseFirst (c.matches s) k.rx }) c.core)).trans
        (congrArg Core.rx (if_pos rfl))
    · rw [State.mem_setCmd hy id]

end Sys2Proof.Machine
end

section
/-!
SUPPORT. What leaves time, and a train's clock, as they are (R53, R167).
-/

namespace Sys2Proof.Machine

/-! ### Writes at the home -/

/-- A state without what a write at the home changes: memory, free values, firmware's tables and the event counters. -/
def State.bare (s : State) : State := { s with fresh := 0, mem := {}, fw := {}, sys := s.sys.uncounted }

theorem State.makeRoom_bare (s : State) (bonded : Bool) (die n gained : Nat) (ps : Nat → Bool) (kept : Nat × Nat) :
    (s.makeRoom bonded die n gained ps kept).bare = s.bare := by
  refine foldl_keeps State.bare _ (fun _ _ => ?_) _ s
  rfl

theorem State.setAside_bare (s : State) (p : Nat) : (s.setAside p).bare = s.bare := by
  have placed {t : State} (h : t.bare = s.bare) (m : Mem) (e : W64) : (({ t with mem := m } : State).setPage p e).bare = s.bare := h
  unfold State.setAside
  split
  · rfl
  · exact placed (by rw [State.makeRoom_bare, State.makeRoom_bare]) _ _

theorem State.homePut_bare (s : State) (ia : Nat) (bs : List Byte) : (s.homePut ia bs).bare = s.bare :=
  foldl_keeps State.bare _ (fun u _ => u.setAside_bare _) _ s

theorem State.homeWrite_bare (s : State) (owner ia : Nat) (bs : List Byte) : (s.homeWrite owner ia bs).bare = s.bare := by
  refine foldl_keeps State.bare _ (fun u q => ?_) _ s
  split
  · exact u.homePut_bare _ _
  · rfl

theorem State.sysPut_bare (s : State) (a : Nat) (bs : List Byte) : (s.sysPut a bs).bare = s.bare := by
  unfold State.sysPut
  split
  · rfl
  · exact s.homePut_bare a bs

theorem State.flushAdds_bare (s : State) : s.flushAdds.bare = s.bare := by
  refine foldl_keeps (fun r : State × List QueueAdd => r.1.bare) _ (fun r a => ?_) _ (s, [])
  dsimp only
  split
  · rfl
  · exact State.homeWrite_bare ..

/-! ### The tempo of a train -/

/-- What decides whether a train's vc passes, and its clock. -/
def Train.pace (t : Train) : Bool × Bool × Bool × Bool × Nat × W64 × Nat :=
  (t.live, t.parked, t.boundary, t.finished, t.clk, t.vc, t.pause)

/-- The time, and the pace of a train. -/
def State.tempo (s : State) (k : Nat) : Nat × Bool × Bool × Bool × Bool × Nat × W64 × Nat := (s.time, (s.train k).pace)

section
variable {s : State} {k : Nat}

theorem State.tempo_of_bare {t : State} (h : t.bare = s.bare) : t.tempo k = s.tempo k := (congrArg (fun u : State => u.tempo k) h :)

theorem State.tempo_modTrain (s : State) (j : Nat) {f : Train → Train} (h : ∀ t, (f t).pace = t.pace) :
    (s.modTrain j f).tempo k = s.tempo k := by
  rw [State.tempo, State.train_modTrain]
  split
  next same => rw [h, same]; rfl
  next => rfl

theorem State.tempo_modTrain_other {j : Nat} (h : k ≠ j) (s : State) (f : Train → Train) : (s.modTrain j f).tempo k = s.tempo k := by
  rw [State.tempo, State.train_modTrain, if_neg h]
  rfl

theorem State.wakeLevel_tempo (s : State) (level : Nat) : (s.wakeLevel level).tempo k = s.tempo k := rfl
theorem State.modTeam_tempo (s : State) (tk : Nat) (f : Team → Team) : (s.modTeam tk f).tempo k = s.tempo k := rfl
theorem State.modLaunch_tempo (s : State) (l : Nat) (f : Launch → Launch) : (s.modLaunch l f).tempo k = s.tempo k := rfl
theorem State.note_tempo (s : State) (e : Event) : (s.note e).tempo k = s.tempo k := rfl
theorem State.modGroups_tempo {α : Type} (key : α → Nat) (f : Group → Group) (xs : List α) (s : State) :
    (xs.foldl (fun u x => u.modGroup (key x) f) s).tempo k = s.tempo k := by
  refine foldl_keeps (fun u : State => u.tempo k) _ (fun _ _ => ?_) _ s
  rfl

/-! ### Fault records -/

theorem State.postNow_tempo (s : State) (p : Post) : (s.postNow p).tempo k = s.tempo k := by
  have put : (s.sysPut (ringAt s.fw.fring s.fw.ringIx)
      (wordBytes (p.words ++ [s.bc, BitVec.ofNat 64 (2 ^ 63 + s.fw.ringIx % 2 ^ 16)]))).tempo k = s.tempo k := State.tempo_of_bare (s.sysPut_bare _ _)
  unfold State.postNow
  cases p.ask with
  | none => exact put
  | some a =>
    dsimp only
    rw [State.wakeLevel_tempo, State.note_tempo, State.tempo_modTrain]
    · exact put
    · exact fun _ => rfl

theorem State.flushPosts_tempo (n : Nat) (s : State) : (s.flushPosts n).tempo k = s.tempo k := by
  induction n generalizing s with
  | zero => rfl
  | succ n ih =>
    unfold State.flushPosts
    cases s.fw.posts with
    | nil => rfl
    | cons p ps =>
      have posted (t : State) (h : t.tempo k = s.tempo k) :
          (if (t.postNow p).mem.starved && !s.mem.starved then s else State.flushPosts n (t.postNow p)).tempo k = s.tempo k := by
        split
        · rfl
        · rw [ih, State.postNow_tempo, h]
      dsimp only
      split
      · refine posted _ ?_
        cases p.train with
        | none => rfl
        | some tr => exact State.tempo_modTrain { s with fw := { s.fw with posts := ps } } tr fun _ => rfl
      · rfl

theorem State.reportPost_tempo (s : State) (code : Nat) (t2 t3 handle : W64) (owner : Nat) :
    (s.reportPost code t2 t3 handle owner).tempo k = s.tempo k :=
  State.flushPosts_tempo _ _

/-! ### What a boundary's vc ends with -/

theorem State.finishPre_tempo (s : State) (r : PreReq) (x : W64) : (s.finishPre r x).tempo k = s.tempo k := by
  have dropped : (if r.ring || r.decision != 2 then s.dropPre r.id else s.setPre { r with done := true }).tempo k = s.tempo k := by
    split <;> rfl
  unfold State.finishPre
  dsimp only
  split
  · exact (State.reportPost_tempo ..).trans dropped
  · exact dropped

theorem State.endPre_tempo (s : State) (tr : Nat) : (s.endPre tr).tempo k = s.tempo k := by
  refine foldl_keeps (fun u => u.tempo k) _ (fun u r => ?_) _ s
  split
  · exact u.finishPre_tempo _ _
  · rfl

theorem State.forgetTeam_tempo (s : State) (tk : Nat) : (s.forgetTeam tk).tempo k = s.tempo k :=
  State.tempo_modTrain _ _ fun _ => rfl

theorem State.clearEnded_tempo (s : State) (tr : Nat) : (s.clearEnded tr).tempo k = s.tempo k :=
  foldl_keeps (fun u => u.tempo k) _ (fun u tk => u.forgetTeam_tempo tk) _ s

theorem State.stopTeam_tempo (s : State) (tk code : Nat) : (s.stopTeam tk code).tempo k = s.tempo k := by
  have stopped := State.modGroups_tempo (k := k) id Group.stopped (s.teamGroups tk) s
  unfold State.stopTeam
  dsimp only
  rw [State.modTeam_tempo, State.tempo_modTrain]
  · exact stopped
  · exact fun _ => rfl

theorem State.endTrain_tempo (s : State) (tr code team : Nat) : (s.endTrain tr code team).tempo k = s.tempo k := by
  unfold State.endTrain
  dsimp only
  rw [State.modLaunch_tempo, State.tempo_modTrain]
  · exact foldl_keeps (fun u : State => u.tempo k) _ (fun u tk => u.stopTeam_tempo tk code) _ s
  · exact fun _ => rfl

theorem State.haltTrain_tempo (s : State) (tr : Nat) : (s.haltTrain tr).tempo k = s.tempo k := by
  unfold State.haltTrain
  split
  · exact s.endTrain_tempo _ _ _
  · rfl

theorem State.lastBoundary_tempo {j : Nat} (h : k ≠ j) (s : State) : (s.lastBoundary j).tempo k = s.tempo k := by
  unfold State.lastBoundary
  dsimp only
  split
  · exact s.tempo_modTrain_other h fun t => { t with finished := true }
  · rfl

theorem State.afterBoundary_tempo {j : Nat} (h : k ≠ j) (s : State) : (s.afterBoundary j).tempo k = s.tempo k := by
  rw [State.afterBoundary, State.lastBoundary_tempo h, State.haltTrain_tempo, State.clearEnded_tempo, State.endPre_tempo]

/-! ### The arbiters and the charge -/

theorem State.decideSlot_tempo (s : State) (tr core quad slot : Nat) : (s.decideSlot tr core quad slot).tempo k = s.tempo k := by
  unfold State.decideSlot
  dsimp only
  split
  · rfl
  · split
    · rfl
    · have served (mine : List (Nat × Group)) (b : Bool) :
          (if b then mine.foldl (fun s p => s.modGroup p.1 fun g => { g with served := false }) s else s).tempo k = s.tempo k := by
        split
        · exact State.modGroups_tempo Prod.fst _ mine s
        · rfl
      split
      · rfl
      · exact served _ _

theorem State.decide_tempo (s : State) (tr : Nat) : (s.decide tr).tempo k = s.tempo k :=
  foldl_keeps (fun u => u.tempo k) _ (fun u c => foldl_keeps (fun u => u.tempo k) _ (fun u q => by
    rw [State.decideSlot_tempo, State.decideSlot_tempo]) _ u) _ s

theorem State.runDry_tempo (s : State) (owner b : Nat) : (s.runDry owner b).tempo k = s.tempo k := by
  unfold State.runDry
  refine (foldl_keeps (fun u : State => u.tempo k) _ (fun u tr => ?_) _ _).trans (foldl_keeps (fun u : State => u.tempo k) _ (fun u q => ?_) _ _)
  · split <;> rfl
  · dsimp only
    split <;> rfl

theorem State.charge_tempo (s : State) (tr : Nat) : (s.charge tr).tempo k = s.tempo k := by
  unfold State.charge
  dsimp only
  split
  · rfl
  · split
    · exact State.runDry_tempo _ _ _
    · rfl

/-! ### A vc of a train -/

theorem State.advanceTrain_tempo {j : Nat} (h : k ≠ j) (s : State) : (s.advanceTrain j).tempo k = s.tempo k := by
  have ended : (if (s.train j).boundary then (s.afterBoundary j).modTrain j fun t => { t with boundary := false } else s).tempo k =
      s.tempo k := by
    split
    · rw [State.tempo_modTrain_other h, State.afterBoundary_tempo h]
    · rfl
  unfold State.advanceTrain
  dsimp only
  split
  · rfl
  · split
    · exact State.tempo_modTrain_other h s _
    · generalize (if (s.train j).boundary then (s.afterBoundary j).modTrain j fun t => { t with boundary := false } else s) = u at ended ⊢
      split
      · exact ended
      · rw [State.tempo_modTrain_other h, State.charge_tempo]
        exact (State.decide_tempo u j).trans ended

theorem State.advanceTrains_tempo {js : List Nat} (h : k ∉ js) (s : State) : (js.foldl State.advanceTrain s).tempo k = s.tempo k := by
  induction js generalizing s with
  | nil => rfl
  | cons j js ih =>
    rw [List.mem_cons, not_or] at h
    rw [List.foldl_cons, ih h.2, State.advanceTrain_tempo h.1]

/-! ### The cores that a train takes -/

theorem State.clearCore_tempo (s : State) (c : Nat) : (s.clearCore c).tempo k = s.tempo k := rfl

theorem State.refreshCluster_tempo (s : State) (x : Train) (cluster : Nat) : (s.refreshCluster x cluster).tempo k = s.tempo k := by
  refine foldl_keeps (fun u : State => u.tempo k) _ (fun _ _ => ?_) _ s
  rfl

theorem State.joinCluster_tempo (s : State) (tr cluster : Nat) : (s.joinCluster tr cluster).tempo k = s.tempo k := by
  unfold State.joinCluster
  rw [State.tempo_modTrain]
  · exact s.refreshCluster_tempo _ _
  · exact fun _ => rfl

theorem State.extendTrain_tempo (s : State) (tr : Nat) : (s.extendTrain tr).tempo k = s.tempo k := by
  unfold State.extendTrain
  extract_lets t d cl free pairs n new cores joined s₁ s₂ s₃
  split
  · rfl
  split
  · rfl
  have cleared : s₁.tempo k = s.tempo k := foldl_keeps (fun u : State => u.tempo k) _ (fun u c => u.clearCore_tempo c) _ s
  have taken : s₂.tempo k = s₁.tempo k := s₁.tempo_modTrain tr fun _ => rfl
  have views : s₃.tempo k = s₂.tempo k := foldl_keeps (fun u : State => u.tempo k) _ (fun u c => u.joinCluster_tempo tr c) _ s₂
  have refreshed : (new.foldl State.refreshCore s₃).tempo k = s₃.tempo k := by
    refine foldl_keeps (fun u : State => u.tempo k) _ (fun _ _ => ?_) _ s₃
    rfl
  rw [State.modLaunch_tempo, refreshed, views, taken, cleared]

theorem State.extendTrains_tempo (js : List Nat) (s : State) : (js.foldl State.extendTrain s).tempo k = s.tempo k :=
  foldl_keeps (fun u : State => u.tempo k) _ (fun u tr => u.extendTrain_tempo tr) _ s

theorem State.extendTrain_of_whole {tr : Nat} (h : (s.train tr).lost = 0) : s.extendTrain tr = s := by
  unfold State.extendTrain
  exact if_pos (by simp [h])

theorem State.extendTrains_of_whole {js : List Nat} (h : ∀ tr, (s.train tr).lost = 0) : js.foldl State.extendTrain s = s := by
  induction js with
  | nil => rfl
  | cons j js ih => rw [List.foldl_cons, State.extendTrain_of_whole (h j), ih]

/-! ### The package -/

/-- A state without the idle trains' vc. -/
def State.unidled (s : State) : State := { s with grid := { s.grid with idleVc := [] } }

theorem State.advanceIdle_unidled (s : State) : s.advanceIdle.unidled = s.unidled := by
  unfold State.advanceIdle
  split
  · rfl
  · refine foldl_keeps State.unidled _ (fun _ _ => ?_) _ s
    rfl

theorem State.advanceIdle_of_hold (h : s.bcHold ≠ 0) : s.advanceIdle = s := if_pos (by simp [h])

theorem State.advance_eq (s : State) : s.advance =
    ((s.grid.trains.map (·.1)).foldl State.advanceTrain
      ((s.grid.trains.map (·.1)).foldl State.extendTrain s.advanceIdle)).countBc.finishReport.bootStage.elapse := by
  rw [State.countBc_eq]
  rfl

/-- Outside RELEASE a state of bring-up changes neither time nor the grid, and none leads to JOIN. -/
theorem State.bootStage_passes {s : State} (boot : s.sys.boot ≠ 5) (awaits : s.awaitsCount = false) :
    s.bootStage.time = s.time ∧ s.bootStage.bc = s.bc ∧ s.bootStage.bcHold = s.bcHold ∧ s.bootStage.grid = s.grid ∧
      s.bootStage.awaitsCount = false := by
  unfold State.bootStage
  split
  · exact ⟨rfl, rfl, rfl, rfl, rfl⟩
  · rw [State.verifyImage_eq]
    split <;> exact ⟨rfl, rfl, rfl, rfl, rfl⟩
  · exact ⟨rfl, rfl, rfl, rfl, rfl⟩
  next release => exact absurd release boot
  · exact ⟨rfl, rfl, rfl, rfl, awaits⟩

theorem State.joinListened_of_counted {s : State} (awaits : s.awaitsCount = false) : s.joinListened = s := by
  have counted : s.loadCount = s := by
    unfold State.loadCount
    cases s.pod.first <;> simp [awaits]
  have away : s.sys.boot ≠ 7 := fun h => by simp [State.awaitsCount, h] at awaits
  simp [State.joinListened, counted, away]

theorem State.elapse_bare {s : State} (posts : s.fw.posts = []) (awaits : s.awaitsCount = false) :
    s.elapse.bare = ({ s with time := s.time + 1 } : State).bare := by
  have still : s.flushPosts s.fw.posts.length = s := by rw [posts]; rfl
  have bare := s.flushAdds_bare
  have counted : ({ s.flushAdds with time := s.flushAdds.time + 1 } : State).awaitsCount = false :=
    (congrArg State.awaitsCount bare :).trans awaits
  rw [State.elapse, still, State.joinListened_of_counted counted]
  exact congrArg (fun u : State => { u with time := u.time + 1 }) bare

theorem State.bare_fields {t u : State} (h : t.bare = u.bare) : t.time = u.time ∧ t.grid = u.grid ∧ t.bc = u.bc ∧ t.bcHold = u.bcHold :=
  ⟨(congrArg State.time h :), (congrArg State.grid h :), (congrArg State.bc h :), (congrArg State.bcHold h :)⟩

theorem State.awaitsCount_advanceIdle (s : State) : s.advanceIdle.awaitsCount = s.awaitsCount :=
  (congrArg State.awaitsCount s.advanceIdle_unidled :)

/-- A period of a package without trains that awaits no count (R167). -/
theorem State.advance_alone {s : State} (alone : s.grid.trains = []) (boot : s.sys.boot ≠ 5) (awaits : s.awaitsCount = false)
    (posts : s.fw.posts = []) : s.advance.time = s.time + 1 ∧ s.advance.grid = s.advanceIdle.grid ∧
      s.advance.bc = s.countBc.bc ∧ s.advance.bcHold = s.countBc.bcHold := by
  have idle := s.advanceIdle_unidled
  have report : s.advanceIdle.countBc.finishReport.sys.boot = s.advanceIdle.sys.boot ∧
      s.advanceIdle.countBc.finishReport.awaitsCount = s.advanceIdle.awaitsCount ∧
      s.advanceIdle.countBc.finishReport.time = s.advanceIdle.time ∧ s.advanceIdle.countBc.finishReport.grid = s.advanceIdle.grid ∧
      s.advanceIdle.countBc.finishReport.bc = s.advanceIdle.countBc.bc ∧
      s.advanceIdle.countBc.finishReport.bcHold = s.advanceIdle.countBc.bcHold ∧
      s.advanceIdle.countBc.finishReport.fw.posts = s.advanceIdle.fw.posts := by
    unfold State.finishReport
    split <;> exact ⟨rfl, rfl, rfl, rfl, rfl, rfl, rfl⟩
  obtain ⟨bootR, awaitsR, timeR, gridR, bcR, holdR, postsR⟩ := report
  have posts' := (postsR.trans (congrArg (fun u : State => u.fw.posts) idle :)).trans posts
  have boot' := fun h => boot ((bootR.trans (congrArg (fun u : State => u.sys.boot) idle :)).symm.trans h)
  have awaits' := (awaitsR.trans s.awaitsCount_advanceIdle).trans awaits
  obtain ⟨timeB, bcB, holdB, gridB, awaitsB⟩ := State.bootStage_passes boot' awaits'
  obtain ⟨-, -, postsB, -⟩ := s.advanceIdle.countBc.finishReport.bootStage_keeps
  obtain ⟨time, grid, bc, hold⟩ := State.bare_fields (State.elapse_bare (postsB.trans posts') awaitsB)
  rw [State.advance_of_no_trains alone, time, grid, bc, hold]
  refine ⟨?_, gridB.trans gridR, (bcB.trans bcR).trans ?_, (holdB.trans holdR).trans ?_⟩
  · exact congrArg (· + 1) ((timeB.trans timeR).trans (congrArg State.time idle :))
  · exact (congrArg (fun u : State => u.countBc.bc) idle :)
  · exact (congrArg (fun u : State => u.countBc.bcHold) idle :)

theorem State.finishReport_tempo (s : State) : s.finishReport.tempo k = s.tempo k := by
  unfold State.finishReport
  split <;> rfl

theorem State.releaseCores_tempo (s : State) : s.releaseCores.tempo k = s.tempo k := by
  refine foldl_keeps (fun u : State => u.tempo k) _ (fun _ _ => ?_) _ s
  rfl

theorem State.bootStage_tempo (s : State) : s.bootStage.tempo k = s.tempo k := by
  unfold State.bootStage
  split
  · rfl
  · rw [State.verifyImage_eq]
    split <;> rfl
  · rfl
  · exact State.releaseCores_tempo { s.releaseResets with sys := { s.releaseResets.sys with boot := 6 } }
  · rfl

theorem State.loadCount_tempo (s : State) : s.loadCount.tempo k = s.tempo k := by
  unfold State.loadCount
  split
  · rfl
  · split
    · unfold State.reloadBc
      split <;> rfl
    · rfl

theorem State.bumpOwner_bare (s : State) (owner c : Nat) : (s.bumpOwner owner c).bare = s.bare := by
  obtain h | ⟨b, c, h⟩ := s.bumpOwner_cases owner c <;> rw [h]
  rfl

theorem State.joinListened_tempo (s : State) : s.joinListened.tempo k = s.tempo k := by
  unfold State.joinListened
  dsimp only
  split
  · exact (State.tempo_of_bare (State.bumpOwner_bare _ _ _)).trans s.loadCount_tempo
  · exact s.loadCount_tempo

theorem State.elapse_tempo (s : State) : s.elapse.tempo k = (s.time + 1, (s.train k).pace) := by
  have written : (s.flushPosts s.fw.posts.length).flushAdds.tempo k = s.tempo k :=
    (State.tempo_of_bare (State.flushAdds_bare _)).trans (State.flushPosts_tempo _ _)
  obtain ⟨time, pace⟩ := Prod.mk.inj written
  rw [State.elapse, State.joinListened_tempo]
  exact Prod.ext (congrArg (· + 1) time) pace

theorem State.advanceTrain_time (s : State) (tr : Nat) : (s.advanceTrain tr).time = s.time :=
  congrArg Prod.fst (State.advanceTrain_tempo (Nat.succ_ne_self tr) s)

/-- A period of the package, for a train whose number no other has: the trains before it, itself, and what follows. -/
theorem State.advance_tempo {earlier later : List (Nat × Train)} {x : Train} (trains : s.grid.trains = earlier ++ (k, x) :: later)
    (others : ∀ p ∈ earlier ++ later, p.1 ≠ k) :
    let ready := (s.grid.trains.map (·.1)).foldl State.extendTrain s.advanceIdle
    let u := (earlier.map (·.1)).foldl State.advanceTrain ready
    u.tempo k = (s.time, x.pace) ∧ s.advance.tempo k = (s.time + 1, ((u.advanceTrain k).train k).pace) := by
  intro ready u
  have before : k ∉ earlier.map (·.1) := fun h => by
    obtain ⟨p, hp, e⟩ := List.mem_map.1 h
    exact others p (List.mem_append_left _ hp) e
  have after : k ∉ later.map (·.1) := fun h => by
    obtain ⟨p, hp, e⟩ := List.mem_map.1 h
    exact others p (List.mem_append_right _ hp) e
  have mine : s.train k = x := by
    rw [State.train, trains, Sp.get_append _ _ _ _ fun p hp => others p (List.mem_append_left _ hp), Sp.get_cons, if_pos rfl]
  have idle : s.advanceIdle.tempo k = s.tempo k := (congrArg (fun v : State => v.tempo k) s.advanceIdle_unidled :)
  have here : u.tempo k = (s.time, x.pace) := by
    rw [State.advanceTrains_tempo before, State.extendTrains_tempo, idle, State.tempo, mine]
  refine ⟨here, ?_⟩
  have split : (s.grid.trains.map (·.1)).foldl State.advanceTrain ready = (later.map (·.1)).foldl State.advanceTrain (u.advanceTrain k) := by
    rw [trains, List.map_append, List.foldl_append, List.map_cons, List.foldl_cons]
  let v := ((later.map (·.1)).foldl State.advanceTrain (u.advanceTrain k)).countBc.finishReport.bootStage
  have passed : v.tempo k = (u.advanceTrain k).tempo k := by
    rw [State.bootStage_tempo, State.finishReport_tempo]
    exact State.advanceTrains_tempo after _
  have time : (u.advanceTrain k).time = s.time := (u.advanceTrain_time k).trans (congrArg Prod.fst here)
  rw [State.advance_eq, split, State.elapse_tempo]
  obtain ⟨time', pace⟩ := Prod.mk.inj passed
  exact Prod.ext (congrArg (· + 1) (time'.trans time)) pace

/-! ### What holds a train (R53, R167, R434) -/

/-- Whether a train's align waits for its T. -/
def State.awaitsAlign (s : State) (tr : Nat) : Prop :=
  ∃ c T v, (s.train tr).align = some (c, T, v) ∧ c ≤ (s.train tr).clk ∧ s.bc.toNat < T.toNat

theorem State.late_iff (s : State) (tr : Nat) : s.late tr = true ↔
    (∃ h ∈ (s.train tr).holds, h.1 ≤ (s.train tr).clk) ∨ s.sys.thermal = true ∨ s.bcHold ≠ 0 ∨ s.awaitsAlign tr ∨
      (∃ c ∈ s.dueCmds tr, s.cmdLate c = true) ∨ ∃ c ∈ s.dueReds tr, s.arrived c = false := by
  simp only [State.late, Bool.or_eq_true, List.any_eq_true, decide_eq_true_eq, bne_iff_ne, Bool.not_eq_true', or_assoc]
  refine or_congr_right (or_congr_right (or_congr_right (or_congr_left ?_)))
  unfold State.awaitsAlign
  cases (s.train tr).align with
  | none => simp
  | some a =>
    obtain ⟨c, T, v⟩ := a
    simp

theorem State.mem_dueCmds {tr : Nat} {c : Cmd} :
    c ∈ s.dueCmds tr ↔ c ∈ s.grid.cmds ∧ c.train = tr ∧ c.started = false ∧ c.start ≤ (s.train tr).clk := by
  simp [State.dueCmds, and_assoc]

theorem State.mem_dueReds {tr : Nat} {c : Cmd} :
    c ∈ s.dueReds tr ↔ c ∈ s.grid.cmds ∧ c.train = tr ∧ c.started = true ∧ c.steps = 0 ∧ c.land ≤ (s.train tr).clk + 8 ∧ ∃ h o, c.op = .lred h o := by
  simp only [State.dueReds, List.mem_filter, Bool.and_eq_true, beq_iff_eq, decide_eq_true_eq, and_assoc]
  refine and_congr_right fun _ => and_congr_right fun _ => and_congr_right fun _ => and_congr_right fun _ => and_congr_right fun _ => ?_
  split
  next h o op => exact iff_of_true rfl ⟨h, o, op⟩
  next other => exact iff_of_false Bool.false_ne_true fun ⟨h, o, op⟩ => other h o op

theorem State.arrived_iff (c : Cmd) : s.arrived c = true ↔ ∃ z ∈ (s.core c.core).rx, c.matches s z = true := List.any_eq_true

theorem State.held_iff (s : State) (tr : Nat) :
    s.held tr = true ↔ s.late tr = true ∨ ∃ w, s.nextWork tr = some w ∧ s.starves tr w = true := by
  simp [State.held, Option.any_eq_true]

/-- The clock of a train whose vc a late event holds. -/
theorem State.advanceTrain_of_held {tr : Nat} (live : (s.train tr).live = true) (parked : (s.train tr).parked = false) (h : s.held tr = true) :
    ((s.advanceTrain tr).train tr).clk = (s.train tr).clk ∧ ((s.advanceTrain tr).train tr).vc = (s.train tr).vc ∧
      ((s.advanceTrain tr).train tr).pause = (s.train tr).pause + 1 := by
  have pauses : s.advanceTrain tr = s.modTrain tr fun t => { t with pause := t.pause + 1 } := by simp [State.advanceTrain, live, parked, h]
  rw [pauses, State.train_modTrain, if_pos rfl]
  exact ⟨rfl, rfl, rfl⟩

/-- The clock of a train whose vc passes. -/
theorem State.advanceTrain_of_free {tr : Nat} (live : (s.train tr).live = true) (parked : (s.train tr).parked = false)
    (boundary : (s.train tr).boundary = false) (finished : (s.train tr).finished = false) (h : s.held tr = false) :
    ((s.advanceTrain tr).train tr).clk = (s.train tr).clk + 1 ∧ ((s.advanceTrain tr).train tr).vc = (s.train tr).vc + 1 ∧
      ((s.advanceTrain tr).train tr).pause = 0 := by
  have passes : s.advanceTrain tr = (((s.decide tr).pruneCmds tr).charge tr).modTrain tr fun t =>
      { t with clk := t.clk + 1, vc := t.vc + 1, surveyed := false, pause := 0, overrun := false } := by
    simp [State.advanceTrain, live, parked, boundary, finished, h]
  have same : (((s.decide tr).pruneCmds tr).charge tr).tempo tr = s.tempo tr := (State.charge_tempo _ tr).trans (s.decide_tempo tr)
  simp only [State.tempo, Train.pace, Prod.mk.injEq] at same
  obtain ⟨-, -, -, -, -, clk, vc, -⟩ := same
  rw [passes, State.train_modTrain, if_pos rfl]
  exact ⟨congrArg (· + 1) clk, congrArg (· + 1) vc, rfl⟩

end

/-- Settles O53: no part of a period but a train's own vc changes its clock (`State.tempo`, `advance_tempo`), and that passes unless the train
is held (`advanceTrain_of_free`, `advanceTrain_of_held`). -/
theorem timePasses : Obligations.TimePasses := by
  intro tr x earlier later s
  refine ⟨fun alone boot awaits posts => ?package, fun trains others live parked => ?train⟩
  case package =>
    obtain ⟨time, grid, bc, hold⟩ := State.advance_alone alone boot awaits posts
    have idle : s.advanceIdle.grid = { s.grid with idleVc := s.advanceIdle.grid.idleVc } :=
      (congrArg (fun u : State => { u.grid with idleVc := s.advanceIdle.grid.idleVc }) s.advanceIdle_unidled :)
    refine ⟨s.advance, rfl, time, ?_, fun holds => ?_, fun counts => ⟨?_, ?_⟩, fun holds => ⟨?_, hold⟩⟩
    · rw [grid]
      exact idle
    · rw [grid, State.advanceIdle_of_hold holds]
    · rw [bc, State.countBc, if_pos counts]
    · rw [hold, State.countBc, counts]
    · rw [bc, State.countBc, if_neg holds]
  case train =>
    intro ready u here waits receives late starving
    obtain ⟨at_u, passes⟩ := State.advance_tempo trains others
    change u.tempo tr = _ at at_u
    change s.advance.tempo tr = (s.time + 1, ((u.advanceTrain tr).train tr).pace) at passes
    obtain ⟨-, live', parked', boundary', finished', clk, vc, pause⟩ : u.time = s.time ∧ (u.train tr).live = x.live ∧
        (u.train tr).parked = x.parked ∧ (u.train tr).boundary = x.boundary ∧ (u.train tr).finished = x.finished ∧
        (u.train tr).clk = x.clk ∧ (u.train tr).vc = x.vc ∧ (u.train tr).pause = x.pause := by
      simpa [State.tempo, Train.pace] using at_u
    obtain ⟨time, -, -, -, -, clk_t, vc_t, pause_t⟩ : s.advance.time = s.time + 1 ∧ _ := by
      simpa only [State.tempo, Train.pace, Prod.mk.injEq] using passes
    have waiting (c : Cmd) : u.cmdLate c = true ↔ waits c := by
      unfold State.cmdLate
      simp only [waits, here]
      cases op : c.op with
      | lrecv h spkg flow a b => simp [State.arrived]
      | lsend h o => simp
      | lmcast h o => simp
      | lred h o => simp
      | _ => simp
    have absent (c : Cmd) : u.arrived c = false ↔ ¬ here c := by rw [← Bool.not_eq_true, State.arrived_iff]
    have lates : u.late tr = true ↔ late := by
      rw [State.late_iff]
      simp only [State.awaitsAlign, State.mem_dueCmds, State.mem_dueReds, waiting, absent, clk, and_assoc, late, receives]
    have holds : u.held tr = true ↔ late ∨ starving := by rw [State.held_iff, lates]
    refine ⟨fun whole => ?_, lates, holds, s.advance, rfl, time, fun free boundary finished => ?_, fun held => ?_⟩
    · refine State.extendTrains_of_whole fun j => ?_
      have same : s.advanceIdle.train j = s.train j := (congrArg (fun v : State => v.train j) s.advanceIdle_unidled :)
      rw [same]
      exact Sp.get_of_forall (P := fun t : Train => t.lost = 0) rfl whole j
    · obtain ⟨clk', vc', pause'⟩ := u.advanceTrain_of_free (live'.trans live) (parked'.trans parked) (boundary'.trans boundary)
        (finished'.trans finished) ((Bool.not_eq_true _).mp fun h => free (holds.1 h))
      rw [clk_t, vc_t, pause_t, clk', vc', pause', clk, vc]
      exact ⟨rfl, rfl, rfl⟩
    · obtain ⟨clk', vc', pause'⟩ := State.advanceTrain_of_held (live'.trans live) (parked'.trans parked) (holds.2 held)
      rw [clk_t, vc_t, pause_t, clk', vc', pause', clk, vc, pause]
      exact ⟨rfl, rfl, rfl⟩

end Sys2Proof.Machine
end

section
/-!
SUPPORT. Bytes that are written at the homes and in the views, byte by byte, where no lap sets pages aside and no queue control block is
in use (R141 to R145, R394).
-/

namespace Sys2Proof.Machine

/-! ### Maps and lists -/

theorem Sp.get_put {α : Type} [DecidableEq α] (d : α) (m : List (Nat × α)) (base : Nat) (xs : List α) (a : Nat) :
    Sp.get d (Sp.put d m base xs) a = if base ≤ a ∧ a < base + xs.length then nth d xs (a - base) else Sp.get d m a := by
  split
  next h =>
    obtain ⟨i, rfl⟩ := Nat.exists_eq_add_of_le h.1
    have inside : i < xs.length := Nat.add_lt_add_iff_left.1 h.2
    rw [Sp.get_put_same d m base xs i inside, Nat.add_sub_cancel_left, nth_getElem d xs i inside]
  next h => exact Sp.get_put_other d m base xs a (by omega)

theorem Memory.byte_put (m : Memory) (base : Nat) (bs : List Byte) (a : Nat) :
    (Memory.put m base bs).byte a = if base ≤ a ∧ a < base + bs.length then nth 0 bs (a - base) else m.byte a :=
  Sp.get_put 0 m base bs a

theorem nth_eq_getD {α : Type} (d : α) (xs : List α) (i : Nat) : nth d xs i = xs.getD i d := by
  induction xs generalizing i with
  | nil => simp
  | cons x xs ih =>
    cases i with
    | zero => rfl
    | succ i => simpa [nth] using ih i

theorem nth_take_drop {α : Type} (d : α) (xs : List α) (i k j : Nat) (h : j < k) : nth d ((xs.drop i).take k) j = nth d xs (i + j) := by
  simp [nth_eq_getD, List.getD, h]

theorem Memory.bytes_of_byte {m : Memory} {a : Nat} {bs : List Byte} (h : ∀ i, i < bs.length → m.byte (a + i) = nth 0 bs i) :
    m.bytes a bs.length = bs := by
  rw [Memory.bytes, Sp.range_eq]
  refine List.ext_getElem (by simp) fun i h₁ h₂ => ?_
  simp only [List.getElem_map, List.getElem_range]
  exact (h i h₂).trans (nth_getElem 0 bs i h₂)

/-! ### What the phases of a boundary leave -/

/-- A state without what the phases of a boundary change: homes, views, own bytes, the companion's copies, the landings to come, and the event
counters. -/
def State.calm (s : State) : State :=
  { s with
    mem := { s.mem with home := [], cview := [], own := [], pview := [], snoop := [] }
    grid := { s.grid with pend := [], owed := [], acquires := [] }
    sys := s.sys.uncounted }

section
variable {s t : State} (h : t.calm = s.calm)
include h

theorem State.calm_laps : t.mem.laps = s.mem.laps := (congrArg (fun u : State => u.mem.laps) h :)
theorem State.calm_queues : t.fw.queues = s.fw.queues := (congrArg (fun u : State => u.fw.queues) h :)
theorem State.calm_pageOk (owner p : Nat) : t.pageOk owner p = s.pageOk owner p := (congrArg (fun u : State => u.pageOk owner p) h :)
theorem State.calm_train (k : Nat) : t.train k = s.train k := (congrArg (fun u : State => u.train k) h :)
theorem State.calm_team (k : Nat) : t.team k = s.team k := (congrArg (fun u : State => u.team k) h :)
theorem State.calm_group (k : Nat) : t.group k = s.group k := (congrArg (fun u : State => u.group k) h :)

end

/-! ### Homes -/

section
variable {s : State} (laps : s.mem.laps = [])
include laps

theorem State.setAside_of_no_laps (p : Nat) : s.setAside p = s := by
  unfold State.setAside
  exact if_pos (by simp [laps])

theorem State.setAsideRange_of_no_laps (ia n : Nat) : s.setAsideRange ia n = s := by
  unfold State.setAsideRange
  induction pieces ia n with
  | nil => rfl
  | cons q qs ih => rw [List.foldl_cons, State.setAside_of_no_laps laps, ih]

/-- A write at the home where no lap covers a page. -/
theorem State.homePut_of_no_laps (ia : Nat) (bs : List Byte) :
    s.homePut ia bs = { s with mem := { s.mem.invalidate ia bs.length with home := Memory.put s.mem.home ia bs } } := by
  rw [State.homePut, State.setAsideRange_of_no_laps laps]

end

/-- What a home write leaves: the views, the own bytes, and the grid. -/
structure State.WritesHome (s t : State) : Prop where
  calm : t.calm = s.calm
  cview : t.mem.cview = s.mem.cview
  own : t.mem.own = s.mem.own
  pview : t.mem.pview = s.mem.pview
  grid : t.grid = s.grid

theorem State.WritesHome.refl (s : State) : s.WritesHome s := ⟨rfl, rfl, rfl, rfl, rfl⟩

theorem State.WritesHome.trans {s t u : State} (h : s.WritesHome t) (k : t.WritesHome u) : s.WritesHome u :=
  ⟨k.calm.trans h.calm, k.cview.trans h.cview, k.own.trans h.own, k.pview.trans h.pview, k.grid.trans h.grid⟩

/-- One page's part of a tenant's home write. -/
def State.writePiece (owner ia : Nat) (bs : List Byte) (s : State) (q : Nat × Nat) : State :=
  if s.pageOk owner (pageOf q.1) then s.homePut q.1 (s.tenantBytes q.1 ((bs.drop (q.1 - ia)).take q.2)) else s.bump 0 9

theorem State.homeWrite_eq (s : State) (owner ia : Nat) (bs : List Byte) :
    s.homeWrite owner ia bs = (pieces ia bs.length).foldl (State.writePiece owner ia bs) s := rfl

theorem State.tenantBytes_of_no_queues {s : State} (h : s.fw.queues = []) (ia : Nat) (bs : List Byte) : s.tenantBytes ia bs = bs := by
  simp [State.tenantBytes, h]

section
variable {s : State} (laps : s.mem.laps = []) (queues : s.fw.queues = [])
include laps queues

theorem State.writePiece_writes {owner ia a k : Nat} {bs : List Byte} (low : ia ≤ a) (high : a + k ≤ ia + bs.length)
    (page : a % 65536 + k ≤ 65536) :
    s.WritesHome (s.writePiece owner ia bs (a, k)) ∧ ∀ x, (s.writePiece owner ia bs (a, k)).mem.home.byte x =
      if (a ≤ x ∧ x < a + k) ∧ s.pageOk owner (pageOf x) = true then nth 0 bs (x - ia) else s.mem.home.byte x := by
  have same {x : Nat} (h : a ≤ x ∧ x < a + k) : pageOf x = pageOf a := by
    unfold pageOf
    omega
  have len : ((bs.drop (a - ia)).take k).length = k := by
    simp
    omega
  unfold State.writePiece
  dsimp only
  split
  next ok =>
    rw [State.homePut_of_no_laps laps, State.tenantBytes_of_no_queues queues]
    refine ⟨⟨rfl, rfl, rfl, rfl, rfl⟩, fun x => ?_⟩
    dsimp only
    rw [Memory.byte_put, len]
    by_cases inside : a ≤ x ∧ x < a + k
    · rw [if_pos inside, if_pos ⟨inside, (same inside) ▸ ok⟩, nth_take_drop _ _ _ _ _ (by omega)]
      congr 1
      omega
    · rw [if_neg inside, if_neg fun h => inside h.1]
  next bad =>
    refine ⟨⟨rfl, rfl, rfl, rfl, rfl⟩, fun x => ?_⟩
    rw [if_neg fun h : (a ≤ x ∧ x < a + k) ∧ s.pageOk owner (pageOf x) = true => bad ((same h.1) ▸ h.2)]
    rfl

end

section
variable {owner ia : Nat} {bs : List Byte}

theorem State.writePieces_write (fuel : Nat) : ∀ (s : State) (a n : Nat), s.mem.laps = [] → s.fw.queues = [] → ia ≤ a →
    a + n ≤ ia + bs.length → (n ≠ 0 → a % 65536 + n ≤ 65536 * fuel) →
    s.WritesHome ((pagePieces fuel a n).foldl (State.writePiece owner ia bs) s) ∧
    ∀ x, ((pagePieces fuel a n).foldl (State.writePiece owner ia bs) s).mem.home.byte x =
      if (a ≤ x ∧ x < a + n) ∧ s.pageOk owner (pageOf x) = true then nth 0 bs (x - ia) else s.mem.home.byte x := by
  induction fuel with
  | zero =>
    intro s a n _ _ _ _ fuel
    refine ⟨.refl s, fun x => ?_⟩
    rw [if_neg (by omega)]
    rfl
  | succ fuel ih =>
    intro s a n laps queues low high enough
    unfold pagePieces
    split
    next none =>
      refine ⟨.refl s, fun x => ?_⟩
      rw [if_neg (by omega)]
      rfl
    next some =>
      have enough := enough some
      obtain ⟨k, len⟩ : ∃ k, k = min n (65536 - a % 65536) := ⟨_, rfl⟩
      rw [← len]
      dsimp only
      have fits : a % 65536 + k ≤ 65536 := by omega
      obtain ⟨wrote, home⟩ := State.writePiece_writes laps queues (owner := owner) (bs := bs) low (by omega) fits
      obtain ⟨wrote', home'⟩ := ih (s.writePiece owner ia bs (a, k)) (a + k) (n - k) ((State.calm_laps wrote.calm).trans laps)
        ((State.calm_queues wrote.calm).trans queues) (by omega) (by omega) (by omega)
      refine ⟨wrote.trans wrote', fun x => ?_⟩
      rw [List.foldl_cons, home', home, State.calm_pageOk wrote.calm]
      split
      next rest => rw [if_pos ⟨by omega, rest.2⟩]
      next notRest =>
        split
        next now => rw [if_pos ⟨by omega, now.2⟩]
        next later =>
          rw [if_neg]
          rintro ⟨inside, ok⟩
          by_cases first : x < a + k
          · exact later ⟨⟨inside.1, first⟩, ok⟩
          · exact notRest ⟨by omega, ok⟩

variable {s : State} (laps : s.mem.laps = []) (queues : s.fw.queues = [])
include laps queues

theorem State.homeWrite_writes : s.WritesHome (s.homeWrite owner ia bs) := by
  rw [State.homeWrite_eq]
  exact (State.writePieces_write _ s ia bs.length laps queues le_rfl le_rfl fun _ => by omega).1

theorem State.homeWrite_byte (x : Nat) : (s.homeWrite owner ia bs).mem.home.byte x =
    if (ia ≤ x ∧ x < ia + bs.length) ∧ s.pageOk owner (pageOf x) = true then nth 0 bs (x - ia) else s.mem.home.byte x := by
  rw [State.homeWrite_eq]
  exact (State.writePieces_write _ s ia bs.length laps queues le_rfl le_rfl fun _ => by omega).2 x

end

/-! ### Words at the homes -/

theorem pieces_of_page {ia n : Nat} (some : 0 < n) (page : ia % 65536 + n ≤ 65536) : pieces ia n = [(ia, n)] := by
  have whole : min n (65536 - ia % 65536) = n := by omega
  have rest : pagePieces (n / 65536 + 1) (ia + n) 0 = [] := by
    unfold pagePieces
    rw [if_pos rfl]
  rw [pieces, pagePieces, if_neg (by omega), whole]
  dsimp only
  rw [Nat.sub_self, rest]

theorem State.homeBytes_of_page {s : State} {owner ia n : Nat} (some : 0 < n) (page : ia % 65536 + n ≤ 65536)
    (ok : s.pageOk owner (pageOf ia) = true) : s.homeBytes owner ia n = Memory.bytes s.mem.home ia n := by
  rw [State.homeBytes, pieces_of_page some page]
  simp [ok]

/-! ### Views -/

theorem State.makeOwn_of_no_laps {s : State} (laps : s.mem.laps = []) (tk cluster : Nat) (cores : List Nat) (ia : Nat) (bs : List Byte) :
    s.makeOwn tk cluster cores ia bs = ({ s with mem := { s.mem with
      cview := Memory.put s.mem.cview (viewKey cluster ia) bs
      own := Sp.put 0 s.mem.own (viewKey cluster ia) (bs.map fun _ => tk + 1) } } : State).putCores cores ia bs := by
  rw [State.makeOwn, State.setAsideRange_of_no_laps laps]

end Sys2Proof.Machine
end

section
/-!
SUPPORT. A boundary of a train in which nothing waits: what its phases leave, and what they become (R54, R56, R147).
-/

namespace Sys2Proof.Machine

/-! ### The phases keep the state calm -/

section
variable {s : State}

theorem State.calm_foldl {α : Type} {f : State → α → State} {xs : List α} (h : ∀ x ∈ xs, ∀ u : State, u.calm = s.calm → (f u x).calm = s.calm)
    {u : State} (hu : u.calm = s.calm) : (xs.foldl f u).calm = s.calm := by
  induction xs generalizing u with
  | nil => exact hu
  | cons x xs ih => exact ih (fun y hy => h y (List.mem_cons_of_mem x hy)) (h x List.mem_cons_self u hu)

variable (laps : s.mem.laps = []) (queues : s.fw.queues = [])
include laps queues

/-- Home writes, one after the other. -/
theorem State.homeWrites_calm {α : Type} (owner : Nat) (ia : α → Nat) (bs : α → State → List Byte) (xs : List α) :
    (xs.foldl (fun u x => u.homeWrite owner (ia x) (bs x u)) s).calm = s.calm := by
  refine State.calm_foldl (fun x _ u hu => ?_) rfl
  exact (State.homeWrite_writes ((State.calm_laps hu).trans laps) ((State.calm_queues hu).trans queues)).calm.trans hu

theorem State.commitStore_calm {b : BufStore} (level : b.level ≠ 3) : (s.commitStore b).calm = s.calm := by
  rw [State.commitStore, if_neg level, State.commit]
  split
  · exact (State.homeWrite_writes laps queues).calm
  · rw [State.makeOwn_of_no_laps laps]
    rfl

theorem State.pushWord_calm (owner cluster ia n : Nat) : (s.pushWord owner cluster ia n).calm = s.calm :=
  State.homeWrites_calm laps queues owner _ (fun i u => [Memory.byte u.mem.cview (viewKey cluster ia + i)]) _

theorem State.rmw_calm (tk scope x n : Nat) (f : Nat → Nat) : (s.rmw tk scope x n f).1.calm = s.calm := by
  unfold State.rmw
  dsimp only
  split
  · exact (State.homeWrite_writes laps queues).calm
  · split
    · rw [State.makeOwn_of_no_laps laps]
      rfl
    · have pushed := State.pushWord_calm laps queues (s.train (s.team tk).train).owner ((s.team tk).core / 8) (tagAddr x) n
      exact (State.homeWrite_writes ((State.calm_laps pushed).trans laps) ((State.calm_queues pushed).trans queues)).calm.trans pushed

theorem State.push_calm (owner tk cluster : Nat) (reach : Nat → Bool) : (s.push owner tk cluster reach).calm = s.calm := by
  unfold State.push
  exact State.homeWrites_calm laps queues owner Prod.fst (fun r _ => r.2) _

theorem State.release_calm (tk scope : Nat) : (s.release tk scope).calm = s.calm := by
  unfold State.release
  dsimp only
  split
  · rfl
  · exact State.push_calm laps queues _ _ _ _

end

theorem State.landFor_calm (s : State) (key due : Nat) (r : Nat × Nat) (w : Landing) : (s.landFor key due r w).calm = s.calm := by
  refine foldl_keeps State.calm _ (fun _ _ => ?_) _ s
  rfl

theorem State.landAtomic_calm (s : State) (a : Act) (olds : List (Nat × Nat)) : (s.landAtomic a olds).calm = s.calm := by
  unfold State.landAtomic
  dsimp only
  split
  · split
    · exact (State.landFor_calm _ _ _ _ _).trans (s.landFor_calm _ _ _ _)
    · exact s.landFor_calm _ _ _ _
  · rfl

theorem State.refreshCluster_calm (s : State) (x : Train) (cluster : Nat) : (s.refreshCluster x cluster).calm = s.calm := by
  refine foldl_keeps State.calm _ (fun _ _ => ?_) _ s
  rfl

/-! ### Atomics, fences and counter adds -/

/-- An action that is an atomic, a fence, or a counter add of no hall operation. -/
def Act.plain (a : Act) : Prop :=
  match a.what with
  | .atomic _ _ _ _ _ _ => True
  | .fence _ _ _ => True
  | .count _ _ _ err => err = none
  | _ => False

section
variable {s : State} {tr : Nat} {a : Act} (laps : s.mem.laps = []) (queues : s.fw.queues = []) (plain : a.plain)
include laps queues plain

theorem State.phase3_calm : (s.phase3 tr a).calm = s.calm := by
  unfold State.phase3
  unfold Act.plain at plain
  dsimp only
  split
  · split
    · exact State.release_calm laps queues _ _
    · rfl
  · split
    · rfl
    · exact State.release_calm laps queues _ _
  next what => rw [what] at plain; exact plain.elim
  next what => rw [what] at plain; exact plain.elim
  · rfl

theorem State.addCount_calm : (s.addCount tr a).calm = s.calm := by
  unfold State.addCount
  unfold Act.plain at plain
  split
  next what =>
    rw [what] at plain
    subst plain
    simp only [Option.isSome_none, Bool.and_false, Bool.false_eq_true, if_false]
    split
    · exact State.rmw_calm laps queues _ _ _ _ _
    · exact (State.homeWrite_writes laps queues).calm
  · rfl

end

end Sys2Proof.Machine
end

section
/-!
SUPPORT. A boundary of a train in which nothing waits, from its start to its next quantum (R54, R55, R147).
-/

namespace Sys2Proof.Machine

/-! ### Teams and trains that have committed (R374) -/

/-- A state without its teams and trains. -/
def State.unmanned (s : State) : State := { s with grid := { s.grid with teams := [], trains := [] } }

section
variable {s : State} {tr : Nat}

theorem State.commitTeams_unmanned (teams : List Nat) (s : State) :
    (teams.foldl (fun s i => s.modTeam (teamKey tr i) fun t => { t with committed := true }) s).unmanned = s.unmanned := by
  refine foldl_keeps State.unmanned _ (fun _ _ => ?_) _ s
  rfl

theorem State.commitTeams_train (teams : List Nat) (s : State) (k : Nat) :
    (teams.foldl (fun s i => s.modTeam (teamKey tr i) fun t => { t with committed := true }) s).train k = s.train k := by
  refine foldl_keeps (fun u : State => u.train k) _ (fun _ _ => ?_) _ s
  rfl

theorem State.commitTeams_team (teams : List Nat) (s : State) (k : Nat) : ∃ c,
    (teams.foldl (fun s i => s.modTeam (teamKey tr i) fun t => { t with committed := true }) s).team k = { s.team k with committed := c } := by
  induction teams generalizing s with
  | nil => exact ⟨_, rfl⟩
  | cons i teams ih =>
    obtain ⟨c, e⟩ := ih (s.modTeam (teamKey tr i) fun t => { t with committed := true })
    refine ⟨c, e.trans ?_⟩
    rw [State.team_modTeam]
    split
    next same => rw [same]
    next => rfl

theorem State.markCommitted_unmanned (s : State) (tr : Nat) : (s.markCommitted tr).unmanned = s.unmanned := by
  unfold State.markCommitted
  dsimp only
  split
  · exact State.commitTeams_unmanned _ s
  · exact State.commitTeams_unmanned _ s

theorem State.markCommitted_train (s : State) (tr k : Nat) : ∃ c, (s.markCommitted tr).train k = { s.train k with committed := c } := by
  unfold State.markCommitted
  dsimp only
  split
  · exact ⟨_, State.commitTeams_train _ s k⟩
  · rw [State.train_modTrain, State.commitTeams_train]
    split
    next same => exact ⟨true, by rw [same]⟩
    next => exact ⟨_, State.commitTeams_train _ s k⟩

theorem State.markCommitted_team (s : State) (tr k : Nat) : ∃ c, (s.markCommitted tr).team k = { s.team k with committed := c } := by
  unfold State.markCommitted
  dsimp only
  split
  · exact State.commitTeams_team _ s k
  · exact State.commitTeams_team _ s k

/-! ### A plain boundary -/

/-- At its boundary the train has stores, atomics, fences and counter adds, and nothing else happens. -/
structure State.Plain (s : State) (tr : Nat) : Prop where
  single : (s.train tr).desc.twin = false
  unaligned : (s.train tr).alignWho = []
  trigs : (s.train tr).trigs = []
  cmds : s.grid.cmds = []
  free : ∀ g ∈ s.grid.groups, g.2.block = .none
  hall : s.pod.hallOps = []
  requests : s.fw.pre = []
  queues : s.fw.queues = []
  leases : s.mem.leases = []
  laps : s.mem.laps = []
  clean : ∀ p, pePsn (s.page p) = false
  removals : Sp.get 0 s.fw.removals (s.train tr).owner = 0
  acts : ∀ a ∈ s.grid.acts, a.train = tr ∧ a.plain
  stores : ∀ b ∈ s.grid.stores, b.train = tr ∧ b.level ≠ 3 ∧ b.bad = none

theorem State.Plain.nextOrd (h : s.Plain tr) : s.nextOrd.Plain tr := { h with }

section
variable {t : State} (calm : t.calm = s.calm)
include calm

theorem State.calm_starved : t.mem.starved = s.mem.starved := (congrArg (fun u : State => u.mem.starved) calm :)
theorem State.calm_groups : t.grid.groups = s.grid.groups := (congrArg (fun u : State => u.grid.groups) calm :)
theorem State.calm_acts : t.grid.acts = s.grid.acts := (congrArg (fun u : State => u.grid.acts) calm :)
theorem State.calm_stores : t.grid.stores = s.grid.stores := (congrArg (fun u : State => u.grid.stores) calm :)

end

section
variable {t : State} (same : t.unmanned = s.unmanned)
include same

theorem State.unmanned_mem : t.mem = s.mem := (congrArg (fun u : State => u.mem) same :)
theorem State.unmanned_fw : t.fw = s.fw := (congrArg (fun u : State => u.fw) same :)
theorem State.unmanned_groups : t.grid.groups = s.grid.groups := (congrArg (fun u : State => u.grid.groups) same :)
theorem State.unmanned_acts : t.grid.acts = s.grid.acts := (congrArg (fun u : State => u.grid.acts) same :)
theorem State.unmanned_stores : t.grid.stores = s.grid.stores := (congrArg (fun u : State => u.grid.stores) same :)

end

theorem State.Plain.of_calm {t : State} (h : s.Plain tr) (calm : t.calm = s.calm) : t.Plain tr where
  single := (congrArg (fun u : State => (u.train tr).desc.twin) calm :).trans h.single
  unaligned := (congrArg (fun u : State => (u.train tr).alignWho) calm :).trans h.unaligned
  trigs := (congrArg (fun u : State => (u.train tr).trigs) calm :).trans h.trigs
  cmds := (congrArg (fun u : State => u.grid.cmds) calm :).trans h.cmds
  free := State.calm_groups calm ▸ h.free
  hall := (congrArg (fun u : State => u.pod.hallOps) calm :).trans h.hall
  requests := (congrArg (fun u : State => u.fw.pre) calm :).trans h.requests
  queues := (congrArg (fun u : State => u.fw.queues) calm :).trans h.queues
  leases := (congrArg (fun u : State => u.mem.leases) calm :).trans h.leases
  laps := (congrArg (fun u : State => u.mem.laps) calm :).trans h.laps
  clean := fun p => (congrArg (fun u : State => pePsn (u.page p)) calm :).trans (h.clean p)
  removals := (congrArg (fun u : State => Sp.get 0 u.fw.removals (u.train tr).owner) calm :).trans h.removals
  acts := State.calm_acts calm ▸ h.acts
  stores := State.calm_stores calm ▸ h.stores

theorem State.Plain.markCommitted (h : s.Plain tr) : (s.markCommitted tr).Plain tr := by
  have same := s.markCommitted_unmanned tr
  have mem := State.unmanned_mem same
  have fw := State.unmanned_fw same
  obtain ⟨c, train⟩ := s.markCommitted_train tr tr
  refine ⟨?_, ?_, ?_, (congrArg (fun u : State => u.grid.cmds) same :).trans h.cmds,
    State.unmanned_groups same ▸ h.free,
    (congrArg (fun u : State => u.pod.hallOps) same :).trans h.hall, ?_, ?_, ?_, ?_, ?_, ?_,
    State.unmanned_acts same ▸ h.acts,
    State.unmanned_stores same ▸ h.stores⟩
  · rw [train]; exact h.single
  · rw [train]; exact h.unaligned
  · rw [train]; exact h.trigs
  · rw [fw]; exact h.requests
  · rw [fw]; exact h.queues
  · rw [mem]; exact h.leases
  · rw [mem]; exact h.laps
  · exact fun p => (congrArg (fun u : State => pePsn (u.page p)) same :).trans (h.clean p)
  · rw [fw, train]; exact h.removals

/-- The state without the train's buffered stores. -/
def State.unbuffered (s : State) (tr : Nat) : State := { s with grid := { s.grid with stores := s.grid.stores.filter fun b => b.train != tr } }

theorem State.Plain.unbuffered (h : s.Plain tr) : (s.unbuffered tr).Plain tr :=
  { h with stores := fun b hb => h.stores b (List.mem_of_mem_filter hb) }

/-! ### The phases -/

theorem State.Plain.commitStores_calm (h : s.Plain tr) : (s.commitStores tr).calm = (s.unbuffered tr).calm := by
  refine State.calm_foldl (s := s.unbuffered tr) (fun b hb u hu => ?_) rfl
  obtain ⟨mine, -⟩ := List.mem_filter.1 ((mem_sortBy _).1 hb)
  obtain ⟨-, level, -⟩ := h.stores b (List.mem_of_mem_filter mine)
  exact (State.commitStore_calm ((State.calm_laps hu).trans h.laps) ((State.calm_queues hu).trans h.queues) level).trans hu

/-- One lane of a boundary's atomics, and the old value that it reads. -/
def State.performLane (tr : Nat) (acc : State × List (Nat × Nat × Nat)) (x : AtomLane) : State × List (Nat × Nat × Nat) :=
  let n := if x.q then 8 else 4
  let r := acc.1.rmw (teamKey tr x.act.team) x.scope x.addr n fun old => atomicNew x.op (8 * n) old x.c0 x.c1
  (r.1, acc.2 ++ [(x.act.ord, x.lane, r.2)])

/-- The lanes of a boundary's atomics in R56's key order. -/
def State.atomLanes (s : State) (tr : Nat) : List AtomLane :=
  sortBy (fun a b => lexLe [a.act.team, a.act.group, a.lane, a.act.ord] [b.act.team, b.act.group, b.lane, b.act.ord])
    ((s.actsOf tr).flatMap Act.atomLanes)

theorem State.performAtomics_eq (s : State) (tr : Nat) : s.performAtomics tr =
    let r := (s.atomLanes tr).foldl (State.performLane tr) (s, [])
    (s.actsOf tr).foldl (fun s a => s.landAtomic a ((r.2.filter fun o => o.1 == a.ord).map (·.2))) r.1 := rfl

theorem State.performLanes_calm (laps : s.mem.laps = []) (queues : s.fw.queues = []) (xs : List AtomLane) (olds : List (Nat × Nat × Nat)) :
    (xs.foldl (State.performLane tr) (s, olds)).1.calm = s.calm := by
  induction xs generalizing s olds with
  | nil => rfl
  | cons x xs ih =>
    have calm := State.rmw_calm laps queues (teamKey tr x.act.team) x.scope x.addr (if x.q then 8 else 4)
      fun old => atomicNew x.op (8 * if x.q then 8 else 4) old x.c0 x.c1
    exact (ih ((State.calm_laps calm).trans laps) ((State.calm_queues calm).trans queues) _).trans calm

theorem State.Plain.performAtomics_calm (h : s.Plain tr) : (s.performAtomics tr).calm = s.calm := by
  rw [State.performAtomics_eq]
  exact State.calm_foldl (fun a _ u hu => (u.landAtomic_calm a _).trans hu) (State.performLanes_calm h.laps h.queues _ _)

theorem State.mem_actsOf {a : Act} : a ∈ s.actsOf tr ↔ a ∈ s.grid.acts ∧ a.train = tr ∧ a.team < 2 ^ 21 := by simp [State.actsOf]

theorem State.Plain.trigRelease (h : s.Plain tr) (tk : Nat) : s.trigRelease tr tk = s := by
  simp [State.trigRelease, h.trigs]

/-- Phase 3 for one team. -/
def State.releasesOf (tr : Nat) (s : State) (tk : Nat) : State :=
  ((sortBy (fun a b : Act => a.ord ≤ b.ord) ((s.actsOf tr).filter fun a => teamKey tr a.team == tk)).foldl (fun s a => s.phase3 tr a) s).trigRelease tr tk

theorem State.Plain.releasesOf_calm (h : s.Plain tr) (tk : Nat) : (State.releasesOf tr s tk).calm = s.calm := by
  have released : ((sortBy (fun a b : Act => a.ord ≤ b.ord) ((s.actsOf tr).filter fun a => teamKey tr a.team == tk)).foldl
      (fun s a => s.phase3 tr a) s).calm = s.calm := by
    refine State.calm_foldl (fun a ha u hu => ?_) rfl
    obtain ⟨mine, -⟩ := List.mem_filter.1 ((mem_sortBy _).1 ha)
    have plain := (h.acts a (State.mem_actsOf.1 mine).1).2
    exact (State.phase3_calm ((State.calm_laps hu).trans h.laps) ((State.calm_queues hu).trans h.queues) plain).trans hu
  rw [State.releasesOf, (h.of_calm released).trigRelease]
  exact released

/-- The teams of phase 3, in order. -/
def State.releasers (s : State) (tr : Nat) : List Nat :=
  sortBy (fun a b => a ≤ b)
    ((s.grid.teams.filter fun p => p.2.train == tr && p.2.live && !p.2.twin).map (·.1) ++ (s.train tr).trigs).eraseDups

theorem State.releases_eq (s : State) (tr : Nat) : s.releases tr = (s.releasers tr).foldl (State.releasesOf tr) s := rfl

theorem State.Plain.releases_calm (h : s.Plain tr) : (s.releases tr).calm = s.calm :=
  State.calm_foldl (fun tk _ _ hu => ((h.of_calm hu).releasesOf_calm tk).trans hu) rfl

theorem State.Plain.addCounts_calm (h : s.Plain tr) : (s.addCounts tr).calm = s.calm := by
  refine State.calm_foldl (fun a ha u hu => ?_) rfl
  have plain := (h.acts a (State.mem_actsOf.1 ((mem_sortBy _).1 ha)).1).2
  exact (State.addCount_calm ((State.calm_laps hu).trans h.laps) ((State.calm_queues hu).trans h.queues) plain).trans hu

/-- The state at which phase 1 begins. -/
def State.opened (s : State) (tr : Nat) : State := s.nextOrd.markCommitted tr

theorem State.unbuffered_mem (s : State) (tr : Nat) : (s.unbuffered tr).mem = s.mem := rfl
theorem State.opened_mem (s : State) (tr : Nat) : (s.opened tr).mem = s.mem := by
  have mem := State.unmanned_mem (s.nextOrd.markCommitted_unmanned tr)
  exact mem

/-- Phases 1 to 4. -/
def State.phased (s : State) (tr : Nat) : State := ((((s.opened tr).commitStores tr).performAtomics tr).releases tr).addCounts tr

theorem State.Plain.opened (h : s.Plain tr) : (s.opened tr).Plain tr := h.nextOrd.markCommitted

theorem State.Plain.commitStores (h : s.Plain tr) : (s.commitStores tr).Plain tr := h.unbuffered.of_calm h.commitStores_calm

theorem State.Plain.performAtomics (h : s.Plain tr) : (s.performAtomics tr).Plain tr := h.of_calm h.performAtomics_calm

theorem State.Plain.releases (h : s.Plain tr) : (s.releases tr).Plain tr := h.of_calm h.releases_calm

theorem State.Plain.phased_calm (h : s.Plain tr) : (s.phased tr).calm = ((s.opened tr).unbuffered tr).calm := by
  rw [State.phased, h.opened.commitStores.performAtomics.releases.addCounts_calm, h.opened.commitStores.performAtomics.releases_calm,
    h.opened.commitStores.performAtomics_calm, h.opened.commitStores_calm]

theorem State.Plain.phased (h : s.Plain tr) : (s.phased tr).Plain tr := h.opened.unbuffered.of_calm h.phased_calm

/-! ### Nothing waits -/

section
variable (free : ∀ g ∈ s.grid.groups, g.2.block = .none)
include free

theorem State.waitReads_of_free : s.waitReads tr = [] := by
  refine List.filterMap_eq_nil_iff.2 fun g hg => ?_
  rw [free g hg]
  simp

theorem State.wakes_of_free : s.wakes tr = [] := by
  refine List.filterMap_eq_nil_iff.2 fun g hg => ?_
  simp [State.satisfied, free g hg]

theorem State.block_of_free (k : Nat) : (s.group k).block = .none := Sp.get_of_forall (P := fun g : Group => g.block = .none) rfl free k

theorem State.allYield_of_free (tk : Nat) : s.allYield tk = false := by
  have still (k : Nat) : (s.group k).yielding = false := by simp [Group.yielding, State.block_of_free free k]
  simp only [State.allYield, still]
  cases (s.teamGroups tk).filter fun k => !(s.group k).ended <;> simp

theorem State.saveYields_of_free : s.saveYields tr = s := by
  simp [State.saveYields, State.yieldsNow, State.allYield_of_free free]

end

/-- The train takes the Dial. -/
def State.dialled (s : State) (tr : Nat) : State := s.modTrain tr fun t => { t with seq := s.pod.top, dial := s.pod.dial }

theorem State.dialled_mem (s : State) (tr : Nat) : (s.dialled tr).mem = s.mem := rfl

/-- The fences of a boundary that acquire, with their scopes. -/
def State.acquiring (s : State) (tr : Nat) : List (Act × Nat) := (s.actsOf tr).filterMap (s.fenceAcquire tr)

/-- The clusters whose views the boundary refreshes. -/
def State.refreshed (s : State) (tr : Nat) : List Nat :=
  ((s.acquiring tr).filterMap fun a => if 4 ≤ a.2 then some (a.1.core / 8) else none).eraseDups

/-- The acquires of a boundary's fences. -/
def State.acquireFences (s : State) (tr : Nat) : State :=
  (s.acquiring tr).foldl (fun u a => u.addAcquire tr a.1.key ((s.train tr).clk + scopeLat a.2) a.1.core) s

theorem State.acquireFences_keeps (s : State) (tr : Nat) : (s.acquireFences tr).calm = s.calm ∧ (s.acquireFences tr).mem = s.mem ∧
    (s.acquireFences tr).grid.pend = s.grid.pend := by
  refine ⟨?_, ?_, ?_⟩
  · refine foldl_keeps State.calm _ (fun _ _ => ?_) _ s
    rfl
  · refine foldl_keeps State.mem _ (fun _ _ => ?_) _ s
    rfl
  · refine foldl_keeps (fun u : State => u.grid.pend) _ (fun _ _ => ?_) _ s
    rfl

/-- Where no group waits, the acquires of the fences alone follow (R147, R151). -/
theorem State.waitsAndAcquires_of_free (free : ∀ g ∈ s.grid.groups, g.2.block = .none) : s.waitsAndAcquires tr =
    (s.refreshed tr).foldl (fun u k => u.refreshCluster ((s.dialled tr).train tr) k) ((s.dialled tr).acquireFences tr) := by
  have misses : s.countWaitMisses tr = s := by simp [State.countWaitMisses, State.waitReads_of_free free, State.countMisses]
  have free' : ∀ g ∈ (s.dialled tr).grid.groups, g.2.block = .none := free
  have quiet (tk : Nat) : (s.dialled tr).yieldScopes tr tk = none := by
    simp [State.yieldScopes, State.yieldWaits, State.allYield_of_free free']
  have wakes := State.wakes_of_free (tr := tr) free'
  unfold State.waitsAndAcquires
  rw [misses]
  dsimp only
  rw [← State.dialled, wakes]
  simp only [quiet, Option.map_none, List.filterMap_none, List.flatMap_nil, List.filterMap_nil, List.foldl_nil, List.append_nil, List.nil_append]
  rfl

/-! ### The whole boundary -/

theorem State.completeHall_of_none (hall : s.pod.hallOps = []) (cmds : s.grid.cmds = []) : s.completeHall tr = s.nextOrd := by
  simp only [State.completeHall, State.emptyHalls, hall, cmds, State.nextOrd, State.unpin, List.filter_nil,
    List.filterMap_nil, List.flatMap_nil, List.map_nil, List.foldl_nil, List.append_nil]
  simp only [← hall, ← cmds]

theorem State.Plain.gathers (h : s.Plain tr) : s.gather tr = s.nextOrd := by
  rw [State.gather, State.landHall_of_no_operations h.hall, State.completeHall_of_none h.hall h.cmds,
    State.boundaryLaps_of_no_commands h.nextOrd.cmds]

theorem State.Plain.boundaryError (h : s.Plain tr) : s.boundaryError tr = none := by
  unfold State.boundaryError
  rw [List.find?_eq_none.2 fun p _ => by rw [h.clean p]; exact Bool.false_ne_true]
  exact List.findSome?_eq_none_iff.2 fun b hb => (h.stores b (List.mem_of_mem_filter hb)).2.2

theorem State.Plain.moveLaps (h : s.Plain tr) : s.moveLaps tr = s := by
  have none : s.lapActs tr = [] := by
    refine List.eq_nil_iff_forall_not_mem.2 fun a ha => ?_
    obtain ⟨mine, lap⟩ := List.mem_filter.1 ((mem_sortBy _).1 ha)
    have plain := (h.acts a mine).2
    unfold Act.plain at plain
    cases what : a.what <;> simp [what] at plain lap
  simp [State.moveLaps, none, h.laps]

theorem State.Plain.aligned (h : s.Plain tr) : s.aligned tr = false := by simp [State.aligned, h.unaligned]

theorem State.Plain.served (h : s.Plain tr) :
    ((s.removeRevoked tr).vacateTrain (Sp.get 0 s.fw.removals (s.train tr).owner) tr).serveDiscards tr = s := by
  rw [h.removals, State.removeRevoked_of_no_leases h.leases, State.vacateTrain_zero, State.serveDiscards_of_no_requests h.requests]

/-- Phases 5 and 6, and the next quantum. -/
def State.requantum (s : State) (tr : Nat) : State := ((s.phased tr).waitsAndAcquires tr).nextQuantum tr

theorem State.Plain.acquireFences_refresh (h : s.Plain tr) :
    (s.waitsAndAcquires tr).calm = (s.dialled tr).calm ∧ (s.waitsAndAcquires tr).Plain tr := by
  have dialled : (s.dialled tr).Plain tr := by
    have train : (s.dialled tr).train tr = { s.train tr with seq := s.pod.top, dial := s.pod.dial } :=
      (State.train_modTrain _ _ _ _).trans (if_pos rfl)
    exact { h with
      single := by rw [train]; exact h.single
      unaligned := by rw [train]; exact h.unaligned
      trigs := by rw [train]; exact h.trigs
      removals := by rw [train]; exact h.removals }
  have calm : (s.waitsAndAcquires tr).calm = (s.dialled tr).calm := by
    rw [State.waitsAndAcquires_of_free h.free]
    exact State.calm_foldl (fun k _ u hu => (u.refreshCluster_calm _ k).trans hu) ((s.dialled tr).acquireFences_keeps tr).1
  exact ⟨calm, dialled.of_calm calm⟩

/-- What the next quantum, and the ends of teams, leave. -/
theorem State.nextQuantum_keeps (s : State) (tr : Nat) : ((s.nextQuantum tr).endTeams tr).mem = s.mem ∧ (s.nextQuantum tr).fw = s.fw ∧
    ((s.nextQuantum tr).endTeams tr).fw = s.fw ∧ ((s.nextQuantum tr).endTeams tr).grid.groups = s.grid.groups ∧
    ((s.nextQuantum tr).endTeams tr).grid.pend = s.grid.pend ∧ ((s.nextQuantum tr).endTeams tr).grid.acquires = s.grid.acquires ∧
    ((s.nextQuantum tr).endTeams tr).grid.stores = s.grid.stores.filter (fun b => b.train != tr) ∧
    ((s.nextQuantum tr).endTeams tr).grid.acts = s.grid.acts.filter (fun a => a.train != tr) ∧
    ((s.nextQuantum tr).endTeams tr).grid.trains = (s.nextQuantum tr).grid.trains := by
  have keeps {β : Type} (p : State → β) (h : ∀ (u : State) (tk : Nat) (f : Team → Team), p (u.modTeam tk f) = p u) (u : State) :
      p (u.endTeams tr) = p u := by
    refine foldl_keeps p _ (fun u tk => ?_) _ u
    unfold State.endTeam
    split
    · exact h _ _ _
    · rfl
  exact ⟨keeps State.mem (fun _ _ _ => rfl) _, rfl, keeps State.fw (fun _ _ _ => rfl) _, keeps (fun u => u.grid.groups) (fun _ _ _ => rfl) _,
    keeps (fun u => u.grid.pend) (fun _ _ _ => rfl) _, keeps (fun u => u.grid.acquires) (fun _ _ _ => rfl) _,
    keeps (fun u => u.grid.stores) (fun _ _ _ => rfl) _, keeps (fun u => u.grid.acts) (fun _ _ _ => rfl) _,
    keeps (fun u => u.grid.trains) (fun _ _ _ => rfl) _⟩

/-- Nothing is restored, saved or asked for after the phases. -/
theorem State.Plain.closes (h : s.Plain tr) :
    ((((s.nextQuantum tr).serveTeamRestores tr).endTeams tr).saveYields tr).servePre tr = (s.nextQuantum tr).endTeams tr := by
  obtain ⟨-, fw, fw', groups, -⟩ := s.nextQuantum_keeps tr
  have free : ∀ g ∈ ((s.nextQuantum tr).endTeams tr).grid.groups, g.2.block = .none := by
    rw [groups]
    exact h.free
  rw [State.serveTeamRestores_of_no_requests ((congrArg Fw.pre fw).trans h.requests), State.saveYields_of_free free,
    State.servePre_of_no_requests ((congrArg Fw.pre fw').trans h.requests)]

theorem State.Plain.boundary (h : s.Plain tr) (live : (s.train tr).live = true) : s.boundary tr = (s.requantum tr).endTeams tr := by
  obtain ⟨-, plain⟩ := h.phased.acquireFences_refresh
  have after : ((((s.requantum tr).serveTeamRestores tr).endTeams tr).saveYields tr).servePre tr = (s.requantum tr).endTeams tr := plain.closes
  have opened : (s.gather tr).markCommitted tr = s.opened tr := congrArg (fun u : State => u.markCommitted tr) h.gathers
  have phases : (((((s.opened tr).commitStores tr).performAtomics tr).releases tr).addCounts tr).moveLaps tr = s.phased tr := h.phased.moveLaps
  have quantum : ((s.phased tr).waitsAndAcquires tr).nextQuantum tr = s.requantum tr := rfl
  simp only [State.boundary, h.served, opened, h.aligned, State.twinsDiffer_of_single h.opened.single, h.opened.boundaryError, phases, quantum]
  simp [live, after]

theorem State.Plain.starved (h : s.Plain tr) (live : (s.train tr).live = true) : (s.boundary tr).mem.starved = s.mem.starved := by
  obtain ⟨calm, -⟩ := h.phased.acquireFences_refresh
  obtain ⟨mem, -⟩ := ((s.phased tr).waitsAndAcquires tr).nextQuantum_keeps tr
  rw [h.boundary live, State.requantum, mem, State.calm_starved calm, State.dialled_mem, State.calm_starved h.phased_calm,
    State.unbuffered_mem, State.opened_mem]

/-- What a plain boundary makes of its quantum: what phases 1 to 4 leave, and the acquires. -/
theorem State.Plain.runs (h : s.Plain tr) (due : s.boundaryDue tr = true) : ∃ t : State, exec (.quantumBoundary tr) s = .next t ∧
    t.grid.stores = [] ∧ t.grid.acts = [] ∧ (t.train tr).qt = (s.train tr).qt + 1 ∧ (t.train tr).boundary = true ∧
    t.mem = ((s.phased tr).waitsAndAcquires tr).mem ∧ t.grid.pend = ((s.phased tr).waitsAndAcquires tr).grid.pend ∧
    t.grid.acquires = ((s.phased tr).waitsAndAcquires tr).grid.acquires := by
  have live := State.live_of_boundaryDue due
  obtain ⟨calm, plain⟩ := h.phased.acquireFences_refresh
  obtain ⟨mem, -, -, -, pend, acquires, stores, acts, trains⟩ := ((s.phased tr).waitsAndAcquires tr).nextQuantum_keeps tr
  have fits : s.boundaryShort tr = false := by
    rw [State.boundaryShort, h.starved live]
    cases s.mem.starved <;> simp
  refine ⟨s.boundary tr, happens_of_eq (if_pos (by simp [due, fits])), ?_⟩
  rw [h.boundary live, State.requantum]
  obtain ⟨pod, laps, train⟩ := ((s.phased tr).waitsAndAcquires tr).nextQuantum_train tr
  have train' : ((((s.phased tr).waitsAndAcquires tr).nextQuantum tr).endTeams tr).train tr = _ :=
    (congrArg (fun ts => Sp.get ({} : Train) ts tr) trains).trans train
  have qt : (((s.phased tr).waitsAndAcquires tr).train tr).qt = (s.train tr).qt := by
    obtain ⟨c, opened⟩ := s.nextOrd.markCommitted_train tr tr
    have phased := (State.calm_train h.phased_calm tr).trans opened
    rw [State.calm_train calm, State.dialled, State.train_modTrain, if_pos rfl, phased]
    rfl
  refine ⟨?_, ?_, ?_, ?_, mem, pend, acquires⟩
  · rw [stores]
    exact List.filter_eq_nil_iff.2 fun b hb => by simp [(plain.stores b hb).1]
  · rw [acts]
    exact List.filter_eq_nil_iff.2 fun a ha => by simp [(plain.acts a ha).1]
  · rw [train', qt]
  · rw [train']

end

end Sys2Proof.Machine
end

section
/-!
SUPPORT. Phase 1: the last store of R56's key order remains (R56, R145).
-/

namespace Sys2Proof.Machine

/-! ### Sorted by a key -/

theorem lexLe_total (as bs : List Nat) : lexLe as bs = true ∨ lexLe bs as = true := by
  induction as generalizing bs with
  | nil => exact .inl rfl
  | cons a as ih =>
    cases bs with
    | nil => exact .inr rfl
    | cons b bs =>
      by_cases same : a = b
      · simpa [lexLe, same] using ih bs
      · rcases Nat.lt_or_gt_of_ne same with less | more
        · exact .inl (by simp [lexLe, same, less])
        · exact .inr (by simp [lexLe, Ne.symm same, more])

theorem lexLe_trans {as bs cs : List Nat} (h : lexLe as bs = true) (k : lexLe bs cs = true) : lexLe as cs = true := by
  induction as generalizing bs cs with
  | nil => rfl
  | cons a as ih =>
    cases bs with
    | nil => simp [lexLe] at h
    | cons b bs =>
      cases cs with
      | nil => simp [lexLe] at k
      | cons c cs =>
        simp only [lexLe] at h k ⊢
        split_ifs at h k ⊢ <;> simp_all
        · exact ih h k
        · omega
        · omega

section
variable {α : Type} {le : α → α → Bool} (total : ∀ a b, le a b = true ∨ le b a = true) (trans : ∀ a b c, le a b = true → le b c = true → le a c = true)
include total trans

theorem insertBy_sorted (x : α) {xs : List α} (h : xs.Pairwise (le · · = true)) : (insertBy le x xs).Pairwise (le · · = true) := by
  induction xs with
  | nil => exact List.pairwise_singleton _ x
  | cons y ys ih =>
    obtain ⟨first, rest⟩ := List.pairwise_cons.1 h
    rw [insertBy]
    split
    next below =>
      refine List.pairwise_cons.2 ⟨fun z hz => ?_, ih rest⟩
      rcases List.mem_cons.1 ((insertBy_perm le x ys).mem_iff.1 hz) with rfl | hz
      · exact below
      · exact first z hz
    next above =>
      have least : le x y = true := (total x y).resolve_right above
      refine List.pairwise_cons.2 ⟨fun z hz => ?_, h⟩
      rcases List.mem_cons.1 hz with rfl | hz
      · exact least
      · exact trans _ _ _ least (first z hz)

theorem sortBy_sorted (xs : List α) : (sortBy le xs).Pairwise (le · · = true) := by
  have step (ys acc : List α) (h : acc.Pairwise (le · · = true)) :
      (ys.foldl (fun acc x => insertBy le x acc) acc).Pairwise (le · · = true) := by
    induction ys generalizing acc with
    | nil => exact h
    | cons y ys ih => exact ih _ (insertBy_sorted total trans y h)
  exact step xs [] .nil

end

/-- Sorted by a key in lexicographic order. -/
theorem sortBy_lexLe_sorted {α : Type} (key : α → List Nat) (xs : List α) :
    (sortBy (fun a b => lexLe (key a) (key b)) xs).Pairwise (fun a b => lexLe (key a) (key b) = true) :=
  sortBy_sorted (le := fun a b => lexLe (key a) (key b)) (fun _ _ => lexLe_total _ _) (fun _ _ _ => lexLe_trans) xs

/-! ### The last of several writes -/

section
variable {α β : Type} (hit : α → Prop) [DecidablePred hit] (val : α → β)

theorem foldl_of_no_hit {xs : List α} (h : ∀ x ∈ xs, ¬ hit x) (y : β) : xs.foldl (fun y x => if hit x then val x else y) y = y := by
  induction xs with
  | nil => rfl
  | cons x xs ih => rw [List.foldl_cons, if_neg (h x List.mem_cons_self), ih fun z hz => h z (List.mem_cons_of_mem x hz)]

/-- Where no other write that hits is as late, a write remains. -/
theorem foldl_of_last {le : α → α → Prop} {xs : List α} (sorted : xs.Pairwise le) {b : α} (mem : b ∈ xs) (hits : hit b)
    (last : ∀ c ∈ xs, c ≠ b → hit c → ¬ le b c) (y : β) : xs.foldl (fun y x => if hit x then val x else y) y = val b := by
  have stays (zs : List α) (h : ∀ z ∈ zs, hit z → z = b) : zs.foldl (fun y x => if hit x then val x else y) (val b) = val b := by
    induction zs with
    | nil => rfl
    | cons z zs ih =>
      have step : (if hit z then val z else val b) = val b := by
        split
        next hz => rw [h z List.mem_cons_self hz]
        next => rfl
      rw [List.foldl_cons, step]
      exact ih fun w hw => h w (List.mem_cons_of_mem z hw)
  obtain ⟨as, zs, rfl⟩ := List.append_of_mem mem
  rw [List.foldl_append, List.foldl_cons, if_pos hits]
  refine stays zs fun z hz hit_z => ?_
  by_contra other
  have above := (List.pairwise_cons.1 (List.pairwise_append.1 sorted).2.1).1 z hz
  exact last z (by simp [hz]) other hit_z above

end

/-! ### One store -/

theorem BufStore.covers_iff (b : BufStore) (ia : Nat) : b.covers ia = true ↔ b.ia ≤ ia ∧ ia < b.ia + b.data.length := by simp [BufStore.covers]

/-- A range of a view that lies within it. -/
theorem viewKey_range {unit ia n k : Nat} (fits : ia + n ≤ 2 ^ 56) :
    (viewKey unit ia ≤ k ∧ k < viewKey unit ia + n) ↔ unit = k / 2 ^ 56 ∧ ia ≤ k % 2 ^ 56 ∧ k % 2 ^ 56 < ia + n := by
  unfold viewKey viewSpan
  omega

theorem viewKey_sub {unit ia k : Nat} (h : unit = k / 2 ^ 56) : k - viewKey unit ia = k % 2 ^ 56 - ia := by
  unfold viewKey viewSpan
  omega

theorem putCores_byte {ia : Nat} {bs : List Byte} (fits : ia + bs.length ≤ 2 ^ 56) (cores : List Nat) (m : Memory) (k : Nat) :
    (cores.foldl (fun m c => Memory.put m (viewKey c ia) bs) m).byte k =
      if k / 2 ^ 56 ∈ cores ∧ ia ≤ k % 2 ^ 56 ∧ k % 2 ^ 56 < ia + bs.length then nth 0 bs (k % 2 ^ 56 - ia) else m.byte k := by
  induction cores generalizing m with
  | nil => simp
  | cons c cores ih =>
    rw [List.foldl_cons, ih, Memory.byte_put]
    by_cases inside : ia ≤ k % 2 ^ 56 ∧ k % 2 ^ 56 < ia + bs.length
    · by_cases later : k / 2 ^ 56 ∈ cores
      · rw [if_pos ⟨later, inside⟩, if_pos ⟨List.mem_cons_of_mem c later, inside⟩]
      · by_cases here : c = k / 2 ^ 56
        · have range := (viewKey_range (unit := c) fits).2 ⟨here, inside⟩
          rw [if_neg fun h => later h.1, if_pos range, if_pos ⟨List.mem_cons.2 (.inl here.symm), inside⟩, viewKey_sub here]
        · rw [if_neg fun h => later h.1, if_neg fun range => here ((viewKey_range fits).1 range).1,
            if_neg fun h => (List.mem_cons.1 h.1).elim (Ne.symm here) later]
    · rw [if_neg (by tauto), if_neg fun range => inside ((viewKey_range fits).1 range).2, if_neg (by tauto)]

section
variable {s : State} {b : BufStore} (laps : s.mem.laps = []) (queues : s.fw.queues = []) (level : b.level ≠ 3)
include level

theorem State.commitStore_of_home (home : b.level = 0) : s.commitStore b = s.homeWrite (s.train b.train).owner b.ia b.data := by
  rw [State.commitStore, if_neg level, State.commit, if_pos home]

include laps

theorem State.commitStore_of_view (wide : b.level ≠ 0) : s.commitStore b =
    ({ s with mem := { s.mem with
      cview := Memory.put s.mem.cview (viewKey ((s.team (teamKey b.train b.team)).core / 8) b.ia) b.data
      own := Sp.put 0 s.mem.own (viewKey ((s.team (teamKey b.train b.team)).core / 8) b.ia) (b.data.map fun _ => teamKey b.train b.team + 1) } } :
        State).putCores (s.team (teamKey b.train b.team)).cores b.ia b.data := by
  rw [State.commitStore, if_neg level, State.commit, if_neg wide, State.makeOwn_of_no_laps laps]

include queues

theorem State.commitStore_home (a : Nat) : (s.commitStore b).mem.home.byte a =
    if b.level = 0 ∧ b.covers a = true ∧ s.pageOk (s.train b.train).owner (pageOf a) = true then nth 0 b.data (a - b.ia) else s.mem.home.byte a := by
  by_cases home : b.level = 0
  · rw [State.commitStore_of_home level home, State.homeWrite_byte laps queues]
    simp only [home, true_and, b.covers_iff]
  · rw [State.commitStore_of_view laps level home, if_neg fun h => home h.1]
    rfl

variable (fits : b.ia + b.data.length ≤ 2 ^ 56)
include fits

theorem State.commitStore_cview (k : Nat) : (s.commitStore b).mem.cview.byte k =
    if b.level ≠ 0 ∧ (s.team (teamKey b.train b.team)).core / 8 = k / 2 ^ 56 ∧ b.covers (k % 2 ^ 56) = true then nth 0 b.data (k % 2 ^ 56 - b.ia)
    else s.mem.cview.byte k := by
  by_cases home : b.level = 0
  · rw [State.commitStore_of_home level home, (State.homeWrite_writes laps queues).cview, if_neg fun h => h.1 home]
  · rw [State.commitStore_of_view laps level home]
    refine (Memory.byte_put _ _ _ _).trans ?_
    simp only [b.covers_iff, viewKey_range fits, ne_eq, home, not_false_eq_true, true_and]
    split
    next h => rw [viewKey_sub h.1]
    next => rfl

theorem State.commitStore_own (k : Nat) : Sp.get 0 (s.commitStore b).mem.own k =
    if b.level ≠ 0 ∧ (s.team (teamKey b.train b.team)).core / 8 = k / 2 ^ 56 ∧ b.covers (k % 2 ^ 56) = true then teamKey b.train b.team + 1
    else Sp.get 0 s.mem.own k := by
  by_cases home : b.level = 0
  · rw [State.commitStore_of_home level home, (State.homeWrite_writes laps queues).own, if_neg fun h => h.1 home]
  · rw [State.commitStore_of_view laps level home]
    refine (Sp.get_put 0 _ _ _ _).trans ?_
    simp only [b.covers_iff, List.length_map, viewKey_range fits, ne_eq, home, not_false_eq_true, true_and]
    split
    next h =>
      rw [viewKey_sub h.1, nth_getElem 0 _ _ (by rw [List.length_map]; omega), List.getElem_map]
    next => rfl

theorem State.commitStore_pview (k : Nat) : (s.commitStore b).mem.pview.byte k =
    if b.level ≠ 0 ∧ k / 2 ^ 56 ∈ (s.team (teamKey b.train b.team)).cores ∧ b.covers (k % 2 ^ 56) = true then nth 0 b.data (k % 2 ^ 56 - b.ia)
    else s.mem.pview.byte k := by
  by_cases home : b.level = 0
  · rw [State.commitStore_of_home level home, (State.homeWrite_writes laps queues).pview, if_neg fun h => h.1 home]
  · rw [State.commitStore_of_view laps level home]
    refine (putCores_byte fits _ _ _).trans ?_
    simp only [b.covers_iff, ne_eq, home, not_false_eq_true, true_and]

end

/-! ### All stores of a boundary -/

/-- What a byte becomes as stores commit one after the other. -/
theorem State.commitAll_read {s : State} (laps : s.mem.laps = []) (queues : s.fw.queues = []) {β : Type} (read : State → β) (hit : BufStore → Prop)
    [DecidablePred hit] (val : BufStore → β) {bs : List BufStore} (level : ∀ b ∈ bs, b.level ≠ 3)
    (step : ∀ b ∈ bs, ∀ u : State, u.calm = s.calm → read (u.commitStore b) = if hit b then val b else read u) {u : State} (hu : u.calm = s.calm) :
    read (bs.foldl State.commitStore u) = bs.foldl (fun y b => if hit b then val b else y) (read u) := by
  induction bs generalizing u with
  | nil => rfl
  | cons b bs ih =>
    have calm : (u.commitStore b).calm = s.calm :=
      (State.commitStore_calm ((State.calm_laps hu).trans laps) ((State.calm_queues hu).trans queues) (level b List.mem_cons_self)).trans hu
    rw [List.foldl_cons, List.foldl_cons, ih (fun c hc => level c (List.mem_cons_of_mem b hc)) (fun c hc => step c (List.mem_cons_of_mem b hc)) calm,
      step b List.mem_cons_self u hu]

end Sys2Proof.Machine
end

section
/-!
SUPPORT. What phase 1 leaves at the homes and in the views, in the terms of the state before the boundary (R56, R145).
-/

namespace Sys2Proof.Machine

section
variable {s : State} {tr : Nat}

/-! ### The state at which phase 1 begins -/

theorem State.opened_pageOk (s : State) (tr owner p : Nat) : (s.opened tr).pageOk owner p = s.pageOk owner p := by
  have same := s.nextOrd.markCommitted_unmanned tr
  exact (congrArg (fun u : State => u.pageOk owner p) same :)

theorem State.opened_grid (s : State) (tr : Nat) : (s.opened tr).grid.stores = s.grid.stores ∧ (s.opened tr).grid.acts = s.grid.acts ∧
    (s.opened tr).grid.pend = s.grid.pend ∧ (s.opened tr).grid.acquires = s.grid.acquires := by
  have same := s.nextOrd.markCommitted_unmanned tr
  have stores := State.unmanned_stores same
  have acts := State.unmanned_acts same
  exact ⟨stores, acts, (congrArg (fun u : State => u.grid.pend) same :),
    (congrArg (fun u : State => u.grid.acquires) same :)⟩

theorem State.opened_group (s : State) (tr k : Nat) : (s.opened tr).group k = s.group k :=
  (congrArg (fun gs => Sp.get ({} : Group) gs k) (State.unmanned_groups (s.nextOrd.markCommitted_unmanned tr)) :)

theorem State.opened_train (s : State) (tr k : Nat) : ((s.opened tr).train k).owner = (s.train k).owner ∧
    ((s.opened tr).train k).clk = (s.train k).clk ∧ ((s.opened tr).train k).desc = (s.train k).desc := by
  obtain ⟨c, e⟩ := s.nextOrd.markCommitted_train tr k
  rw [State.opened, e]
  exact ⟨rfl, rfl, rfl⟩

theorem State.opened_team (s : State) (tr k : Nat) : ((s.opened tr).team k).core = (s.team k).core ∧
    ((s.opened tr).team k).cores = (s.team k).cores ∧ ((s.opened tr).team k).train = (s.team k).train ∧
    ((s.opened tr).team k).live = (s.team k).live ∧ ((s.opened tr).team k).twin = (s.team k).twin := by
  obtain ⟨c, e⟩ := s.nextOrd.markCommitted_team tr k
  rw [State.opened, e]
  exact ⟨rfl, rfl, rfl, rfl, rfl⟩

/-- The context of the phases: what they read of the state before the boundary and do not change. -/
structure State.Runs (s : State) (tr : Nat) (u : State) : Prop where
  laps : u.mem.laps = []
  queues : u.fw.queues = []
  pageOk : ∀ owner p, u.pageOk owner p = s.pageOk owner p
  owner : ∀ k, (u.train k).owner = (s.train k).owner
  clk : ∀ k, (u.train k).clk = (s.train k).clk
  desc : ∀ k, (u.train k).desc = (s.train k).desc
  core : ∀ k, (u.team k).core = (s.team k).core
  cores : ∀ k, (u.team k).cores = (s.team k).cores
  train : ∀ k, (u.team k).train = (s.team k).train
  live : ∀ k, (u.team k).live = (s.team k).live
  twin : ∀ k, (u.team k).twin = (s.team k).twin
  group : ∀ k, u.group k = s.group k
  acts : u.grid.acts = s.grid.acts
  pkg : u.pkg = s.pkg

theorem State.Plain.runs_opened (h : s.Plain tr) : s.Runs tr (s.opened tr) where
  laps := h.opened.laps
  queues := h.opened.queues
  pageOk := s.opened_pageOk tr
  owner := fun k => (s.opened_train tr k).1
  clk := fun k => (s.opened_train tr k).2.1
  desc := fun k => (s.opened_train tr k).2.2
  core := fun k => (s.opened_team tr k).1
  cores := fun k => (s.opened_team tr k).2.1
  train := fun k => (s.opened_team tr k).2.2.1
  live := fun k => (s.opened_team tr k).2.2.2.1
  twin := fun k => (s.opened_team tr k).2.2.2.2
  group := s.opened_group tr
  acts := (s.opened_grid tr).2.1
  pkg := (congrArg (fun u : State => u.pkg) (s.nextOrd.markCommitted_unmanned tr) :)

theorem State.Runs.unbuffered {u : State} (h : s.Runs tr u) : s.Runs tr (u.unbuffered tr) := { h with }

theorem State.Runs.of_calm {u v : State} (h : s.Runs tr u) (calm : v.calm = u.calm) : s.Runs tr v where
  laps := (State.calm_laps calm).trans h.laps
  queues := (State.calm_queues calm).trans h.queues
  pageOk := fun owner p => (State.calm_pageOk calm owner p).trans (h.pageOk owner p)
  owner := fun k => (congrArg Train.owner (State.calm_train calm k)).trans (h.owner k)
  clk := fun k => (congrArg Train.clk (State.calm_train calm k)).trans (h.clk k)
  desc := fun k => (congrArg Train.desc (State.calm_train calm k)).trans (h.desc k)
  core := fun k => (congrArg Team.core (State.calm_team calm k)).trans (h.core k)
  cores := fun k => (congrArg Team.cores (State.calm_team calm k)).trans (h.cores k)
  train := fun k => (congrArg Team.train (State.calm_team calm k)).trans (h.train k)
  live := fun k => (congrArg Team.live (State.calm_team calm k)).trans (h.live k)
  twin := fun k => (congrArg Team.twin (State.calm_team calm k)).trans (h.twin k)
  group := fun k => (State.calm_group calm k).trans (h.group k)
  acts := (State.calm_acts calm).trans h.acts
  pkg := (congrArg (fun u : State => u.pkg) calm :).trans h.pkg

/-! ### Stores alone -/

theorem State.Plain.releases_of_no_acts (h : s.Plain tr) (acts : s.grid.acts = []) : s.releases tr = s := by
  have none (tk : Nat) : State.releasesOf tr s tk = s := by
    simp [State.releasesOf, State.actsOf_of_no_acts acts, sortBy, h.trigRelease]
  rw [State.releases_eq]
  induction s.releasers tr with
  | nil => rfl
  | cons tk tks ih => rw [List.foldl_cons, none, ih]

theorem State.Plain.phased_of_no_acts (h : s.Plain tr) (acts : s.grid.acts = []) : s.phased tr = (s.opened tr).commitStores tr := by
  have none : ((s.opened tr).commitStores tr).grid.acts = [] := (State.calm_acts h.opened.commitStores_calm).trans ((s.opened_grid tr).2.1.trans acts)
  rw [State.phased, State.performAtomics_of_no_acts none, h.opened.commitStores.releases_of_no_acts none, State.addCounts_of_no_acts none]

/-- The stores of a boundary in R56's key order. -/
def State.committed (s : State) (tr : Nat) : List BufStore :=
  sortBy (fun a b => lexLe a.key b.key) ((s.grid.stores.filter fun b => b.train == tr).filter fun b => b.team < 2 ^ 21)

theorem State.commitStores_eq (s : State) (tr : Nat) : s.commitStores tr = (s.committed tr).foldl State.commitStore (s.unbuffered tr) := rfl

theorem State.mem_committed {b : BufStore} : b ∈ s.committed tr ↔ b ∈ s.grid.stores ∧ b.train = tr ∧ b.team < 2 ^ 21 := by
  simp [State.committed, and_comm (a := b.team < _)]

theorem State.committed_sorted (s : State) (tr : Nat) : (s.committed tr).Pairwise (fun a b => lexLe a.key b.key = true) :=
  sortBy_lexLe_sorted BufStore.key _

theorem State.committed_opened (s : State) (tr : Nat) : (s.opened tr).committed tr = s.committed tr := by
  rw [State.committed, (s.opened_grid tr).1, ← State.committed]

section
variable (h : s.Plain tr)
include h

/-- A byte of the homes after phase 1. -/
theorem State.Plain.commits_home (a : Nat) : ((s.opened tr).commitStores tr).mem.home.byte a =
    (s.committed tr).foldl (fun y b => if b.level = 0 ∧ b.covers a = true ∧ s.pageOk (s.train tr).owner (pageOf a) = true then
      nth 0 b.data (a - b.ia) else y) (s.mem.home.byte a) := by
  rw [State.commitStores_eq, s.committed_opened, ← s.opened_mem tr, ← (s.opened tr).unbuffered_mem tr]
  refine State.commitAll_read h.opened.unbuffered.laps h.opened.unbuffered.queues (fun u => u.mem.home.byte a) _
    (fun b => nth 0 b.data (a - b.ia)) (fun b hb => (h.stores b (State.mem_committed.1 hb).1).2.1) (fun b hb u hu => ?_) rfl
  obtain ⟨mem, train, -⟩ := State.mem_committed.1 hb
  have runs := h.runs_opened.unbuffered.of_calm hu
  rw [State.commitStore_home runs.laps runs.queues (h.stores b mem).2.1, runs.owner, runs.pageOk, train]

variable (fits : ∀ b ∈ s.grid.stores, b.ia + b.data.length ≤ 2 ^ 56)
include fits

/-- A byte of the clusters' views after phase 1. -/
theorem State.Plain.commits_cview (k : Nat) : ((s.opened tr).commitStores tr).mem.cview.byte k =
    (s.committed tr).foldl (fun y b => if b.level ≠ 0 ∧ (s.team (teamKey tr b.team)).core / 8 = k / 2 ^ 56 ∧ b.covers (k % 2 ^ 56) = true then
      nth 0 b.data (k % 2 ^ 56 - b.ia) else y) (s.mem.cview.byte k) := by
  rw [State.commitStores_eq, s.committed_opened, ← s.opened_mem tr, ← (s.opened tr).unbuffered_mem tr]
  refine State.commitAll_read h.opened.unbuffered.laps h.opened.unbuffered.queues (fun u => u.mem.cview.byte k) _
    (fun b => nth 0 b.data (k % 2 ^ 56 - b.ia)) (fun b hb => (h.stores b (State.mem_committed.1 hb).1).2.1) (fun b hb u hu => ?_) rfl
  obtain ⟨mem, train, -⟩ := State.mem_committed.1 hb
  have runs := h.runs_opened.unbuffered.of_calm hu
  rw [State.commitStore_cview runs.laps runs.queues (h.stores b mem).2.1 (fits b mem), runs.core, train]

/-- The team that last committed a byte of a view. -/
theorem State.Plain.commits_own (k : Nat) : Sp.get 0 ((s.opened tr).commitStores tr).mem.own k =
    (s.committed tr).foldl (fun y b => if b.level ≠ 0 ∧ (s.team (teamKey tr b.team)).core / 8 = k / 2 ^ 56 ∧ b.covers (k % 2 ^ 56) = true then
      teamKey tr b.team + 1 else y) (Sp.get 0 s.mem.own k) := by
  rw [State.commitStores_eq, s.committed_opened, ← s.opened_mem tr, ← (s.opened tr).unbuffered_mem tr]
  refine State.commitAll_read h.opened.unbuffered.laps h.opened.unbuffered.queues (fun u => Sp.get 0 u.mem.own k) _
    (fun b => teamKey tr b.team + 1) (fun b hb => (h.stores b (State.mem_committed.1 hb).1).2.1) (fun b hb u hu => ?_) rfl
  obtain ⟨mem, train, -⟩ := State.mem_committed.1 hb
  have runs := h.runs_opened.unbuffered.of_calm hu
  rw [State.commitStore_own runs.laps runs.queues (h.stores b mem).2.1 (fits b mem), runs.core, train]

/-- A byte of the cores' views after phase 1. -/
theorem State.Plain.commits_pview (k : Nat) : ((s.opened tr).commitStores tr).mem.pview.byte k =
    (s.committed tr).foldl (fun y b => if b.level ≠ 0 ∧ k / 2 ^ 56 ∈ (s.team (teamKey tr b.team)).cores ∧ b.covers (k % 2 ^ 56) = true then
      nth 0 b.data (k % 2 ^ 56 - b.ia) else y) (s.mem.pview.byte k) := by
  rw [State.commitStores_eq, s.committed_opened, ← s.opened_mem tr, ← (s.opened tr).unbuffered_mem tr]
  refine State.commitAll_read h.opened.unbuffered.laps h.opened.unbuffered.queues (fun u => u.mem.pview.byte k) _
    (fun b => nth 0 b.data (k % 2 ^ 56 - b.ia)) (fun b hb => (h.stores b (State.mem_committed.1 hb).1).2.1) (fun b hb u hu => ?_) rfl
  obtain ⟨mem, train, -⟩ := State.mem_committed.1 hb
  have runs := h.runs_opened.unbuffered.of_calm hu
  rw [State.commitStore_pview runs.laps runs.queues (h.stores b mem).2.1 (fits b mem), runs.cores, train]

end

end

end Sys2Proof.Machine
end

section
/-!
SUPPORT. What the last phases leave of the memory, and the stores that remain (R56, R147).
-/

namespace Sys2Proof.Machine

section
variable {s : State} {tr : Nat}

theorem State.acquiring_of_no_fences (h : ∀ a ∈ s.grid.acts, ∀ rel acq scope, a.what ≠ .fence rel acq scope) : s.acquiring tr = [] := by
  refine List.filterMap_eq_nil_iff.2 fun a ha => ?_
  have other := h a (State.mem_actsOf.1 ha).1
  unfold State.fenceAcquire
  split
  next rel acq scope what => exact absurd what (other rel acq scope)
  next => rfl

/-- The homes and the own bytes stay in phases 5 and 6; without an acquire the views do too. -/
theorem State.waits_keeps (free : ∀ g ∈ s.grid.groups, g.2.block = .none) : (s.waitsAndAcquires tr).mem.home = s.mem.home ∧
    (s.waitsAndAcquires tr).mem.own = s.mem.own ∧ (s.waitsAndAcquires tr).grid.pend = s.grid.pend ∧
    (s.acquiring tr = [] → (s.waitsAndAcquires tr).mem = s.mem ∧ (s.waitsAndAcquires tr).grid.acquires = s.grid.acquires) := by
  obtain ⟨-, mem, pend⟩ := (s.dialled tr).acquireFences_keeps tr
  have keeps {β : Type} (p : State → β) (h : ∀ (u : State) (o c b n : Nat), p (u.refreshRange o c b n) = p u) (ks : List Nat) (u : State) :
      p (ks.foldl (fun u k => u.refreshCluster ((s.dialled tr).train tr) k) u) = p u := by
    refine foldl_keeps p _ (fun u k => ?_) ks u
    exact foldl_keeps p _ (fun u r => h u _ _ _ _) _ u
  rw [State.waitsAndAcquires_of_free free]
  refine ⟨?_, ?_, ?_, fun none => ?_⟩
  · rw [keeps (fun u => u.mem.home) (fun _ _ _ _ _ => rfl), mem]
    rfl
  · rw [keeps (fun u => u.mem.own) (fun _ _ _ _ _ => rfl), mem]
    rfl
  · rw [keeps (fun u => u.grid.pend) (fun _ _ _ _ _ => rfl), pend]
    rfl
  · have none' : (s.dialled tr).acquiring tr = [] := none
    have still : s.refreshed tr = [] := by rw [State.refreshed, none]; rfl
    rw [still, List.foldl_nil, State.acquireFences, none']
    exact ⟨rfl, rfl⟩

/-- A boundary without fences: what phases 1 to 4 leave remains. -/
theorem State.Plain.runs_still (h : s.Plain tr) (due : s.boundaryDue tr = true)
    (still : ∀ a ∈ s.grid.acts, ∀ rel acq scope, a.what ≠ .fence rel acq scope) : ∃ t : State, exec (.quantumBoundary tr) s = .next t ∧
    t.grid.stores = [] ∧ t.grid.acts = [] ∧ (t.train tr).qt = (s.train tr).qt + 1 ∧ (t.train tr).boundary = true ∧
    t.mem = (s.phased tr).mem ∧ t.grid.pend = (s.phased tr).grid.pend := by
  obtain ⟨t, run, stores, acts, qt, boundary, mem, pend, -⟩ := h.runs due
  obtain ⟨-, -, pend', same⟩ := State.waits_keeps (tr := tr) h.phased.free
  have none : (s.phased tr).acquiring tr = [] := by
    refine State.acquiring_of_no_fences fun a ha => still a ?_
    rw [← (s.opened_grid tr).2.1]
    exact State.calm_acts h.phased_calm ▸ ha
  exact ⟨t, run, stores, acts, qt, boundary, mem.trans (same none).1, pend.trans pend'⟩

/-! ### The stores that remain -/

section
variable (h : s.Plain tr) (fits : ∀ b ∈ s.grid.stores, b.ia + b.data.length ≤ 2 ^ 56) {b : BufStore} (mem : b ∈ s.committed tr)
include h mem

/-- The last store of a byte remains at the home. -/
theorem State.Plain.last_home {a : Nat} (home : b.level = 0) (covers : b.covers a = true) (ok : s.pageOk (s.train tr).owner (pageOf a) = true)
    (last : ∀ c ∈ s.committed tr, c ≠ b → c.level = 0 → c.covers a = true → lexLe b.key c.key = false) :
    ((s.opened tr).commitStores tr).mem.home.byte a = nth 0 b.data (a - b.ia) := by
  rw [h.commits_home]
  refine foldl_of_last _ (fun b : BufStore => nth 0 b.data (a - b.ia)) (s.committed_sorted tr) mem ⟨home, covers, ok⟩ (fun c hc other hit => ?_) _
  rw [last c hc other hit.1 hit.2.1]
  exact Bool.false_ne_true

include fits

/-- The last store of a byte remains in its cluster's view, own, and in the views of its team's cores. -/
theorem State.Plain.last_view {a : Nat} (wide : b.level ≠ 0) (covers : b.covers a = true) (small : a < 2 ^ 56)
    (last : ∀ c ∈ s.committed tr, c ≠ b → c.level ≠ 0 → ((s.team (teamKey tr c.team)).core / 8 = (s.team (teamKey tr b.team)).core / 8 ∨
      ∃ k ∈ (s.team (teamKey tr c.team)).cores, k ∈ (s.team (teamKey tr b.team)).cores) → c.covers a = true → lexLe b.key c.key = false) :
    ((s.opened tr).commitStores tr).mem.cview.byte ((s.team (teamKey tr b.team)).core / 8 * 2 ^ 56 + a) = nth 0 b.data (a - b.ia) ∧
    Sp.get 0 ((s.opened tr).commitStores tr).mem.own ((s.team (teamKey tr b.team)).core / 8 * 2 ^ 56 + a) = teamKey tr b.team + 1 ∧
    ∀ core ∈ (s.team (teamKey tr b.team)).cores,
      ((s.opened tr).commitStores tr).mem.pview.byte (core * 2 ^ 56 + a) = nth 0 b.data (a - b.ia) := by
  have unit (u : Nat) : (u * 2 ^ 56 + a) / 2 ^ 56 = u := by omega
  have place (u : Nat) : (u * 2 ^ 56 + a) % 2 ^ 56 = a := by omega
  have notLe {c : BufStore} (e : lexLe b.key c.key = false) : ¬ lexLe b.key c.key = true := by rw [e]; exact Bool.false_ne_true
  refine ⟨?_, ?_, fun core hcore => ?_⟩
  · rw [h.commits_cview fits, unit, place]
    exact foldl_of_last _ (fun b : BufStore => nth 0 b.data (a - b.ia)) (s.committed_sorted tr) mem ⟨wide, rfl, covers⟩
      (fun c hc other hit => notLe (last c hc other hit.1 (.inl hit.2.1) hit.2.2)) _
  · rw [h.commits_own fits, unit, place]
    exact foldl_of_last _ (fun b : BufStore => teamKey tr b.team + 1) (s.committed_sorted tr) mem ⟨wide, rfl, covers⟩
      (fun c hc other hit => notLe (last c hc other hit.1 (.inl hit.2.1) hit.2.2)) _
  · rw [h.commits_pview fits, unit, place]
    exact foldl_of_last _ (fun b : BufStore => nth 0 b.data (a - b.ia)) (s.committed_sorted tr) mem ⟨wide, hcore, covers⟩
      (fun c hc other hit => notLe (last c hc other hit.1 (.inr ⟨core, hit.2.1, hcore⟩) hit.2.2)) _

end

end

end Sys2Proof.Machine
end

section
/-!
SUPPORT. Atomics and counter adds at their home points (R153, R154, R158).
-/

namespace Sys2Proof.Machine

section
variable {s : State} {tr : Nat}

/-! ### A read, change and write of a word -/

theorem State.push_of_no_own (own : s.mem.own = []) (owner tk cluster : Nat) (reach : Nat → Bool) : s.push owner tk cluster reach = s := by
  have same : ({ s with mem := { s.mem with own := [] } } : State) = s := by rw [← own]
  simp [State.push, own, Sp.window, Sys2Proof.Machine.runs, same]

theorem State.release_of_no_own (own : s.mem.own = []) (tk scope : Nat) : s.release tk scope = s := by
  unfold State.release
  dsimp only
  split
  · rfl
  · exact State.push_of_no_own own _ _ _ _

theorem State.pushWord_of_no_own (own : s.mem.own = []) (owner cluster ia n : Nat) : s.pushWord owner cluster ia n = s := by
  have same : ({ s with mem := { s.mem with own := [] } } : State) = s := by rw [← own]
  simp [State.pushWord, own, Sp.clear, same]

section
variable {tk scope x n : Nat} (f : Nat → Nat)

theorem State.rmw_of_home (level : tagLevel x = 0) : s.rmw tk scope x n f =
    (s.homeWrite (s.train (s.team tk).train).owner (tagAddr x) (leBytes n (f (leNat (s.homeBytes (s.train (s.team tk).train).owner (tagAddr x) n)))),
      leNat (s.homeBytes (s.train (s.team tk).train).owner (tagAddr x) n)) := by
  rw [State.rmw, if_pos level]

theorem State.rmw_of_cluster (level : tagLevel x ≠ 0) (narrow : scope < 4) : s.rmw tk scope x n f =
    (s.makeOwn tk ((s.team tk).core / 8) (s.team tk).cores (tagAddr x)
        (leBytes n (f (Memory.nat s.mem.cview (viewKey ((s.team tk).core / 8) (tagAddr x)) n))),
      Memory.nat s.mem.cview (viewKey ((s.team tk).core / 8) (tagAddr x)) n) := by
  rw [State.rmw, if_neg level, if_pos narrow]

/-- A word written at the home, and then in the cluster's view and the views of some cores. -/
def State.writeBack (s : State) (owner cluster : Nat) (cores : List Nat) (ia n : Nat) (bs : List Byte) : State :=
  let s := s.homeWrite owner ia bs
  ({ s with mem := { s.mem with cview := Memory.put s.mem.cview (viewKey cluster ia) (s.homeBytes owner ia n) } }).putCores cores ia
    (s.homeBytes owner ia n)

theorem State.rmw_of_wide (level : tagLevel x ≠ 0) (wide : 4 ≤ scope) (own : s.mem.own = []) : s.rmw tk scope x n f =
    (s.writeBack (s.train (s.team tk).train).owner ((s.team tk).core / 8) (s.team tk).cores (tagAddr x) n
        (leBytes n (f (leNat (s.homeBytes (s.train (s.team tk).train).owner (tagAddr x) n)))),
      leNat (s.homeBytes (s.train (s.team tk).train).owner (tagAddr x) n)) := by
  rw [State.rmw, if_neg level, if_neg (by omega)]
  dsimp only
  rw [State.pushWord_of_no_own own]
  rfl

end

section
variable (laps : s.mem.laps = []) (queues : s.fw.queues = [])
include laps queues

theorem State.homeWrites_grid {α : Type} (owner : Nat) (ia : α → Nat) (bs : α → State → List Byte) (xs : List α) :
    (xs.foldl (fun u x => u.homeWrite owner (ia x) (bs x u)) s).grid = s.grid := by
  induction xs generalizing s with
  | nil => rfl
  | cons x xs ih =>
    have wrote := State.homeWrite_writes (owner := owner) (ia := ia x) (bs := bs x s) laps queues
    rw [List.foldl_cons, ih ((State.calm_laps wrote.calm).trans laps) ((State.calm_queues wrote.calm).trans queues), wrote.grid]

theorem State.pushWord_grid (owner cluster ia n : Nat) : (s.pushWord owner cluster ia n).grid = s.grid :=
  State.homeWrites_grid laps queues owner _ (fun i u => [Memory.byte u.mem.cview (viewKey cluster ia + i)]) _

theorem State.rmw_grid (tk scope x n : Nat) (f : Nat → Nat) : (s.rmw tk scope x n f).1.grid = s.grid := by
  unfold State.rmw
  dsimp only
  split
  · exact (State.homeWrite_writes laps queues).grid
  · split
    · rw [State.makeOwn_of_no_laps laps]
      rfl
    · have pushed := State.pushWord_calm laps queues (s.train (s.team tk).train).owner ((s.team tk).core / 8) (tagAddr x) n
      exact (State.homeWrite_writes ((State.calm_laps pushed).trans laps) ((State.calm_queues pushed).trans queues)).grid.trans
        (State.pushWord_grid laps queues _ _ _ _)

/-- A word of one page that passes its checks, written at the home. -/
theorem State.homeWrite_word {owner ia n v : Nat} (some : 0 < n) (page : ia % 65536 + n ≤ 65536) (ok : s.pageOk owner (pageOf ia) = true) :
    Memory.bytes (s.homeWrite owner ia (leBytes n v)).mem.home ia n = leBytes n v ∧
    (s.homeWrite owner ia (leBytes n v)).homeBytes owner ia n = leBytes n v ∧
    ∀ b, b < ia ∨ ia + n ≤ b → (s.homeWrite owner ia (leBytes n v)).mem.home.byte b = s.mem.home.byte b := by
  have wrote : Memory.bytes (s.homeWrite owner ia (leBytes n v)).mem.home ia n = leBytes n v := by
    have bytes := Memory.bytes_of_byte (m := (s.homeWrite owner ia (leBytes n v)).mem.home) (a := ia) (bs := leBytes n v) fun i hi => by
      have len := leBytes_length n v
      have same : pageOf (ia + i) = pageOf ia := by
        unfold pageOf
        omega
      rw [State.homeWrite_byte laps queues, same, if_pos ⟨by omega, ok⟩, Nat.add_sub_cancel_left]
    rwa [leBytes_length] at bytes
  refine ⟨wrote, ?_, fun b away => ?_⟩
  · rw [State.homeBytes_of_page some page (by rw [State.calm_pageOk (State.homeWrite_writes laps queues).calm]; exact ok), wrote]
  · rw [State.homeWrite_byte laps queues, if_neg]
    rw [leBytes_length]
    omega

end

/-! ### The old values of an atomic -/

/-- What an atomic's old values become: writes of its destination that are to land. -/
def Act.landings (a : Act) (train clk : Nat) (olds : List (Nat × Nat)) : List Pend :=
  match a.what with
  | .atomic _ q _ _ (some d) lat =>
    { train := train, due := clk + lat, key := a.key, what := .vec d (olds.map fun p => (p.1, BitVec.ofNat 32 p.2)) } ::
      if q then [{ train := train, due := clk + lat, key := a.key, what := .vec (d + 1) (olds.map fun p => (p.1, BitVec.ofNat 32 (p.2 / 2 ^ 32))) }]
      else []
  | _ => []

theorem Act.landings_of_atomic {a : Act} {op : Nat} {q : Bool} {scope : Nat} {ls : List (Nat × Nat × Nat × Nat)} {d lat : Nat}
    (what : a.what = .atomic op q scope ls (some d) lat) (train clk : Nat) (olds : List (Nat × Nat)) : a.landings train clk olds =
      { train := train, due := clk + lat, key := a.key, what := .vec d (olds.map fun p => (p.1, BitVec.ofNat 32 p.2)) } ::
        if q then [{ train := train, due := clk + lat, key := a.key, what := .vec (d + 1) (olds.map fun p => (p.1, BitVec.ofNat 32 (p.2 / 2 ^ 32))) }]
        else [] := by
  rw [Act.landings, what]

theorem State.landFor_of_single {key : Nat} (single : s.withTwin key = [key]) (due : Nat) (r : Nat × Nat) (w : Landing) :
    (s.landFor key due r w).mem = s.mem ∧
    (s.landFor key due r w).grid.pend = s.grid.pend ++ [{ train := (s.group key).train, due := due, key := key, what := w }] := by
  rw [State.landFor, single]
  exact ⟨rfl, rfl⟩

theorem State.withTwin_of_single {key : Nat} (single : (s.train (s.group key).train).desc.twin = false) : s.withTwin key = [key] := by
  simp [State.withTwin, single]

theorem State.landAtomic_of_single {a : Act} (single : (s.train (s.group a.key).train).desc.twin = false) (olds : List (Nat × Nat)) :
    (s.landAtomic a olds).mem = s.mem ∧
    (s.landAtomic a olds).grid.pend = s.grid.pend ++ a.landings (s.group a.key).train (s.train a.train).clk olds := by
  unfold State.landAtomic
  dsimp only
  split
  next q _ _ r lat what =>
    let w : Landing := .vec r (olds.map fun p => (p.1, BitVec.ofNat 32 p.2))
    have calm := s.landFor_calm a.key ((s.train a.train).clk + lat) (0, r) w
    obtain ⟨mem, pend⟩ := State.landFor_of_single (State.withTwin_of_single single) ((s.train a.train).clk + lat) (0, r) w
    have single' : ((s.landFor a.key ((s.train a.train).clk + lat) (0, r) w).train
        ((s.landFor a.key ((s.train a.train).clk + lat) (0, r) w).group a.key).train).desc.twin = false := by
      rw [State.calm_group calm, State.calm_train calm]
      exact single
    split
    next hq =>
      obtain ⟨mem', pend'⟩ := State.landFor_of_single (State.withTwin_of_single single') ((s.train a.train).clk + lat) (0, r + 1)
        (.vec (r + 1) (olds.map fun p => (p.1, BitVec.ofNat 32 (p.2 / 2 ^ 32))))
      refine ⟨mem'.trans mem, pend'.trans ?_⟩
      rw [pend, State.calm_group calm, List.append_assoc, Act.landings_of_atomic what, if_pos hq]
      rfl
    next hq => exact ⟨mem, pend.trans (by rw [Act.landings_of_atomic what, if_neg hq])⟩
  next other =>
    have none (train clk : Nat) : a.landings train clk olds = [] := by
      unfold Act.landings
      split
      next what => exact absurd what (other _ _ _ _ _ _)
      next => rfl
    exact ⟨rfl, by rw [none, List.append_nil]⟩

/-! ### Phases that find nothing -/

theorem State.commitStores_opened_of_no_stores (stores : s.grid.stores = []) :
    (s.opened tr).commitStores tr = (s.opened tr).unbuffered tr := by
  have none : s.committed tr = [] := List.eq_nil_iff_forall_not_mem.2 fun b hb => by
    have mem := (State.mem_committed.1 hb).1
    simp [stores] at mem
  rw [State.commitStores_eq, s.committed_opened, none]
  rfl

/-- Phase 3 where no action releases anything. -/
theorem State.Plain.releases_of_quiet (h : s.Plain tr) (quiet : ∀ a ∈ s.grid.acts, s.phase3 tr a = s) : s.releases tr = s := by
  have fixed (as : List Act) (mem : ∀ a ∈ as, a ∈ s.grid.acts) : as.foldl (fun u a => u.phase3 tr a) s = s := by
    induction as with
    | nil => rfl
    | cons a as ih => rw [List.foldl_cons, quiet a (mem a List.mem_cons_self), ih fun b hb => mem b (List.mem_cons_of_mem a hb)]
  have none (tk : Nat) : State.releasesOf tr s tk = s := by
    rw [State.releasesOf, fixed _ fun a ha => (State.mem_actsOf.1 (List.mem_of_mem_filter ((mem_sortBy _).1 ha))).1, h.trigRelease]
  rw [State.releases_eq]
  induction s.releasers tr with
  | nil => rfl
  | cons tk tks ih => rw [List.foldl_cons, none, ih]

theorem State.addCounts_of_no_counts (none : ∀ a ∈ s.grid.acts, ∀ u : State, u.addCount tr a = u) : s.addCounts tr = s := by
  have fixed (as : List Act) (mem : ∀ a ∈ as, a ∈ s.grid.acts) : as.foldl (fun u a => u.addCount tr a) s = s := by
    induction as with
    | nil => rfl
    | cons a as ih => rw [List.foldl_cons, none a (mem a List.mem_cons_self), ih fun b hb => mem b (List.mem_cons_of_mem a hb)]
  exact fixed _ fun a ha => (State.mem_actsOf.1 ((mem_sortBy _).1 ha)).1

/-- The state in which a boundary without stores performs its actions. -/
def State.begun (s : State) (tr : Nat) : State := (s.opened tr).unbuffered tr

theorem State.Plain.begun (h : s.Plain tr) : (s.begun tr).Plain tr := h.opened.unbuffered
theorem State.Plain.runs_begun (h : s.Plain tr) : s.Runs tr (s.begun tr) := h.runs_opened.unbuffered
theorem State.begun_mem (s : State) (tr : Nat) : (s.begun tr).mem = s.mem := s.opened_mem tr
theorem State.begun_pend (s : State) (tr : Nat) : (s.begun tr).grid.pend = s.grid.pend := (s.opened_grid tr).2.2.1

theorem State.actsOf_of_one {a : Act} (acts : s.grid.acts = [a]) (mine : a.train = tr) (primary : a.team < 2 ^ 21) : s.actsOf tr = [a] := by
  simp only [State.actsOf, acts, List.filter_cons, List.filter_nil, mine, primary, beq_self_eq_true, decide_true, Bool.and_true, if_true]

/-- A boundary of one atomic of one lane. -/
theorem State.Plain.phased_of_atomic (h : s.Plain tr) {a : Act} {op : Nat} {q : Bool} {scope lane p c0 c1 : Nat} {dst : Option Nat} {lat : Nat}
    (stores : s.grid.stores = []) (acts : s.grid.acts = [a]) (mine : a.train = tr) (primary : a.team < 2 ^ 21)
    (what : a.what = .atomic op q scope [(lane, p, c0, c1)] dst lat) :
    let n := if q then 8 else 4
    let r := (s.begun tr).rmw (teamKey tr a.team) scope p n fun old => atomicNew op (8 * n) old c0 c1
    s.phased tr = r.1.landAtomic a [(lane, r.2)] := by
  intro n r
  have acts' : (s.begun tr).grid.acts = [a] := (s.opened_grid tr).2.1.trans acts
  have performed : (s.begun tr).performAtomics tr = r.1.landAtomic a [(lane, r.2)] := by
    rw [State.performAtomics_eq, State.atomLanes, State.actsOf_of_one acts' mine primary]
    simp only [List.flatMap_cons, List.flatMap_nil, Act.atomLanes, what, List.map_cons, List.map_nil, List.append_nil, sortBy_singleton,
      List.foldl_cons, List.foldl_nil, State.performLane, List.nil_append, List.filter_cons, beq_self_eq_true, if_true, List.filter_nil]
    rfl
  have acts'' : ((s.begun tr).performAtomics tr).grid.acts = [a] := (State.calm_acts h.begun.performAtomics_calm).trans acts'
  have quiet (u : State) : u.phase3 tr a = u := by rw [State.phase3, what]
  have uncounted (u : State) : u.addCount tr a = u := by rw [State.addCount, what]
  rw [State.phased, State.commitStores_opened_of_no_stores stores, ← State.begun, h.begun.performAtomics.releases_of_quiet, State.addCounts_of_no_counts, performed]
  · rw [acts'']
    exact fun b hb u => by rw [List.mem_singleton.1 hb]; exact uncounted u
  · rw [acts'']
    exact fun b hb => by rw [List.mem_singleton.1 hb]; exact quiet _

/-- A boundary of one counter add. -/
theorem State.Plain.phased_of_count (h : s.Plain tr) {a : Act} {scope p n : Nat} (stores : s.grid.stores = []) (acts : s.grid.acts = [a])
    (mine : a.train = tr) (primary : a.team < 2 ^ 21) (what : a.what = .count scope p n none) (still : 4 ≤ scope → s.mem.own = []) :
    s.phased tr = (s.begun tr).addCount tr a := by
  have acts' : (s.begun tr).grid.acts = [a] := (s.opened_grid tr).2.1.trans acts
  have performed : (s.begun tr).performAtomics tr = s.begun tr := by
    rw [State.performAtomics_eq, State.atomLanes, State.actsOf_of_one acts' mine primary]
    simp only [List.flatMap_cons, List.flatMap_nil, Act.atomLanes, what, List.append_nil, List.foldl_cons, List.foldl_nil, State.landAtomic]
    rfl
  have quiet : (s.begun tr).phase3 tr a = s.begun tr := by
    rw [State.phase3, what]
    dsimp only
    rw [if_neg (by simp)]
    by_cases wide : 4 ≤ scope
    · exact State.release_of_no_own ((congrArg Mem.own (s.begun_mem tr)).trans (still wide)) _ _
    · exact if_pos (by omega)
  rw [State.phased, State.commitStores_opened_of_no_stores stores, ← State.begun, performed, h.begun.releases_of_quiet, State.addCounts,
    State.actsOf_of_one acts' mine primary]
  · rfl
  · rw [acts']
    exact fun b hb => by rw [List.mem_singleton.1 hb]; exact quiet

/-! ### What one atomic and one counter add make -/

/-- A read, change and write whose point is the home: its old value, the home, the own bytes, and the view of its cluster. -/
theorem State.rmw_homed {tk scope x n : Nat} (f : Nat → Nat) (homed : tagLevel x = 0 ∨ 4 ≤ scope ∧ s.mem.own = []) (laps : s.mem.laps = [])
    (queues : s.fw.queues = []) :
    let owner := (s.train (s.team tk).train).owner
    let old := leNat (s.homeBytes owner (tagAddr x) n)
    let w := s.homeWrite owner (tagAddr x) (leBytes n (f old))
    (s.rmw tk scope x n f).2 = old ∧ (s.rmw tk scope x n f).1.mem.home = w.mem.home ∧ (s.rmw tk scope x n f).1.mem.own = s.mem.own ∧
    (tagLevel x = 0 → (s.rmw tk scope x n f).1.mem.cview = s.mem.cview) ∧
    (tagLevel x ≠ 0 → (s.rmw tk scope x n f).1.mem.cview =
      Memory.put s.mem.cview (viewKey ((s.team tk).core / 8) (tagAddr x)) (w.homeBytes owner (tagAddr x) n)) := by
  intro owner old w
  have wrote : s.WritesHome w := State.homeWrite_writes laps queues
  by_cases level : tagLevel x = 0
  · rw [State.rmw_of_home f level]
    exact ⟨rfl, rfl, wrote.own, fun _ => wrote.cview, fun h => absurd level h⟩
  · obtain ⟨wide, own⟩ := homed.resolve_left level
    rw [State.rmw_of_wide f level wide own]
    refine ⟨rfl, rfl, wrote.own, fun h => absurd h level, fun _ => ?_⟩
    exact congrArg (fun m => Memory.put m (viewKey ((s.team tk).core / 8) (tagAddr x)) (w.homeBytes owner (tagAddr x) n)) wrote.cview

theorem leNat_leBytes (n v : Nat) : leNat (leBytes n v) = v % 256 ^ n := by
  induction n generalizing v with
  | zero => simp [leBytes, leNat, Nat.mod_one]
  | succ n ih =>
    rw [leBytes, leNat, ih, Nat.pow_succ', Nat.mod_mul, BitVec.toNat_ofNat, Nat.mod_mod]

/-- A word written to a memory reads back. -/
theorem Memory.bytes_put_word (m : Memory) (k n v : Nat) : Memory.bytes (Memory.put m k (leBytes n v)) k n = leBytes n v := by
  have written := Memory.bytes_put m k (leBytes n v)
  rwa [leBytes_length] at written

/-- A mark for each byte of a word. -/
theorem Sp.get_put_marks (m : List (Nat × Nat)) (k o v : Nat) {n i : Nat} (h : i < n) :
    Sp.get 0 (Sp.put 0 m k ((leBytes n v).map fun _ => o)) (k + i) = o := by
  have inside : i < ((leBytes n v).map fun _ => o).length := by rw [List.length_map, leBytes_length]; exact h
  rw [Sp.get_put_same 0 m k _ i inside, List.getElem_map]

theorem word_page {ia n : Nat} (size : n = 4 ∨ n = 8) (aligned : ia % n = 0) : ia % 65536 + n ≤ 65536 := by
  rcases size with rfl | rfl <;> omega

/-- A boundary of one atomic: its memory, and its landings. -/
theorem State.Plain.runs_atomic (h : s.Plain tr) (due : s.boundaryDue tr = true) {a : Act} {op : Nat} {q : Bool} {scope lane p c0 c1 : Nat}
    {dst : Option Nat} {lat : Nat} (stores : s.grid.stores = []) (acts : s.grid.acts = [a]) (mine : a.train = tr) (primary : a.team < 2 ^ 21)
    (what : a.what = .atomic op q scope [(lane, p, c0, c1)] dst lat) (group : (s.group a.key).train = tr) :
    let n := if q then 8 else 4
    let r := (s.begun tr).rmw (teamKey tr a.team) scope p n fun old => atomicNew op (8 * n) old c0 c1
    ∃ t : State, exec (.quantumBoundary tr) s = .next t ∧ t.grid.stores = [] ∧ t.grid.acts = [] ∧ (t.train tr).qt = (s.train tr).qt + 1 ∧
      (t.train tr).boundary = true ∧ t.mem = r.1.mem ∧ t.grid.pend = s.grid.pend ++ a.landings tr (s.train tr).clk [(lane, r.2)] := by
  intro n r
  obtain ⟨t, run, none, none', qt, boundary, mem, pend⟩ := h.runs_still due fun b hb rel acq scope fence => by
    rw [acts, List.mem_singleton] at hb
    rw [hb, what] at fence
    exact ActWhat.noConfusion fence
  have calm : r.1.calm = (s.begun tr).calm := State.rmw_calm h.begun.laps h.begun.queues _ _ _ _ _
  have runs := h.runs_begun.of_calm calm
  have key : (r.1.group a.key).train = tr := (congrArg Group.train (runs.group a.key)).trans group
  have single : (r.1.train (r.1.group a.key).train).desc.twin = false := by
    rw [key, runs.desc]
    exact h.single
  obtain ⟨mem', pend'⟩ := State.landAtomic_of_single single [(lane, r.2)]
  have phased := h.phased_of_atomic stores acts mine primary what
  have grid : r.1.grid = (s.begun tr).grid := State.rmw_grid h.begun.laps h.begun.queues _ _ _ _ _
  refine ⟨t, run, none, none', qt, boundary, mem.trans ((congrArg State.mem phased).trans mem'),
    pend.trans ((congrArg (fun u : State => u.grid.pend) phased).trans (pend'.trans ?_))⟩
  rw [key, mine, runs.clk, grid, s.begun_pend]

/-- A boundary of one counter add. -/
theorem State.Plain.runs_count (h : s.Plain tr) (due : s.boundaryDue tr = true) {a : Act} {scope p n : Nat} (stores : s.grid.stores = [])
    (acts : s.grid.acts = [a]) (mine : a.train = tr) (primary : a.team < 2 ^ 21) (what : a.what = .count scope p n none)
    (still : 4 ≤ scope → s.mem.own = []) :
    ∃ t : State, exec (.quantumBoundary tr) s = .next t ∧ t.grid.stores = [] ∧ t.grid.acts = [] ∧ (t.train tr).qt = (s.train tr).qt + 1 ∧
      (t.train tr).boundary = true ∧ t.mem = ((s.begun tr).addCount tr a).mem := by
  obtain ⟨t, run, none, none', qt, boundary, mem, -⟩ := h.runs_still due fun b hb rel acq scope fence => by
    rw [acts, List.mem_singleton] at hb
    rw [hb, what] at fence
    exact ActWhat.noConfusion fence
  exact ⟨t, run, none, none', qt, boundary, mem.trans (congrArg State.mem (h.phased_of_count stores acts mine primary what still))⟩

theorem State.addCount_of_narrow {a : Act} {scope p n : Nat} (what : a.what = .count scope p n none) (narrow : scope < 4) :
    s.addCount tr a = (s.rmw (teamKey tr a.team) scope p 8 fun old => (old + n) % 2 ^ 64).1 := by
  rw [State.addCount, what]
  simp [narrow]

theorem State.addCount_of_wide {a : Act} {scope p n : Nat} (what : a.what = .count scope p n none) (wide : 4 ≤ scope) :
    s.addCount tr a = s.homeWrite (s.train tr).owner (tagAddr p)
      (leBytes 8 ((leNat (s.homeBytes (s.train tr).owner (tagAddr p) 8) + n) % 2 ^ 64)) := by
  rw [State.addCount, what]
  have notNarrow : ¬ scope < 4 := by omega
  simp [notNarrow]

end

end Sys2Proof.Machine
end

section
/-!
SUPPORT. Fences: what a release pushes home, and what an acquire refreshes (R143, R150, R151, R290).
-/

namespace Sys2Proof.Machine

/-! ### Maps -/

section
variable {α : Type} {d : α}

theorem Sp.get_filter_key (m : List (Nat × α)) (f : Nat → Bool) (a : Nat) :
    Sp.get d (m.filter fun p => f p.1) a = if f a = true then Sp.get d m a else d := by
  split
  next h => exact Sp.get_filter d m _ a fun _ => h
  next h =>
    refine Sp.get_absent d _ a fun p hp same => h ?_
    rw [← same]
    exact (List.mem_filter.1 hp).2

/-- In a map in canonical form each entry is the one that is read. -/
theorem Sp.get_of_mem {m : List (Nat × α)} (wf : Sp.Wf d m) {p : Nat × α} (h : p ∈ m) : Sp.get d m p.1 = p.2 := by
  induction m with
  | nil => exact absurd h List.not_mem_nil
  | cons q m ih =>
    obtain ⟨sorted, values⟩ := wf
    obtain ⟨first, rest⟩ := List.pairwise_cons.1 sorted
    rw [Sp.get]
    rcases List.mem_cons.1 h with rfl | h
    · exact if_pos rfl
    · rw [if_neg (Nat.ne_of_lt (first p h)), ih ⟨rest, fun r hr => values r (List.mem_cons_of_mem q hr)⟩ h]

/-- What is read is the default, or an entry. -/
theorem Sp.mem_of_get {m : List (Nat × α)} {a : Nat} (h : Sp.get d m a ≠ d) : (a, Sp.get d m a) ∈ m := by
  induction m with
  | nil => exact absurd rfl h
  | cons q m ih =>
    obtain ⟨k, x⟩ := q
    rw [Sp.get_cons] at h ⊢
    split at h
    next same => rw [if_pos same, same]; exact List.mem_cons_self
    next other => rw [if_neg other]; exact List.mem_cons_of_mem _ (ih h)

theorem Sp.get_graft (m w : List (Nat × α)) {base n : Nat} (inside : ∀ p ∈ w, base ≤ p.1 ∧ p.1 < base + n) (a : Nat) :
    Sp.get d (Sp.graft m w base n) a = if base ≤ a ∧ a < base + n then Sp.get d w a else Sp.get d m a := by
  have low : a < base → Sp.get d (m.filter fun p => p.1 < base) a = Sp.get d m a := fun h => Sp.get_filter d m _ a fun _ => decide_eq_true h
  have high : base + n ≤ a → Sp.get d (m.filter fun p => base + n ≤ p.1) a = Sp.get d m a := fun h =>
    Sp.get_filter d m _ a fun _ => decide_eq_true h
  have notLow (h : base ≤ a) : ∀ p ∈ m.filter fun p => p.1 < base, p.1 ≠ a := fun p hp => by
    have := (List.mem_filter.1 hp).2
    simp only [decide_eq_true_eq] at this
    omega
  have notHigh (h : a < base + n) : ∀ p ∈ m.filter fun p => base + n ≤ p.1, p.1 ≠ a := fun p hp => by
    have := (List.mem_filter.1 hp).2
    simp only [decide_eq_true_eq] at this
    omega
  unfold Sp.graft
  split
  next h => rw [Sp.get_append_absent _ _ _ _ (notHigh h.2), Sp.get_append _ _ _ _ (notLow h.1)]
  next h =>
    have absent : ∀ p ∈ w, p.1 ≠ a := fun p hp e => h (e ▸ inside p hp)
    rcases Nat.lt_or_ge a base with below | above
    · rw [Sp.get_append_absent _ _ _ _ (notHigh (by omega)), Sp.get_append_absent _ _ _ _ absent, low below]
    · rw [List.append_assoc, Sp.get_append _ _ _ _ (notLow above), Sp.get_append _ _ _ _ absent, high (by omega)]

theorem Sp.get_rekey {w : List (Nat × α)} {base dest a : Nat} (above : ∀ p ∈ w, base ≤ p.1) (h : dest ≤ a) :
    Sp.get d (Sp.rekey w base dest) a = Sp.get d w (a - dest + base) := by
  induction w with
  | nil => rfl
  | cons p w ih =>
    have first := above p List.mem_cons_self
    rw [Sp.rekey, List.map_cons, Sp.get_cons, ← Sp.rekey, ih fun q hq => above q (List.mem_cons_of_mem p hq), Sp.get]
    by_cases same : p.1 = a - dest + base
    · rw [if_pos (by omega), if_pos same]
    · rw [if_neg (by omega), if_neg same]

theorem Sp.get_merge_left {xs ys : List (Nat × α)} {a : Nat} (absent : ∀ p ∈ ys, p.1 ≠ a) (n : Nat) :
    Sp.get d (Sp.merge n xs ys) a = Sp.get d xs a := by
  induction n generalizing xs ys with
  | zero => exact Sp.get_append_absent _ _ _ _ absent
  | succ n ih =>
    cases xs with
    | nil => rw [Sp.merge]; exact Sp.get_absent _ _ _ absent
    | cons x xs =>
      cases ys with
      | nil => rfl
      | cons y ys =>
        rw [Sp.merge]
        split
        · rw [Sp.get, Sp.get, ih absent]
        · rw [Sp.get, if_neg (absent y List.mem_cons_self), ih fun p hp => absent p (List.mem_cons_of_mem y hp)]

end

/-! ### Runs of bytes -/

/-- Whether a run holds a byte at an address. -/
def Holds (r : Nat × List Byte) (a : Nat) : Prop := r.1 ≤ a ∧ a < r.1 + r.2.length

/-- The runs of bytes hold each of them, and nothing else. -/
theorem runs_hold (xs : List (Nat × Byte)) : (∀ p ∈ xs, ∃ r ∈ runs xs, Holds r p.1) ∧
    ∀ r ∈ runs xs, ∀ i, i < r.2.length → (r.1 + i, nth 0 r.2 i) ∈ xs := by
  induction xs with
  | nil => exact ⟨fun p hp => absurd hp List.not_mem_nil, fun r hr => absurd hr List.not_mem_nil⟩
  | cons p xs ih =>
    obtain ⟨holds, bytes⟩ := ih
    have alone : (∀ q ∈ p :: xs, ∃ r ∈ (p.1, [p.2]) :: runs xs, Holds r q.1) ∧
        ∀ r ∈ (p.1, [p.2]) :: runs xs, ∀ i, i < r.2.length → (r.1 + i, nth 0 r.2 i) ∈ p :: xs := by
      constructor
      · intro q hq
        rcases List.mem_cons.1 hq with rfl | hq
        · exact ⟨_, List.mem_cons_self, by simp [Holds]⟩
        · obtain ⟨r, hr, h⟩ := holds q hq
          exact ⟨r, List.mem_cons_of_mem _ hr, h⟩
      · intro r hr i hi
        rcases List.mem_cons.1 hr with rfl | hr
        · obtain rfl : i = 0 := by simpa using hi
          exact List.mem_cons_self
        · exact List.mem_cons_of_mem p (bytes r hr i hi)
    have step : runs (p :: xs) = match runs xs with
        | (a, bs) :: rest => if a = p.1 + 1 && a % 65536 != 0 then (p.1, p.2 :: bs) :: rest else (p.1, [p.2]) :: runs xs
        | [] => [(p.1, [p.2])] := rfl
    rw [step]
    cases e : runs xs with
    | nil => rw [e] at alone; exact alone
    | cons r₀ rest =>
      obtain ⟨a, bs⟩ := r₀
      dsimp only
      split
      next joins =>
        obtain ⟨next, -⟩ := Bool.and_eq_true_iff.1 joins
        have next := of_decide_eq_true next
        rw [e] at holds bytes
        constructor
        · intro q hq
          rcases List.mem_cons.1 hq with rfl | hq
          · exact ⟨_, List.mem_cons_self, by simp [Holds]⟩
          · obtain ⟨r, hr, low, high⟩ := holds q hq
            rcases List.mem_cons.1 hr with rfl | hr
            · refine ⟨_, List.mem_cons_self, ?_, ?_⟩
              · dsimp only at low ⊢
                omega
              · simp only [List.length_cons] at high ⊢
                omega
            · exact ⟨r, List.mem_cons_of_mem _ hr, low, high⟩
        · intro r hr i hi
          rcases List.mem_cons.1 hr with rfl | hr
          · cases i with
            | zero => exact List.mem_cons_self
            | succ i =>
              have mem := bytes _ List.mem_cons_self i (by simpa using hi)
              have place : p.1 + (i + 1) = a + i := by omega
              rw [place]
              exact List.mem_cons_of_mem p mem
          · exact List.mem_cons_of_mem p (bytes r (List.mem_cons_of_mem _ hr) i hi)
      next => rw [e] at alone; exact alone

/-! ### A release -/

section
variable {s : State} (laps : s.mem.laps = []) (queues : s.fw.queues = [])
include laps queues

/-- Runs written at the homes, all of whose bytes are those of one source. -/
theorem State.writeRuns_byte (owner : Nat) (source : Nat → Byte) (rs : List (Nat × List Byte))
    (bytes : ∀ r ∈ rs, ∀ i, i < r.2.length → nth 0 r.2 i = source (r.1 + i)) (a : Nat) :
    s.WritesHome (rs.foldl (fun u r => u.homeWrite owner r.1 r.2) s) ∧
    ((∃ r ∈ rs, Holds r a) → s.pageOk owner (pageOf a) = true →
      (rs.foldl (fun u r => u.homeWrite owner r.1 r.2) s).mem.home.byte a = source a) ∧
    ((∀ r ∈ rs, ¬ Holds r a) ∨ ¬ s.pageOk owner (pageOf a) = true →
      (rs.foldl (fun u r => u.homeWrite owner r.1 r.2) s).mem.home.byte a = s.mem.home.byte a) := by
  induction rs generalizing s with
  | nil => exact ⟨.refl s, fun ⟨r, hr, _⟩ => absurd hr List.not_mem_nil, fun _ => rfl⟩
  | cons r rs ih =>
    have wrote : s.WritesHome (s.homeWrite owner r.1 r.2) := State.homeWrite_writes laps queues
    have first := State.homeWrite_byte laps queues (owner := owner) (ia := r.1) (bs := r.2) a
    obtain ⟨wrote', hits, misses⟩ := ih ((State.calm_laps wrote.calm).trans laps) ((State.calm_queues wrote.calm).trans queues)
      fun q hq => bytes q (List.mem_cons_of_mem r hq)
    rw [State.calm_pageOk wrote.calm] at hits misses
    refine ⟨wrote.trans wrote', fun ⟨q, hq, h⟩ ok => ?_, fun h => ?_⟩
    · by_cases later : ∃ q ∈ rs, Holds q a
      · exact hits later ok
      · have here : Holds r a := by
          rcases List.mem_cons.1 hq with rfl | hq
          · exact h
          · exact absurd ⟨q, hq, h⟩ later
        have now : nth 0 r.2 (a - r.1) = source a := by
          rw [bytes r List.mem_cons_self (a - r.1) (by obtain ⟨low, high⟩ := here; omega), Nat.add_sub_cancel' here.1]
        refine (misses (.inl fun q hq h => later ⟨q, hq, h⟩)).trans ?_
        rw [first, if_pos ⟨here, ok⟩, now]
    · refine (misses (h.imp_left fun h q hq => h q (List.mem_cons_of_mem r hq))).trans ?_
      rw [first, if_neg]
      rintro ⟨here, ok⟩
      rcases h with h | h
      · exact h r List.mem_cons_self here
      · exact h ok

/-- What a push of a team's own bytes makes (R150). -/
theorem State.push_pushes (own : Sp.Wf 0 s.mem.own) (owner tk cluster : Nat) (reach : Nat → Bool) {ia : Nat} (small : ia < 2 ^ 56) :
    let u := s.push owner tk cluster reach
    let k := cluster * 2 ^ 56 + ia
    let pushed := Sp.get 0 s.mem.own k = tk + 1 ∧ reach ia = true
    (pushed → Sp.get 0 u.mem.own k = 0 ∧ (s.pageOk owner (pageOf ia) = true → u.mem.home.byte ia = s.mem.cview.byte k)) ∧
    (¬ pushed → Sp.get 0 u.mem.own k = Sp.get 0 s.mem.own k) ∧
    (¬ pushed ∨ ¬ s.pageOk owner (pageOf ia) = true → u.mem.home.byte ia = s.mem.home.byte ia) := by
  intro u k pushed
  have key : viewKey cluster 0 = cluster * 2 ^ 56 := Nat.add_zero _
  let mine := (Sp.window s.mem.own (viewKey cluster 0) viewSpan).filter fun p => p.2 == tk + 1 && reach (p.1 - viewKey cluster 0)
  let bytes : List (Nat × Byte) := mine.map fun p => (p.1 - viewKey cluster 0, Memory.byte s.mem.cview p.1)
  have mem_mine (p : Nat × Nat) : p ∈ mine ↔ p ∈ s.mem.own ∧ (cluster * 2 ^ 56 ≤ p.1 ∧ p.1 < cluster * 2 ^ 56 + 2 ^ 56) ∧
      p.2 = tk + 1 ∧ reach (p.1 - cluster * 2 ^ 56) = true := by
    simp only [mine, Sp.window, key, viewSpan, List.mem_filter, Bool.and_eq_true, decide_eq_true_eq, beq_iff_eq, and_assoc]
  have back : k - cluster * 2 ^ 56 = ia := Nat.add_sub_cancel_left ..
  have at_k : (∃ p ∈ mine, p.1 = k) ↔ pushed := by
    constructor
    · rintro ⟨p, hp, at_⟩
      obtain ⟨mem, -, team, reaches⟩ := (mem_mine p).1 hp
      have get := Sp.get_of_mem own mem
      rw [at_] at get reaches
      exact ⟨get.trans team, by rwa [back] at reaches⟩
    · rintro ⟨get, reaches⟩
      have mem := Sp.mem_of_get (d := 0) (m := s.mem.own) (a := k) (by rw [get]; exact Nat.succ_ne_zero tk)
      refine ⟨_, (mem_mine _).2 ⟨mem, ⟨by omega, by omega⟩, get, ?_⟩, rfl⟩
      rwa [back]
  obtain ⟨holds, within⟩ := runs_hold bytes
  have source : ∀ r ∈ runs bytes, ∀ i, i < r.2.length → nth 0 r.2 i = s.mem.cview.byte (cluster * 2 ^ 56 + (r.1 + i)) := by
    intro r hr i hi
    obtain ⟨p, hp, e⟩ := List.mem_map.1 (within r hr i hi)
    obtain ⟨-, ⟨low, -⟩, -⟩ := (mem_mine p).1 hp
    obtain ⟨e₁, e₂⟩ := Prod.mk.inj e
    rw [← e₂, ← e₁, key, Nat.add_sub_cancel' low]
  have covered : (∃ r ∈ runs bytes, Holds r ia) ↔ pushed := by
    rw [← at_k]
    constructor
    · rintro ⟨r, hr, low, high⟩
      obtain ⟨p, hp, e⟩ := List.mem_map.1 (within r hr (ia - r.1) (by omega))
      obtain ⟨-, ⟨above, -⟩, -⟩ := (mem_mine p).1 hp
      have place := (Prod.mk.inj e).1
      rw [key] at place
      exact ⟨p, hp, by omega⟩
    · rintro ⟨p, hp, at_⟩
      obtain ⟨r, hr, h⟩ := holds _ (List.mem_map.2 ⟨p, hp, rfl⟩)
      have place : p.1 - viewKey cluster 0 = ia := by rw [key]; omega
      exact ⟨r, hr, by rwa [place] at h⟩
  obtain ⟨wrote, hits, misses⟩ := State.writeRuns_byte laps queues owner (fun a => s.mem.cview.byte (cluster * 2 ^ 56 + a)) (runs bytes) source ia
  have own_u : Sp.get 0 u.mem.own k = if (!mine.any fun p => p.1 == k) = true then Sp.get 0 s.mem.own k else 0 := by
    have filtered : u.mem.own = (((runs bytes).foldl (fun u r => u.homeWrite owner r.1 r.2) s).mem.own).filter fun p => !mine.any fun q => q.1 == p.1 := rfl
    rw [filtered, wrote.own]
    exact Sp.get_filter_key s.mem.own (fun a => !mine.any fun q => q.1 == a) k
  have gone : (mine.any fun p => p.1 == k) = true ↔ pushed := by
    rw [← at_k]
    simp [List.any_eq_true]
  refine ⟨fun h => ⟨?_, fun ok => hits (covered.2 h) ok⟩, fun h => ?_, fun h => misses (h.imp_left fun h r hr holds => h (covered.1 ⟨r, hr, holds⟩))⟩
  · rw [own_u, gone.2 h]
    rfl
  · rw [own_u, if_pos]
    rw [Bool.not_eq_true', ← Bool.not_eq_true, gone]
    exact h

end

end Sys2Proof.Machine
end

section
/-!
SUPPORT. A boundary of one fence: its team's release, and its acquire (R143, R150, R151, R290).
-/

namespace Sys2Proof.Machine

/-! ### A refresh -/

section
variable {s : State} {cluster z : Nat} (own : Sp.get 0 s.mem.own (cluster * 2 ^ 56 + z) = 0)
include own

/-- A byte that is not own, after a refresh of a range: in a page that passes its checks it becomes the home's (R143). -/
theorem State.refreshRange_byte {owner : Nat} (ok : s.pageOk owner (pageOf z) = true) (base n : Nat) :
    (s.refreshRange owner cluster base n).mem.cview.byte (cluster * 2 ^ 56 + z) =
      if base ≤ z ∧ z < base + n then s.mem.home.byte z else s.mem.cview.byte (cluster * 2 ^ 56 + z) := by
  have key : viewKey cluster base = cluster * 2 ^ 56 + base := rfl
  let owned (a : Nat) : Bool := Sp.get 0 s.mem.own a != 0
  let moved := Sp.rekey (Sp.window s.mem.home base n) base (viewKey cluster base)
  let admits (a : Nat) : Bool := !owned a && s.pageOk owner (pageOf (a - viewKey cluster base + base))
  let fresh := moved.filter fun p => admits p.1
  let kept := (Sp.window s.mem.cview (viewKey cluster base) n).filter fun p => owned p.1
  have inside : ∀ p ∈ Sp.merge (fresh.length + kept.length) fresh kept,
      viewKey cluster base ≤ p.1 ∧ p.1 < viewKey cluster base + n := fun p hp => by
    rcases (Sp.mem_merge _ _ _ _).1 hp with hp | hp
    · exact Sp.mem_rekey Sp.mem_window p (List.mem_of_mem_filter hp)
    · exact Sp.mem_window p (List.mem_of_mem_filter hp)
  have free : ∀ p ∈ kept, p.1 ≠ cluster * 2 ^ 56 + z := fun p hp same => by
    have mark : owned p.1 = true := (List.mem_filter.1 hp).2
    simp only [owned, same, own] at mark
    exact Bool.noConfusion mark
  refine (Sp.get_graft s.mem.cview _ inside (cluster * 2 ^ 56 + z)).trans ?_
  by_cases h : base ≤ z ∧ z < base + n
  · have place : cluster * 2 ^ 56 + z - viewKey cluster base + base = z := by rw [key]; omega
    have admitted : admits (cluster * 2 ^ 56 + z) = true := by simp only [admits, owned, own, place, ok]; rfl
    rw [if_pos (by rw [key]; omega), if_pos h, Sp.get_merge_left free, Sp.get_filter_key moved admits, if_pos admitted,
      Sp.get_rekey (fun p hp => (Sp.mem_window p hp).1) (by rw [key]; omega), place, Sp.get_window 0 _ _ _ _ h.1 h.2]
    rfl
  · rw [if_neg (by rw [key]; omega), if_neg h]
    rfl

/-- A byte that is not own, after a refresh of ranges of which one holds it. -/
theorem State.refreshRanges_byte {owner : Nat} (ok : s.pageOk owner (pageOf z) = true) (rs : List (Nat × Nat))
    (held : s.mem.cview.byte (cluster * 2 ^ 56 + z) = s.mem.home.byte z ∨ ∃ r ∈ rs, r.1 ≤ z ∧ z < r.1 + r.2) :
    (rs.foldl (fun u r => u.refreshRange owner cluster r.1 r.2) s).mem.cview.byte (cluster * 2 ^ 56 + z) = s.mem.home.byte z := by
  induction rs generalizing s with
  | nil => exact held.resolve_right fun ⟨r, hr, _⟩ => List.not_mem_nil hr
  | cons r rs ih =>
    refine ih own ok ?_
    by_cases later : ∃ q ∈ rs, q.1 ≤ z ∧ z < q.1 + q.2
    · exact .inr later
    · left
      rw [State.refreshRange_byte own ok]
      split
      next => rfl
      next outside =>
        refine held.resolve_right fun ⟨q, hq, h⟩ => ?_
        rcases List.mem_cons.1 hq with rfl | hq
        · exact outside h
        · exact later ⟨q, hq, h⟩

end

/-! ### The teams of phase 3 -/

/-- Of steps of which one alone does anything, only that one matters. -/
theorem foldl_of_one {σ ι : Type} {f : σ → ι → σ} {P : σ → Prop} {k : ι} {xs : List ι} {s : σ} (nodup : xs.Nodup) (mem : k ∈ xs)
    (keeps : ∀ u, P u → P (f u k)) (other : ∀ u, P u → ∀ x ∈ xs, x ≠ k → f u x = u) (start : P s) : xs.foldl f s = f s k := by
  have still (ys : List ι) (sub : ∀ y ∈ ys, y ∈ xs ∧ y ≠ k) (u : σ) (hu : P u) : ys.foldl f u = u := by
    induction ys with
    | nil => rfl
    | cons y ys ih =>
      obtain ⟨hy, ne⟩ := sub y List.mem_cons_self
      rw [List.foldl_cons, other u hu y hy ne, ih fun z hz => sub z (List.mem_cons_of_mem y hz)]
  obtain ⟨before, after, rfl⟩ := List.append_of_mem mem
  obtain ⟨-, rest, disjoint⟩ := List.nodup_append.1 nodup
  have first : ∀ y ∈ before, y ≠ k := fun y hy => disjoint y hy k List.mem_cons_self
  have last : ∀ y ∈ after, y ≠ k := fun y hy same => (List.nodup_cons.1 rest).1 (same ▸ hy)
  rw [List.foldl_append, List.foldl_cons, still before (fun y hy => ⟨List.mem_append_left _ hy, first y hy⟩) s start,
    still after (fun y hy => ⟨List.mem_append_right _ (List.mem_cons_of_mem k hy), last y hy⟩) _ (keeps s start)]

theorem nodup_eraseDups (n : Nat) (xs : List Nat) (short : xs.length ≤ n) : xs.eraseDups.Nodup := by
  induction n generalizing xs with
  | zero =>
    rw [List.length_eq_zero_iff.1 (by omega : xs.length = 0)]
    exact List.nodup_nil
  | succ n ih =>
    cases xs with
    | nil => exact List.nodup_nil
    | cons x xs =>
      rw [List.eraseDups_cons, List.nodup_cons]
      have len := List.length_filter_le (fun y => !y == x) xs
      refine ⟨fun mem => ?_, ih _ (by rw [List.length_cons] at short; omega)⟩
      have := (List.mem_filter.1 (List.mem_eraseDups.1 mem)).2
      simp at this

section
variable {s : State} {tr : Nat}

theorem State.releasers_nodup (s : State) (tr : Nat) : (s.releasers tr).Nodup :=
  (sortBy_perm _ _).nodup_iff.2 (nodup_eraseDups _ _ (Nat.le_refl _))

theorem State.mem_releasers {tk : Nat} (mine : (s.team tk).train = tr) (live : (s.team tk).live = true) (primary : (s.team tk).twin = false) :
    tk ∈ s.releasers tr := by
  have mem : (tk, s.team tk) ∈ s.grid.teams := Sp.mem_of_get fun none => by
    have gone : s.team tk = {} := none
    rw [gone] at live
    exact Bool.noConfusion live
  rw [State.releasers, mem_sortBy, List.mem_eraseDups, List.mem_append]
  exact .inl (List.mem_map.2 ⟨_, List.mem_filter.2 ⟨mem, by simp [mine, live, primary]⟩, rfl⟩)

/-- Phase 3 of a boundary with one action. -/
theorem State.Plain.releases_of_one (h : s.Plain tr) {a : Act} (acts : s.actsOf tr = [a]) (mine : (s.team (teamKey tr a.team)).train = tr)
    (live : (s.team (teamKey tr a.team)).live = true) (primary : (s.team (teamKey tr a.team)).twin = false) :
    s.releases tr = s.phase3 tr a := by
  let still (u : State) : Prop := u.Plain tr ∧ u.actsOf tr = [a]
  have own (u : State) (hu : still u) : State.releasesOf tr u (teamKey tr a.team) = u.phase3 tr a := by
    have plain : (u.phase3 tr a).Plain tr := by
      have mem := (State.mem_actsOf.1 (hu.2 ▸ List.mem_singleton_self a : a ∈ u.actsOf tr)).1
      exact hu.1.of_calm (State.phase3_calm hu.1.laps hu.1.queues (hu.1.acts a mem).2)
    simp only [State.releasesOf, hu.2, List.filter_cons, beq_self_eq_true, if_true, List.filter_nil, sortBy_singleton, List.foldl_cons,
      List.foldl_nil, plain.trigRelease]
  refine (foldl_of_one (f := State.releasesOf tr) (P := still) (s.releasers_nodup tr) (State.mem_releasers mine live primary) ?_ ?_ ⟨h, acts⟩).trans (own s ⟨h, acts⟩)
  · intro u hu
    have calm := hu.1.releasesOf_calm (teamKey tr a.team)
    refine ⟨hu.1.of_calm calm, Eq.trans ?_ hu.2⟩
    rw [State.actsOf, State.calm_acts calm, ← State.actsOf]
  · intro u hu tk _ ne
    have none : (teamKey tr a.team == tk) = false := beq_false_of_ne ne.symm
    simp [State.releasesOf, hu.2, none, sortBy, hu.1.trigRelease]

/-! ### One fence -/

/-- What a fence's release makes of a state. -/
def State.fenced (s : State) (tr : Nat) (a : Act) (rel : Bool) (scope : Nat) : State :=
  if rel = true then s.release (teamKey tr a.team) scope else s

variable {a : Act} {rel acq : Bool} {scope : Nat} (what : a.what = .fence rel acq scope)
include what

theorem State.fenceKinds_of_one (acts : s.actsOf tr = [a]) : s.fenceKinds tr a.team = (rel, acq) := by
  simp [State.fenceKinds, acts, what]

theorem State.Plain.phased_of_fence (h : s.Plain tr) (stores : s.grid.stores = []) (acts : s.grid.acts = [a]) (mine : a.train = tr)
    (primary : a.team < 2 ^ 21) (own : (s.team (teamKey tr a.team)).train = tr) (live : (s.team (teamKey tr a.team)).live = true)
    (single : (s.team (teamKey tr a.team)).twin = false) : s.phased tr = (s.begun tr).fenced tr a rel scope := by
  have acts' : (s.begun tr).grid.acts = [a] := (s.opened_grid tr).2.1.trans acts
  have actsOf := State.actsOf_of_one acts' mine primary
  have context := h.runs_begun
  have performed : (s.begun tr).performAtomics tr = s.begun tr := by
    rw [State.performAtomics_eq, State.atomLanes, actsOf]
    simp only [List.flatMap_cons, List.flatMap_nil, Act.atomLanes, what, List.append_nil, List.foldl_cons, List.foldl_nil, State.landAtomic]
    rfl
  have released : (s.begun tr).releases tr = (s.begun tr).fenced tr a rel scope := by
    rw [h.begun.releases_of_one actsOf ((context.train _).trans own) ((context.live _).trans live) ((context.twin _).trans single), State.phase3, what]
    dsimp only
    rw [State.fenceKinds_of_one what actsOf, State.fenced]
  have acts'' : ((s.begun tr).releases tr).grid.acts = [a] := (State.calm_acts h.begun.releases_calm).trans acts'
  rw [State.phased, State.commitStores_opened_of_no_stores stores, ← State.begun, performed, State.addCounts_of_no_counts, released]
  rw [acts'']
  exact fun b hb u => by rw [List.mem_singleton.1 hb, State.addCount, what]

end

end Sys2Proof.Machine
end

section
/-!
SUPPORT. What a boundary of one fence leaves (R143, R150, R151, R290).
-/

namespace Sys2Proof.Machine

section
variable {s : State} {tr : Nat}

theorem State.push_keeps (laps : s.mem.laps = []) (queues : s.fw.queues = []) (owner tk cluster : Nat) (reach : Nat → Bool) :
    (s.push owner tk cluster reach).grid = s.grid ∧ (s.push owner tk cluster reach).mem.cview = s.mem.cview := by
  have writes (rs : List (Nat × List Byte)) : (rs.foldl (fun u r => u.homeWrite owner r.1 r.2) s).grid = s.grid ∧
      (rs.foldl (fun u r => u.homeWrite owner r.1 r.2) s).mem.cview = s.mem.cview := by
    induction rs generalizing s with
    | nil => exact ⟨rfl, rfl⟩
    | cons r rs ih =>
      have wrote := State.homeWrite_writes (owner := owner) (ia := r.1) (bs := r.2) laps queues
      obtain ⟨grid, cview⟩ := ih ((State.calm_laps wrote.calm).trans laps) ((State.calm_queues wrote.calm).trans queues)
      exact ⟨grid.trans wrote.grid, cview.trans wrote.cview⟩
  exact writes _

theorem State.fenced_keeps (laps : s.mem.laps = []) (queues : s.fw.queues = []) (a : Act) (rel : Bool) (scope : Nat) :
    (s.fenced tr a rel scope).grid = s.grid ∧ (s.fenced tr a rel scope).mem.cview = s.mem.cview := by
  unfold State.fenced State.release
  dsimp only
  split
  · split
    · exact ⟨rfl, rfl⟩
    · exact State.push_keeps laps queues _ _ _ _
  · exact ⟨rfl, rfl⟩

/-- What a fence's release leaves of the homes and of the own bytes of its cluster. -/
theorem State.fenced_pushes (laps : s.mem.laps = []) (queues : s.fw.queues = []) (own : Sp.Wf 0 s.mem.own) {a : Act} {rel : Bool} {scope : Nat}
    {ia : Nat} (small : ia < 2 ^ 56) :
    let owner := (s.train (s.team (teamKey tr a.team)).train).owner
    let u := s.fenced tr a rel scope
    let k := (s.team (teamKey tr a.team)).core / 8 * 2 ^ 56 + ia
    let pushed := rel = true ∧ 4 ≤ scope ∧ Sp.get 0 s.mem.own k = teamKey tr a.team + 1 ∧ (scope = 6 ∨ pkgOf ia = s.pkg)
    (pushed → Sp.get 0 u.mem.own k = 0 ∧ (s.pageOk owner (pageOf ia) = true → u.mem.home.byte ia = s.mem.cview.byte k)) ∧
    (¬ pushed → Sp.get 0 u.mem.own k = Sp.get 0 s.mem.own k) ∧
    (¬ pushed ∨ ¬ s.pageOk owner (pageOf ia) = true → u.mem.home.byte ia = s.mem.home.byte ia) := by
  intro owner u k pushed
  by_cases releases : rel = true ∧ 4 ≤ scope
  · obtain ⟨rel, wide⟩ := releases
    have push : u = s.push owner (teamKey tr a.team) ((s.team (teamKey tr a.team)).core / 8) fun ia => scope == 6 || pkgOf ia == s.pkg := by
      have notNarrow : ¬ scope < 4 := by omega
      simp only [u, State.fenced, rel, if_true, State.release, notNarrow, if_false]
      rfl
    have made := State.push_pushes laps queues own owner (teamKey tr a.team) ((s.team (teamKey tr a.team)).core / 8)
      (fun ia => scope == 6 || pkgOf ia == s.pkg) small
    have same : pushed ↔ Sp.get 0 s.mem.own k = teamKey tr a.team + 1 ∧ (scope == 6 || pkgOf ia == s.pkg) = true := by
      simp [pushed, rel, wide]
    rw [push]
    simp only [same]
    exact made
  · have still : u = s := by
      unfold u State.fenced State.release
      split
      next hr =>
        have narrow : scope < 4 := by
          by_contra wide
          exact releases ⟨hr, by omega⟩
        exact if_pos narrow
      next => rfl
    have unpushed : ¬ pushed := fun h => releases ⟨h.1, h.2.1⟩
    rw [still]
    exact ⟨fun h => absurd h unpushed, fun _ => rfl, fun _ => rfl⟩

section
variable {a : Act} {rel acq : Bool} {scope : Nat} (what : a.what = .fence rel acq scope) (acts : s.actsOf tr = [a])
include what acts

theorem State.acquiring_of_one : s.acquiring tr = if acq = true then [(a, scope)] else [] := by
  cases acq <;> simp [State.acquiring, acts, State.fenceAcquire, what, State.fenceKinds_of_one what acts]

/-- The acquire of one fence. -/
theorem State.waits_of_fence (free : ∀ g ∈ s.grid.groups, g.2.block = .none) (acquires : acq = true) :
    (s.waitsAndAcquires tr).grid.acquires =
      s.grid.acquires ++ [{ train := tr, key := a.key, due := (s.train tr).clk + scopeLat scope, core := a.core }] := by
  have one : s.acquiring tr = [(a, scope)] := (State.acquiring_of_one what acts).trans (if_pos acquires)
  have one' : (s.dialled tr).acquiring tr = [(a, scope)] := one
  have clk : ((s.dialled tr).train tr).clk = (s.train tr).clk := by rw [State.dialled, State.train_modTrain, if_pos rfl]
  rw [State.waitsAndAcquires_of_free free]
  refine (foldl_keeps (fun u : State => u.grid.acquires) _ (fun u k => ?_) _ _).trans ?_
  · refine foldl_keeps (fun u : State => u.grid.acquires) _ (fun _ _ => ?_) _ u
    rfl
  · rw [State.acquireFences, one', List.foldl_cons, List.foldl_nil, clk]
    rfl

/-- A byte of a footprint that is not own, after a wide acquire (R151). -/
theorem State.waits_refresh (free : ∀ g ∈ s.grid.groups, g.2.block = .none) (acquires : acq = true) (wide : 4 ≤ scope) {z : Nat}
    {r : Nat × Nat} (hr : r ∈ (s.train tr).desc.ranges (List.range (s.train tr).desc.grid)) (holds : r.1 ≤ z ∧ z < r.1 + r.2)
    (ok : s.pageOk (s.train tr).owner (pageOf z) = true) (own : Sp.get 0 s.mem.own (a.core / 8 * 2 ^ 56 + z) = 0) :
    (s.waitsAndAcquires tr).mem.cview.byte (a.core / 8 * 2 ^ 56 + z) = s.mem.home.byte z := by
  have one : s.acquiring tr = [(a, scope)] := (State.acquiring_of_one what acts).trans (if_pos acquires)
  have refreshed : s.refreshed tr = [a.core / 8] := by
    simp only [State.refreshed, one, List.filterMap_cons, List.filterMap_nil, wide, if_true]
    rfl
  obtain ⟨calm, mem, -⟩ := (s.dialled tr).acquireFences_keeps tr
  have train : (s.dialled tr).train tr = { s.train tr with seq := s.pod.top, dial := s.pod.dial } := by
    rw [State.dialled, State.train_modTrain, if_pos rfl]
  have ok' : ((s.dialled tr).acquireFences tr).pageOk (s.train tr).owner (pageOf z) = true := by
    rw [State.calm_pageOk calm]
    exact ok
  rw [State.waitsAndAcquires_of_free free, refreshed, List.foldl_cons, List.foldl_nil, train, State.refreshCluster]
  rw [State.refreshRanges_byte (by rw [mem]; exact own) ok' _ (.inr ⟨r, hr, holds⟩), mem]
  rfl

end

end

end Sys2Proof.Machine
end

section
/-!
SUPPORT. Stores, atomics and counter adds that act at the homes, as changes of a function from addresses to bytes (R147, R153, R158).
-/

namespace Sys2Proof.Machine

/-! ### The one order by distinct keys -/

/-- A sorted list and a strictly sorted one of the same elements are equal. -/
theorem eq_of_strictly_sorted {α : Type} (key : α → List Nat) {xs ys : List α} (sorted : xs.Pairwise fun a b => lexLe (key a) (key b) = true)
    (strict : ys.Pairwise fun a b => lexLe (key b) (key a) = false) (perm : ys.Perm xs) : xs = ys := by
  let apart (a b : α) : Prop := ¬ (lexLe (key a) (key b) = true ∧ lexLe (key b) (key a) = true)
  have symmetric : Std.Symm apart := ⟨fun _ _ h both => h both.symm⟩
  have distinct : ys.Pairwise apart :=
    strict.imp fun h both => by rw [h] at both; exact Bool.noConfusion both.2
  have sorted' : ys.Pairwise fun a b => lexLe (key a) (key b) = true := strict.imp fun h =>
    (lexLe_total _ _).resolve_right (by rw [h]; exact Bool.false_ne_true)
  refine List.Perm.eq_of_pairwise (fun a b ha hb h k => ?_) sorted sorted' perm.symm
  by_contra ne
  exact distinct.forall (perm.mem_iff.2 ha) hb ne ⟨h, k⟩

theorem sortBy_of_strictly_sorted {α : Type} (key : α → List Nat) {xs ys : List α}
    (strict : ys.Pairwise fun a b => lexLe (key b) (key a) = false) (perm : ys.Perm xs) : sortBy (fun a b => lexLe (key a) (key b)) xs = ys :=
  eq_of_strictly_sorted key (sortBy_lexLe_sorted key xs) strict (perm.trans (sortBy_perm _ xs).symm)

/-! ### Bytes by their addresses -/

/-- Bytes written over a function of addresses. -/
def putAt (f : Nat → Byte) (a : Nat) (bs : List Byte) (k : Nat) : Byte := if a ≤ k ∧ k < a + bs.length then nth 0 bs (k - a) else f k

/-- The number that `n` bytes make. -/
def wordAt (f : Nat → Byte) (a n : Nat) : Nat := leNat ((List.range n).map fun i => f (a + i))

section
variable {s : State} {tr : Nat}

/-- A state of the phases whose homes hold `f` where a page passes its checks and are as before elsewhere, and without own bytes. -/
structure State.Homes (s : State) (tr : Nat) (u : State) (f : Nat → Byte) (ps : List Pend) : Prop where
  runs : s.Runs tr u
  own : u.mem.own = []
  pend : u.grid.pend = ps
  good : ∀ k, s.pageOk (s.train tr).owner (pageOf k) = true → u.mem.home.byte k = f k
  bad : ∀ k, ¬ s.pageOk (s.train tr).owner (pageOf k) = true → u.mem.home.byte k = s.mem.home.byte k

variable {u v : State} {f : Nat → Byte} {ps : List Pend} (h : s.Homes tr u f ps)
include h

/-- Bytes written at the homes. -/
theorem State.Homes.write (runs : s.Runs tr v) (own : v.mem.own = u.mem.own) (pend : v.grid.pend = u.grid.pend) {ia : Nat} {bs : List Byte}
    (home : v.mem.home = (u.homeWrite (s.train tr).owner ia bs).mem.home) : s.Homes tr v (putAt f ia bs) ps where
  runs := runs
  own := own.trans h.own
  pend := pend.trans h.pend
  good := fun k ok => by
    rw [home, State.homeWrite_byte h.runs.laps h.runs.queues, h.runs.pageOk, h.good k ok, putAt]
    simp only [ok, and_true]
  bad := fun k broken => by
    rw [home, State.homeWrite_byte h.runs.laps h.runs.queues, h.runs.pageOk, if_neg fun w => broken w.2, h.bad k broken]

section
variable {ia n : Nat} (some : 0 < n) (page : ia % 65536 + n ≤ 65536)
include some page

/-- The number read in a page that passes its checks. -/
theorem State.Homes.read (ok : s.pageOk (s.train tr).owner (pageOf ia) = true) :
    leNat (u.homeBytes (s.train tr).owner ia n) = wordAt f ia n := by
  rw [State.homeBytes_of_page some page (by rw [h.runs.pageOk]; exact ok), wordAt, Memory.bytes, Sp.range_eq]
  congr 1
  refine List.map_congr_left fun i hi => h.good _ ?_
  have same : pageOf (ia + i) = pageOf ia := by
    have := List.mem_range.1 hi
    unfold pageOf
    omega
  rw [same]
  exact ok

/-- A number read, changed and written at the homes. -/
theorem State.Homes.change (runs : s.Runs tr v) (own : v.mem.own = u.mem.own) (pend : v.grid.pend = u.grid.pend) (g : Nat → Nat)
    (home : v.mem.home = (u.homeWrite (s.train tr).owner ia (leBytes n (g (leNat (u.homeBytes (s.train tr).owner ia n))))).mem.home) :
    s.Homes tr v (putAt f ia (leBytes n (g (wordAt f ia n)))) ps := by
  have wrote := h.write runs own pend home
  refine { wrote with good := fun k ok => (wrote.good k ok).trans ?_ }
  by_cases inside : ia ≤ k ∧ k < ia + n
  · have same : pageOf k = pageOf ia := by
      unfold pageOf
      omega
    rw [h.read some page (same ▸ ok)]
  · rw [putAt, putAt, leBytes_length, leBytes_length, if_neg inside, if_neg inside]

end

/-! ### Stores, atomics and adds -/

theorem State.Homes.store {b : BufStore} (mine : b.train = tr) (level : b.level = 0) :
    s.Homes tr (u.commitStore b) (putAt f b.ia b.data) ps := by
  have wrote := State.homeWrite_writes (owner := (s.train tr).owner) (ia := b.ia) (bs := b.data) h.runs.laps h.runs.queues
  have commit : u.commitStore b = u.homeWrite (s.train tr).owner b.ia b.data := by
    rw [State.commitStore_of_home (by omega) level, mine, h.runs.owner]
  rw [commit]
  exact h.write (h.runs.of_calm wrote.calm) wrote.own (congrArg Grid.pend wrote.grid) rfl

/-- A read, change and write of a word at the home point of its scope. -/
theorem State.Homes.rmw {team x n scope : Nat} (g : Nat → Nat) (own : (s.team (teamKey tr team)).train = tr)
    (homed : tagLevel x = 0 ∨ 4 ≤ scope) (size : n = 4 ∨ n = 8) (aligned : tagAddr x % n = 0) :
    s.Homes tr (u.rmw (teamKey tr team) scope x n g).1 (putAt f (tagAddr x) (leBytes n (g (wordAt f (tagAddr x) n)))) ps ∧
    (s.pageOk (s.train tr).owner (pageOf (tagAddr x)) = true → (u.rmw (teamKey tr team) scope x n g).2 = wordAt f (tagAddr x) n) := by
  obtain ⟨old, home, own', -⟩ := State.rmw_homed (s := u) (tk := teamKey tr team) (x := x) (n := n) (scope := scope) g
    (homed.imp_right fun wide => ⟨wide, h.own⟩) h.runs.laps h.runs.queues
  have owner : (u.train (u.team (teamKey tr team)).train).owner = (s.train tr).owner := by rw [h.runs.owner, h.runs.train, own]
  rw [owner] at old home
  have some : 0 < n := by omega
  have page := word_page size aligned
  refine ⟨h.change some page (h.runs.of_calm (State.rmw_calm h.runs.laps h.runs.queues _ _ _ _ _)) own' ?_ g home, fun ok => ?_⟩
  · rw [State.rmw_grid h.runs.laps h.runs.queues]
  · rw [old, h.read some page ok]

theorem State.Homes.add {a : Act} {x n scope : Nat} (what : a.what = .count scope x n none) (own : (s.team (teamKey tr a.team)).train = tr)
    (homed : tagLevel x = 0 ∨ 4 ≤ scope) (aligned : tagAddr x % 8 = 0) :
    s.Homes tr (u.addCount tr a) (putAt f (tagAddr x) (leBytes 8 ((wordAt f (tagAddr x) 8 + n) % 2 ^ 64))) ps := by
  by_cases wide : 4 ≤ scope
  · have wrote := State.homeWrite_writes (owner := (s.train tr).owner) (ia := tagAddr x)
      (bs := leBytes 8 ((leNat (u.homeBytes (s.train tr).owner (tagAddr x) 8) + n) % 2 ^ 64)) h.runs.laps h.runs.queues
    rw [State.addCount_of_wide what wide, h.runs.owner]
    exact h.change (by decide) (word_page (.inr rfl) aligned) (h.runs.of_calm wrote.calm) wrote.own (congrArg Grid.pend wrote.grid)
      (fun old => (old + n) % 2 ^ 64) rfl
  · rw [State.addCount_of_narrow what (by omega)]
    exact (h.rmw (fun old => (old + n) % 2 ^ 64) own homed (.inr rfl) aligned).1

/-- The landing of an atomic's old values. -/
theorem State.Homes.land (single : (s.train tr).desc.twin = false) {a : Act} (mine : a.train = tr) (group : (s.group a.key).train = tr)
    (olds : List (Nat × Nat)) : s.Homes tr (u.landAtomic a olds) f (ps ++ a.landings tr (s.train tr).clk olds) := by
  have single' : (u.train (u.group a.key).train).desc.twin = false := by rw [h.runs.group, group, h.runs.desc, single]
  obtain ⟨mem, pend⟩ := State.landAtomic_of_single single' olds
  rw [h.runs.group, group, mine, h.runs.clk, h.pend] at pend
  exact { runs := h.runs.of_calm (u.landAtomic_calm a olds), own := by rw [mem]; exact h.own, pend := pend
          good := fun k ok => by rw [mem]; exact h.good k ok, bad := fun k broken => by rw [mem]; exact h.bad k broken }

end

end Sys2Proof.Machine
end

section
/-!
SUPPORT. A boundary of stores, atomics, fences and counter adds that all act at the homes (R56, R147, R153, R290).
-/

namespace Sys2Proof.Machine

/-! ### Lanes and counts of actions -/

/-- The lanes of an action: the action, the lane, its address and its two operands. -/
def Act.lanesOf (a : Act) : List (Act × Nat × Nat × Nat × Nat) :=
  match a.what with
  | .atomic _ _ _ ls _ _ => ls.map (a, ·)
  | _ => []

/-- The counter adds of an action: the action, its address and what it adds. -/
def Act.countsOf (a : Act) : List (Act × Nat × Nat) :=
  match a.what with
  | .count _ p n _ => [(a, p, n)]
  | _ => []

/-- The bytes of an atomic's word. -/
def Act.size (a : Act) : Nat :=
  match a.what with
  | .atomic _ true _ _ _ _ => 8
  | _ => 4

def Act.opOf (a : Act) : Nat :=
  match a.what with
  | .atomic op _ _ _ _ _ => op
  | _ => 0

/-- An atomic's or an add's home point is the home. -/
def homedAt (p scope : Nat) : Prop := p / 2 ^ 56 = 0 ∨ 4 ≤ scope

/-- An action that acts at the homes, with aligned words. -/
def Act.homed (a : Act) : Prop :=
  match a.what with
  | .atomic _ _ scope ls _ _ => ∀ l ∈ ls, l.2.1 % 2 ^ 56 % a.size = 0 ∧ homedAt l.2.1 scope
  | .count scope p _ err => err = none ∧ p % 2 ^ 56 % 8 = 0 ∧ homedAt p scope
  | .fence _ _ _ => True
  | _ => False

/-- What a lane makes of the bytes. -/
def atomAt (f : Nat → Byte) (y : Act × Nat × Nat × Nat × Nat) : Nat → Byte :=
  putAt f (y.2.2.1 % 2 ^ 56) (leBytes y.1.size
    (atomicNew y.1.opOf (8 * y.1.size) (wordAt f (y.2.2.1 % 2 ^ 56) y.1.size) y.2.2.2.1 y.2.2.2.2))

/-- What a counter add makes of the bytes. -/
def addAt (f : Nat → Byte) (y : Act × Nat × Nat) : Nat → Byte :=
  putAt f (y.2.1 % 2 ^ 56) (leBytes 8 ((wordAt f (y.2.1 % 2 ^ 56) 8 + y.2.2) % 2 ^ 64))

/-- A lane as the model lists it. -/
def atomLaneOf (y : Act × Nat × Nat × Nat × Nat) : AtomLane where
  act := y.1
  op := y.1.opOf
  q := y.1.size == 8
  scope := match y.1.what with
    | .atomic _ _ scope _ _ _ => scope
    | _ => 0
  lane := y.2.1
  addr := y.2.2.1
  c0 := y.2.2.2.1
  c1 := y.2.2.2.2

theorem Act.size_of_atomic {a : Act} {op : Nat} {q : Bool} {scope : Nat} {ls : List (Nat × Nat × Nat × Nat)} {dst : Option Nat} {lat : Nat}
    (what : a.what = .atomic op q scope ls dst lat) : a.size = if q = true then 8 else 4 := by
  unfold Act.size
  rw [what]
  cases q <;> rfl

theorem Act.atomLanes_eq (a : Act) : a.atomLanes = a.lanesOf.map atomLaneOf := by
  unfold Act.atomLanes Act.lanesOf
  cases what : a.what with
  | atomic op q scope ls dst lat =>
    dsimp only
    rw [List.map_map]
    refine List.map_congr_left fun l _ => ?_
    have opOf : a.opOf = op := by rw [Act.opOf, what]
    have quad : (a.size == 8) = q := by rw [Act.size_of_atomic what]; cases q <;> rfl
    rw [Function.comp, atomLaneOf, opOf, quad, what]
  | _ => rfl

/-- A lane belongs to an atomic. -/
theorem Act.mem_lanesOf {a : Act} {y : Act × Nat × Nat × Nat × Nat} (h : y ∈ a.lanesOf) : y.1 = a ∧
    ∃ op q scope ls dst lat, a.what = .atomic op q scope ls dst lat ∧ y.2 ∈ ls ∧ (atomLaneOf y).scope = scope ∧
      (if (atomLaneOf y).q = true then 8 else 4) = a.size := by
  unfold Act.lanesOf at h
  split at h
  next op q scope ls dst lat what =>
    obtain ⟨l, hl, rfl⟩ := List.mem_map.1 h
    refine ⟨rfl, op, q, scope, ls, dst, lat, what, hl, ?_, ?_⟩
    · rw [atomLaneOf, what]
    · rw [atomLaneOf, Act.size_of_atomic what]
      cases q <;> rfl
  next => exact absurd h List.not_mem_nil

theorem Act.mem_countsOf {a : Act} {y : Act × Nat × Nat} (h : y ∈ a.countsOf) : y.1 = a ∧ ∃ scope err, a.what = .count scope y.2.1 y.2.2 err := by
  unfold Act.countsOf at h
  split at h
  next scope p n err what =>
    obtain rfl := List.mem_singleton.1 h
    exact ⟨rfl, scope, err, what⟩
  next => exact absurd h List.not_mem_nil

section
variable {s : State} {tr : Nat}

/-! ### The lanes of the atomics -/

/-- A lane whose read, change and write the boundary makes at the homes. -/
def State.laneReady (s : State) (tr : Nat) (y : Act × Nat × Nat × Nat × Nat) : Prop :=
  (s.team (teamKey tr y.1.team)).train = tr ∧ y.1.homed ∧ y ∈ y.1.lanesOf

theorem State.Homes.lane {u : State} {f : Nat → Byte} {ps : List Pend} (h : s.Homes tr u f ps) {y : Act × Nat × Nat × Nat × Nat}
    (ready : s.laneReady tr y) (olds : List (Nat × Nat × Nat)) : ∃ old, (State.performLane tr (u, olds) (atomLaneOf y)).2 = olds ++ [(y.1.ord, y.2.1, old)] ∧
      s.Homes tr (State.performLane tr (u, olds) (atomLaneOf y)).1 (atomAt f y) ps ∧
      (s.pageOk (s.train tr).owner (pageOf (y.2.2.1 % 2 ^ 56)) = true → old = wordAt f (y.2.2.1 % 2 ^ 56) y.1.size) := by
  obtain ⟨own, homed, mem⟩ := ready
  obtain ⟨-, op, q, scope, ls, dst, lat, what, hl, reach, sized⟩ := Act.mem_lanesOf mem
  rw [Act.homed, what] at homed
  obtain ⟨aligned, point⟩ := homed y.2 hl
  have size : y.1.size = 4 ∨ y.1.size = 8 := by
    rw [Act.size_of_atomic what]
    cases q
    · exact .inl rfl
    · exact .inr rfl
  obtain ⟨homes, read⟩ := h.rmw (team := y.1.team) (x := y.2.2.1) (n := y.1.size) (scope := scope)
    (fun old => atomicNew y.1.opOf (8 * y.1.size) old y.2.2.2.1 y.2.2.2.2) own point size aligned
  have same : State.performLane tr (u, olds) (atomLaneOf y) =
      let r := u.rmw (teamKey tr y.1.team) scope y.2.2.1 y.1.size fun old => atomicNew y.1.opOf (8 * y.1.size) old y.2.2.2.1 y.2.2.2.2
      (r.1, olds ++ [(y.1.ord, y.2.1, r.2)]) := by
    rw [State.performLane, reach]
    dsimp only
    rw [sized]
    rfl
  rw [same]
  exact ⟨_, rfl, homes, read⟩

/-- The lanes one after the other: each reads what those before it left. -/
theorem State.Homes.lanes {u : State} {f : Nat → Byte} {ps : List Pend} (h : s.Homes tr u f ps) (ys : List (Act × Nat × Nat × Nat × Nat))
    (ready : ∀ y ∈ ys, s.laneReady tr y) (olds : List (Nat × Nat × Nat)) :
    let r := (ys.map atomLaneOf).foldl (State.performLane tr) (u, olds)
    s.Homes tr r.1 (ys.foldl atomAt f) ps ∧ (∀ o ∈ olds, o ∈ r.2) ∧
    ∀ i y, ys[i]? = some y → s.pageOk (s.train tr).owner (pageOf (y.2.2.1 % 2 ^ 56)) = true →
      (y.1.ord, y.2.1, wordAt ((ys.take i).foldl atomAt f) (y.2.2.1 % 2 ^ 56) y.1.size) ∈ r.2 := by
  induction ys generalizing u f olds with
  | nil => exact ⟨h, fun o ho => ho, fun i y hy => by simp at hy⟩
  | cons y ys ih =>
    obtain ⟨old, told, homes, read⟩ := h.lane (ready y List.mem_cons_self) olds
    obtain ⟨homes', kept, reads⟩ := ih homes (fun z hz => ready z (List.mem_cons_of_mem y hz)) (State.performLane tr (u, olds) (atomLaneOf y)).2
    have kept' (o : Nat × Nat × Nat) (ho : o ∈ olds ++ [(y.1.ord, y.2.1, old)]) := kept o (by rw [told]; exact ho)
    refine ⟨homes', fun o ho => kept' o (List.mem_append_left _ ho), fun i z hz ok => ?_⟩
    cases i with
    | zero =>
      obtain rfl : y = z := by simpa using hz
      have told' := kept' _ (List.mem_append_right olds (List.mem_singleton_self (y.1.ord, y.2.1, old)))
      rw [read ok] at told'
      exact told'
    | succ i => exact reads i z (by simpa using hz) ok

/-! ### Landings -/

theorem State.Homes.lands {u : State} {f : Nat → Byte} {ps : List Pend} (h : s.Homes tr u f ps) (single : (s.train tr).desc.twin = false)
    (olds : Act → List (Nat × Nat)) (as : List Act) (mine : ∀ a ∈ as, a.train = tr ∧ (s.group a.key).train = tr) :
    s.Homes tr (as.foldl (fun u a => u.landAtomic a (olds a)) u) f (ps ++ as.flatMap fun a => a.landings tr (s.train tr).clk (olds a)) := by
  induction as generalizing u ps with
  | nil =>
    rw [List.flatMap_nil, List.append_nil]
    exact h
  | cons a as ih =>
    obtain ⟨own, group⟩ := mine a List.mem_cons_self
    have rest := ih (h.land single own group (olds a)) fun b hb => mine b (List.mem_cons_of_mem a hb)
    rw [List.append_assoc] at rest
    exact rest

/-! ### Counter adds -/

theorem State.Homes.adds {u : State} {f : Nat → Byte} {ps : List Pend} (h : s.Homes tr u f ps) (ys : List (Act × Nat × Nat))
    (ready : ∀ y ∈ ys, (s.team (teamKey tr y.1.team)).train = tr ∧ y.1.homed ∧ y ∈ y.1.countsOf) :
    s.Homes tr ((ys.map (·.1)).foldl (fun u a => u.addCount tr a) u) (ys.foldl addAt f) ps := by
  induction ys generalizing u f with
  | nil => exact h
  | cons y ys ih =>
    obtain ⟨own, homed, mem⟩ := ready y List.mem_cons_self
    obtain ⟨-, scope, err, what⟩ := Act.mem_countsOf mem
    rw [Act.homed, what] at homed
    obtain ⟨rfl, aligned, point⟩ := homed
    exact ih (h.add what own point aligned) fun z hz => ready z (List.mem_cons_of_mem y hz)

/-- Whether an action is a counter add. -/
def Act.counting (a : Act) : Bool := !a.countsOf.isEmpty

theorem State.addCount_of_not_counting {a : Act} (h : a.counting = false) (u : State) : u.addCount tr a = u := by
  unfold State.addCount
  split
  next what => simp [Act.counting, Act.countsOf, what] at h
  next => rfl

theorem Act.filter_counting (as : List Act) : as.filter Act.counting = (as.flatMap Act.countsOf).map (·.1) := by
  induction as with
  | nil => rfl
  | cons a as ih =>
    rw [List.flatMap_cons, List.map_append, ← ih, List.filter_cons]
    unfold Act.counting Act.countsOf
    split <;> split <;> simp_all

/-- Phase 4 makes the counter adds in their key order. -/
theorem State.addCounts_eq (counts : List (Act × Nat × Nat)) (perm : counts.Perm ((s.actsOf tr).flatMap Act.countsOf))
    (strict : counts.Pairwise fun a b => lexLe [b.1.team, b.1.group, b.1.ord] [a.1.team, a.1.group, a.1.ord] = false) :
    s.addCounts tr = (counts.map (·.1)).foldl (fun u a => u.addCount tr a) s := by
  let key (a : Act) : List Nat := [a.team, a.group, a.ord]
  have sorted := (sortBy_lexLe_sorted key (s.actsOf tr)).filter Act.counting
  have same : (sortBy (fun a b => lexLe (key a) (key b)) (s.actsOf tr)).filter Act.counting = counts.map (·.1) := by
    refine eq_of_strictly_sorted key sorted (List.pairwise_map.2 strict) ?_
    refine (perm.map _).trans ?_
    rw [← Act.filter_counting]
    exact ((sortBy_perm _ _).filter _).symm
  rw [← same, List.foldl_filter]
  refine List.foldl_ext _ _ s fun u a _ => ?_
  split
  next => rfl
  next h => exact State.addCount_of_not_counting (by simpa using h) u

end

end Sys2Proof.Machine
end

section
/-!
SUPPORT. The phases of a boundary whose stores, atomics and counter adds act at the homes (R56, R147, R153, R290).
-/

namespace Sys2Proof.Machine

section
variable {s : State} {tr : Nat}

/-- Phase 1: the stores in their key order. -/
theorem State.Homes.stores {u : State} {f : Nat → Byte} {ps : List Pend} (h : s.Homes tr u f ps) (bs : List BufStore)
    (mine : ∀ b ∈ bs, b.train = tr ∧ b.level = 0) :
    s.Homes tr (bs.foldl State.commitStore u) (bs.foldl (fun f b => putAt f b.ia b.data) f) ps := by
  induction bs generalizing u f with
  | nil => exact h
  | cons b bs ih =>
    obtain ⟨own, level⟩ := mine b List.mem_cons_self
    exact ih (h.store own level) fun c hc => mine c (List.mem_cons_of_mem b hc)

/-- Phase 2: the lanes in their key order, and the landings of what they read. -/
theorem State.Homes.atomics {u : State} {f : Nat → Byte} {ps : List Pend} (h : s.Homes tr u f ps) (single : (s.train tr).desc.twin = false)
    (lanes : List (Act × Nat × Nat × Nat × Nat)) (perm : lanes.Perm ((u.actsOf tr).flatMap Act.lanesOf))
    (strict : lanes.Pairwise fun a b => lexLe [b.1.team, b.1.group, b.2.1, b.1.ord] [a.1.team, a.1.group, a.2.1, a.1.ord] = false)
    (ready : ∀ y ∈ lanes, s.laneReady tr y) (groups : ∀ a ∈ u.actsOf tr, (s.group a.key).train = tr) :
    ∃ olds : Act → List (Nat × Nat),
      s.Homes tr (u.performAtomics tr) (lanes.foldl atomAt f)
        (ps ++ (u.actsOf tr).flatMap fun a => a.landings tr (s.train tr).clk (olds a)) ∧
      ∀ i y, lanes[i]? = some y → s.pageOk (s.train tr).owner (pageOf (y.2.2.1 % 2 ^ 56)) = true →
        (y.2.1, wordAt ((lanes.take i).foldl atomAt f) (y.2.2.1 % 2 ^ 56) y.1.size) ∈ olds y.1 := by
  let key (x : AtomLane) : List Nat := [x.act.team, x.act.group, x.lane, x.act.ord]
  have order : u.atomLanes tr = lanes.map atomLaneOf := by
    refine sortBy_of_strictly_sorted key (List.pairwise_map.2 strict) ((perm.map _).trans ?_)
    rw [List.map_flatMap]
    exact .of_eq (congrArg (fun g => (u.actsOf tr).flatMap g) (funext fun a => a.atomLanes_eq.symm))
  obtain ⟨homes, -, reads⟩ := h.lanes lanes ready []
  have mine : ∀ a ∈ u.actsOf tr, a.train = tr ∧ (s.group a.key).train = tr := fun a ha => ⟨(State.mem_actsOf.1 ha).2.1, groups a ha⟩
  let told := ((lanes.map atomLaneOf).foldl (State.performLane tr) (u, [])).2
  refine ⟨fun a => (told.filter fun o => o.1 == a.ord).map (·.2), ?_, fun i y hy ok => ?_⟩
  · rw [State.performAtomics_eq, order]
    exact homes.lands single _ _ mine
  · exact List.mem_map.2 ⟨_, List.mem_filter.2 ⟨reads i y hy ok, beq_self_eq_true _⟩, rfl⟩

theorem Act.plain_of_homed {a : Act} (h : a.homed) : a.plain := by
  unfold Act.homed at h
  unfold Act.plain
  cases what : a.what <;> simp only [what] at h ⊢
  exact h.1

/-- Phase 3 finds no own bytes to push. -/
theorem State.Homes.releases {u : State} {f : Nat → Byte} {ps : List Pend} (h : s.Homes tr u f ps) (plain : u.Plain tr) : u.releases tr = u := by
  refine plain.releases_of_quiet fun a ha => ?_
  have kind := (plain.acts a ha).2
  unfold Act.plain at kind
  rw [State.phase3]
  cases what : a.what <;> simp only [what] at kind ⊢
  · split
    · exact State.release_of_no_own h.own _ _
    · rfl
  · split
    · rfl
    · exact State.release_of_no_own h.own _ _

/-- What phases 1 to 4 leave. -/
theorem State.Plain.phased_homes (h : s.Plain tr) (own : s.mem.own = []) {st : List BufStore} {lanes : List (Act × Nat × Nat × Nat × Nat)}
    {counts : List (Act × Nat × Nat)} (stores : ∀ b ∈ s.grid.stores, b.team < 2 ^ 21 ∧ b.level = 0)
    (acts : ∀ a ∈ s.grid.acts, a.team < 2 ^ 21 ∧ (s.team (teamKey tr a.team)).train = tr ∧ (s.group a.key).train = tr ∧ a.homed)
    (st_perm : st.Perm s.grid.stores) (st_strict : st.Pairwise fun a b => lexLe b.key a.key = false)
    (lanes_perm : lanes.Perm (s.grid.acts.flatMap Act.lanesOf))
    (lanes_strict : lanes.Pairwise fun a b => lexLe [b.1.team, b.1.group, b.2.1, b.1.ord] [a.1.team, a.1.group, a.2.1, a.1.ord] = false)
    (counts_perm : counts.Perm (s.grid.acts.flatMap Act.countsOf))
    (counts_strict : counts.Pairwise fun a b => lexLe [b.1.team, b.1.group, b.1.ord] [a.1.team, a.1.group, a.1.ord] = false) :
    let stored := st.foldl (fun f b => putAt f b.ia b.data) s.mem.home.byte
    ∃ olds : Act → List (Nat × Nat),
      s.Homes tr (s.phased tr) (counts.foldl addAt (lanes.foldl atomAt stored))
        (s.grid.pend ++ s.grid.acts.flatMap fun a => a.landings tr (s.train tr).clk (olds a)) ∧
      ∀ i y, lanes[i]? = some y → s.pageOk (s.train tr).owner (pageOf (y.2.2.1 % 2 ^ 56)) = true →
        (y.2.1, wordAt ((lanes.take i).foldl atomAt stored) (y.2.2.1 % 2 ^ 56) y.1.size) ∈ olds y.1 := by
  intro stored
  have start : s.Homes tr (s.begun tr) s.mem.home.byte s.grid.pend := by
    have memory := s.begun_mem tr
    exact { runs := h.runs_begun, own := by rw [memory]; exact own, pend := s.begun_pend tr
            good := fun k _ => by rw [memory], bad := fun k _ => by rw [memory] }
  have actsOf {u : State} (acts' : u.grid.acts = s.grid.acts) : u.actsOf tr = s.grid.acts := by
    rw [State.actsOf, acts']
    exact List.filter_eq_self.2 fun a ha => Bool.and_eq_true_iff.2 ⟨beq_iff_eq.2 (h.acts a ha).1, decide_eq_true (acts a ha).1⟩
  have committed : s.committed tr = st := by
    refine sortBy_of_strictly_sorted BufStore.key st_strict ?_
    rw [List.filter_eq_self.2, List.filter_eq_self.2]
    · exact st_perm
    · exact fun b hb => beq_iff_eq.2 (h.stores b hb).1
    · exact fun b hb => decide_eq_true (stores b (List.mem_of_mem_filter hb)).1
  let u₁ := (s.opened tr).commitStores tr
  have phase₁ : s.Homes tr u₁ stored s.grid.pend := by
    have e : u₁ = st.foldl State.commitStore (s.begun tr) := by
      rw [← committed, ← s.committed_opened]
      exact State.commitStores_eq _ _
    rw [e]
    exact start.stores st fun b hb => ⟨(h.stores b (st_perm.mem_iff.1 hb)).1, (stores b (st_perm.mem_iff.1 hb)).2⟩
  have acts₁ := actsOf phase₁.runs.acts
  obtain ⟨olds, phase₂, reads⟩ := phase₁.atomics h.single lanes (by rw [acts₁]; exact lanes_perm) lanes_strict (fun y hy => by
    obtain ⟨a, ha, mem⟩ := List.mem_flatMap.1 (lanes_perm.mem_iff.1 hy)
    obtain ⟨rfl, -⟩ := Act.mem_lanesOf mem
    obtain ⟨-, train, -, homed⟩ := acts _ ha
    exact ⟨train, homed, mem⟩) fun a ha => (acts a (acts₁ ▸ ha)).2.2.1
  rw [acts₁] at phase₂
  refine ⟨olds, ?_, reads⟩
  rw [State.phased, phase₂.releases h.opened.commitStores.performAtomics,
    State.addCounts_eq counts (by rw [actsOf phase₂.runs.acts]; exact counts_perm) counts_strict]
  refine phase₂.adds counts fun y hy => ?_
  obtain ⟨a, ha, mem⟩ := List.mem_flatMap.1 (counts_perm.mem_iff.1 hy)
  obtain ⟨rfl, -⟩ := Act.mem_countsOf mem
  obtain ⟨-, train, -, homed⟩ := acts _ ha
  exact ⟨train, homed, mem⟩

end

end Sys2Proof.Machine
end

section
/-!
SUPPORT. A boundary commits its quantum (R56, R145 to R158, R290).
-/

namespace Sys2Proof.Machine

/-- Settles O54: a boundary in which nothing waits is its four phases and then its acquires (`State.Plain.runs`). The stores of phase 1 are a
fold over R56's key order, in which the last that covers a byte remains (`State.Plain.last_home`, `State.Plain.last_view`); actions at the
homes are changes of one function from addresses to bytes, phase by phase (`State.Plain.phased_homes`); one atomic and one counter add are a
read, change and write at their scope's point (`State.rmw_of_cluster`, `State.rmw_homed`); one fence is a push of its team's own bytes
(`State.fenced_pushes`) and a refresh of the footprints (`State.waits_refresh`). -/
theorem boundaryCommits : Obligations.BoundaryCommits := by
  intro tr s x tk view ok runs one elsewhere due single unaligned cmds hall requests queues leases laps free saved trigs clean bad removals
  have plain (acts : ∀ a ∈ s.grid.acts, a.train = tr ∧ a.plain) (stores : ∀ b ∈ s.grid.stores, b.train = tr ∧ b.level ≠ 3) : s.Plain tr :=
    ⟨single, unaligned, trigs, cmds, free, hall, requests, queues, leases, laps, clean, removals, acts, fun b hb =>
      ⟨(stores b hb).1, (stores b hb).2, bad b hb⟩⟩
  refine ⟨?stores, ?mixed, ?atomic, ?fence, ?count⟩
  case stores =>
    intro cover meets last acts stores
    have h : s.Plain tr := plain (by simp [acts]) fun b hb => ⟨(stores b hb).1, by have := (stores b hb).2.2.1; omega⟩
    have fits (b : BufStore) (hb : b ∈ s.grid.stores) : b.ia + b.data.length ≤ 2 ^ 56 := (stores b hb).2.2.2
    have mem {b : BufStore} (hb : b ∈ s.grid.stores) : b ∈ s.committed tr := State.mem_committed.2 ⟨hb, (stores b hb).1, (stores b hb).2.1⟩
    obtain ⟨t, run, none, none', qt, boundary, memory, -⟩ := h.runs_still due (by simp [acts])
    rw [h.phased_of_no_acts acts] at memory
    refine ⟨t, ⟨run, none, none', qt, boundary⟩, fun b hb i hi only => ⟨fun home okay => ?_, fun wide => ?_⟩, fun a outside => ?_, fun k a small outside => ?_⟩
    · rw [memory, h.last_home (mem hb) home ((b.covers_iff _).2 (by omega)) okay fun c hc other level covers =>
        only c (State.mem_committed.1 hc).1 other (by simp only [meets, home, if_true, level]) ((c.covers_iff _).1 covers)]
      congr 1
      omega
    · have views := h.last_view fits (mem hb) (a := b.ia + i) wide ((b.covers_iff _).2 (by omega)) (by have := fits b hb; omega)
        fun c hc other level near covers => only c (State.mem_committed.1 hc).1 other ?_ ((c.covers_iff _).1 covers)
      · rw [memory]
        simpa only [Nat.add_assoc, Nat.add_sub_cancel_left] using views
      · have wides : meets c b = _ := if_neg wide
        rw [wides]
        exact ⟨level, near.imp_left fun e => congrArg (fun u => u * 2 ^ 56 + 0) e⟩
    · rw [memory, h.commits_home]
      refine foldl_of_no_hit _ _ (fun b hb hit => ?_) _
      obtain ⟨level, covers, okay⟩ := hit
      rcases outside with away | broken
      · exact away b (State.mem_committed.1 hb).1 level ((b.covers_iff a).1 covers)
      · exact broken okay
    · have unit : (k * 2 ^ 56 + a) / 2 ^ 56 = k := by omega
      have place : (k * 2 ^ 56 + a) % 2 ^ 56 = a := by omega
      have away (b : BufStore) (hb : b ∈ s.committed tr) :
          ¬ (b.level ≠ 0 ∧ (s.team (teamKey tr b.team)).core / 8 = k ∧ b.covers a = true) := fun ⟨level, cluster, covers⟩ =>
        outside b (State.mem_committed.1 hb).1 level (by simp only [view, Nat.add_zero]; exact congrArg (· * 2 ^ 56) cluster) ((b.covers_iff a).1 covers)
      rw [memory, h.commits_cview fits, h.commits_own fits, unit, place]
      exact ⟨foldl_of_no_hit _ _ away _, foldl_of_no_hit _ _ away _⟩
  case mixed =>
    intro st lanes counts put word size opOf at_ atom counted stored laneKey countKey landing homed own stores _ acts st_perm st_strict
      lanes_perm lanes_strict counts_perm counts_strict
    have homed' (a : Act) (ha : a ∈ s.grid.acts) : a.homed := (acts a ha).2.2.2.2
    have h : s.Plain tr := plain (fun a ha => ⟨(acts a ha).1, Act.plain_of_homed (homed' a ha)⟩) fun b hb =>
      ⟨(stores b hb).1, by have := (stores b hb).2.2.1; omega⟩
    obtain ⟨t, run, none, none', qt, boundary, mem, pend, -⟩ := h.runs due
    obtain ⟨home, -, pend', -⟩ := State.waits_keeps (tr := tr) h.phased.free
    obtain ⟨olds, homes, reads⟩ := h.phased_homes own (fun b hb => ⟨(stores b hb).2.1, (stores b hb).2.2.1⟩)
      (fun a ha => ⟨(acts a ha).2.1, (acts a ha).2.2.1, (acts a ha).2.2.2.1, homed' a ha⟩) st_perm st_strict lanes_perm lanes_strict
      counts_perm counts_strict
    refine ⟨t, ⟨run, none, none', qt, boundary⟩, fun k okay => ?_, fun k broken => ?_, fun a op q scope ls d lat ha what => ?_⟩
    · rw [mem, home]
      exact homes.good k okay
    · rw [mem, home]
      exact homes.bad k broken
    · have landed (p : Pend) (hp : p ∈ a.landings tr x.clk (olds a)) : p ∈ t.grid.pend := by
        rw [pend, pend', homes.pend]
        exact List.mem_append_right _ (List.mem_flatMap.2 ⟨a, ha, hp⟩)
      rw [Act.landings_of_atomic what] at landed
      refine ⟨(olds a).map fun o => (o.1, BitVec.ofNat 32 o.2), (olds a).map fun o => (o.1, BitVec.ofNat 32 (o.2 / 2 ^ 32)),
        landed _ List.mem_cons_self, fun quad => landed _ (List.mem_cons_of_mem _ ?_), fun i y hy mine okay => ?_⟩
      · rw [if_pos quad]
        exact List.mem_singleton_self _
      · have told := reads i y hy okay
        rw [mine] at told
        exact ⟨List.mem_map.2 ⟨_, told, rfl⟩, fun _ => List.mem_map.2 ⟨_, told, rfl⟩⟩
  case atomic =>
    rintro a op q scope lane p c0 c1 dst lat ⟨stores, acts, mine, primary, what⟩ n ia k new landing lands aligned team group
    have h : s.Plain tr := plain (fun b hb => by
      rw [acts, List.mem_singleton] at hb
      exact ⟨hb ▸ mine, by rw [hb, Act.plain, what]; trivial⟩) (by simp [stores])
    obtain ⟨t, run, none, none', qt, boundary, mem, pend⟩ := h.runs_atomic due stores acts mine primary what group
    have size : n = 4 ∨ n = 8 := by cases q <;> simp [n]
    have some : 0 < n := by omega
    have context := h.runs_begun
    have memory := s.begun_mem tr
    have owner : ((s.begun tr).train ((s.begun tr).team (tk a.team)).train).owner = x.owner := by
      rw [context.owner, context.train, team]
    have landed (old : Nat) (e : ((s.begun tr).rmw (teamKey tr a.team) scope p n fun old => atomicNew op (8 * n) old c0 c1).2 = old) :
        lands t old := by
      rw [e] at pend
      refine ⟨⟨run, none, none', qt, boundary⟩, fun nowhere => ?_, fun d at_d => ?_⟩
      · rw [pend, Act.landings, what, nowhere, List.append_nil]
      · rw [at_d] at what
        rw [pend, Act.landings_of_atomic what]
        rfl
    refine ⟨fun narrow tagged => ⟨t, ?_⟩, fun okay homed => ⟨t, ?_⟩⟩
    · have r := State.rmw_of_cluster (s := s.begun tr) (tk := tk a.team) (n := n) (fun old => atomicNew op (8 * n) old c0 c1) tagged narrow
      rw [context.core, context.cores, memory, State.makeOwn_of_no_laps h.begun.laps, memory] at r
      have cview := mem.trans (congrArg (fun y => y.1.mem) r)
      refine ⟨landed _ (congrArg Prod.snd r), ?_, ?_, fun i hi => ?_⟩
      · rw [cview]
        rfl
      · rw [cview]
        exact Memory.bytes_put_word _ _ _ _
      · rw [cview]
        exact Sp.get_put_marks _ _ _ _ hi
    · have page := word_page size aligned
      have ok' : (s.begun tr).pageOk x.owner (pageOf ia) = true := (context.pageOk _ _).trans okay
      obtain ⟨old, home, -, plainView, view'⟩ := State.rmw_homed (s := s.begun tr) (tk := tk a.team) (x := p) (n := n) (scope := scope)
        (fun old => atomicNew op (8 * n) old c0 c1) (homed.imp id fun w => ⟨w.1, (congrArg Mem.own memory).trans w.2⟩) h.begun.laps h.begun.queues
      have read : leNat ((s.begun tr).homeBytes x.owner ia n) = Memory.nat s.mem.home ia n := by
        rw [State.homeBytes_of_page some page ok', memory, Memory.nat]
      obtain ⟨wrote, back, away⟩ := State.homeWrite_word h.begun.laps h.begun.queues (owner := x.owner) (ia := ia) (n := n)
        (v := atomicNew op (8 * n) (Memory.nat s.mem.home ia n) c0 c1) some page ok'
      rw [owner] at old home view'
      rw [show tagAddr p = ia from rfl, read] at old home view'
      refine ⟨landed _ old, ?_, fun b hb => ?_, fun untagged => ?_, fun tagged => ?_⟩
      · rw [mem, home]
        exact wrote
      · rw [mem, home]
        exact (away b hb).trans (congrArg (fun m : Mem => m.home.byte b) memory)
      · rw [mem, plainView untagged, memory]
      · rw [mem, view' tagged, back, context.core]
        exact Memory.bytes_put_word _ _ _ _
  case fence =>
    rintro a rel acq scope ⟨stores, acts, mine, primary, what⟩ live single' own wf - - pushed
    have h : s.Plain tr := plain (fun b hb => by
      rw [acts, List.mem_singleton] at hb
      exact ⟨hb ▸ mine, by rw [hb, Act.plain, what]; trivial⟩) (by simp [stores])
    have context := h.runs_begun
    have memory := s.begun_mem tr
    have phased := h.phased_of_fence what stores acts mine primary own live single'
    have actsOf : (s.phased tr).actsOf tr = [a] :=
      State.actsOf_of_one ((State.calm_acts h.phased_calm).trans (context.acts.trans acts)) mine primary
    have after := context.of_calm h.phased_calm
    have owner : ((s.begun tr).train ((s.begun tr).team (tk a.team)).train).owner = x.owner := by
      rw [context.owner, context.train, own]
    obtain ⟨t, run, none, none', qt, boundary, mem, -, acquires⟩ := h.runs due
    obtain ⟨home, owned, -, quiet⟩ := State.waits_keeps (tr := tr) h.phased.free
    obtain ⟨grid, cview⟩ := State.fenced_keeps (tr := tr) context.laps context.queues a rel scope
    rw [← phased] at grid cview
    have before : (s.phased tr).grid.acquires = s.grid.acquires := (congrArg Grid.acquires grid).trans (s.opened_grid tr).2.2.2
    refine ⟨t, ⟨run, none, none', qt, boundary⟩, fun ia small => ?_, fun acq => ?_, fun acq norel wide r hr i hi small => ?_, fun still => ?_⟩
    · have made := State.fenced_pushes (tr := tr) context.laps context.queues (memory.symm ▸ wf) (a := a) (rel := rel) (scope := scope) small
      dsimp only at made
      rw [← phased, owner, context.core, memory, context.pageOk, context.pkg] at made
      rw [mem, home, owned]
      exact made
    · rw [acquires, State.waits_of_fence what actsOf h.phased.free acq, before, after.clk]
      rfl
    · intro k okay free'
      have same : s.phased tr = s.begun tr := phased.trans (if_neg (by simp [norel]))
      have refreshed := State.waits_refresh what actsOf h.phased.free acq wide (z := r.1 + i) (r := r) (by rw [after.desc]; exact hr)
        ⟨by omega, by omega⟩ (by rw [after.pageOk, after.owner]; exact okay) (by rw [same, memory, ← Nat.add_assoc]; exact free')
      rw [same, memory, ← Nat.add_assoc] at refreshed
      rw [mem, same]
      exact refreshed
    · have none : (s.phased tr).acquiring tr = [] := (State.acquiring_of_one what actsOf).trans (if_neg (by simp [still]))
      obtain ⟨mem', acquires'⟩ := quiet none
      exact ⟨acquires.trans (acquires'.trans before), by rw [mem, mem', cview, memory]⟩
  case count =>
    rintro a scope p n ⟨stores, acts, mine, primary, what⟩ ia k aligned team
    have h : s.Plain tr := plain (fun b hb => by
      rw [acts, List.mem_singleton] at hb
      exact ⟨hb ▸ mine, by rw [hb, Act.plain, what]⟩) (by simp [stores])
    have context := h.runs_begun
    have memory := s.begun_mem tr
    have owner : ((s.begun tr).train ((s.begun tr).team (tk a.team)).train).owner = x.owner := by
      rw [context.owner, context.train, team]
    have word (v : Nat) : leNat (leBytes 8 (v % 2 ^ 64)) = v % 2 ^ 64 := by
      rw [leNat_leBytes]
      omega
    refine ⟨fun narrow tagged => ?_, fun okay homed => ?_⟩
    · obtain ⟨t, run, none, none', qt, boundary, mem⟩ := h.runs_count due stores acts mine primary what fun wide => by omega
      have r := State.rmw_of_cluster (s := s.begun tr) (tk := tk a.team) (n := 8) (fun old => (old + n) % 2 ^ 64) tagged narrow
      rw [context.core, context.cores, memory, State.makeOwn_of_no_laps h.begun.laps, memory] at r
      have cview := mem.trans ((congrArg State.mem (State.addCount_of_narrow what narrow)).trans (congrArg (fun y => y.1.mem) r))
      refine ⟨t, ⟨run, none, none', qt, boundary⟩, ?_, ?_, fun i hi => ?_⟩
      · rw [cview]
        rfl
      · rw [cview]
        exact (congrArg leNat (Memory.bytes_put_word _ _ _ _)).trans (word _)
      · rw [cview]
        exact Sp.get_put_marks _ _ _ _ hi
    · obtain ⟨t, run, none, none', qt, boundary, mem⟩ := h.runs_count due stores acts mine primary what fun wide => by
        rcases homed with h | h
        · omega
        · exact h.2
      have page : ia % 65536 + 8 ≤ 65536 := word_page (.inr rfl) aligned
      have ok' : (s.begun tr).pageOk x.owner (pageOf ia) = true := (context.pageOk _ _).trans okay
      have read : leNat ((s.begun tr).homeBytes x.owner ia 8) = Memory.nat s.mem.home ia 8 := by
        rw [State.homeBytes_of_page (by decide) page ok', memory, Memory.nat]
      have wrote := State.homeWrite_word h.begun.laps h.begun.queues (owner := x.owner) (ia := ia) (n := 8)
        (v := (Memory.nat s.mem.home ia 8 + n) % 2 ^ 64) (by decide) page ok'
      obtain ⟨bytes, -, away⟩ := wrote
      have added : ((s.begun tr).addCount tr a).mem.home =
          ((s.begun tr).homeWrite x.owner ia (leBytes 8 ((Memory.nat s.mem.home ia 8 + n) % 2 ^ 64))).mem.home ∧
          ((s.begun tr).addCount tr a).mem.cview = (s.begun tr).mem.cview := by
        by_cases wide : 4 ≤ scope
        · rw [State.addCount_of_wide what wide, context.owner, show tagAddr p = ia from rfl, read]
          exact ⟨rfl, (State.homeWrite_writes h.begun.laps h.begun.queues).cview⟩
        · have level : tagLevel p = 0 := (homed.resolve_right fun w => wide w.1).2
          obtain ⟨-, home, -, view, -⟩ := State.rmw_homed (s := s.begun tr) (tk := tk a.team) (x := p) (n := 8) (scope := scope)
            (fun old => (old + n) % 2 ^ 64) (.inl level) h.begun.laps h.begun.queues
          rw [owner, show tagAddr p = ia from rfl, read] at home
          rw [State.addCount_of_narrow what (by omega)]
          exact ⟨home, view level⟩
      refine ⟨t, ⟨run, none, none', qt, boundary⟩, fun b hb => ?_, ?_, ?_⟩
      · rw [mem, added.1]
        exact (away b hb).trans (congrArg (fun m : Mem => m.home.byte b) memory)
      · rw [mem, added.2, memory]
      · rw [mem, added.1]
        exact (congrArg leNat bytes).trans (word _)

end Sys2Proof.Machine
end

section
/-!
SUPPORT. The one rounding of a result (R108, R112), and the encodings that it leaves unchanged (R87, R88, R90, R91).
-/

namespace Sys2Proof.Machine

/-! ### The neighbour that a mode names -/

/-- Whether a mode takes the neighbour of larger magnitude, where `rem` of `2 ^ k` is discarded below the kept integer `q` (R108, R112). -/
def Rounding.away (r : Rounding) (neg : Bool) (q rem k : Nat) : Bool :=
  match r.mode with
  | 0 => 2 ^ k < 2 * rem || (2 * rem == 2 ^ k && q % 2 == 1)
  | 1 => false
  | 2 => !neg
  | 3 => neg
  | _ => r.d < 32 * rem / 2 ^ k || (32 * rem / 2 ^ k == r.d && 32 * rem % 2 ^ k != 0)

/-- m / 2^k rounded by R108 and R112, whatever the size of the discarded part. -/
def Rounding.quotient (r : Rounding) (neg : Bool) (m k : Nat) : Nat × Bool :=
  if m % 2 ^ k = 0 then (m / 2 ^ k, false)
  else (if r.away neg (m / 2 ^ k) (m % 2 ^ k) k then m / 2 ^ k + 1 else m / 2 ^ k, true)

/-- A discarded part far below the kept bit is seen by a mode only as not zero. -/
theorem Rounding.away_of_far (r : Rounding) (neg : Bool) {m k : Nat} (pos : 0 < m) (far : 256 * m ≤ 2 ^ k) :
    r.away neg 0 m k = r.away neg 0 1 8 := by
  unfold Rounding.away
  split
  · have under : ¬ 2 ^ k < 2 * m := by omega
    simp [under]
  · rfl
  · rfl
  · rfl
  · have top : 32 * m / 2 ^ k = 0 := Nat.div_eq_of_lt (by omega)
    have below : 32 * m % 2 ^ k = 32 * m := Nat.mod_eq_of_lt (by omega)
    have inexact : (32 * m != 0) = true := bne_iff_ne.2 (by omega)
    rw [top, below, inexact]
    rfl

/-- Where the kept bit stands at most eight places above the leading one, the model discards what it is given. -/
theorem roundShift_of_near (r : Rounding) (neg : Bool) {m k : Nat} (near : ¬ Nat.log2 m + 8 < k) :
    roundShift r neg m k = r.quotient neg m k := by
  obtain ⟨_ | _ | _ | _ | mode, d, sat, e4n⟩ := r <;>
    simp only [roundShift, Rounding.quotient, Rounding.away, gt_iff_lt, near, if_false, Nat.mul_comm _ 32]

/-- Where it stands higher, the model discards 1 of 2^8 in place of any part that is not zero. -/
theorem roundShift_of_far (r : Rounding) (neg : Bool) {m k : Nat} (far : Nat.log2 m + 8 < k) :
    roundShift r neg m k = roundShift r neg (min m 1) 8 := by
  simp [roundShift, far]

/-- R108 and R112 round the two alike, which makes that replacement right. -/
theorem Rounding.quotient_of_far (r : Rounding) (neg : Bool) {m k : Nat} (far : Nat.log2 m + 8 < k) :
    r.quotient neg m k = r.quotient neg (min m 1) 8 := by
  rcases Nat.eq_zero_or_pos m with rfl | pos
  · simp [quotient]
  · have small : 256 * m ≤ 2 ^ k := calc
      256 * m ≤ 2 ^ 8 * 2 ^ (m.log2 + 1) := Nat.mul_le_mul_left _ Nat.lt_log2_self.le
      _ = 2 ^ (8 + (m.log2 + 1)) := (Nat.pow_add ..).symm
      _ ≤ 2 ^ k := Nat.pow_le_pow_right (by decide) (by omega)
    have rest : m % 2 ^ k = m := Nat.mod_eq_of_lt (by omega)
    have kept : m / 2 ^ k = 0 := Nat.div_eq_of_lt (by omega)
    have one : min m 1 = 1 := by omega
    rw [quotient, rest, kept, r.away_of_far neg pos small, if_neg pos.ne', one]
    rfl

/-- The model's rounding is that of R108 and R112, whatever the size of the discarded part. -/
theorem roundShift_eq_quotient (r : Rounding) (neg : Bool) (m k : Nat) : roundShift r neg m k = r.quotient neg m k := by
  by_cases far : Nat.log2 m + 8 < k
  · rw [roundShift_of_far r neg far, r.quotient_of_far neg far]
    exact roundShift_of_near r neg (by omega)
  · exact roundShift_of_near r neg far

/-! ### The parts of an encoding -/

/-- The sign bit of an encoding. -/
def Fmt.sign (t : Fmt) (x : Nat) : Bool := bitOf x (t.w - 1)
/-- The exponent field. -/
def Fmt.exponent (t : Fmt) (x : Nat) : Nat := bitsOf x t.f t.e
/-- The fraction field. -/
def Fmt.fraction (t : Fmt) (x : Nat) : Nat := bitsOf x 0 t.f
/-- The encoding without its sign bit. -/
def Fmt.magnitude (t : Fmt) (x : Nat) : Nat := t.exponent x * 2 ^ t.f + t.fraction x

section
variable {t : Fmt} {x : Nat}

theorem Fmt.exponent_lt : t.exponent x < 2 ^ t.e := elem_lt x t.f t.e
theorem Fmt.fraction_lt : t.fraction x < 2 ^ t.f := elem_lt x 0 t.f

/-- The value by the fields of the encoding (R87, R90, R91). -/
theorem Fmt.value_eq (t : Fmt) (x : Nat) : t.value x =
    if t.exponent x = 2 ^ t.e - 1 && t.inf then (if t.fraction x = 0 then .inf (t.sign x) else .nan)
    else if t.exponent x = 2 ^ t.e - 1 && t.nan && t.fraction x = 2 ^ t.f - 1 then .nan
    else if t.exponent x = 0 then .fin (t.sign x) (t.fraction x) (1 - (t.bias : Int) - t.f)
    else .fin (t.sign x) (2 ^ t.f + t.fraction x) ((t.exponent x : Int) - t.bias - t.f) := rfl

/-- The encoding is its sign bit, exponent field and fraction field, from high to low (R87). -/
theorem Fmt.encoding_eq (width : t.w = 1 + t.e + t.f) (fits : x < 2 ^ t.w) :
    t.signBit (t.sign x) + t.magnitude x = x := by
  have top : t.w - 1 = t.f + t.e := by omega
  have low : t.magnitude x = x % 2 ^ (t.f + t.e) := by
    rw [magnitude, exponent, fraction, bitsOf, bitsOf, pow_zero, Nat.div_one, Nat.pow_add, Nat.mod_mul, Nat.mul_comm, Nat.add_comm]
  have high : t.signBit (t.sign x) = 2 ^ (t.f + t.e) * (x / 2 ^ (t.f + t.e)) := by
    have bit : x / 2 ^ (t.f + t.e) < 2 := Nat.div_lt_of_lt_mul (by rwa [← pow_succ, ← top, show t.w - 1 + 1 = t.w by omega])
    rw [signBit, sign, bitOf, top]
    rcases Nat.le_one_iff_eq_zero_or_eq_one.1 (Nat.le_of_lt_succ bit) with h | h <;> simp [h]
  rw [low, high, Nat.div_add_mod]

/-- Encodings with a smaller exponent field lie below those with a larger one. -/
theorem Fmt.magnitude_lt {n : Nat} (below : t.exponent x < n) : t.magnitude x < n * 2 ^ t.f := calc
  t.magnitude x < (t.exponent x + 1) * 2 ^ t.f := by
    rw [magnitude, Nat.succ_mul]
    exact Nat.add_lt_add_left Fmt.fraction_lt _
  _ ≤ n * 2 ^ t.f := Nat.mul_le_mul_right _ below

/-- An encoding that is neither the infinity nor a NaN is within the largest finite magnitude (R88, R90, R91). -/
theorem Fmt.magnitude_le_maxMag (width : t.w = 1 + t.e + t.f) (finite : t.inf = true → t.exponent x ≠ 2 ^ t.e - 1)
    (number : t.nan = true → t.exponent x = 2 ^ t.e - 1 → t.fraction x ≠ 2 ^ t.f - 1) :
    t.magnitude x ≤ t.maxMag := by
  have field := t.exponent_lt (x := x)
  have part := t.fraction_lt (x := x)
  have half : 2 ^ (t.w - 1) = (2 ^ t.e - 1) * 2 ^ t.f + 2 ^ t.f := by
    rw [show t.w - 1 = t.e + t.f by omega, Nat.pow_add, ← Nat.succ_mul, Nat.succ_eq_add_one, Nat.sub_add_cancel Nat.one_le_two_pow]
  have below (h : t.exponent x ≠ 2 ^ t.e - 1) := t.magnitude_lt (x := x) (n := 2 ^ t.e - 1) (by omega)
  unfold maxMag
  split
  next h => exact Nat.le_sub_one_of_lt (below (finite h))
  next =>
    rw [half]
    by_cases top : t.exponent x = 2 ^ t.e - 1
    · rw [magnitude, top]
      split
      next h =>
        have := number h top
        omega
      next => omega
    · have := below top
      split <;> omega

/-- The value of an encoding that is no NaN: an infinity; or, within the largest finite magnitude, a zero or subnormal, or a normal value
(R87, R88, R90, R91). -/
theorem Fmt.value_cases (width : t.w = 1 + t.e + t.f) (number : t.value x ≠ .nan) :
    (t.inf = true ∧ t.exponent x = 2 ^ t.e - 1 ∧ t.fraction x = 0 ∧ t.value x = .inf (t.sign x)) ∨
    t.magnitude x ≤ t.maxMag ∧
      ((t.exponent x = 0 ∧ t.value x = .fin (t.sign x) (t.fraction x) (1 - (t.bias : Int) - t.f)) ∨
        (t.exponent x ≠ 0 ∧ t.value x = .fin (t.sign x) (2 ^ t.f + t.fraction x) ((t.exponent x : Int) - t.bias - t.f))) := by
  rw [t.value_eq] at number ⊢
  split at number
  next h =>
    obtain ⟨top, inf⟩ : t.exponent x = 2 ^ t.e - 1 ∧ t.inf = true := by simpa using h
    by_cases zero : t.fraction x = 0
    · exact .inl ⟨inf, top, zero, by simp [top, inf, zero]⟩
    · simp [zero] at number
  next finite =>
    split at number
    next => exact absurd rfl number
    next encoded =>
      refine .inr ⟨t.magnitude_le_maxMag width (fun inf top => finite (by simp [inf, top]))
        (fun nan top all => encoded (by simp [nan, top, all])), ?_⟩
      rw [if_neg finite, if_neg encoded]
      by_cases zero : t.exponent x = 0
      · exact .inl ⟨zero, if_pos zero⟩
      · exact .inr ⟨zero, if_neg zero⟩

/-! ### Representable values -/

/-- A value whose lowest place is the format's own spacing at its size is not rounded (R107). -/
theorem Fmt.round_of_spacing (r : Rounding) (neg : Bool) {m n : Nat} {e : Int} (pos : m ≠ 0)
    (spacing : max ((Nat.log2 m : Int) + e) (1 - (t.bias : Int)) - t.f = e)
    (encoded : (e + t.f + t.bias) * 2 ^ t.f + m - 2 ^ t.f = n) (within : n ≤ t.maxMag) :
    t.round r (.fin neg m e) = (t.signBit neg + n, 0) := by
  have exact : roundAt r neg m e e = (m, false) := by simp [roundAt]
  simp only [round, if_neg pos, spacing, exact, encoded, Int.toNat_natCast, gt_iff_lt, Nat.not_lt.2 within, if_false, Bool.false_eq_true]

/-- A subnormal value or a zero. -/
theorem Fmt.round_subnormal (r : Rounding) (neg : Bool) {fr : Nat} (part : fr < 2 ^ t.f) (within : fr ≤ t.maxMag) :
    t.round r (.fin neg fr (1 - (t.bias : Int) - t.f)) = (t.signBit neg + fr, 0) := by
  rcases Nat.eq_zero_or_pos fr with rfl | pos
  · simp [round]
  · have size : Nat.log2 fr < t.f := (Nat.log2_lt pos.ne').2 part
    refine Fmt.round_of_spacing r neg pos.ne' ?_ ?_ within
    · omega
    · rw [show (1 - (t.bias : Int) - t.f + t.f + t.bias) = 1 by omega]
      omega

/-- A normal value. -/
theorem Fmt.round_normal (r : Rounding) (neg : Bool) {xe fr : Nat} (normal : xe ≠ 0) (part : fr < 2 ^ t.f)
    (within : xe * 2 ^ t.f + fr ≤ t.maxMag) :
    t.round r (.fin neg (2 ^ t.f + fr) ((xe : Int) - t.bias - t.f)) = (t.signBit neg + (xe * 2 ^ t.f + fr), 0) := by
  have one : 1 ≤ 2 ^ t.f := Nat.one_le_two_pow
  have size : Nat.log2 (2 ^ t.f + fr) = t.f := (Nat.log2_eq_iff (by omega)).2 ⟨by omega, by rw [pow_succ]; omega⟩
  refine Fmt.round_of_spacing r neg (by omega) ?_ ?_ within
  · omega
  · rw [show ((xe : Int) - t.bias - t.f + t.f + t.bias) = xe by omega]
    push_cast
    omega

/-- A representable value rounds to its own encoding in every mode and raises no flag, in any format whose three fields fill its width. -/
theorem Fmt.round_value (width : t.w = 1 + t.e + t.f) (r : Rounding) (fits : x < 2 ^ t.w) (number : t.value x ≠ .nan) :
    t.round r (t.value x) = (x, 0) := by
  have whole := t.encoding_eq width fits
  have fields : t.magnitude x = t.exponent x * 2 ^ t.f + t.fraction x := rfl
  obtain ⟨inf, top, zero, value⟩ | ⟨within, ⟨zero, value⟩ | ⟨normal, value⟩⟩ := t.value_cases width number
  · rw [fields, top, zero, Nat.add_zero] at whole
    rw [value, round, if_pos inf, infinity, whole]
  · rw [fields, zero, Nat.zero_mul, Nat.zero_add] at within whole
    rw [value, Fmt.round_subnormal r _ Fmt.fraction_lt within, whole]
  · rw [fields] at within whole
    rw [value, Fmt.round_normal r _ normal Fmt.fraction_lt within, whole]

end

/-- Settles O9: the quotient by whether its discarded part lies far below the kept bit (`roundShift_eq_quotient`), the representable value by
the fields of its encoding (`Fmt.round_value`). -/
theorem roundingChoosesNeighbour : Obligations.RoundingChoosesNeighbour := by
  refine ⟨fun r neg m k => roundShift_eq_quotient r neg m k, fun t mem r x fits number => Fmt.round_value ?_ r fits number⟩
  have widths : ∀ t ∈ [fp32, bf16, fp16, e4m3, e5m2, e3m2, e2m3, e2m1], t.w = 1 + t.e + t.f := by decide
  exact widths t mem

end Sys2Proof.Machine
end

section
/-!
SUPPORT. A float instruction's results and flags land together (R84, R261).
-/

namespace Sys2Proof.Machine

/-! ### Landings -/

/-- The union over the active lanes, lane by lane. -/
theorem flagsOf_lanes (w : Nat) (m : W64) (f : Nat → Nat) :
    flagsOf w m ((List.range w).map f) = (lanesOf w m).foldl (fun acc l => orFlags acc (f l)) 0 := by
  rw [flagsOf, pick_map, List.foldl_map]

theorem State.landFlags_result (s : State) (lat f : Nat) :
    s.landFlags lat f = s.result lat (if f = 0 then [] else [.gstatSet (BitVec.ofNat 32 f)]) := by
  unfold State.landFlags
  split
  · rw [State.result_nil]
  · rw [State.later_result]

theorem State.landFloat_lanes (s : State) (h : Head) (lat dst : Nat) (f : Nat → Nat × Nat) :
    s.landFloat h lat dst ((List.range s.me.width).map f) = s.result lat (s.floatLandings h dst f) := by
  simp only [State.landFloat, List.map_map, State.landVec_lanes, flagsOf_lanes, State.landFlags_result, State.result_result]
  rfl

/-- Results that raise no flag leave GSTAT as it is. -/
theorem State.floatLandings_of_no_flags (s : State) (h : Head) (dst : Nat) (v : Nat → Nat) :
    s.floatLandings h dst (fun l => (v l, 0)) = [.vec dst (s.perLane h fun l => BitVec.ofNat 32 (v l))] := by
  have none (ls : List Nat) : ls.foldl (fun acc _ => orFlags acc 0) 0 = 0 := by
    induction ls with
    | nil => rfl
    | cons l ls ih => exact ih
  simp [State.floatLandings, State.flagLanding, none]

/-! ### The shapes of class 2 -/

section
variable {h : Head} {s : State} {dst : Nat} {srcs : List Nat}

theorem floatOp_ready (f : State → List (Nat × Nat)) (g : Nat → Nat × Nat) (lanes : f s = (List.range s.me.width).map g)
    (r : s.ready (dst :: srcs) [.vec dst]) : floatOp h dst srcs f s = .next (s.result 6 (s.floatLandings h dst g)) := by
  rw [floatOp, attempt_ready s _ _ _ r, lanes, State.landFloat_lanes]
  rfl

/-- A float instruction that rounds nothing. -/
theorem floatOp_ready_exact (f : State → List (Nat × Nat)) (v : Nat → Nat)
    (lanes : f s = (List.range s.me.width).map fun l => (v l, 0)) (r : s.ready (dst :: srcs) [.vec dst]) :
    floatOp h dst srcs f s = .next (s.result 6 [.vec dst (s.perLane h fun l => BitVec.ofNat 32 (v l))]) := by
  rw [floatOp_ready f _ lanes r, State.floatLandings_of_no_flags]

end

theorem float2_lanes (s : State) (rm : Nat) (sat : Bool) (place : Nat → Nat) (f : Bool → Val → Val → Val × Nat) (a b : Nat → W32) :
    float2 s rm sat place f ((List.range s.me.width).map a) ((List.range s.me.width).map b) = (List.range s.me.width).map fun l =>
      round32 (roundingOf s.fmt rm sat (place l)) (f (roundingOf s.fmt rm sat (place l)).down (val32 (a l)) (val32 (b l))) := by
  simp only [float2, zip_lanes, State.laned_lanes, List.map_map]
  rfl

theorem float3_lanes (s : State) (rm : Nat) (sat : Bool) (place : Nat → Nat) (a b c : Nat → W32) :
    float3 s rm sat place ((List.range s.me.width).map a) ((List.range s.me.width).map b) ((List.range s.me.width).map c) =
      (List.range s.me.width).map fun l => round32 (roundingOf s.fmt rm sat (place l))
        (fmaVal (roundingOf s.fmt rm sat (place l)).down (val32 (a l)) (val32 (b l)) (val32 (c l))) := by
  simp only [float3, zip_lanes, State.laned_lanes, List.map_map]
  rfl

/-! ### Sums, products and scaled values (R114, R115, R261, R263) -/

theorem arith2_ready (h : Head) (o : F2) (f : Bool → Val → Val → Val × Nat) (s : State)
    (r : s.ready (o.dst :: o.sa :: o.b.vregs) [.vec o.dst]) :
    arith2 h o f s = .next (s.result 6 (s.floatLandings h o.dst fun l =>
      round32 (roundingOf s.fmt o.rm o.sat (l % 32))
        (f (roundingOf s.fmt o.rm o.sat (l % 32)).down (val32 (s.v o.sa l)) (val32 (o.b.lane s l))))) := by
  refine floatOp_ready _ _ ?_ r
  rw [Group.vec_eq, VSrc.vec_lanes, float2_lanes]
  rfl

theorem execFma_ready (h : Head) (o : F3) (s : State) (r : s.ready [o.dst, o.sa, o.sb, o.sc] [.vec o.dst]) :
    execFma h o s = .next (s.result 6 (s.floatLandings h o.dst fun l =>
      round32 (roundingOf s.fmt o.rm o.sat (l % 32)) (fmaVal (roundingOf s.fmt o.rm o.sat (l % 32)).down
        (val32 (s.v o.sa l)) (val32 (s.v o.sb l)) (val32 (s.v o.sc l))))) := by
  refine floatOp_ready _ _ ?_ r
  rw [Group.vec_eq, Group.vec_eq, Group.vec_eq, float3_lanes]
  rfl

theorem execFscale_ready (h : Head) (o : F2) (s : State) (r : s.ready (o.dst :: o.sa :: o.b.vregs) [.vec o.dst]) :
    execFscale h o s = .next (s.result 6 (s.floatLandings h o.dst fun l =>
      fp32.round (roundingOf s.fmt o.rm o.sat (l % 32)) ((val32 (s.v o.sa l)).scale (o.b.lane s l).toInt))) := by
  refine floatOp_ready _ _ ?_ r
  simp only [Group.vec_eq, VSrc.vec_lanes, zip_lanes, State.laned_lanes, List.map_map]
  rfl

theorem execFdot2_ready (h : Head) (half : Bool) (o : F3) (s : State) (r : s.ready [o.dst, o.sa, o.sb, o.sc] [.vec o.dst]) :
    execFdot2 h half o s = .next (s.result 6 (s.floatLandings h o.dst fun l =>
      round32 (roundingOf s.fmt o.rm o.sat (l % 32))
        (dot2Val (roundingOf s.fmt o.rm o.sat (l % 32)).down half (s.v o.sa l) (s.v o.sb l) (s.v o.sc l)))) := by
  refine floatOp_ready _ _ ?_ r
  simp only [Group.vec_eq, zip_lanes, State.laned_lanes, List.map_map]
  rfl

end Sys2Proof.Machine
end

section
/-!
SUPPORT. The encodings of binary32: their values (R87, R90) and their classes (R264).
-/

namespace Sys2Proof.Machine

section
variable {x y : Nat}

/-! ### The value of an encoding -/

theorem fp32_sign (fits : x < 2 ^ 32) : fp32.sign x = decide (2 ^ 31 ≤ x) := by
  have bit : x / 2 ^ 31 % 2 = 1 ↔ 2 ^ 31 ≤ x := by omega
  simp only [Fmt.sign, fp32, bitOf, beq_eq_decide, bit]

/-- R87 and R90 for binary32, by the exponent field and the fraction field. -/
theorem fp32_value (fits : x < 2 ^ 32) : fp32.value x =
    if x / 2 ^ 23 % 2 ^ 8 = 255 then (if x % 2 ^ 23 = 0 then .inf (decide (2 ^ 31 ≤ x)) else .nan)
    else if x / 2 ^ 23 % 2 ^ 8 = 0 then .fin (decide (2 ^ 31 ≤ x)) (x % 2 ^ 23) (-149)
    else .fin (decide (2 ^ 31 ≤ x)) (2 ^ 23 + x % 2 ^ 23) ((x / 2 ^ 23 % 2 ^ 8 : Nat) - 150) := by
  have exponent : fp32.exponent x = x / 2 ^ 23 % 2 ^ 8 := rfl
  have fraction : fp32.fraction x = x % 2 ^ 23 := by rw [Fmt.fraction, bitsOf, pow_zero, Nat.div_one]; rfl
  have scale (e : Nat) : (e : Int) - fp32.bias - fp32.f = e - 150 := Int.sub_sub e 127 23
  have top : 2 ^ fp32.e - 1 = 255 := rfl
  rw [Fmt.value_eq, fp32_sign fits, exponent, fraction, scale, top]
  by_cases special : x / 2 ^ 23 % 2 ^ 8 = 255
  · simp only [special, decide_true, if_true]
    rfl
  · simp only [special, decide_false, Bool.false_and, Bool.false_eq_true, if_false]
    rfl

/-- NaNs lie above the infinity's magnitude, and the finite numbers below it. -/
theorem fp32_value_cases (fits : x < 2 ^ 32) :
    (nanBits x = true ∧ fp32.value x = .nan) ∨
    nanBits x = false ∧
      ((x % 2 ^ 31 = 0x7F800000 ∧ fp32.value x = .inf (decide (2 ^ 31 ≤ x))) ∨
       (x % 2 ^ 31 < 2 ^ 23 ∧ fp32.value x = .fin (decide (2 ^ 31 ≤ x)) (x % 2 ^ 31) (-149)) ∨
       (2 ^ 23 ≤ x % 2 ^ 31 ∧ x % 2 ^ 31 < 0x7F800000 ∧
        fp32.value x = .fin (decide (2 ^ 31 ≤ x)) (2 ^ 23 + x % 2 ^ 23) ((x / 2 ^ 23 % 2 ^ 8 : Nat) - 150))) := by
  have value := fp32_value fits
  simp only [nanBits, decide_eq_true_eq, decide_eq_false_iff_not]
  split at value
  next top =>
    split at value
    next => exact .inr ⟨by omega, .inl ⟨by omega, value⟩⟩
    next => exact .inl ⟨by omega, value⟩
  next finite =>
    split at value
    next =>
      have low : x % 2 ^ 23 = x % 2 ^ 31 := by omega
      exact .inr ⟨by omega, .inr (.inl ⟨by omega, low ▸ value⟩)⟩
    next => exact .inr ⟨by omega, .inr (.inr ⟨by omega, by omega, value⟩)⟩

theorem fp32_value_isNan (fits : x < 2 ^ 32) : (fp32.value x).isNan = nanBits x := by
  obtain ⟨nan, value⟩ | ⟨number, ⟨-, value⟩ | ⟨-, value⟩ | ⟨-, -, value⟩⟩ := fp32_value_cases fits <;> rw [value]
  · exact nan.symm
  all_goals exact number.symm

theorem fp32_value_sign (fits : x < 2 ^ 32) (number : nanBits x = false) : (fp32.value x).sign = decide (2 ^ 31 ≤ x) := by
  obtain ⟨nan, -⟩ | ⟨-, ⟨-, value⟩ | ⟨-, value⟩ | ⟨-, -, value⟩⟩ := fp32_value_cases fits
  · simp [number] at nan
  all_goals rw [value]; rfl

theorem Val.isNan_iff (v : Val) : v.isNan = true ↔ v = .nan := by cases v <;> simp [isNan]

/-! ### Classes (R264) -/

theorem classOf_eq (fits : x < 2 ^ 32) : classOf x =
    let mag := x % 2 ^ 31
    let row := if mag = 0x7F800000 then 0 else if 2 ^ 23 ≤ mag then 1 else if mag ≠ 0 then 2 else 3
    2 ^ if nanBits x then 8 else if 2 ^ 31 ≤ x then row else 7 - row := by
  have exponent : bitsOf x 23 8 = x / 2 ^ 23 % 2 ^ 8 := rfl
  obtain ⟨nan, value⟩ | ⟨number, ⟨inf, value⟩ | ⟨small, value⟩ | ⟨normal, below, value⟩⟩ := fp32_value_cases fits <;>
    rw [classOf, value]
  · simp [nan]
  · by_cases neg : 2 ^ 31 ≤ x <;> simp [-Nat.reducePow, number, inf, neg]
  · have low : x / 2 ^ 23 % 2 ^ 8 = 0 := by omega
    have finite : x % 2 ^ 31 ≠ 0x7F800000 := by omega
    by_cases zero : x % 2 ^ 31 = 0 <;> by_cases neg : 2 ^ 31 ≤ x <;>
      simp [-Nat.reducePow, number, finite, exponent, low, zero, small.not_ge, neg]
  · have high : x / 2 ^ 23 % 2 ^ 8 ≠ 0 := by omega
    by_cases neg : 2 ^ 31 ≤ x <;> simp [-Nat.reducePow, number, below.ne, exponent, high, normal, neg]

end

end Sys2Proof.Machine
end

section
/-!
SUPPORT. The order of binary32 numbers (R116, R264).
-/

namespace Sys2Proof.Machine

/-- The magnitude of an encoding that is no NaN in units of 2^-149, with an infinity as the next power of two. -/
def unitsOf (mag : Nat) : Nat := if mag / 2 ^ 23 = 0 then mag else (2 ^ 23 + mag % 2 ^ 23) * 2 ^ (mag / 2 ^ 23 - 1)

/-- Larger encodings have larger magnitudes. -/
theorem unitsOf_strictMono : StrictMono unitsOf := by
  refine strictMono_nat_of_lt_succ fun n => ?_
  have part : n % 2 ^ 23 < 2 ^ 23 := Nat.mod_lt _ (by decide)
  unfold unitsOf
  by_cases carry : n % 2 ^ 23 = 2 ^ 23 - 1
  · have next : (n + 1) / 2 ^ 23 = n / 2 ^ 23 + 1 := by omega
    have zero : (n + 1) % 2 ^ 23 = 0 := by omega
    rw [next, zero, if_neg (Nat.succ_ne_zero _), Nat.add_sub_cancel]
    split
    next low => rw [low]; omega
    next normal => calc
      (2 ^ 23 + n % 2 ^ 23) * 2 ^ (n / 2 ^ 23 - 1) < 2 ^ 23 * 2 * 2 ^ (n / 2 ^ 23 - 1) :=
        Nat.mul_lt_mul_of_pos_right (by omega) (Nat.two_pow_pos _)
      _ = (2 ^ 23 + 0) * 2 ^ (n / 2 ^ 23) := by
        rw [Nat.add_zero, Nat.mul_assoc, ← Nat.pow_succ', Nat.succ_eq_add_one, Nat.sub_add_cancel (Nat.one_le_iff_ne_zero.2 normal)]
  · have same : (n + 1) / 2 ^ 23 = n / 2 ^ 23 := by omega
    have next : (n + 1) % 2 ^ 23 = n % 2 ^ 23 + 1 := by omega
    rw [same, next]
    split
    next => exact n.lt_succ_self
    next => exact Nat.mul_lt_mul_of_pos_right (Nat.lt_succ_self _) (Nat.two_pow_pos _)

/-- A magnitude with a sign. -/
def withSign (neg : Bool) (n : Nat) : Int := if neg then -n else n

@[simp] theorem withSign_true (n : Nat) : withSign true n = -n := rfl
@[simp] theorem withSign_false (n : Nat) : withSign false n = n := rfl

theorem withSign_mul (neg : Bool) (m n : Nat) : withSign neg m * n = withSign neg (m * n) := by
  cases neg <;> simp

theorem withSign_true_lt {m n : Nat} (neg : Bool) (less : m < n) : withSign true n < withSign neg m := by
  cases neg <;> simp only [withSign_true, withSign_false] <;> omega

theorem lt_withSign_false {m n : Nat} (neg : Bool) (less : m < n) : withSign neg m < withSign false n := by
  cases neg <;> simp only [withSign_true, withSign_false] <;> omega

theorem Val.atExp_fin (neg : Bool) (m : Nat) (e f : Int) : (Val.fin neg m f).atExp e = withSign neg (m * 2 ^ (f - e).toNat) := rfl

/-- Two finite values compare as the multiples of 2^c that they are. -/
theorem cmpVal_fin (s t : Bool) (m n i j : Nat) (c : Int) :
    cmpVal (.fin s m (i + c)) (.fin t n (j + c)) = compare (withSign s (m * 2 ^ i)) (withSign t (n * 2 ^ j)) := by
  have least : minExp [.fin s m (i + c), .fin t n (j + c)] (anyExp [.fin s m (i + c), .fin t n (j + c)]) = (min i j : Nat) + c := by
    simp only [minExp, anyExp]
    omega
  have units (neg : Bool) (p k : Nat) (le : min i j ≤ k) :
      (Val.fin neg p (k + c)).atExp ((min i j : Nat) + c) * (2 ^ min i j : Nat) = withSign neg (p * 2 ^ k) := by
    have shift : ((k : Int) + c - ((min i j : Nat) + c)).toNat = k - min i j := by omega
    rw [Val.atExp_fin, withSign_mul, shift, Nat.mul_assoc, ← Nat.pow_add, Nat.sub_add_cancel le]
  have mono : StrictMono fun z : Int => z * (2 ^ min i j : Nat) := fun _ _ less =>
    Int.mul_lt_mul_of_pos_right less (Int.natCast_pos.2 (Nat.two_pow_pos _))
  calc cmpVal (.fin s m (i + c)) (.fin t n (j + c))
      = compare ((Val.fin s m (i + c)).atExp ((min i j : Nat) + c)) ((Val.fin t n (j + c)).atExp ((min i j : Nat) + c)) := by
        rw [← least]; rfl
    _ = compare (withSign s (m * 2 ^ i)) (withSign t (n * 2 ^ j)) := by
        rw [← cmp_eq_compare, ← mono.cmp_map_eq, units _ _ _ (min_le_left _ _), units _ _ _ (min_le_right _ _), cmp_eq_compare]

section
variable {x y : Nat}

/-- A number is an infinity, or its units times 2^-149. -/
theorem fp32_value_units (fits : x < 2 ^ 32) (number : nanBits x = false) :
    (x % 2 ^ 31 = 0x7F800000 ∧ fp32.value x = .inf (decide (2 ^ 31 ≤ x))) ∨
    x % 2 ^ 31 < 0x7F800000 ∧
      ∃ m i : Nat, fp32.value x = .fin (decide (2 ^ 31 ≤ x)) m (i + -149) ∧ m * 2 ^ i = unitsOf (x % 2 ^ 31) := by
  obtain ⟨nan, -⟩ | ⟨-, inf | ⟨small, value⟩ | ⟨normal, below, value⟩⟩ := fp32_value_cases fits
  · simp [number] at nan
  · exact .inl inf
  · refine .inr ⟨by omega, x % 2 ^ 31, 0, value, ?_⟩
    rw [unitsOf, if_pos (by omega), pow_zero, Nat.mul_one]
  · have exponent : x % 2 ^ 31 / 2 ^ 23 = x / 2 ^ 23 % 2 ^ 8 := by omega
    have fraction : x % 2 ^ 31 % 2 ^ 23 = x % 2 ^ 23 := by omega
    refine .inr ⟨below, 2 ^ 23 + x % 2 ^ 23, x / 2 ^ 23 % 2 ^ 8 - 1, ?_, ?_⟩
    · rw [value]
      congr 1
      omega
    · rw [unitsOf, exponent, fraction, if_neg (by omega)]

/-- Numbers compare as their units; an infinity is beyond every finite number (R264). -/
theorem cmpVal_units (fitsX : x < 2 ^ 32) (fitsY : y < 2 ^ 32) (numberX : nanBits x = false) (numberY : nanBits y = false) :
    cmpVal (fp32.value x) (fp32.value y) =
      compare (withSign (decide (2 ^ 31 ≤ x)) (unitsOf (x % 2 ^ 31))) (withSign (decide (2 ^ 31 ≤ y)) (unitsOf (y % 2 ^ 31))) := by
  have beyond {a : Nat} (finite : a < 0x7F800000) : unitsOf a < unitsOf 0x7F800000 := unitsOf_strictMono finite
  obtain ⟨infX, valueX⟩ | ⟨finiteX, m, i, valueX, unitsX⟩ := fp32_value_units fitsX numberX <;>
    obtain ⟨infY, valueY⟩ | ⟨finiteY, n, j, valueY, unitsY⟩ := fp32_value_units fitsY numberY <;> rw [valueX, valueY]
  · have pos : 0 < unitsOf 0x7F800000 := beyond (a := 0) (by decide)
    rw [infX, infY]
    cases decide (2 ^ 31 ≤ x) <;> cases decide (2 ^ 31 ≤ y)
    · exact (compare_eq_iff_eq.2 rfl).symm
    · exact (compare_gt_iff_gt.2 (by simp only [withSign_true, withSign_false]; omega)).symm
    · exact (compare_lt_iff_lt.2 (by simp only [withSign_true, withSign_false]; omega)).symm
    · exact (compare_eq_iff_eq.2 rfl).symm
  · rw [infX]
    cases decide (2 ^ 31 ≤ x)
    · exact (compare_gt_iff_gt.2 (lt_withSign_false _ (beyond finiteY))).symm
    · exact (compare_lt_iff_lt.2 (withSign_true_lt _ (beyond finiteY))).symm
  · rw [infY]
    cases decide (2 ^ 31 ≤ y)
    · exact (compare_lt_iff_lt.2 (lt_withSign_false _ (beyond finiteX))).symm
    · exact (compare_gt_iff_gt.2 (withSign_true_lt _ (beyond finiteX))).symm
  · rw [cmpVal_fin, unitsX, unitsY]

theorem numberOrder_of_neg (fits : x < 2 ^ 32) (neg : 2 ^ 31 ≤ x) : numberOrder x = -1 - (x % 2 ^ 31 : Nat) := by
  rw [numberOrder, if_neg neg.not_gt]
  omega

theorem numberOrder_of_pos (pos : ¬ 2 ^ 31 ≤ x) : numberOrder x = (x % 2 ^ 31 : Nat) := by
  rw [numberOrder, if_pos (not_le.1 pos)]
  omega

theorem numberOrder_inj (fitsX : x < 2 ^ 32) (fitsY : y < 2 ^ 32) (same : numberOrder x = numberOrder y) : x = y := by
  unfold numberOrder at same
  omega

/-- R116 orders the numbers as R264 does, with -0 below +0. -/
theorem numberOrder_lt_iff (fitsX : x < 2 ^ 32) (fitsY : y < 2 ^ 32) (numberX : nanBits x = false) (numberY : nanBits y = false) :
    numberOrder x < numberOrder y ↔ cmpVal (fp32.value x) (fp32.value y) = .lt ∨
      cmpVal (fp32.value x) (fp32.value y) = .eq ∧ 2 ^ 31 ≤ x ∧ ¬ 2 ^ 31 ≤ y := by
  have less := unitsOf_strictMono.lt_iff_lt (a := x % 2 ^ 31) (b := y % 2 ^ 31)
  have greater := unitsOf_strictMono.lt_iff_lt (a := y % 2 ^ 31) (b := x % 2 ^ 31)
  rw [cmpVal_units fitsX fitsY numberX numberY, compare_lt_iff_lt, compare_eq_iff_eq]
  by_cases negX : 2 ^ 31 ≤ x <;> by_cases negY : 2 ^ 31 ≤ y
  · rw [numberOrder_of_neg fitsX negX, numberOrder_of_neg fitsY negY, decide_eq_true negX, decide_eq_true negY, withSign_true, withSign_true]
    omega
  · rw [numberOrder_of_neg fitsX negX, numberOrder_of_pos negY, decide_eq_true negX, decide_eq_false negY, withSign_true, withSign_false]
    omega
  · rw [numberOrder_of_pos negX, numberOrder_of_neg fitsY negY, decide_eq_false negX, decide_eq_true negY, withSign_true, withSign_false]
    omega
  · rw [numberOrder_of_pos negX, numberOrder_of_pos negY, decide_eq_false negX, decide_eq_false negY, withSign_false, withSign_false]
    omega

/-- The choice of R116 by one comparison of the two numbers; where neither is smaller they are one encoding. -/
theorem chosenNumber_of_less (wantMax less : Bool) (fitsX : x < 2 ^ 32) (fitsY : y < 2 ^ 32) (numberX : nanBits x = false)
    (numberY : nanBits y = false) (order : numberOrder x < numberOrder y ↔ less = true) :
    chosenNumber wantMax x y = if less == wantMax then y else x := by
  have same := numberOrder_inj fitsX fitsY
  rw [chosenNumber, numberX, numberY]
  cases wantMax <;> cases less <;> simp only [Bool.false_eq_true, iff_false, iff_true] at order
  case true.true | true.false => simp [order]
  case false.true => simp [order.le]
  case false.false =>
    rcases (not_lt.1 order).lt_or_eq with less | equal
    · simp [less]
    · simp [same equal.symm]

/-- FMIN and FMAX take the smaller and the larger number (R116). -/
theorem minMax_eq (wantMax : Bool) (fitsX : x < 2 ^ 32) (fitsY : y < 2 ^ 32) : minMax wantMax x y = chosenNumber wantMax x y := by
  rw [minMax, fp32_value_isNan fitsX, fp32_value_isNan fitsY]
  cases numberX : nanBits x
  case true => simp [chosenNumber, numberX]; rfl
  cases numberY : nanBits y
  case true => simp [chosenNumber, numberX, numberY]
  refine (chosenNumber_of_less wantMax _ fitsX fitsY numberX numberY ?_).symm
  rw [numberOrder_lt_iff fitsX fitsY numberX numberY, fp32_value_sign fitsX numberX, fp32_value_sign fitsY numberY]
  cases cmpVal (fp32.value x) (fp32.value y) <;> simp

end

end Sys2Proof.Machine
end

section
/-!
SUPPORT. A binary32 number rounded to an integral value (FRND, R261).
-/

namespace Sys2Proof.Machine

/-- A value is encoded without a flag where it is a multiple of the format's spacing at its size (R107). -/
theorem Fmt.round_of_exact {t : Fmt} (r : Rounding) (neg : Bool) {m k n : Nat} {e q : Int} (pos : m ≠ 0)
    (spacing : max ((Nat.log2 m : Int) + e) (1 - (t.bias : Int)) - t.f = q) (exact : roundAt r neg m e q = (k, false))
    (encoded : (q + t.f + t.bias) * 2 ^ t.f + k - 2 ^ t.f = n) (within : n ≤ t.maxMag) :
    t.round r (.fin neg m e) = (t.signBit neg + n, 0) := by
  simp only [round, if_neg pos, spacing, exact, encoded, Int.toNat_natCast, gt_iff_lt, Nat.not_lt.2 within, if_false, Bool.false_eq_true]

/-- A multiple of 2^k is not rounded at the place k. -/
theorem roundAt_of_multiple (r : Rounding) (neg : Bool) (m k : Nat) : roundAt r neg (m * 2 ^ k) 0 k = (m, false) := by
  unfold roundAt
  split
  next low =>
    obtain rfl : k = 0 := by omega
    simp
  next =>
    have pos := Nat.two_pow_pos k
    rw [Int.sub_zero, Int.toNat_natCast, roundShift_eq_quotient, Rounding.quotient, if_pos (Nat.mul_mod_left ..), Nat.mul_div_cancel _ pos]

theorem roundShift_le (r : Rounding) (neg : Bool) (m k : Nat) : (roundShift r neg m k).1 ≤ m / 2 ^ k + 1 := by
  rw [roundShift_eq_quotient, Rounding.quotient]
  split
  · exact Nat.le_succ _
  · split <;> simp

theorem fp32_maxMag : fp32.maxMag = 255 * 2 ^ 23 - 1 := rfl

/-- A normal binary32 number of at least 2^23 is an integer and is encoded again as it was. -/
theorem fp32_round_integer (r : Rounding) (neg : Bool) {m k : Nat} (normal : 2 ^ 23 ≤ m) (part : m < 2 ^ 24) (finite : k < 105) :
    fp32.round r (.fin neg (m * 2 ^ k) 0) = (fp32.signBit neg + ((k + 149) * 2 ^ 23 + m), 0) := by
  have size : Nat.log2 (m * 2 ^ k) = 23 + k := by
    rw [Nat.log2_eq_iff (Nat.mul_ne_zero (by omega) (Nat.two_pow_pos k).ne'), Nat.pow_add, show 23 + k + 1 = 24 + k by omega, Nat.pow_add]
    exact ⟨Nat.mul_le_mul_right _ normal, Nat.mul_lt_mul_of_pos_right part (Nat.two_pow_pos k)⟩
  refine Fmt.round_of_exact r neg (q := k) (Nat.mul_ne_zero (by omega) (Nat.two_pow_pos k).ne') ?_ (roundAt_of_multiple r neg m k) ?_ ?_
  · rw [size]
    simp only [fp32]
    omega
  · simp only [fp32]
    omega
  · rw [fp32_maxMag]
    omega

/-- The binary32 encoding of an integer of at most 24 bits, without a sign. -/
def integerBits (n : Nat) : Nat := if n = 0 then 0 else (Nat.log2 n + 126) * 2 ^ 23 + n * 2 ^ (23 - Nat.log2 n)

theorem fp32_round_natural (r : Rounding) (neg : Bool) {n : Nat} (small : n < 2 ^ 24) :
    fp32.round r (.fin neg n 0) = (fp32.signBit neg + integerBits n, 0) := by
  by_cases zero : n = 0
  · subst zero
    rfl
  have top : Nat.log2 n < 24 := (Nat.log2_lt zero).2 small
  have part : n * 2 ^ (23 - Nat.log2 n) < 2 ^ 24 := calc
    n * 2 ^ (23 - Nat.log2 n) < 2 ^ (Nat.log2 n + 1) * 2 ^ (23 - Nat.log2 n) :=
      Nat.mul_lt_mul_of_pos_right Nat.lt_log2_self (Nat.two_pow_pos _)
    _ = 2 ^ 24 := by rw [← Nat.pow_add]; congr 1; omega
  have exact : roundAt r neg n 0 (Nat.log2 n - 23) = (n * 2 ^ (23 - Nat.log2 n), false) := by
    have shift : ((0 : Int) - (Nat.log2 n - 23)).toNat = 23 - Nat.log2 n := by omega
    rw [roundAt, if_pos (by omega), shift]
  rw [integerBits, if_neg zero]
  refine Fmt.round_of_exact r neg zero ?_ exact ?_ ?_
  · simp only [fp32]
    omega
  · simp only [fp32]
    omega
  · rw [fp32_maxMag]
    omega

section
variable {x : Nat}

theorem fp32_signBit (fits : x < 2 ^ 32) : fp32.signBit (decide (2 ^ 31 ≤ x)) = x / 2 ^ 31 * 2 ^ 31 := by
  have width : fp32.w - 1 = 31 := rfl
  rw [Fmt.signBit, width]
  by_cases neg : 2 ^ 31 ≤ x
  · rw [decide_eq_true neg, if_pos rfl]
    omega
  · rw [decide_eq_false neg, if_neg Bool.false_ne_true]
    omega

/-- The value below 2^23, as a fraction of a power of two. -/
theorem fp32_value_below (fits : x < 2 ^ 32) (below : x / 2 ^ 23 % 2 ^ 8 < 150) :
    fp32.value x = .fin (decide (2 ^ 31 ≤ x)) (x % 2 ^ 23 + if x / 2 ^ 23 % 2 ^ 8 = 0 then 0 else 2 ^ 23)
      (-(150 - max (x / 2 ^ 23 % 2 ^ 8) 1 : Nat)) := by
  rw [fp32_value fits, if_neg (by omega)]
  split
  next zero => rw [zero]; rfl
  next normal =>
    rw [Nat.add_comm]
    congr 1
    omega

/-- The integer that a rounding chooses for the magnitude of a number below 2^23, and whether it differs from it. -/
def chosenInteger (r : Rounding) (x : Nat) : Nat × Bool :=
  roundShift r (decide (2 ^ 31 ≤ x)) (x % 2 ^ 23 + if x / 2 ^ 23 % 2 ^ 8 = 0 then 0 else 2 ^ 23) (150 - max (x / 2 ^ 23 % 2 ^ 8) 1)

theorem chosenInteger_lt (r : Rounding) (below : x / 2 ^ 23 % 2 ^ 8 < 150) : (chosenInteger r x).1 < 2 ^ 24 := by
  have shift : 1 ≤ 150 - max (x / 2 ^ 23 % 2 ^ 8) 1 := by omega
  have part : x % 2 ^ 23 + (if x / 2 ^ 23 % 2 ^ 8 = 0 then 0 else 2 ^ 23) < 2 ^ 24 := by split <;> omega
  calc (chosenInteger r x).1
      ≤ (x % 2 ^ 23 + if x / 2 ^ 23 % 2 ^ 8 = 0 then 0 else 2 ^ 23) / 2 ^ (150 - max (x / 2 ^ 23 % 2 ^ 8) 1) + 1 := roundShift_le ..
    _ ≤ (x % 2 ^ 23 + if x / 2 ^ 23 % 2 ^ 8 = 0 then 0 else 2 ^ 23) / 2 ^ 1 + 1 :=
      Nat.succ_le_succ (Nat.div_le_div_left (Nat.pow_le_pow_right (by decide) shift) (by decide))
    _ < 2 ^ 24 := by omega

/-- FRND below 2^23 encodes that integer, which has at most 24 bits. -/
theorem rndIntegral_of_below (r : Rounding) (fits : x < 2 ^ 32) (below : x / 2 ^ 23 % 2 ^ 8 < 150) :
    rndIntegral r x = (x / 2 ^ 31 * 2 ^ 31 + integerBits (chosenInteger r x).1, if (chosenInteger r x).2 then flagNX else 0) := by
  have rounded : roundAt r (decide (2 ^ 31 ≤ x)) (x % 2 ^ 23 + if x / 2 ^ 23 % 2 ^ 8 = 0 then 0 else 2 ^ 23)
      (-(150 - max (x / 2 ^ 23 % 2 ^ 8) 1 : Nat)) 0 = chosenInteger r x := by
    rw [roundAt, if_neg (by omega), Int.sub_neg, Int.zero_add, Int.toNat_natCast]
    rfl
  rw [rndIntegral, fp32_value_below fits below]
  simp only [rounded, fp32_round_natural rne _ (chosenInteger_lt r below), fp32_signBit fits]

/-- FRND leaves an integer as it is. -/
theorem rndIntegral_of_integer (r : Rounding) (fits : x < 2 ^ 32) (number : nanBits x = false) (integer : 150 ≤ x / 2 ^ 23 % 2 ^ 8) :
    rndIntegral r x = (x, 0) := by
  obtain ⟨nan, -⟩ | ⟨-, ⟨inf, value⟩ | ⟨small, -⟩ | ⟨normal, below, value⟩⟩ := fp32_value_cases fits
  · simp [number] at nan
  · have top : fp32.infinity (decide (2 ^ 31 ≤ x)) = x := by
      rw [Fmt.infinity, fp32_signBit fits]
      simp only [fp32]
      omega
    simp only [rndIntegral, value, top]
  · omega
  · have exact : roundAt r (decide (2 ^ 31 ≤ x)) (2 ^ 23 + x % 2 ^ 23) ((x / 2 ^ 23 % 2 ^ 8 : Nat) - 150) 0 =
        ((2 ^ 23 + x % 2 ^ 23) * 2 ^ (x / 2 ^ 23 % 2 ^ 8 - 150), false) := by
      have shift : (((x / 2 ^ 23 % 2 ^ 8 : Nat) : Int) - 150 - 0).toNat = x / 2 ^ 23 % 2 ^ 8 - 150 := by omega
      rw [roundAt, if_pos (by omega), shift]
    simp only [rndIntegral, value, exact]
    rw [fp32_round_integer rne _ (by omega) (by omega) (by omega), fp32_signBit fits, Prod.mk.injEq]
    exact ⟨by omega, rfl⟩

/-- FRND (R261). -/
theorem rndIntegral_eq (r : Rounding) (fits : x < 2 ^ 32) : rndIntegral r x =
    if nanBits x then (0x7FC00000, 0)
    else if 150 ≤ x / 2 ^ 23 % 2 ^ 8 then (x, 0)
    else (x / 2 ^ 31 * 2 ^ 31 + integerBits (chosenInteger r x).1, if (chosenInteger r x).2 then flagNX else 0) := by
  split
  next nan =>
    have value : fp32.value x = .nan := (Val.isNan_iff _).1 ((fp32_value_isNan fits).trans nan)
    rw [rndIntegral, value]
    rfl
  next number =>
    split
    next integer => exact rndIntegral_of_integer r fits (eq_false_of_ne_true number) integer
    next below => exact rndIntegral_of_below r fits (not_le.1 below)

end

end Sys2Proof.Machine
end

section
/-!
SUPPORT. The binary32 lane operations (R261, R264).
-/

namespace Sys2Proof.Machine

theorem execFrnd_ready (h : Head) (o : F1) (s : State) (r : s.ready [o.dst, o.sa] [.vec o.dst]) :
    execFrnd h o s = .next (s.result 6 (s.floatLandings h o.dst fun l =>
      rndIntegral (roundingOf s.fmt o.rm false (l % 32)) (s.v o.sa l).toNat)) := by
  refine floatOp_ready _ _ ?_ r
  rw [Group.vec_eq, State.laned_lanes, List.map_map]
  rfl

theorem minMaxOp_ready (h : Head) (o : F2) (wantMax : Bool) (s : State) (r : s.ready (o.dst :: o.sa :: o.b.vregs) [.vec o.dst]) :
    minMaxOp h o wantMax s = .next (s.result 6 [.vec o.dst (s.perLane h fun l =>
      BitVec.ofNat 32 (chosenNumber wantMax (s.v o.sa l).toNat (o.b.lane s l).toNat))]) := by
  refine floatOp_ready_exact _ _ ?_ r
  rw [Group.vec_eq, VSrc.vec_lanes, zip_lanes, List.map_map]
  exact List.map_congr_left fun l _ => congrArg (·, 0) (minMax_eq wantMax (s.v o.sa l).isLt (o.b.lane s l).isLt)

theorem execFabs_ready (h : Head) (neg : Bool) (dst sa : Nat) (s : State) (r : s.ready [dst, sa] [.vec dst]) :
    execFabs h neg dst sa s = .next (s.result 6 [.vec dst (s.perLane h fun l =>
      let x := s.v sa l
      if val32 x = .nan then 0x7FC00000 else if neg then x ^^^ 0x80000000 else x &&& 0x7FFFFFFF)]) := by
  have lane (x : W32) : BitVec.ofNat 32 (if (val32 x).isNan then fp32.canon
        else if neg then (x ^^^ 0x80000000).toNat else (x &&& 0x7FFFFFFF).toNat) =
      if val32 x = .nan then 0x7FC00000 else if neg then x ^^^ 0x80000000 else x &&& 0x7FFFFFFF := by
    simp only [Val.isNan_iff, apply_ite (BitVec.ofNat 32), BitVec.ofNat_toNat, BitVec.setWidth_eq]
    rfl
  simp only [← lane]
  refine floatOp_ready_exact _ _ ?_ r
  rw [Group.vec_eq, List.map_map]
  rfl

theorem execFclass_ready (h : Head) (dst sa : Nat) (s : State) (r : s.ready [dst, sa] [.vec dst]) :
    execFclass h dst sa s = .next (s.result 6 [.vec dst (s.perLane h fun l => BitVec.ofNat 32 (classOf (s.v sa l).toNat))]) := by
  refine floatOp_ready_exact _ _ ?_ r
  rw [Group.vec_eq, List.map_map]
  rfl

theorem dot2Val_eq (down half : Bool) (a b c : W32) : dot2Val down half a b c =
    let el (x : W32) (j : Nat) : Val := (if half then fp16 else bf16).value (x.toNat / 2 ^ (16 * j) % 2 ^ 16)
    let p0 := mulVal (el a 0) (el b 0)
    let p1 := mulVal (el a 1) (el b 1)
    if p0.2 ≠ 0 ∨ p1.2 ≠ 0 then (.nan, flagNV) else sumVals down [p0.1, p1.1, val32 c] := by
  simp only [dot2Val, bitsOf, Bool.or_eq_true, bne_iff_ne]

/-- Settles O10: every operation is its value and flags on each lane (`floatOp_ready`); FMIN and FMAX compare two numbers as multiples of
2^-149 (`minMax_eq`), and FRND encodes an integer of at most 24 bits (`rndIntegral_eq`). -/
theorem floatResults : Obligations.FloatResults := by
  intro h o o1 o3 half neg dst sa s a b R a3 b3 c3 R3
  refine ⟨fun r => ⟨?add, ?sub, ?mul, ?scale, ?min, ?max⟩, fun r => ⟨?fma, ?dot2⟩, fun r => ?rnd, fun r => ⟨?abs, ?cls⟩⟩
  case add => exact (exec_fadd h o s).trans (arith2_ready h o addOp s r)
  case sub => exact (exec_fsub h o s).trans (arith2_ready h o subOp s r)
  case mul => exact (exec_fmul h o s).trans (arith2_ready h o mulOp s r)
  case scale => exact (exec_fscale h o s).trans (execFscale_ready h o s r)
  case min => exact (exec_fmin h o s).trans (minMaxOp_ready h o false s r)
  case max => exact (exec_fmax h o s).trans (minMaxOp_ready h o true s r)
  case fma => exact (exec_fma h o3 s).trans (execFma_ready h o3 s r)
  case dot2 =>
    rw [exec_fdot2, execFdot2_ready h half o3 s r]
    simp only [dot2Val_eq]
    rfl
  case rnd =>
    rw [exec_frnd, execFrnd_ready h o1 s r]
    simp only [rndIntegral_eq _ (BitVec.isLt _)]
    rfl
  case abs => exact (exec_fabs h neg dst sa s).trans (execFabs_ready h neg dst sa s r)
  case cls =>
    rw [exec_fclass, execFclass_ready h dst sa s r]
    simp only [classOf_eq (BitVec.isLt _)]

end Sys2Proof.Machine
end

section
/-!
SUPPORT. Loads and stores of the core's own pool: the number that a load widens, and the landings of its lanes (R280 to R283).
-/

namespace Sys2Proof.Machine

/-- A loaded number below its size's bound, zero- or sign-extended to a lane (R282). -/
theorem loaded_eq {sz x : Nat} {sx : Bool} (ok : sxOk sx sz = true) (small : x < 2 ^ (8 * sizeOf sz)) :
    loaded sz sx x =
      if sx = true ∧ 2 ^ (8 * sizeOf sz) ≤ 2 * x then x + 2 ^ 32 - 2 ^ (8 * sizeOf sz) else x := by
  cases sx with
  | false => simp [loaded]
  | true =>
    have sizes : sz = 1 ∨ sz = 2 := by simpa [sxOk] using ok
    rcases sizes with rfl | rfl <;> simp only [sizeOf, nth, loaded, wrapOf, signedOf] at small ⊢ <;> norm_num at small ⊢ <;>
      split_ifs <;> omega

theorem Memory.nat_lt (m : Memory) (a n : Nat) : m.nat a n < 2 ^ (8 * n) := by
  have bound := leNat_lt (m.bytes a n)
  have long : (m.bytes a n).length = n := by simp [Memory.bytes, Sp.range]
  rwa [long, show (256 : Nat) = 2 ^ 8 from rfl, ← Nat.pow_mul] at bound

theorem Memory.nat_eq (m : Memory) (a n : Nat) : m.nat a n = leNat ((List.range n).map fun i => m.byte (a + i)) :=
  congrArg leNat (Sp.range_eq _ _ _ _)

section
variable (s : State) (h : Head)

/-- Numbers of the active lanes land in a register or a pair. -/
theorem State.landData_live (sz lat dst : Nat) (f : Nat → Nat) :
    s.landData sz lat dst ((s.live h).map fun l => (l, f l)) = s.result lat (s.loadLandings h sz dst f) := by
  by_cases pair : sz = 3
  · simp [State.landData, State.loadLandings, pair, State.later_later, State.perLane, State.live, Function.comp_def]
  · simp [State.landData, State.loadLandings, pair, State.later_result, State.perLane, State.live, Function.comp_def]

/-- The pool check by the active lanes of an access of `n` bytes. -/
theorem chkPool_of_inside (a : MAddr) {n : Nat} (inside : ∀ l ∈ s.live h, a.lane s l + n ≤ s.scratch) :
    chkPool s n (a.lanes s h) = none := by
  rw [chkPool, MAddr.lanes_live]
  exact chkLanes_of_all s h (ok := fun b => b + n ≤ s.scratch) _ (by simpa using inside)

theorem chkPool_of_lowest (a : MAddr) {n l : Nat} (low : s.lowest h l fun k => s.scratch < a.lane s k + n) :
    chkPool s n (a.lanes s h) = some { code := 8, lane := l, t2 := BitVec.ofNat 64 (a.lane s l) } := by
  rw [chkPool, MAddr.lanes_live]
  exact chkLanes_of_lowest s h (ok := fun b => b + n ≤ s.scratch) _ (by simpa using low)

end

/-- Settles O19: the pool check lane by lane, then the load's landings or the store's writes. -/
theorem poolAccesses : Obligations.PoolAccesses := by
  intro h dst sx a s ok n regs inside
  refine ⟨fun r l low => ?faults, fun all r => ?loads, fun all r => ?stores⟩
  case faults =>
    have run : chkRegs s (memRegs a (dataRegs a.sz dst)) = none := chkRegs_ready s _ _ r
    have bad := chkPool_of_lowest s h a (n := sizeOf a.sz) low
    rw [exec_ldp, execLdp, exec_stp, execStp]
    exact ⟨attempt_fail s _ _ _ (by simp [run, bad]), attempt_fail s _ _ _ (by simp [run, bad])⟩
  case loads =>
    have run : chkRegs s (memRegs a (dataRegs a.sz dst)) = none := chkRegs_ready s _ _ r
    have free : chkPend s (dataDst a.sz dst) = none := chkPend_ready s _ _ r
    have good := chkPool_of_inside s h a (n := sizeOf a.sz) all
    rw [exec_ldp, execLdp, attempt_pass _ _ _ (by simp [run, good, free]), MAddr.lanes_live, List.map_map, ← State.landData_live]
    refine congrArg (fun xs => Host.Outcome.next (s.landData a.sz 10 dst xs)) (List.map_congr_left fun l _ => Prod.ext rfl ?_)
    rw [← Memory.nat_eq]
    exact loaded_eq ok (Memory.nat_lt _ _ _)
  case stores =>
    intro w
    have run : chkRegs s (memRegs a (dataRegs a.sz dst)) = none := chkRegs_ready s _ _ r
    have good := chkPool_of_inside s h a (n := sizeOf a.sz) all
    rw [exec_stp, execStp, attempt_pass _ _ _ (by simp [run, good]), MAddr.lanes_live, List.map_map]
    refine congrArg (fun ws => Host.Outcome.next { s with grid := { s.grid with stps := s.grid.stps ++ ws } })
      (List.map_congr_left fun l hl => ?_)
    rw [Function.comp_apply, s.nth_dataOf h a.sz dst hl]
    rfl

end Sys2Proof.Machine
end

section
/-!
SUPPORT. Atomics of a compute core: the checks of their lanes, and the action that waits for its boundary (R149, R286 to R289).
-/

namespace Sys2Proof.Machine

section
variable (s : State) (h : Head)

theorem State.execs_iff : s.execs h = true ↔ s.active h ≠ 0 := by simp [State.execs]

/-- The scopes that R149 and R289 let an instruction name: any where it has no active lane. -/
theorem chkScope_eq_none_iff {scope : Nat} : chkScope s (s.execs h) scope = none ↔
    (s.active h ≠ 0 → scope < 7 ∧ (scope = 6 → s.podAllowed = true)) := by
  rw [← State.execs_iff]
  cases runs : s.execs h <;> cases pod : s.podAllowed <;> simp [chkScope, check, pod]

theorem chkScope_eq_or (runs : Bool) (scope : Nat) : chkScope s runs scope = none ∨ chkScope s runs scope = some { code := 7 } :=
  ite_eq_or_eq _ _ _

/-- The other-package check, lane by lane (R149). -/
theorem chkFar_of_all {scope n : Nat} (a : Nat → Nat)
    (near : ∀ l ∈ s.live h, ∀ x, s.xlat [] (a l) n = some x → scopeFar s scope x.ia = false) :
    chkFar s scope n ((s.live h).map fun l => (l, a l)) = none := by
  rw [chkFar, chkLanes_of_all s h a fun l hl => ?_, Option.map_none]
  cases found : s.xlat [] (a l) n with
  | none => rfl
  | some x => simp [near l hl x found]

theorem chkFar_of_lowest {scope n l : Nat} (a : Nat → Nat)
    (low : s.lowest h l fun k => ¬ ∀ x, s.xlat [] (a k) n = some x → scopeFar s scope x.ia = false) :
    chkFar s scope n ((s.live h).map fun l => (l, a l)) = some { code := 7, lane := l } := by
  rw [chkFar, chkLanes_of_lowest s h a (l := l), Option.map_some]
  convert low using 2 with k
  cases s.xlat [] (a k) n <;> simp

theorem scopeFar_eq_false_iff {scope ia : Nat} : scopeFar s scope ia = false ↔ (scope = 4 ∨ scope = 5 → pkgOf ia = s.pkg) := by
  simp only [scopeFar, Bool.and_eq_false_iff, Bool.or_eq_false_iff, beq_eq_false_iff_ne, bne_eq_false_iff_eq, ← not_or, or_iff_not_imp_left,
    not_not]

/-- The operands of an active lane. -/
theorem State.atomicArgs_live {l : Nat} (hl : l ∈ s.live h) (op : Nat) (o : Atom) : s.atomicArgs op o l =
    (if op = 15 then 0 else s.dataLane o.a.sz o.sc l,
     if op = 13 then s.dataLane o.a.sz (o.sc + if o.a.sz = 3 then 2 else 1) l else 0) := by
  simp only [State.atomicArgs, s.nth_dataOf h _ _ hl]
  by_cases inc : op = 15
  · simp [inc]
  · simp [inc]

/-! ### The waiting action -/

/-- Lines touched one after another change the teams' buffers alone. -/
theorem State.foldl_touchLine (ia : Nat → Nat) (n : Nat) (xs : List Nat) (s : State) :
    ∃ teams, xs.foldl (fun s l => s.touchLine (ia l) n) s = { s with grid := { s.grid with teams := teams } } := by
  induction xs generalizing s with
  | nil => exact ⟨s.grid.teams, rfl⟩
  | cons x xs ih =>
    obtain ⟨teams, e⟩ := ih (s.touchLine (ia x) n)
    exact ⟨teams, e⟩

/-- Vector registers owed one after another. -/
theorem State.foldl_owe (rs : List Nat) (s : State) : rs.foldl (fun s r => s.owe (.vec r)) s =
    { s with grid := { s.grid with owed := s.grid.owed ++ rs.map fun r => { key := s.cur.key, kind := 0, reg := r } } } := by
  induction rs generalizing s with
  | nil => simp
  | cons r rs ih =>
    rw [List.foldl_cons, ih]
    simp [State.owe, State.dstReg]

/-- The action of an atomic of the issuing group (R287). -/
def State.atomicAct (s : State) (op : Nat) (h : Head) (o : Atom) : Act :=
  let place (l : Nat) : Nat := s.place (o.a.lane s l) (sizeOf o.a.sz)
  let operands (l : Nat) : Nat × Nat :=
    (if op = 15 then 0 else s.dataLane o.a.sz o.sc l, if op = 13 then s.dataLane o.a.sz (o.sc + if o.a.sz = 3 then 2 else 1) l else 0)
  { train := s.cur.train, team := s.cur.team, key := s.cur.key, group := s.me.idx, core := s.me.core, ord := s.grid.ord, due := 0
    what := .atomic op (o.a.sz == 3) o.scope ((s.live h).map fun l => (l, place l, operands l)) (if o.nr then none else some o.dst)
      ((s.live h).foldl (fun m l => max m (opLat (scopeAt s o.scope (place l % 2 ^ 56)) (place l / 2 ^ 56))) (scopeLat o.scope)) }

/-- The registers that an atomic writes at its boundary. -/
def atomicResults (o : Atom) : List Nat := if o.nr then [] else dataRegs o.a.sz o.dst

/-- The state in which an atomic waits: its action, its owed and awaited registers, and its team's buffered lines. -/
def State.atomicWaits (s : State) (op : Nat) (h : Head) (o : Atom) (teams : List (Nat × Team)) (awaits : List Nat) : State :=
  { s with grid := { s.grid with
      teams := teams, acts := s.grid.acts ++ [s.atomicAct op h o], ord := s.grid.ord + 1
      owed := s.grid.owed ++ ((atomicResults o).map fun r => { key := s.cur.key, kind := 0, reg := r }) ++
        awaits.map fun r => { key := s.cur.key, kind := awaited, reg := r } } }

theorem State.isPending_atomicWaits (op : Nat) (o : Atom) (teams : List (Nat × Team)) (awaits : List Nat) {r : Nat} (hr : r ∈ atomicResults o) :
    (s.atomicWaits op h o teams awaits).isPending (.vec r) = true := by
  simp only [State.isPending, Bool.or_eq_true, List.any_eq_true]
  exact .inr ⟨⟨s.cur.key, 0, r⟩, List.mem_append_left _ (List.mem_append_right _ (List.mem_map_of_mem hr)), by simp [State.atomicWaits, State.dstReg]⟩

/-- The checks of an atomic of a compute core before its destinations', in their order (R208, R288). -/
def atomicChecks (s : State) (op : Nat) (h : Head) (o : Atom) : List (Option Flt) :=
  let n := sizeOf o.a.sz
  let lanes := (s.live h).map fun l => (l, o.a.lane s l)
  [chkRegs s (memRegs o.a (atomicResults o ++ atomicRegs op o)), chkScope s (s.execs h) o.scope,
    chkLanes 8 lanes fun va => va % n == 0 && (s.xlat [permA] va n).isSome, chkFar s o.scope n lanes,
    chkLanes 9 lanes fun va => s.leased .atomic va n]

section
variable {s h} (cmd : s.cur.cmd = false) {op : Nat} {o : Atom}
include cmd

/-- An atomic of a compute core waits once its checks pass. -/
theorem atomic_of_compute : ∃ e, atomic op h o s = attempt s (atomicChecks s op h o ++ [chkPend s ((atomicResults o).map Dst.vec)]) e ∧
    ∃ teams awaits, e s = s.atomicWaits op h o teams awaits := by
  have dsts : (if o.nr then [] else dataDst o.a.sz o.dst) = (atomicResults o).map Dst.vec := by
    unfold atomicResults
    split <;> rfl
  refine ⟨_, by simp only [atomic, cmd, MAddr.lanes_live, dsts]; rfl, ?_⟩
  obtain ⟨teams, lines⟩ := State.foldl_touchLine (fun l => tagAddr (s.place (o.a.lane s l) (sizeOf o.a.sz))) (sizeOf o.a.sz) (s.live h) s
  have operands := List.map_congr_left fun l (hl : l ∈ s.live h) =>
    congrArg (fun c => (l, s.place (o.a.lane s l) (sizeOf o.a.sz), c)) (s.atomicArgs_live h hl op o)
  simp only [List.map_map, List.foldl_map, Function.comp_def, lines, operands, State.foldl_owe]
  exact ⟨teams, _, rfl⟩

theorem atomic_fails {f : Flt} (bad : (atomicChecks s op h o).findSome? id = some f) : atomic op h o s = .next (s.raise f) := by
  obtain ⟨e, issued, -⟩ := atomic_of_compute cmd
  exact issued.trans (attempt_fail s _ e f (by rw [List.findSome?_append, bad, Option.some_or]))

theorem atomic_waits (good : ∀ c ∈ atomicChecks s op h o, c = none) (free : chkPend s ((atomicResults o).map Dst.vec) = none) :
    ∃ teams awaits, atomic op h o s = .next (s.atomicWaits op h o teams awaits) := by
  obtain ⟨e, issued, teams, awaits, waits⟩ := atomic_of_compute cmd
  refine ⟨teams, awaits, issued.trans ((attempt_pass s _ e fun c hc => ?_).trans (congrArg Host.Outcome.next waits))⟩
  rcases List.mem_append.1 hc with hc | hc
  · exact good c hc
  · exact (List.mem_singleton.1 hc).trans free

end
end

/-- The twelve atomics and their OPs (R286). -/
def atomics : List ((Head → Atom → Instr) × Nat) :=
  [(.aadd, 4), (.aand, 5), (.aor, 6), (.axor, 7), (.amin, 8), (.amax, 9), (.aminu, 10), (.amaxu, 11), (.aexch, 12), (.acas, 13),
    (.afadd, 14), (.ainc, 15)]

theorem exec_atomics (h : Head) (o : Atom) (s : State) : ∀ p ∈ atomics, exec (p.1 h o) s = atomic p.2 h o s := by
  simp only [atomics, List.forall_mem_cons]
  and_intros
  on_goal 13 => exact fun _ k => nomatch k
  all_goals rfl

/-- Settles O24: the checks in their order, lane by lane, and then the waiting action. -/
theorem atomicsWaitForTheirBoundary : Obligations.AtomicsWaitForTheirBoundary := by
  intro p hp h o s cmd n w operands dsts at_ c0 c1 lat regs inScope mapped near leased every fault
  have issued : exec (p.1 h o) s = atomic p.2 h o s := exec_atomics h o s p hp
  have size : sizeOf o.a.sz = n := rfl
  have run {ds : List Dst} (r : s.ready regs ds) : chkRegs s (memRegs o.a (atomicResults o ++ atomicRegs p.2 o)) = none := chkRegs_ready s _ _ r
  have scope (legal : inScope) : chkScope s (s.execs h) o.scope = none := (chkScope_eq_none_iff s h).2 legal
  have inside (all : every mapped) := chkLanes_of_all s h (code := 8) (ok := fun va => va % n == 0 && (s.xlat [permA] va n).isSome)
    (o.a.lane s) (by simpa [every, mapped] using all)
  have here (all : every near) := chkFar_of_all s h (scope := o.scope) (n := n) (o.a.lane s) fun l hl x found =>
    (scopeFar_eq_false_iff s).2 (all l hl x found)
  refine ⟨fun r => ⟨fun illegal => ?scope, fun legal => ⟨fun l low => ?window, fun all => ⟨fun l low => ?far, fun close l low => ?lease⟩⟩⟩,
    fun r legal all close free => ?waits⟩
  case scope =>
    have bad := (chkScope_eq_or s (s.execs h) o.scope).resolve_left (mt (chkScope_eq_none_iff s h).1 illegal)
    exact issued.trans (atomic_fails cmd (by simp [atomicChecks, size, run r, bad]))
  case window =>
    have bad := chkLanes_of_lowest s h (code := 8) (ok := fun va => va % n == 0 && (s.xlat [permA] va n).isSome) (o.a.lane s)
      (by simpa [mapped] using low)
    exact issued.trans (atomic_fails cmd (by simp [atomicChecks, size, run r, scope legal, bad]))
  case far =>
    have bad := chkFar_of_lowest s h (scope := o.scope) (n := n) (o.a.lane s) (by simpa only [scopeFar_eq_false_iff] using low)
    exact issued.trans (atomic_fails cmd (by simp [atomicChecks, size, run r, scope legal, inside all, bad]))
  case lease =>
    have bad := chkLanes_of_lowest s h (code := 9) (ok := fun va => s.leased .atomic va n) (o.a.lane s) (by simpa [leased] using low)
    exact issued.trans (atomic_fails cmd (by simp [atomicChecks, size, run r, scope legal, inside all, here close, bad]))
  case waits =>
    have held := chkLanes_of_all s h (code := 9) (ok := fun va => s.leased .atomic va n) (o.a.lane s) free
    obtain ⟨teams, awaits, done⟩ := atomic_waits (h := h) (op := p.2) (o := o) cmd (by simp [atomicChecks, size, run r, scope legal, inside all, here close, held])
      (chkPend_ready s _ _ r)
    exact ⟨_, issued.trans done, rfl, rfl, rfl, rfl, rfl, rfl, rfl, rfl, rfl, fun r hr => s.isPending_atomicWaits h p.2 o teams awaits hr⟩

end Sys2Proof.Machine
end

section
/-!
SUPPORT. The status of a hall operation whose local side fails: its cause and the low 48 bits of the failing piece's offset (R322, R330); and
a put whose first failing piece lies 2^48 bytes from its start.
-/

namespace Sys2Proof.Machine

/-! ### Moves cut at pages (R322) -/

/-- The pages of a global source from a page boundary on, one by one: `k` whole pages, and then what is left. -/
theorem cutMove_pages (k fuel off r va : Nat) (inside : va < 2 ^ 64) (aligned : va % 65536 = 0) :
    ∃ ms, cutMove (k + fuel) { off := off, n := 65536 * k + r, src := .global va, dst := .data [] } =
        ms ++ cutMove fuel { off := off + 65536 * k, n := r, src := .global ((va + 65536 * k) % 2 ^ 64), dst := .data [] } ∧
      ∀ m ∈ ms, ∃ j < k, m.src = .global ((va + 65536 * j) % 2 ^ 64) := by
  induction k generalizing off va with
  | zero => exact ⟨[], by simp only [Nat.mul_zero, Nat.add_zero, Nat.zero_add, Nat.mod_eq_of_lt inside, List.nil_append], fun _ hm => nomatch hm⟩
  | succ k ih =>
    obtain ⟨ms, cut, pages⟩ := ih (off + 65536) ((va + 65536) % 2 ^ 64) (by omega) (by omega)
    have first : cutMove (k + 1 + fuel) { off := off, n := 65536 * (k + 1) + r, src := .global va, dst := .data [] } =
        { off := off, n := 65536, src := .global va, dst := .data [] } ::
          cutMove (k + fuel) { off := off + 65536, n := 65536 * k + r, src := .global ((va + 65536) % 2 ^ 64), dst := .data [] } := by
      have page : min (65536 * (k + 1) + r) (min (65536 - va % 65536) (65536 * (k + 1) + r)) = 65536 := by omega
      have rest : 65536 * (k + 1) + r - 65536 = 65536 * k + r := by omega
      rw [show k + 1 + fuel = k + fuel + 1 by omega, cutMove, if_neg (by simp)]
      simp only [Side.room, page, rest, Side.after, List.drop_nil]
    have onward (j : Nat) : ((va + 65536) % 2 ^ 64 + 65536 * j) % 2 ^ 64 = (va + 65536 * (j + 1)) % 2 ^ 64 := by omega
    refine ⟨{ off := off, n := 65536, src := .global va, dst := .data [] } :: ms, ?_, List.forall_mem_cons.2 ⟨?_, fun m hm => ?_⟩⟩
    · rw [first, cut, onward, show off + 65536 + 65536 * k = off + 65536 * (k + 1) by omega, List.cons_append]
    · exact ⟨0, by omega, by rw [Nat.mul_zero, Nat.add_zero, Nat.mod_eq_of_lt inside]⟩
    · obtain ⟨j, hj, e⟩ := pages m hm
      exact ⟨j + 1, by omega, e.trans (congrArg Side.global (onward j))⟩

/-- The last byte of a move, when all before it are whole pages. -/
theorem cutMove_last (fuel off va : Nat) : cutMove (fuel + 1) { off := off, n := 1, src := .global va, dst := .data [] } =
    [{ off := off, n := 1, src := .global va, dst := .data [] }] := by
  have one : min 1 (min (65536 - va % 65536) 1) = 1 := by omega
  have nothing (fuel : Nat) (src dst : Side) : cutMove fuel { off := off + 1, n := 0, src := src, dst := dst } = [] := by
    cases fuel <;> rfl
  rw [cutMove, if_neg Nat.one_ne_zero]
  simp only [Side.room, one, Nat.sub_self, nothing]

/-! ### Pieces of the local side (R330, R394, R397) -/

/-- The pieces of a hall operation's global local side. -/
def hallPieces (o : Hall) (vs : List W64) : List Move :=
  if o.lk then cutMoves [{ off := 0, n := (nth 0 vs 4).toNat, src := .global (nth 0 vs 0).toNat, dst := .data [] }] else []

/-- The page of a piece, where its address lies in a window. -/
def State.hallPage (s : State) (op : Nat) (m : Move) : Option Nat :=
  match m.src with
  | .global va => (s.engineXlat false (op == 1) va m.n).map fun x => x.ia / 65536
  | _ => none

/-- The cause with which a piece fails; 0 for none. -/
def State.hallCause (s : State) (op : Nat) (m : Move) : Nat := ((s.hallPage op m).map (s.localCause s.myTrain.owner)).getD 0

section
variable {s : State}

theorem State.engineXlat_of_high (copy write : Bool) {va : Nat} (n : Nat) (high : 2 ^ 48 ≤ va) : s.engineXlat copy write va n = none :=
  if_pos high

theorem State.hallCause_of_high (op : Nat) {m : Move} {va : Nat} (src : m.src = .global va) (high : 2 ^ 48 ≤ va) : s.hallCause op m = 0 := by
  simp [State.hallCause, State.hallPage, src, State.engineXlat_of_high _ _ _ high]

/-- The first piece that fails, with its cause and offset. -/
theorem State.findSome?_hallCause (op : Nat) (ms : List Move) :
    (ms.findSome? fun m => (s.hallPage op m).bind fun p =>
      if s.localCause s.myTrain.owner p = 0 then none else some (s.localCause s.myTrain.owner p, m.off)) =
    (ms.find? fun m => s.hallCause op m != 0).map fun m => (s.hallCause op m, m.off) := by
  induction ms with
  | nil => rfl
  | cons m ms ih =>
    rw [List.findSome?_cons, List.find?_cons, ih]
    cases page : s.hallPage op m with
    | none => simp [State.hallCause, page]
    | some p =>
      have cause : s.hallCause op m = s.localCause s.myTrain.owner p := by simp [State.hallCause, page]
      by_cases good : s.localCause s.myTrain.owner p = 0
      · simp [cause, good]
      · simp [cause, good, bne_iff_ne.2 good]

/-- A hall operation whose local side fails ends with the cause, and the offset modulo 2^48, of its first failing piece. -/
theorem State.startHall_status {c : Cmd} {o : Hall} {op : Nat} {m : Move} (primary : s.myTeam.twin = false) (steps : c.steps = 0)
    (sends : s.hallEmpty c = none) (fails : (hallPieces o c.vals).find? (fun m => s.hallCause op m != 0) = some m) :
    ∃ x, (s.startHall c o op).pod.hallOps = s.pod.hallOps ++ [x] ∧
      x.status = BitVec.ofNat 64 (s.hallCause op m * 2 ^ 56 + m.off % 2 ^ 48) := by
  have bad := s.findSome?_hallCause op (hallPieces o c.vals)
  rw [fails, Option.map_some] at bad
  rw [State.startHall, if_neg (by simp [primary, steps]), if_neg (by simp [sends])]
  dsimp only
  generalize found : List.findSome? _ _ = stop
  obtain rfl : stop = some (s.hallCause op m, m.off) := found.symm.trans bad
  simp only [Option.isSome_some, Bool.or_true, if_true]
  split <;> exact ⟨_, rfl, rfl⟩

theorem State.startColumns_lput {tr : Nat} {c : Cmd} {h : Head} {o : Hall} (due : s.dueCmds tr = [c]) (op : c.op = .lput h o) :
    s.startColumns tr = { (((s.asIssuer c).occupy c).startHall c o 0) with cur := s.cur } := by
  have onTime : s.cmdLate c = false := by rw [State.cmdLate, op]
  simp only [State.startColumns, due, List.foldl_cons, List.foldl_nil, onTime]
  rw [if_neg Bool.false_ne_true, State.startCmd, op]

/-- Every frame of a hall operation leaves by one of the sixteen planes for the pod that its descriptor names (R193). -/
theorem hallFrames_plane_pod {op : Nat} {o : Hall} {vs : List W64} {bytes : List Byte} :
    ∀ f ∈ hallFrames op o vs bytes, f.2.plane < 16 ∧ f.2.pod = fieldOf (nth 0 vs 2) 0 7 := by
  intro f hf
  obtain ⟨i, -, rfl⟩ := List.mem_map.1 hf
  exact ⟨Nat.mod_lt _ (by decide), rfl⟩

/-- A put that has bytes to send, and a path on every plane, sends. -/
theorem State.hallEmpty_of_paths {c : Cmd} {h : Head} {o : Hall} (op : c.op = .lput h o) (nonempty : (nth 0 c.vals 4).toNat ≠ 0)
    (paths : ∀ f ∈ hallFrames 0 o c.vals [], fieldOf (s.hpath f.2.plane f.2.pod) 63 1 = 1) : s.hallEmpty c = none := by
  have noneFails : (hallFrames 0 o c.vals []).find? (fun f => fieldOf (s.hpath f.2.plane f.2.pod) 63 1 == 0) = none :=
    List.find?_eq_none.2 fun f hf => by simp [paths f hf]
  simpa [State.hallEmpty, op, State.noPath, noneFails] using nonempty

/-- The status that the start of a put leaves whose local side fails at `m`. -/
theorem State.startColumns_put_status {tr : Nat} {c : Cmd} {h : Head} {o : Hall} {m : Move} (due : s.dueCmds tr = [c]) (op : c.op = .lput h o)
    (primary : ((s.asIssuer c).occupy c).myTeam.twin = false) (steps : c.steps = 0) (nonempty : (nth 0 c.vals 4).toNat ≠ 0)
    (paths : ∀ f ∈ hallFrames 0 o c.vals [], fieldOf (s.hpath f.2.plane f.2.pod) 63 1 = 1)
    (fails : (hallPieces o c.vals).find? (fun m => ((s.asIssuer c).occupy c).hallCause 0 m != 0) = some m) :
    (s.startColumns tr).pod.hallOps.map (·.status) = s.pod.hallOps.map (·.status) ++
      [BitVec.ofNat 64 (((s.asIssuer c).occupy c).hallCause 0 m * 2 ^ 56 + m.off % 2 ^ 48)] := by
  have pod : ((s.asIssuer c).occupy c).pod = s.pod := by
    obtain ⟨cores, e⟩ := (s.asIssuer c).occupy_eq c
    rw [e]
    rfl
  have sends : ((s.asIssuer c).occupy c).hallEmpty c = none :=
    State.hallEmpty_of_paths op nonempty fun f hf => by simpa only [State.hpath, pod] using paths f hf
  obtain ⟨x, ops, status⟩ := State.startHall_status primary steps sends fails
  rw [State.startColumns_lput due op, ops, pod, List.map_append, List.map_singleton, status]

/-- What the statement of O39 says of the same status. -/
theorem status_of_starts (claim : Obligations.EngineCommandStarts) {tr : Nat} {c : Cmd} {h : Head} {o : Hall} {m : Move}
    (due : s.dueCmds tr = [c]) (op : c.op = .lput h o) (primary : ((s.asIssuer c).occupy c).myTeam.twin = false) (steps : c.steps = 0)
    (nonempty : (nth 0 c.vals 4).toNat ≠ 0) (paths : ∀ f ∈ hallFrames 0 o c.vals [], fieldOf (s.hpath f.2.plane f.2.pod) 63 1 = 1)
    (fails : (hallPieces o c.vals).find? (fun m => ((s.asIssuer c).occupy c).hallCause 0 m != 0) = some m) :
    (s.startColumns tr).pod.hallOps.map (·.status) = s.pod.hallOps.map (·.status) ++
      [BitVec.ofNat 64 (((s.asIssuer c).occupy c).hallCause 0 m * 2 ^ 56 + m.off)] := by
  obtain ⟨-, -, -, -, -, -, -, -, -, -, halls⟩ := claim tr c s due
  obtain ⟨-, sends⟩ := halls h o 0 (.inl ⟨rfl, op⟩) primary steps
  obtain ⟨t, ⟨⟨starts, -⟩, -⟩, -, -, -, -, -, stops⟩ := sends nonempty paths
  obtain rfl : s.startColumns tr = t := Host.Outcome.next.inj starts
  rw [congrArg Pod.hallOps (stops m fails), List.map_append]
  rfl

end

/-! ### A put that passes over addresses without a window -/

/-- The operands of an LPUT of 2^48 + 1 bytes from virtual address 2^64 - 2^48 on: all its bytes lie at addresses of 2^48 and above, where no
window is, but the last one, whose address is 0. -/
def overlongVals : List W64 := [BitVec.ofNat 64 (2 ^ 64 - 2 ^ 48), 0, 0, 0, BitVec.ofNat 64 (2 ^ 48 + 1)]

def overlongHall : Hall := { lk := true, ac := 0, aq := false, sa := 4, sb := 8, lens := 10, cnt := 0, csel := 1 }

def overlongPut : Cmd :=
  { id := 7, train := 0, team := 0, key := 16, group := 0, core := 0, col := 3, untimed := true, start := 0, occ := 1, land := 1, batch := 0
    op := .lput { d := 0, e := false, pred := 0, pn := false } overlongHall, addr := 0, alt := false, fmt := 0, vals := overlongVals }

/-- That put is due in a train of owner 1, whose one window maps page 0 for reading to a page of another owner; every plane has a path. -/
def overlongState : State :=
  { State.reset with
    grid := { State.reset.grid with
      trains := [(0, { live := true, owner := 1, desc := { windows := [(BitVec.ofNat 64 (2 ^ 32), BitVec.ofNat 64 (2 ^ 41 + 2 ^ 45))] } })]
      cmds := [overlongPut] }
    pod := { State.reset.pod with hpath := (List.range 16).map fun plane => (128 * plane, BitVec.ofNat 64 (2 ^ 63)) } }

/-- That state as the put's issuer sees it. -/
def overlongIssuer : State := (overlongState.asIssuer overlongPut).occupy overlongPut

/-- The piece that holds the put's last byte. -/
def overlongLast : Move := { off := 2 ^ 48, n := 1, src := .global 0, dst := .data [] }

theorem hallPieces_overlong : ∃ ms, hallPieces overlongHall overlongVals = ms ++ [overlongLast] ∧
    ∀ m ∈ ms, ∃ va, m.src = .global va ∧ 2 ^ 48 ≤ va := by
  obtain ⟨ms, cut, pages⟩ := cutMove_pages (2 ^ 32) (2 ^ 32 + 3 + 1) 0 1 (2 ^ 64 - 2 ^ 48) (by norm_num) (by norm_num)
  refine ⟨ms, ?_, fun m hm => ?_⟩
  · have len : (nth 0 overlongVals 4).toNat = 65536 * 2 ^ 32 + 1 := by decide
    have start : (nth 0 overlongVals 0).toNat = 2 ^ 64 - 2 ^ 48 := by decide
    have fuel : 2 * ((65536 * 2 ^ 32 + 1) / 65536) + 4 = 2 ^ 32 + (2 ^ 32 + 3 + 1) := by norm_num
    have place : (2 ^ 64 - 2 ^ 48 + 65536 * 2 ^ 32) % 2 ^ 64 = 0 := by norm_num
    have off : 0 + 65536 * 2 ^ 32 = 2 ^ 48 := by norm_num
    rw [hallPieces, if_pos (show overlongHall.lk = true from rfl), len, start, cutMoves, List.flatMap_singleton, fuel, cut, cutMove_last, place, off, overlongLast]
  · obtain ⟨j, hj, src⟩ := pages m hm
    exact ⟨_, src, by omega⟩

theorem overlongState_path : ∀ f ∈ hallFrames 0 overlongHall overlongVals [], fieldOf (overlongState.hpath f.2.plane f.2.pod) 63 1 = 1 := by
  intro f hf
  obtain ⟨plane, pod⟩ := hallFrames_plane_pod f hf
  have all : ∀ plane < 16, fieldOf (overlongState.hpath plane (fieldOf (nth 0 overlongVals 2) 0 7)) 63 1 = 1 := by decide +kernel
  rw [pod]
  exact all _ plane

theorem overlongLast_cause : overlongIssuer.hallCause 0 overlongLast = 1 := by decide +kernel

/-- The put's first failing piece is its last byte, for the page of the other owner. -/
theorem overlongPut_fails : (hallPieces overlongHall overlongVals).find? (fun m => overlongIssuer.hallCause 0 m != 0) = some overlongLast := by
  obtain ⟨ms, pieces, high⟩ := hallPieces_overlong
  have before : ms.find? (fun m => overlongIssuer.hallCause 0 m != 0) = none :=
    List.find?_eq_none.2 fun m hm => by
      obtain ⟨va, src, outside⟩ := high m hm
      simp [State.hallCause_of_high 0 src outside]
  rw [pieces, List.find?_append, before, Option.none_or, List.find?_cons, overlongLast_cause]
  rfl

/-- Refutes O39: a put's length is any 64-bit word there, also one beyond the 1,048,576 bytes that issue checks (R330). The put of
`overlongState` first fails at its last byte, of offset 2^48 and cause 1. Its status is 2^56, for the offset's field holds 48 bits (R322); the
statement of O39 adds the offset whole. -/
theorem not_engineCommandStarts : ¬ Obligations.EngineCommandStarts := by
  intro claim
  have due : overlongState.dueCmds 0 = [overlongPut] := by decide +kernel
  have primary : overlongIssuer.myTeam.twin = false := by decide +kernel
  have nonempty : (nth 0 overlongPut.vals 4).toNat ≠ 0 := by decide
  have said := status_of_starts claim due rfl primary rfl nonempty overlongState_path overlongPut_fails
  have done := State.startColumns_put_status due rfl primary rfl nonempty overlongState_path overlongPut_fails
  have differ := List.append_cancel_left (said.symm.trans done)
  rw [← overlongIssuer, overlongLast_cause] at differ
  exact absurd differ (by decide)

end Sys2Proof.Machine
end

section
/-!
SUPPORT. A load's sample: its bytes are as many as asked for, and each is that of the last of the team's buffered stores that cover it, in
R56's order, or that of the view (R142, R146).
-/

namespace Sys2Proof.Machine

/-! ### Lengths -/

theorem pagePieces_zero (fuel a : Nat) : pagePieces fuel a 0 = [] := by cases fuel <;> rfl

theorem pagePieces_sum (fuel a n : Nat) (enough : a % 65536 + n ≤ 65536 * fuel) : ((pagePieces fuel a n).map Prod.snd).sum = n := by
  induction fuel generalizing a n with
  | zero =>
    have none : n = 0 := by omega
    simp [none, pagePieces]
  | succ fuel ih =>
    rw [pagePieces]
    split
    case isTrue none => simp [none]
    case isFalse some =>
      rw [List.map_cons, List.sum_cons]
      by_cases last : n ≤ 65536 - a % 65536
      · rw [Nat.min_eq_left last, Nat.sub_self, pagePieces_zero]
        simp
      · rw [Nat.min_eq_right (by omega), ih _ _ (by omega)]
        omega

/-- The pieces of a range hold all of it. -/
theorem pieces_sum (a n : Nat) : ((pieces a n).map Prod.snd).sum = n := pagePieces_sum _ a n (by omega)

section
variable (s : State) (owner core level ia n : Nat)

theorem State.homeBytes_length : (s.homeBytes owner ia n).length = n := by
  have piece (q : Nat × Nat) :
      (if s.pageOk owner (pageOf q.1) = true then Memory.bytes s.mem.home q.1 q.2 else List.replicate q.2 0).length = q.2 := by
    split <;> simp [Memory.bytes]
  simp only [State.homeBytes, List.length_flatMap, piece]
  exact pieces_sum ia n

theorem State.viewBytes_length : (s.viewBytes owner core level ia n).length = n := by
  unfold State.viewBytes
  split_ifs
  · exact s.homeBytes_length owner ia n
  · exact Sp.range_length _ _ _ _
  · exact Sp.range_length _ _ _ _

theorem State.sample_length : (s.sample level ia n).length = n := by simp [State.sample, s.viewBytes_length]

end

/-! ### The last store that covers a byte (R56) -/

theorem lexLe_refl (as : List Nat) : lexLe as as = true := or_self_iff.1 (lexLe_total as as)

/-- A store of the same team that R56's order places strictly before another. -/
def BufStore.before (c b : BufStore) : Prop :=
  c.group < b.group ∨ (c.group = b.group ∧ (c.pos < b.pos ∨ (c.pos = b.pos ∧ c.ord < b.ord)))

theorem BufStore.key_of_before {c b : BufStore} (team : c.team = b.team) (h : c.before b) : lexLe b.key c.key = false := by
  simp only [BufStore.key, lexLe, team, if_true]
  rcases h with group | ⟨group, pos | ⟨pos, ord⟩⟩
  · rw [if_neg (by omega)]
    simpa using group.le
  · rw [if_pos group.symm, if_neg (by omega)]
    simpa using pos.le
  · rw [if_pos group.symm, if_pos pos.symm, if_neg (by omega)]
    simpa using ord.le

theorem lastStore_cons (x : Nat) (best : Option BufStore) (b : BufStore) (bs : List BufStore) : lastStore x best (b :: bs) =
    lastStore x (if b.covers x && best.all fun c => lexLe c.key b.key then some b else best) bs := by
  cases best <;> rfl

theorem lastStore_of_no_cover {x : Nat} {bs : List BufStore} (none : ∀ b ∈ bs, b.covers x = false) (best : Option BufStore) :
    lastStore x best bs = best := by
  induction bs with
  | nil => rfl
  | cons b bs ih =>
    rw [lastStore_cons, none b List.mem_cons_self]
    exact ih fun c hc => none c (List.mem_cons_of_mem b hc)

/-- The covering store after which R56's order places no other is the one found, wherever it stands in the list. -/
theorem lastStore_of_last {x : Nat} {b : BufStore} (covers : b.covers x = true) {bs : List BufStore}
    (last : ∀ c ∈ bs, c.covers x = true → c ≠ b → lexLe b.key c.key = false) {best : Option BufStore} (found : b ∈ bs ∨ best = some b)
    (below : ∀ c ∈ best, lexLe c.key b.key = true) : lastStore x best bs = some b := by
  induction bs generalizing best with
  | nil => exact found.resolve_left List.not_mem_nil
  | cons c bs ih =>
    rw [lastStore_cons]
    by_cases same : c = b
    · subst same
      rw [if_pos (by simpa [covers, Option.all_eq_true] using below)]
      exact ih (fun d hd => last d (List.mem_cons_of_mem c hd)) (.inr rfl) (by simp [lexLe_refl])
    · have before (cover : c.covers x = true) : lexLe b.key c.key = false := last c List.mem_cons_self cover same
      have later (h : b ∈ c :: bs) : b ∈ bs := (List.mem_cons.1 h).resolve_left (Ne.symm same)
      refine ih (fun d hd => last d (List.mem_cons_of_mem c hd)) ?_ ?_
      · rcases found with found | rfl
        · exact .inl (later found)
        · exact .inr (if_neg fun better => by
            obtain ⟨cover, above⟩ := Bool.and_eq_true_iff.1 better
            simp [before cover] at above)
      · split
        next better =>
          have cover := (Bool.and_eq_true_iff.1 better).1
          simpa using (lexLe_total c.key b.key).resolve_right (by simp [before cover])
        next => exact below

/-! ### The bytes of a sample (R146) -/

section
variable (s : State) (level ia n : Nat)

/-- The stores of the issuing team that a load of a range may see. -/
def State.seenStores : List BufStore :=
  s.grid.stores.filter fun b =>
    b.train == s.cur.train && b.team == s.cur.team && b.clk < s.now && b.pos < 64 && b.ia < ia + n && ia < b.ia + b.data.length

/-- The byte that a load reads at an address: of the store found, or the view's. -/
def readByte (x : Nat) (view : Byte) : Option BufStore → Byte
  | some b => nth 0 b.data (x - b.ia)
  | none => view

/-- The bytes that the issuing group's core has in its view (R142). -/
def State.ownView : List Byte := s.viewBytes s.myTrain.owner (s.readCore s.me) level ia n

theorem State.sample_eq : s.sample level ia n = ((List.range n).zip (s.ownView level ia n)).map fun p =>
    readByte (ia + p.1) p.2 (lastStore (ia + p.1) none (s.seenStores ia n)) := rfl

variable {ia n}

theorem State.mem_seenStores {b : BufStore} : b ∈ s.seenStores ia n ↔ b ∈ s.grid.stores ∧ b.train = s.cur.train ∧ b.team = s.cur.team ∧
    b.clk < s.now ∧ b.pos < 64 ∧ b.ia < ia + n ∧ ia < b.ia + b.data.length := by
  simp [State.seenStores, and_assoc]

theorem State.nth_sample {i : Nat} (hi : i < n) : nth 0 (s.sample level ia n) i =
    readByte (ia + i) (nth 0 (s.ownView level ia n) i) (lastStore (ia + i) none (s.seenStores ia n)) := by
  have long : i < (s.ownView level ia n).length := by rwa [State.ownView, s.viewBytes_length]
  rw [nth_getElem _ _ _ (by rwa [s.sample_length]), nth_getElem _ _ _ long]
  simp [State.sample_eq]

end

/-- Settles O22: the last covering store is the one that `lastStore` finds among those of the team (`lastStore_of_last`). -/
theorem bufferedStoreIsRead : Obligations.BufferedStoreIsRead := by
  intro s level ia n i hi own before read
  have seen {c : BufStore} : c ∈ s.seenStores ia n ∧ c.covers (ia + i) = true ↔ own c := by
    rw [State.mem_seenStores, BufStore.covers_iff]
    constructor
    · rintro ⟨⟨mem, train, team, clk, pos, -⟩, cover⟩
      exact ⟨mem, train, team, clk, pos, cover⟩
    · rintro ⟨mem, train, team, clk, pos, cover⟩
      exact ⟨⟨mem, train, team, clk, pos, by omega⟩, cover⟩
  have readEq : read = _ := s.nth_sample level hi
  refine ⟨s.sample_length level ia n, fun b hb last => ?store, fun none => ?view⟩
  case store =>
    obtain ⟨mem, cover⟩ := seen.2 hb
    obtain ⟨-, -, team, -⟩ := hb
    rw [readEq, lastStore_of_last cover (fun c hc covers ne => ?_) (.inl mem) (by simp)]
    · rfl
    · have hc := seen.1 ⟨hc, covers⟩
      exact BufStore.key_of_before (hc.2.2.1.trans team.symm) (last c hc ne)
  case view =>
    rw [readEq, lastStore_of_no_cover fun c hc => ?_]
    · rfl
    · exact Bool.eq_false_iff.2 fun covers => none c (seen.1 ⟨hc, covers⟩)

end Sys2Proof.Machine
end

section
/-!
SUPPORT. Checks of a lane's global access, and the pieces of a load (R130, R137, R139, R281).
-/

namespace Sys2Proof.Machine

/-! ### The window and lease checks, lane by lane (R281) -/

section
variable (s : State) (h : Head) (a : MAddr) {u : Use} {perm n : Nat}

/-- The checks of an access that need not be aligned. -/
theorem chkGlobal_unaligned : chkGlobal s u perm n 1 (a.lanes s h) =
    [chkLanes 8 ((s.live h).map fun l => (l, a.lane s l)) fun va => (s.xlat [perm] va n).isSome,
      chkLanes 9 ((s.live h).map fun l => (l, a.lane s l)) fun va => s.leased u va n] := by
  simp [chkGlobal, MAddr.lanes_live, Nat.mod_one]

theorem chkGlobal_of_window {l : Nat} (low : s.lowest h l fun k => ¬ (s.xlat [perm] (a.lane s k) n).isSome = true) :
    (chkGlobal s u perm n 1 (a.lanes s h)).findSome? id = some { code := 8, lane := l, t2 := BitVec.ofNat 64 (a.lane s l) } := by
  rw [chkGlobal_unaligned, List.findSome?_cons,
    chkLanes_of_lowest s h (code := 8) (ok := fun va => (s.xlat [perm] va n).isSome) (a.lane s) (by simpa using low), id]

theorem chkGlobal_of_lease {l : Nat} (mapped : ∀ l ∈ s.live h, (s.xlat [perm] (a.lane s l) n).isSome = true)
    (low : s.lowest h l fun k => s.leased u (a.lane s k) n = false) :
    (chkGlobal s u perm n 1 (a.lanes s h)).findSome? id = some { code := 9, lane := l, t2 := BitVec.ofNat 64 (a.lane s l) } := by
  rw [chkGlobal_unaligned, List.findSome?_cons, chkLanes_of_all s h (code := 8) (ok := fun va => (s.xlat [perm] va n).isSome) (a.lane s) mapped,
    id, List.findSome?_cons, chkLanes_of_lowest s h (code := 9) (ok := fun va => s.leased u va n) (a.lane s) low, id]

theorem chkGlobal_of_reaches (all : ∀ l ∈ s.live h, s.reaches u perm (a.lane s l) n 1) : ∀ c ∈ chkGlobal s u perm n 1 (a.lanes s h), c = none := by
  have window := chkLanes_of_all s h (code := 8) (ok := fun va => (s.xlat [perm] va n).isSome) (a.lane s) fun l hl => (all l hl).2.1
  have lease := chkLanes_of_all s h (code := 9) (ok := fun va => s.leased u va n) (a.lane s) fun l hl => (all l hl).2.2
  simp [chkGlobal_unaligned, window, lease]

end

/-! ### The load of a lane -/

theorem State.loadParts_length (s : State) (va n : Nat) : (s.loadParts va n).length = n := by
  simp only [State.loadParts, State.parts, List.length_flatMap, List.map_map, Function.comp_def, State.sample_length]
  exact pieces_sum va n

theorem State.loadParts_nat_lt (s : State) (va n : Nat) : leNat (s.loadParts va n) < 2 ^ (8 * n) := by
  have bound := leNat_lt (s.loadParts va n)
  rwa [s.loadParts_length, show (256 : Nat) = 2 ^ 8 from rfl, ← Nat.pow_mul] at bound

/-- The number that lands of a lane's load at `va`: the sample of its pieces, sign-extended to 32 bits where `sx` says so (R146, R282). -/
def State.loadNumber (s : State) (sz : Nat) (sx : Bool) (va : Nat) : Nat :=
  let x := leNat (s.loadParts va (sizeOf sz))
  if sx = true ∧ 2 ^ (8 * sizeOf sz) ≤ 2 * x then x + 2 ^ 32 - 2 ^ (8 * sizeOf sz) else x

theorem State.loaded_lanes (s : State) (h : Head) (a : MAddr) {sx : Bool} (ok : sxOk sx a.sz = true) :
    ((a.lanes s h).map fun p => (p.1, loaded a.sz sx (leNat (s.loadParts p.2 (sizeOf a.sz))))) =
      (s.live h).map fun l => (l, s.loadNumber a.sz sx (a.lane s l)) := by
  rw [MAddr.lanes_live, List.map_map]
  exact List.map_congr_left fun l _ => Prod.ext rfl (loaded_eq ok (s.loadParts_nat_lt _ _))

/-- The pieces of the active lanes' accesses: tagged place and bytes of each (R137). -/
def State.loadPlaces (s : State) (h : Head) (a : MAddr) : List (Nat × Nat) :=
  (s.live h).flatMap fun l => s.parts (a.lane s l) (sizeOf a.sz)

/-- The far latency where some piece lies on another package (R131). -/
def State.loadLat (s : State) (h : Head) (a : MAddr) : Nat :=
  if (s.loadPlaces h a).any fun q => pkgOf (tagAddr q.1) != s.pkg then latFar else latNear

/-- What a compute core's global load leaves: the landings of its lanes, and its home's notes. -/
def State.afterLoad (s : State) (h : Head) (dst : Nat) (sx : Bool) (a : MAddr) : State :=
  (s.result (s.loadLat h a) (s.loadLandings h a.sz dst fun l => s.loadNumber a.sz sx (a.lane s l))).noteLoad (s.loadLat h a)
    ((s.loadPlaces h a).map fun q => pageOf (tagAddr q.1))

section
variable {s : State} (cmd : s.cur.cmd = false) {h : Head} {dst : Nat} {sx : Bool} {a : MAddr}
include cmd

theorem execLdg_of_compute (ok : sxOk sx a.sz = true) : ∃ e : State → State, e s = s.afterLoad h dst sx a ∧
    exec (.ldg h dst sx a) s = attempt s ([chkRegs s (memRegs a (dataRegs a.sz dst))] ++
      chkGlobal s .load permR (sizeOf a.sz) 1 (a.lanes s h) ++ [chkPend s (dataDst a.sz dst)]) e := by
  refine ⟨_, ?_, by rw [exec_ldg, execLdg]; simp only [cmd]; rfl⟩
  have places : ((a.lanes s h).flatMap fun p => (s.parts p.2 (sizeOf a.sz)).map fun q => tagAddr q.1) =
      (s.loadPlaces h a).map fun q => tagAddr q.1 := by
    simp only [MAddr.lanes_live, List.flatMap_map, State.loadPlaces, List.map_flatMap]
  simp only [places, List.any_map, List.map_map, s.loaded_lanes h a ok, State.landData_live]
  rfl

theorem execLdg_faults (ok : sxOk sx a.sz = true) (r : s.ready (dataRegs a.sz dst ++ a.vregs) []) {f : Flt}
    (bad : (chkGlobal s .load permR (sizeOf a.sz) 1 (a.lanes s h)).findSome? id = some f) :
    exec (.ldg h dst sx a) s = .next (s.raise f) := by
  have run : chkRegs s (memRegs a (dataRegs a.sz dst)) = none := chkRegs_ready s _ _ r
  obtain ⟨e, -, issued⟩ := execLdg_of_compute cmd (h := h) (dst := dst) ok
  exact issued.trans (attempt_fail s _ _ _ (by simp [run, List.findSome?_append, bad]))

theorem execLdg_lands (ok : sxOk sx a.sz = true) (r : s.ready (dataRegs a.sz dst ++ a.vregs) (dataDst a.sz dst))
    (reach : ∀ l ∈ s.live h, s.reaches .load permR (a.lane s l) (sizeOf a.sz) 1) :
    exec (.ldg h dst sx a) s = .next (s.afterLoad h dst sx a) := by
  have run : chkRegs s (memRegs a (dataRegs a.sz dst)) = none := chkRegs_ready s _ _ r
  have pass := chkGlobal_of_reaches s h a reach
  have free := chkPend_ready s _ _ r
  obtain ⟨e, lands, issued⟩ := execLdg_of_compute cmd (h := h) (dst := dst) ok
  rw [issued, attempt_pass s _ e (by simpa [run, or_imp, forall_and] using ⟨pass, free⟩), lands]

end

/-- Settles O20: the checks lane by lane, then the landings of the active lanes' samples. -/
theorem globalLoads : Obligations.GlobalLoads := by
  intro h dst sx a s ok cmd n parts all lat regs mapped fault
  refine ⟨fun r => ⟨fun l low => ?window, fun inside l low => ?lease⟩, fun r reach => ?lands⟩
  case window => exact execLdg_faults cmd ok r (chkGlobal_of_window s h a low)
  case lease => exact execLdg_faults cmd ok r (chkGlobal_of_lease s h a inside low)
  case lands => exact execLdg_lands cmd ok r reach

end Sys2Proof.Machine
end

section
/-!
SUPPORT. Atomics of a command core: the checks of their lanes, and the lanes taken one after another (R149, R286, R287, R363).
-/

namespace Sys2Proof.Machine

/-- Operands within a ready instruction's are ready. -/
theorem State.ready.of_subset {s : State} {vs ws : List Nat} {ds : List Dst} (r : s.ready vs ds) (within : ws ⊆ vs) : s.ready ws ds :=
  ⟨fun v hv => r.1 v (within hv), r.2⟩

/-- A fold that also lists what it reads at each element, before the element changes the state. -/
theorem foldl_with_reads {σ α β : Type} (f : σ → α → σ) (g : σ → α → β) {step : σ × List β → α → σ × List β} {xs : List α}
    (steps : ∀ acc, ∀ x ∈ xs, step acc x = (f acc.1 x, acc.2 ++ [g acc.1 x])) (t : σ) (out : List β) :
    xs.foldl step (t, out) = (xs.foldl f t, out ++ xs.mapIdx fun k x => g ((xs.take k).foldl f t) x) := by
  induction xs generalizing t out with
  | nil => simp
  | cons x xs ih =>
    rw [List.foldl_cons, steps _ x List.mem_cons_self, ih fun acc y hy => steps acc y (List.mem_cons_of_mem x hy)]
    simp [List.mapIdx_cons]

theorem State.landData_result (s : State) (sz lat dst : Nat) (xs : List (Nat × Nat)) : s.landData sz lat dst xs =
    s.result lat (.vec dst (xs.map fun p => (p.1, BitVec.ofNat 32 p.2)) ::
      if sz = 3 then [.vec (dst + 1) (xs.map fun p => (p.1, BitVec.ofNat 32 (p.2 / 2 ^ 32)))] else []) := by
  unfold State.landData
  split
  · exact State.later_later s lat _ _
  · exact State.later_result s lat _

/-! ### Checks (R149, R364) -/

section
variable (s : State) (h : Head) (a : Nat → Nat)

theorem chkCmdLanes_of_reaches {perm n align : Nat} (xs : List (Nat × Nat)) (all : ∀ p ∈ xs, s.cmdReaches perm p.2 n align) :
    chkCmdLanes s perm n align xs = none := by
  refine List.findSome?_eq_none_iff.2 fun p hp => ?_
  obtain ⟨access, aligned⟩ := all p hp
  simp [access, aligned]

/-- The scope test of one address (R149): an address from 2^63 on lies on no other package. -/
theorem cmdNear_iff {scope x : Nat} : (decide (2 ^ 63 ≤ x) || !scopeFar s scope x) = true ↔
    (x < 2 ^ 63 → scope = 4 ∨ scope = 5 → pkgOf x = s.pkg) := by
  rw [Bool.or_eq_true, decide_eq_true_eq, Bool.not_eq_true', scopeFar_eq_false_iff, or_iff_not_imp_left, not_le]

theorem chkCmdFar_of_all {scope : Nat} (near : ∀ l ∈ s.live h, a l < 2 ^ 63 → scope = 4 ∨ scope = 5 → pkgOf (a l) = s.pkg) :
    chkCmdFar s scope ((s.live h).map fun l => (l, a l)) = none := by
  rw [chkCmdFar, chkLanes_of_all s h a fun l hl => (cmdNear_iff s).2 (near l hl), Option.map_none]

theorem chkCmdFar_of_lowest {scope l : Nat} (low : s.lowest h l fun k => ¬ (a k < 2 ^ 63 → scope = 4 ∨ scope = 5 → pkgOf (a k) = s.pkg)) :
    chkCmdFar s scope ((s.live h).map fun l => (l, a l)) = some { code := 7, lane := l } := by
  rw [chkCmdFar, chkLanes_of_lowest s h a (l := l) (by simpa only [← cmdNear_iff, Bool.not_eq_true] using low), Option.map_some]

end

/-! ### The lanes, one after another (R287) -/

section
variable (s : State) (h : Head) (o : Atom) (new : Nat → Nat → Nat → Nat)

/-- What lane `l` does to a state in which the lanes below it are done; addresses and operands are those at issue. -/
def State.atomicLane (t : State) (l : Nat) : State :=
  t.cmdPut (o.a.lane s l) (leBytes (sizeOf o.a.sz) (new (t.cmdNat (o.a.lane s l) (sizeOf o.a.sz)) (s.dataLane o.a.sz o.sc l)
    (s.dataLane o.a.sz (o.sc + if o.a.sz = 3 then 2 else 1) l)))

/-- The old value that the `k`-th active lane reads. -/
def State.atomicOld (k : Nat) : Nat :=
  (((s.live h).take k).foldl (s.atomicLane o new) s).cmdNat (o.a.lane s (nth 0 (s.live h) k)) (sizeOf o.a.sz)

/-- A value for each active lane from the old value that it reads. -/
def State.atomicLands (f : Nat → Nat) : List (Nat × W32) :=
  (s.live h).mapIdx fun k l => (l, BitVec.ofNat 32 (f (s.atomicOld h o new k)))

/-- The state after all lanes, with the old values landed. -/
def State.afterAtomic : State :=
  let t := (s.live h).foldl (s.atomicLane o new) s
  if o.nr then t
  else t.result latNear (.vec o.dst (s.atomicLands h o new id) ::
    if o.a.sz = 3 then [.vec (o.dst + 1) (s.atomicLands h o new fun x => x / 2 ^ 32)] else [])

/-- The old values as a fold over the lanes lists them. -/
theorem State.atomicLands_eq (f : Nat → Nat) : s.atomicLands h o new f =
    ((s.live h).mapIdx fun k l => (l, (((s.live h).take k).foldl (s.atomicLane o new) s).cmdNat (o.a.lane s l) (sizeOf o.a.sz))).map
      fun p => (p.1, BitVec.ofNat 32 (f p.2)) := by
  refine List.ext_getElem (by simp [State.atomicLands]) fun k hk _ => ?_
  have lane : nth 0 (s.live h) k = (s.live h)[k]'(by simpa [State.atomicLands] using hk) := nth_getElem _ _ _ _
  simp [State.atomicLands, State.atomicOld, lane]

/-- The checks of an atomic of a command core, in their order. -/
def cmdAtomicChecks (op : Nat) : List (Option Flt) :=
  let lanes := (s.live h).map fun l => (l, o.a.lane s l)
  [chkRegs s (memRegs o.a (atomicResults o ++ atomicRegs op o)), chkScope s (s.execs h) o.scope,
    chkCmdLanes s pmpStore (sizeOf o.a.sz) (sizeOf o.a.sz) lanes, chkCmdFar s o.scope lanes]

theorem atomicRegs_subset (op : Nat) : atomicRegs op o ⊆ (List.range (2 * if o.a.sz = 3 then 2 else 1)).map (· + o.sc) := by
  refine List.map_subset _ fun r hr => ?_
  rw [List.mem_range] at hr ⊢
  split_ifs at hr ⊢ <;> omega

variable {s h o new} (cmd : s.cur.cmd = true) {op : Nat}
include cmd

/-- An atomic of a command core is performed lane by lane once its checks pass. -/
theorem atomic_of_command (means : ∀ old c d, atomicNew op (8 * sizeOf o.a.sz) old (if op = 15 then 0 else c) (if op = 13 then d else 0) =
    new old c d) : ∃ e : State → State, atomic op h o s = attempt s (cmdAtomicChecks s h o op) e ∧ e s = s.afterAtomic h o new := by
  refine ⟨_, by simp only [atomic, cmd, MAddr.lanes_live]; rfl, ?_⟩
  simp only [List.foldl_map]
  rw [foldl_with_reads (s.atomicLane o new) fun t l => (l, t.cmdNat (o.a.lane s l) (sizeOf o.a.sz))]
  case steps =>
    intro acc l hl
    refine Prod.ext ?_ rfl
    simp only [s.atomicArgs_live h hl, means]
    rfl
  simp only [State.afterAtomic, State.atomicLands_eq, State.landData_result, List.nil_append]
  rfl

theorem atomic_performs (good : ∀ c ∈ cmdAtomicChecks s h o op, c = none)
    (means : ∀ old c d, atomicNew op (8 * sizeOf o.a.sz) old (if op = 15 then 0 else c) (if op = 13 then d else 0) = new old c d) :
    atomic op h o s = .next (s.afterAtomic h o new) := by
  obtain ⟨e, issued, after⟩ := atomic_of_command cmd means
  rw [issued, attempt_pass s _ e good, after]

theorem atomic_refused {f : Flt} (bad : (cmdAtomicChecks s h o op).findSome? id = some f) : atomic op h o s = .next (s.raise f) := by
  obtain ⟨e, issued, -⟩ := atomic_of_command cmd fun old c d => Eq.refl (atomicNew op (8 * sizeOf o.a.sz) old _ _)
  rw [issued, attempt_fail s _ e f bad]

end

/-- Settles O25: the scope's test, and else the lanes one after another with each operation's own new value. -/
theorem commandCoreAtomics : Obligations.CommandCoreAtomics := by
  intro h o s cmd legal n b w a reach near sg done r
  have run (op : Nat) : chkRegs s (memRegs o.a (atomicResults o ++ atomicRegs op o)) = none := by
    refine chkRegs_ready s _ [] (r.of_subset fun v hv => ?_)
    simp only [memRegs, List.mem_append] at hv ⊢
    exact hv.imp_left (Or.imp_right fun k => atomicRegs_subset o op k)
  have scope := (chkScope_eq_none_iff s h).2 legal
  have access := chkCmdLanes_of_reaches s (perm := pmpStore) (n := sizeOf o.a.sz) (align := sizeOf o.a.sz)
    ((s.live h).map fun l => (l, o.a.lane s l)) (List.forall_mem_map.2 reach)
  refine ⟨fun l low i hi => ?far, fun all => ?performed⟩
  case far =>
    obtain ⟨p, hp, rfl⟩ := List.mem_map.1 (show i ∈ atomics.map fun p => p.1 from hi)
    have bad := chkCmdFar_of_lowest s h (fun l => o.a.lane s l) (scope := o.scope) low
    exact (exec_atomics h o s p hp).trans (atomic_refused cmd (by simp [cmdAtomicChecks, run, scope, access, bad]))
  case performed =>
    have here := chkCmdFar_of_all s h (fun l => o.a.lane s l) (scope := o.scope) all
    have performs (op : Nat) {i : Instr} {new : Nat → Nat → Nat → Nat} (issued : exec i s = atomic op h o s) (means : ∀ old c d,
        atomicNew op (8 * sizeOf o.a.sz) old (if op = 15 then 0 else c) (if op = 13 then d else 0) = new old c d) : done i new :=
      issued.trans (atomic_performs cmd (by simp [cmdAtomicChecks, run, scope, access, here]) means)
    -- Each operation is told by its new value alone: the rest of `done` need not be unfolded again.
    clear_value done
    exact ⟨performs 4 rfl fun _ _ _ => rfl, performs 5 rfl fun _ _ _ => rfl, performs 6 rfl fun _ _ _ => rfl,
      performs 7 rfl fun _ _ _ => rfl, performs 8 rfl fun _ _ _ => rfl, performs 9 rfl fun _ _ _ => rfl,
      performs 10 rfl fun _ _ _ => rfl, performs 11 rfl fun _ _ _ => rfl, performs 12 rfl fun _ _ _ => rfl,
      performs 13 rfl fun _ _ _ => rfl, performs 14 rfl fun _ _ _ => rfl, performs 15 rfl fun _ _ _ => rfl⟩

end Sys2Proof.Machine
end

section
/-!
SUPPORT. Fences, counter adds and waits: the checks of a counter's one address, on compute and command cores (R149, R290 to R294, R363).
-/

namespace Sys2Proof.Machine

theorem Src.uval_toNat (s : State) (b : Src) : (b.uval s).toNat = match b with
    | .reg n => (s.scalar n).toNat
    | .imm32 k => k.toNat
    | .imm64 k => k.toNat := by
  cases b with
  | reg n => rfl
  | imm32 k => exact BitVec.toNat_setWidth_of_le (by decide)
  | imm64 k => rfl

/-! ### Checks of one address -/

section
variable (s : State)

/-- The lane checks of one address. -/
theorem chkLanes_single {code va : Nat} {ok : Nat → Bool} (good : ok va = true) : chkLanes code [(0, va)] ok = none := by
  simp [chkLanes, good]

/-- A scope that an executing instruction may name. -/
theorem chkScope_runs {scope : Nat} : chkScope s true scope = none ↔ scope < 7 ∧ (scope = 6 → s.podAllowed = true) := by
  cases pod : s.podAllowed <;> simp [chkScope, check, pod]

theorem chkCounter_of_reaches {u : Use} {scope va : Nat} (legal : scope < 7 ∧ (scope = 6 → s.podAllowed = true))
    (near : ∀ y, s.xlat [] va 8 = some y → (scope = 4 ∨ scope = 5) → pkgOf y.ia = s.pkg) (reach : s.reaches u permA va 8 8) :
    ∀ c ∈ chkCounter s true u scope va, c = none := by
  obtain ⟨aligned, mapped, leased⟩ := reach
  have window := chkLanes_single (code := 8) (ok := fun va => va % 8 == 0 && (s.xlat [permA] va 8).isSome) (va := va) (by simp [aligned, mapped])
  have lease := chkLanes_single (code := 9) (ok := fun va => s.leased u va 8) leased
  have close : chkFar s scope 8 [(0, va)] = none := by
    rw [chkFar, chkLanes_single, Option.map_none]
    cases found : s.xlat [] va 8 with
    | none => rfl
    | some y => simpa using (scopeFar_eq_false_iff s).2 (near y found)
  simp [chkCounter, chkGlobal, (chkScope_runs s).2 legal, window, lease, close]

theorem chkCmdCount_of_reaches {perm scope va : Nat} (legal : scope < 7 ∧ (scope = 6 → s.podAllowed = true))
    (reach : s.cmdReaches perm va 8 8) : chkCmdCount s true perm scope va =
      [none, none, if va < 2 ^ 63 → scope = 4 ∨ scope = 5 → pkgOf va = s.pkg then none else some { code := 7 }] := by
  have access : chkCmdCounter s perm va = none := by
    rw [chkCmdCounter, chkCmdLanes_of_reaches s _ (by simpa using reach), Option.map_none]
  have far : (chkCmdFar s scope [(0, va)]).map (fun f => { f with lane := 255 }) =
      if va < 2 ^ 63 → scope = 4 ∨ scope = 5 → pkgOf va = s.pkg then none else some { code := 7 } := by
    simp only [← cmdNear_iff, chkCmdFar, chkLanes, List.find?_singleton]
    cases decide (2 ^ 63 ≤ va) || !scopeFar s scope va <;> rfl
  simp only [chkCmdCount, if_true, (chkScope_runs s).2 legal, access, far]

end

/-! ### The instructions, once their checks pass -/

section
variable {s : State} {h : Head} (r : s.ready [] []) (runs : s.holds h = true)
include r runs

theorem fence_of_legal {rel acq : Bool} {scope : Nat} (legal : scope < 7 ∧ (scope = 6 → s.podAllowed = true)) :
    fence rel acq h scope s = .next (if s.cur.cmd then s else s.act (.fence rel acq scope)) := by
  rw [fence, attempt_pass s _ _ (by simp [chkRegs_ready s _ _ r, runs, (chkScope_runs s).2 legal])]
  cases cmd : s.cur.cmd <;> simp [runs]

section
variable {o : Cnt} (cmd : s.cur.cmd = false)
include cmd

theorem execWaitc_of_checks (good : ∀ c ∈ chkCounter s true .counterWait o.scope (s.scalar o.sa).toNat, c = none) :
    exec (.waitc h o) s =
      .next (s.block (.waitc o.scope (s.scalar o.sa).toNat (s.place (s.scalar o.sa).toNat 8) (o.b.uval s).toNat)) := by
  rw [exec_waitc, execWaitc]
  simp only [cmd, runs, if_true, Bool.false_eq_true, if_false]
  exact attempt_pass s _ _ (by simpa [chkRegs_ready s _ _ r] using good)

theorem execYield_of_checks (good : ∀ c ∈ chkCounter s true .counterWait o.scope (s.scalar o.sa).toNat, c = none)
    (room : (s.myTrain.desc.saveArea s.myTeam.idx).isSome = true) :
    exec (.yield h o) s =
      .next (s.block (.yield o.scope (s.scalar o.sa).toNat (s.place (s.scalar o.sa).toNat 8) (o.b.uval s).toNat)) := by
  rw [exec_yield, execYield]
  simp only [runs, if_true]
  refine attempt_pass s _ _ ?_
  simpa [chkRegs_ready s _ _ r, chkTrain_of_compute cmd, chkSaveArea, check, room, or_imp, forall_and] using good

theorem execCntadd_of_checks (good : ∀ c ∈ chkCounter s true .counterAdd o.scope (s.scalar o.sa).toNat, c = none) :
    exec (.cntadd h o) s = .next (s.act (.count o.scope (s.place (s.scalar o.sa).toNat 8) (o.b.uval s).toNat none)) := by
  rw [exec_cntadd, execCntadd]
  simp only [cmd, runs, if_true, Bool.false_eq_true, if_false]
  exact attempt_pass s _ _ (by simpa [chkRegs_ready s _ _ r] using good)

end

section
variable (cmd : s.cur.cmd = true)
include cmd

omit runs in
/-- A command core's counter instruction whose address its map allows: the far test chooses between effect and fault (R149). -/
theorem attempt_chkCmdCount {perm scope va : Nat} (legal : scope < 7) (reach : s.cmdReaches perm va 8 8) (e : State → State) :
    attempt s ([chkRegs s []] ++ chkCmdCount s true perm scope va) e =
      .next (if va < 2 ^ 63 → scope = 4 ∨ scope = 5 → pkgOf va = s.pkg then e s else s.raise { code := 7 }) := by
  rw [chkCmdCount_of_reaches s ⟨legal, fun _ => by simp [State.podAllowed, cmd]⟩ reach, chkRegs_ready s _ _ r]
  split
  · exact attempt_pass s _ e (by simp)
  · exact attempt_fail s _ e _ rfl

variable {o : Cnt} (legal : o.scope < 7)
include legal

theorem execWaitc_of_command (reach : s.cmdReaches pmpLoad (s.scalar o.sa).toNat 8 8) : exec (.waitc h o) s =
    .next (if (s.scalar o.sa).toNat < 2 ^ 63 → o.scope = 4 ∨ o.scope = 5 → pkgOf (s.scalar o.sa).toNat = s.pkg then
      (if s.cmdNat (s.scalar o.sa).toNat 8 < (o.b.uval s).toNat then s.retry else s) else s.raise { code := 7 }) := by
  rw [exec_waitc, execWaitc]
  simp only [cmd, runs, if_true, attempt_chkCmdCount r cmd legal reach, Bool.true_and, decide_eq_true_eq]

theorem execCntadd_of_command (reach : s.cmdReaches pmpStore (s.scalar o.sa).toNat 8 8) : exec (.cntadd h o) s =
    .next (if (s.scalar o.sa).toNat < 2 ^ 63 → o.scope = 4 ∨ o.scope = 5 → pkgOf (s.scalar o.sa).toNat = s.pkg then
      s.cmdPut (s.scalar o.sa).toNat (leBytes 8 (s.cmdNat (s.scalar o.sa).toNat 8 + (o.b.uval s).toNat)) else s.raise { code := 7 }) := by
  rw [exec_cntadd, execCntadd]
  simp only [cmd, runs, if_true, attempt_chkCmdCount r cmd legal reach]

end
end

/-- Settles O26: each instruction once its checks pass; on a command core the far test chooses between its effect and the scope fault. -/
theorem fencesAndCounters : Obligations.FencesAndCounters := by
  intro h scope o s runs r wait va x legal near here
  have target : (o.b.uval s).toNat = x := Src.uval_toNat s o.b
  refine ⟨fun ok => ?fences, fun cmd ok close reach => ⟨?waits, fun room => ?yields⟩, fun cmd ok close reach => ?adds,
    fun cmd ok close reach => ?retries, fun cmd ok close reach => ?stores, fun cmd ok far => ⟨fun reach => ?farWait, fun reach => ?farAdd⟩⟩
  case fences => exact ⟨fence_of_legal r runs ok, fence_of_legal r runs ok, fence_of_legal r runs ok⟩
  case waits =>
    rw [← target]
    exact execWaitc_of_checks r runs cmd (chkCounter_of_reaches s ok close reach)
  case yields =>
    rw [← target]
    exact execYield_of_checks r runs cmd (chkCounter_of_reaches s ok close reach) room
  case adds =>
    rw [← target]
    exact execCntadd_of_checks r runs cmd (chkCounter_of_reaches s ok close reach)
  case retries => rw [execWaitc_of_command r runs cmd ok reach, if_pos close, target]; rfl
  case stores => rw [execCntadd_of_command r runs cmd ok reach, if_pos close, target]; rfl
  case farWait => rw [execWaitc_of_command r runs cmd ok reach, if_neg far]
  case farAdd => rw [execCntadd_of_command r runs cmd ok reach, if_neg far]

end Sys2Proof.Machine
end
